-- ==== Sys2Proof/Word.lean ====
section
/-! DEFINITION. Words, bytes and the plainest data every part of the model shares: 64-bit register words (R10), bytes that may carry poison (R455), and the table form all sparse state is held in. -/

namespace Sys2Proof

/-- A register word: registers are 64 bits wide (R10). -/
abbrev Word := BitVec 64

/-- One byte of memory. -/
abbrev Byte := BitVec 8

/-- A byte in flight: its value and whether it is poisoned. A unit never uses a poisoned datum as a value (R455). -/
structure PByte where
  v : Byte
  p : Bool
  deriving DecidableEq, Repr, Inhabited

/-- A table by number: keys strictly rising, no entry equal to the default. -/
abbrev Tbl (α : Type) := List (Nat × α)

/-- What a table holds at key `k`; an unlisted key holds the default `d`. -/
def Tbl.get {α : Type} (d : α) : Tbl α → Nat → α
  | [], _ => d
  | (j, v) :: t, k => if j = k then v else Tbl.get d t k

/-- Put `v` at key `k`, keeping the keys rising. -/
def Tbl.put {α : Type} : Tbl α → Nat → α → Tbl α
  | [], k, v => [(k, v)]
  | (j, w) :: t, k, v =>
    if k < j then (k, v) :: (j, w) :: t
    else if k = j then (j, v) :: t
    else (j, w) :: Tbl.put t k v

/-- Write `v` at key `k`: the keys stay rising, and writing the default removes the entry. -/
def Tbl.set {α : Type} [DecidableEq α] (d : α) (t : Tbl α) (k : Nat) (v : α) : Tbl α :=
  if v = d then t.filter (fun e => e.1 != k) else Tbl.put t k v

/-- The canonical form of a table, as a check. -/
def Tbl.wf {α : Type} [DecidableEq α] (d : α) : Tbl α → Bool
  | [] => true
  | [(_, v)] => decide (v ≠ d)
  | (j, v) :: (k, w) :: t => decide (v ≠ d) && decide (j < k) && Tbl.wf d ((k, w) :: t)

end Sys2Proof
end

