-- ==== Sys2Proof/Syntax.lean ====
section
/-! DEFINITION. The commands of the block: one constructor of Instr for each row of spec/opcode_table.json. The events of the part's own units are rows too; what the outside supplies to an event (host memory read back, a sensor's reading, a physical fault, packets that arrive) is an operand of its command. -/

namespace Sys2Proof

/-- Core n (R8). -/
abbrev CoreId := Fin 256
/-- Cluster k (R8). -/
abbrev ClusterId := Fin 32
/-- Cache region c, also column c (R8). -/
abbrev RegionId := Fin 128
/-- Ring pair i (R8). -/
abbrev RingId := Fin 4096
/-- Switched domain d (R401). -/
abbrev DomId := Fin 452

/-- Who makes a register access: the host through BAR0, the management controller, or machine-mode firmware of a core (R126, R209, R532). -/
inductive Req where
  | host
  | mgmt
  | cp (core : CoreId)
  deriving DecidableEq, Repr, Inhabited

/-- A register access names a BAR0 offset with a size in bytes (R10), or a CSR of a core with the privilege of the access (R113). -/
inductive RegTarget where
  | bar0 (off : Nat) (size : Nat)
  | csr (core : CoreId) (num : Nat) (user : Bool)
  deriving DecidableEq, Repr, Inhabited

/-- A Hexoarn flit: 512-bit payload and 32-bit sideband (R21). -/
structure Flit where
  payload : BitVec 512
  side : BitVec 32
  deriving DecidableEq, Repr, Inhabited

/-- A Hexoarn router: of a cluster, of a base region stop, or the I/O die network (R23). -/
inductive RouterId where
  | cluster (k : ClusterId)
  | base (c : RegionId)
  | io
  deriving DecidableEq, Repr, Inhabited

/-- A flit that arrives at a router: input port (R31), lane of the port, flit. -/
structure Arrival where
  port : Nat
  lane : Nat
  flit : Flit
  deriving DecidableEq, Repr, Inhabited

/-- A request to a local-store bank at one of the ports of R109. -/
structure LsReq where
  port : Fin 10
  write : Bool
  addr : Nat
  len : Nat
  data : List PByte
  deriving DecidableEq, Repr, Inhabited

/-- A request at a memory-side unit: the source endpoint (R22), whether it writes, local address, length, bytes and the cache hint it carries (R142). -/
structure MemReq where
  src : Nat
  write : Bool
  addr : Nat
  len : Nat
  data : List PByte
  hint : Fin 4
  deriving DecidableEq, Repr, Inhabited

/-- A channel that retrains, and its device temperature reading in °C (R361). -/
structure ChanTemp where
  chan : Fin 8
  temp : Int
  deriving DecidableEq, Repr, Inhabited

/-- The array whose DRAIN goes on, and the places in the command of the slots that cross the column link with a parity error (R486). -/
structure SlotDrain where
  array : CoreId
  badSlots : List Nat
  deriving DecidableEq, Repr, Inhabited

/-- What an INPUT descriptor reads behind the port, and the rows whose input crosses the column link with a parity error (R486). -/
structure InputFetch where
  data : List PByte
  badRows : List (Fin 128)
  deriving DecidableEq, Repr, Inhabited

/-- A group of a core's tile on its way to the array, and whether it crosses the column link with a parity error (R486). -/
structure TileCross where
  core : CoreId
  bad : Bool
  deriving DecidableEq, Repr, Inhabited

/-- One physical bit error: the codeword (or its number within a row) and the bit of the 272 (R449). -/
structure BitFlip where
  cw : Nat
  bit : Nat
  deriving DecidableEq, Repr, Inhabited

/-- The state a CXL.mem read asks for (R323). -/
inductive CohState where
  | inval | shared | excl
  deriving DecidableEq, Repr, Inhabited

/-- How an outbound UIO or CXL.cache request was answered (R329). -/
inductive UioStatus where
  | ok | unsupported | abort
  deriving DecidableEq, Repr, Inhabited

/-- What wakes a parked device (R406). -/
inductive WakeCause where
  | write | mem | doorbell
  deriving DecidableEq, Repr, Inhabited

/-- What starts a device reset besides the fall of PERST_N (R516). -/
inductive ResetCause where
  | rstDev (r : Req) (key : BitVec 16)
  | hotReset
  | cxlReset
  deriving DecidableEq, Repr, Inhabited

/-- The services of R502 that become ready: BAR0 and configuration at 200 ms, mailbox, MCTP control, PLDM and CDAT at 400 ms, SPDM at 600 ms. -/
inductive Service where
  | bar0 | mailbox | mctp | pldm | cdat | spdm
  deriving DecidableEq, Repr, Inhabited

/-- The channels of the call room, in the index order of R503. -/
inductive Channel where
  | bus | vdm | doe | mbox
  deriving DecidableEq, Repr, Inhabited

/-- Which counters a wrap concerns (R527, R532). -/
inductive PmcUnit where
  | core (n : CoreId)
  | cluster (k : ClusterId)
  | device
  deriving DecidableEq, Repr, Inhabited

/-- A relayed request of an SPDM requester: session in use (if any) and transport over DOE. -/
structure SpdmReq where
  session : Option Nat
  overDoe : Bool
  body : List Byte
  deriving DecidableEq, Repr, Inhabited

/-- What a housekeeping round converts: each sensor's raw reading in units of 0.125 °C by sensor number (cores 0–255, regions 256–383, DRAM 384 + 128·layer + column, I/O 1920–1923; a sensor not listed repeats its own last reading), and the hubs whose two references disagree by more than 0.5 % (R418 to R420). -/
structure Round where
  readings : List (Nat × Int)
  badHubs : List Nat
  deriving DecidableEq, Repr, Inhabited

/-- THE COMMANDS. One constructor per row of spec/opcode_table.json. -/
inductive Instr where
  -- requests the call room may hold (R503); a request the room holds is kept as its command
  | callRoom (chan : Channel) (svc : Service) (body : List Byte)
  | spdmGetVersion (q : SpdmReq)
  | spdmGetCapabilities (q : SpdmReq)
  | spdmNegotiateAlgorithms (q : SpdmReq)
  | spdmGetDigests (q : SpdmReq)
  | spdmGetCertificate (q : SpdmReq) (slot : Nat) (off : Nat) (len : Nat)
  | spdmChallenge (q : SpdmReq) (slot : Nat)
  | spdmGetMeasurements (q : SpdmReq) (index : Nat) (signed : Bool)
  | spdmKeyExchange (q : SpdmReq)
  | spdmFinish (q : SpdmReq)
  | spdmHeartbeat (q : SpdmReq)
  | spdmKeyUpdate (q : SpdmReq)
  | spdmEndSession (q : SpdmReq)
  | ideQuery (q : SpdmReq)
  | ideKeyProg (q : SpdmReq) (stream : Nat) (keySet : Bool) (key : BitVec 256)
  | ideKSetGo (q : SpdmReq) (stream : Nat) (keySet : Bool)
  | ideKSetStop (q : SpdmReq) (stream : Nat) (keySet : Bool)
  | cdatTableAccess (entry : Nat)
  -- registers and network
  | registerWrite (r : Req) (t : RegTarget) (value : Word)
  | clearingRead (r : Req) (t : RegTarget)
  | flitForward (router : RouterId) (arrivals : List Arrival)
  -- the array (the array of core `a`)
  | load (a : CoreId)
  | run (core : CoreId)
  | runStart (a : CoreId)
  | arrayStall (a : CoreId)
  | groupRelease (a : CoreId) (parityErr : Bool)
  | accumulatorWrite (a : CoreId)
  | drain (a : SlotDrain)
  | targetChange (core : CoreId)
  | arrayIdle (a : CoreId)
  | arraySleep (a : CoreId)
  | arrayWake (a : CoreId)
  -- tile words
  | endWord (core : CoreId)
  | nop (core : CoreId)
  | seta (core : CoreId)
  | adda (core : CoreId)
  | setp (core : CoreId)
  | loop (core : CoreId)
  | post (core : CoreId)
  | dma (core : CoreId)
  | batonWordSignal (core : CoreId)
  | batonWordWait (core : CoreId)
  | batonWordSwap (core : CoreId)
  | batonWordHandoff (core : CoreId)
  -- the vector unit
  | vopAdd (core : CoreId)
  | vopSub (core : CoreId)
  | vopMul (core : CoreId)
  | vopFma (core : CoreId)
  | vopMax (core : CoreId)
  | vopMin (core : CoreId)
  | vopExp2 (core : CoreId)
  | vopExp (core : CoreId)
  | vopRcp (core : CoreId)
  | vopRsqrt (core : CoreId)
  | vopSilu (core : CoreId)
  | vopCvt (core : CoreId)
  | vopMxq (core : CoreId)
  | vopHsum (core : CoreId)
  | vopHmax (core : CoreId)
  | vopHdot (core : CoreId)
  | vopCopy (core : CoreId)
  -- the sequencer and launches
  | commandIssue (core : CoreId)
  | commandComplete (core : CoreId) (id : Nat)
  | programRetire (core : CoreId)
  | watchdogExpire (core : CoreId)
  | dxlaunchWrite (core : CoreId) (user : Bool) (value : Word)
  | dxgateWrite (core : CoreId) (user : Bool) (gate : Fin 16) (value : Word)
  | dxretireRead (core : CoreId)
  | dxpostRead (core : CoreId) (user : Bool)
  | dxdoneWrite (core : CoreId) (user : Bool) (value : Word)
  | dxlheadWrite (core : CoreId) (user : Bool) (value : Word)
  | machineTimer (core : CoreId)
  | mailboxDeliver (core : CoreId)
  | directLaunch (core : CoreId)
  | launchReport (tag : Nat)
  | cpStart (r : Req) (core : CoreId) (value : Word)
  | imageCopyDone (core : CoreId)
  | seqAbort (r : Req) (core : CoreId)
  | cpHalt (core : CoreId)
  | cpDeviceAccess (core : CoreId) (user : Bool) (store : Bool) (addr : BitVec 52) (size : Nat) (value : Word) (ext : List PByte)
  | lsAccess (core : CoreId) (bank : Fin 32) (reqs : List LsReq)
  -- core DMA
  | dmaCopy (core : CoreId) (chan : Fin 2) (ext : List PByte)
  | dmaWeight (core : CoreId) (ext : List PByte)
  | dmaInput (core : CoreId) (ext : InputFetch)
  | dmaReduce (core : CoreId) (chan : Fin 2) (ext : List PByte)
  | tileEmit (core : TileCross)
  | descriptorComplete (core : CoreId) (id : Nat)
  | chkClaim (core : CoreId) (id : Nat)
  -- slices
  | act (core : CoreId)
  | rd (core : CoreId)
  | wr (core : CoreId)
  | refpb (core : CoreId)
  | sre (core : CoreId)
  | srx (core : CoreId)
  | mrw (core : CoreId)
  | rowMoveComplete (core : CoreId) (flips : List BitFlip)
  | netRequest (core : CoreId) (req : MemReq)
  | rowRequest (core : CoreId) (row : Nat)
  | refreshDue (core : CoreId) (layer : Fin 12) (bank : Fin 16)
  | bandApply (core : CoreId)
  | trackerDecay (core : CoreId)
  | narrowModeSwitch (core : CoreId)
  | forceNarrow (r : Req) (core : CoreId)
  | trackClear (r : Req) (core : CoreId)
  -- bank-side units
  | bsuCommand (core : CoreId) (source : Fin 3) (cmd : BitVec 256)
  | bsuFill (core : CoreId) (layer : Fin 12) (bank : Fin 16)
  | bsuRmax (core : CoreId) (layer : Fin 12) (bank : Fin 16)
  | bsuRsum (core : CoreId) (layer : Fin 12) (bank : Fin 16)
  | bsuExps (core : CoreId) (layer : Fin 12) (bank : Fin 16)
  | bsuScale (core : CoreId) (layer : Fin 12) (bank : Fin 16)
  | bsuSvwr (core : CoreId) (layer : Fin 12) (bank : Fin 16)
  | bsuSvset (core : CoreId) (layer : Fin 12) (bank : Fin 16)
  | bsuStart (core : CoreId)
  | bsuComplete (core : CoreId)
  | stallLimitExpire (core : CoreId)
  -- cache regions
  | regionRead (c : RegionId) (req : MemReq)
  | regionWrite (c : RegionId) (req : MemReq)
  | cacheFill (c : RegionId) (line : Nat) (ext : List PByte)
  | addFp32 (c : RegionId) (src : Nat) (addr : Nat) (data : List PByte) (hint : Fin 4)
  | addInt32 (c : RegionId) (src : Nat) (addr : Nat) (data : List PByte) (hint : Fin 4)
  | maxFp32 (c : RegionId) (src : Nat) (addr : Nat) (data : List PByte) (hint : Fin 4)
  | maxInt32 (c : RegionId) (src : Nat) (addr : Nat) (data : List PByte) (hint : Fin 4)
  | prefetch (c : RegionId) (line : Nat) (hint : Fin 4) (ext : List PByte)
  | clean (c : RegionId) (line : Nat)
  | flush (c : RegionId) (line : Nat)
  | invalidate (c : RegionId) (line : Nat)
  | discard (c : RegionId) (line : Nat)
  | sethint (c : RegionId) (line : Nat) (hint : Fin 4)
  | partitionChange (r : Req) (c : RegionId) (mask : BitVec 16)
  | partitionChangeDone (c : RegionId)
  | trapClear (r : Req) (c : RegionId)
  -- attention
  | kvMap (id : Nat) (ext : List PByte)
  | kvMapRelease (id : Nat)
  | kvMapInval (id : Nat)
  | attnStep (id : Nat)
  | append (ext : List PByte)
  | score (ext : List PByte)
  | pageWalk (k : ClusterId) (slot : Fin 16) (layer : Nat) (head : Nat) (v : Nat)
  | labInv (r : Req) (k : ClusterId)
  -- rings
  | ringEnable (r : Req) (ring : RingId)
  | ringDisable (r : Req) (ring : RingId)
  | doorbellRead (line : Nat) (data : List PByte)
  | doorbellSnoop (line : Nat)
  | doorbellPoll (ring : RingId) (slot : Option Word)
  | descriptorFetch (ring : RingId) (ext : List PByte)
  | copy (id : Nat) (ext : List PByte)
  | copyConvert (id : Nat) (ext : List PByte)
  | tileLaunch (id : Nat)
  | batonSignalAdd (id : Nat)
  | batonSignalSet (id : Nat)
  | batonWait (id : Nat)
  | batonWaitHandoff (id : Nat)
  | cacheRange (id : Nat) (ext : List PByte)
  | reduceInto (id : Nat) (ext : List PByte)
  | chkRun (id : Nat) (ext : List PByte)
  | bsuBroadcast (id : Nat)
  | relayDown (id : Nat)
  | relayUp (id : Nat)
  | relayUpEmpty (id : Nat)
  | queueNop (id : Nat)
  | fence (id : Nat)
  | completionPost (cq : RingId) (accepted : Bool)
  | msixSend (cq : RingId)
  | msixUnmask (vector : Fin 2048)
  -- batons
  | batonAdd (c : RegionId) (bad : Bool)
  | batonSet (c : RegionId) (bad : Bool)
  | batonWaitOp (c : RegionId) (bad : Bool)
  | batonHandoff (c : RegionId) (bad : Bool)
  | batonRecordLoad (src : Nat) (addr : Nat) (size : Nat) (bad : Bool)
  | batonRelease (c : RegionId)
  | batonTimeout (c : RegionId)
  -- the port
  | cxlMemRead (tag : Nat) (hpa : Nat) (len : Nat) (want : CohState)
  | cxlMemWrite (tag : Nat) (hpa : Nat) (data : List PByte)
  | portTimerExpire (tag : Nat)
  | birspi (line : Nat)
  | cxlCacheSnoop (line : Nat)
  | uioTimeout (tag : Nat)
  | uioRetry (tag : Nat)
  | inboundUio (fid : BitVec 12) (write : Bool) (addr : BitVec 52) (len : Nat) (data : List PByte)
  | relayChunk (fid : BitVec 12) (chunk : List PByte)
  | relayDeadline (up : Bool)
  | hdmCommit (dec : Fin 8) (hpa : Nat) (size : Nat) (skip : Nat)
  | configRequest (write : Bool) (reg : Nat) (value : BitVec 32)
  | linkUp (gts64 : Bool) (width8 : Bool) (cacheEn : Bool)
  | getLog (uuid : BitVec 128) (off : Nat) (len : Nat)
  | getEventRecords (log : Fin 4)
  | clearEventRecords (log : Fin 4) (all : Bool) (handles : List Nat)
  | setEventInterruptPolicy (policy : BitVec 32)
  | setTimestamp (t : Word)
  -- board memory
  | gddrRetry (r : Req) (pass : BitVec 8)
  | gddrRetrain (at' : ChanTemp) (ok : Bool)
  | gddrRead (req : MemReq) (crit : Bool) (flips : List BitFlip)
  | gddrWrite (req : MemReq)
  | wcbDrain (chan : Fin 8) (block : Nat) (needed : Bool)
  -- package and board
  | strapSample (sel : BitVec 2) (mode : Bool)
  | modEn (modIdLow : Bool) (mv12 : Nat)
  | thermtrip (die : Fin 4) (unit : Nat) (reading : Int)
  | mctpMessage (vdm : Bool) (type : BitVec 8) (body : List Byte)
  | pldmRequest (vdm : Bool) (type : BitVec 6) (sensor : Nat)
  | setEndpointId (vdm : Bool) (eid : Byte)
  | pldmEffecter (vdm : Bool) (id : Nat) (value : BitVec 12)
  | pmbusPoll (vin : Nat) (iout : Nat) (vout : Nat) (temp : Nat)
  -- power
  | domainRequest (r : Req) (d : DomId) (on : Bool)
  | rampUpDone (d : DomId) (ok : Bool)
  | domainDrainEnd (d : DomId) (late : Bool)
  | rampDownDone (d : DomId)
  | wake (cause : WakeCause)
  | operatingPointChange (k : ClusterId)
  | powerSample (total : Nat) (array : Nat) (stack : Nat)
  | presetWrite (r : Req) (preset : Fin 4)
  | sagSample (mv12 : Nat) (mvAon10 : Nat)
  -- thermal and timekeeper
  | housekeepingRound (round : Round)
  | throttleStep (k : ClusterId)
  | modelUpdate (p1ms : Nat)
  | slowclkCount (kclk : Nat)
  | forceHold (r : Req) (on : Bool)
  -- integrity
  | patrolScrub (store : Fin 4) (addr : Nat) (flips : List BitFlip) (passEnd : Bool) (late : Bool)
  -- vertical connections and lanes
  | laneRetire (router : RouterId) (port : Nat) (lane : Nat)
  | d2dFrame (group : Fin 16) (seq : BitVec 12) (crcOk : Bool) (flits : List Flit)
  | d2dReplay (group : Fin 16) (lastGood : BitVec 12)
  -- bring-up
  | serviceReady (svc : Service)
  | bootFault (svc : Service)
  | stepD2dTraining (r : Req) (bad : List (Nat × Nat))
  | stepVerticalTest (r : Req) (badConns : List (Nat × Nat)) (badCmd : List (Nat × Nat)) (badLanes : List (Nat × Nat)) (badColumnLinks : List Nat)
  | stepStackCalibration (r : Req) (uncal : List (Nat × Nat)) (gddrPass : BitVec 8)
  | stepMemoryTest (r : Req) (defects : List (Nat × Option Nat))
  | stepComplete (ok : Bool)
  -- fencing, resets, partitions
  | coreFence (r : Req) (core : CoreId)
  | coreQuiesced (core : CoreId)
  | coreRejoin (r : Req) (core : CoreId)
  | rejoinComplete (core : CoreId)
  | coreReset (r : Req) (core : CoreId)
  | clusterReset (r : Req) (k : ClusterId)
  | partitionReset (r : Req) (p : Fin 8)
  | dieReset (r : Req) (upper : Bool)
  | deviceReset (cause : ResetCause)
  | partitionWrite (r : Req) (p : Fin 8) (clusters : BitVec 32)
  -- counters and the life log
  | freeze (r : Req) (k : ClusterId) (on : Bool)
  -- trust
  | fwUpdate (r : Req) (addr : BitVec 52)
  | commitSvn (r : Req) (type : Fin 4)
  -- the rest of the table
  | layerCalibration (core : CoreId) (badCmdConn : List (Nat × Nat))
  | gddrRefresh (chan : Fin 8) (allBank : Bool)
  | uioCompletion (tag : Nat) (status : UioStatus) (data : List PByte)
  | cpInstruction (core : CoreId) (ext : List PByte)
  -- rare ones, and commands without operands
  | pmbAlert (asserted : Bool) (statusWord : BitVec 16)
  | revoke (r : Req) (addr : BitVec 52)
  | chkSnoopEnable (r : Req) (unit : Fin 36)
  | jtagBypass (tdi : Bool)
  | jtagSamplePreload (pins : List Bool)
  | coolantWrite (r : Req) (value : Word)
  | spareSwap (core : CoreId)
  | parityAlert (core : CoreId) (group : Fin 9) (again : Bool)
  | d2dHardFault (group : Fin 16) (lane : Fin 13) (lostLock : Bool)
  | pmcWrap (unit : PmcUnit) (i : Fin 8)
  | debugUnlock (r : Req) (addr : BitVec 52)
  | attnMax
  | normalise
  | output
  | attnStepComplete
  | descriptorStart
  | recallGo
  | chunkExpire
  | linkDown
  | ideMacFail
  | identify
  | getSupportedLogs
  | getEventInterruptPolicy
  | getTimestamp
  | identifyMemoryDevice
  | auxPowerUp
  | auxPowerDown
  | pwrGoodRise
  | pwrGoodTimeout
  | pwrGoodFall
  | modIdHigh
  | perstDeassert
  | perstAssert
  | tripClear
  | alertResponse
  | jtagIdcode
  | jtagExtest
  | coolantStale
  | rampGrant
  | park
  | budgetTrimStep
  | haltModuleOff
  | rate1sUpdate
  | coolingDegraded
  | paceStart
  | pacePreset
  | paceSpreadStep
  | splitData
  | splitCheck
  | splitRaw
  | splitRead
  | lapSample
  | stepRails
  | stepClocks
  | stepFill
  | stepCacheInit
  | stepFirmwareLoad
  | stepFabricJoin
  | stepTimeout
  | resetApplied
  | sensorRefresh
  | lifeSecond
  | lifeUpdate
  | lifeFlush
  | weekEnd
  | nonceGen
  | slowclkLost
  | paceEntryEnd
  | doeDiscovery
  deriving DecidableEq, Repr

end Sys2Proof
end

