-- ==== Sys2Proof/Config.lean ====
section
/-! DEFINITION. The values the spec leaves open: constants with no body, so that nothing can be proved of them. Each is named in an entry of the assumption log. -/

namespace Sys2Proof.Config

/-- The n-th free value drawn by the machine, for values the spec leaves open (log 5). -/
opaque freeValue : Nat → BitVec 64
/-- Which of the allowed results the vector unit's base-2 exponential gives (R90; log 6). -/
opaque exp2Ulp : BitVec 32 → Int
/-- Which of the allowed results the vector unit's base-e exponential gives (R90; log 6). -/
opaque expUlp : BitVec 32 → Int
/-- Which of the allowed results the vector unit's reciprocal gives (R90; log 6). -/
opaque rcpUlp : BitVec 32 → Int
/-- Which of the allowed results the vector unit's reciprocal square root gives (R90; log 6). -/
opaque rsqrtUlp : BitVec 32 → Int
/-- The vector unit's reciprocal of ±0, which R90 does not give (log 147). -/
opaque rcpOpen : BitVec 32 → BitVec 32
/-- The vector unit's reciprocal square root of ±0 and of a negative operand, which R90 does not give (log 147). -/
opaque rsqrtOpen : BitVec 32 → BitVec 32
/-- The vector unit's SILU of −Inf, which R100 does not give (log 147). -/
opaque siluOpen : BitVec 32 → BitVec 32
/-- Which of the allowed results the vector unit's SILU gives (R100; log 6). -/
opaque siluUlp : BitVec 32 → Int
/-- Which of the allowed results the bank-side unit's exponential gives (R92; log 6). -/
opaque bsuExp2Ulp : BitVec 32 → Int
/-- Whether the vector unit's max or min of +0 and −0 is −0 (R90 does not say; log 22). -/
opaque zeroPick : BitVec 32 → BitVec 32 → Bool
/-- mvendorid, marchid, mimpid and mconfigptr of the control processor, by CSR number: the spec gives none (R111; log 30). -/
opaque cpId : Nat → BitVec 64
/-- C0 of the context whose relay tag is given, an FP32 code: R269 uses it, and no operand of RELAY_STEP carries it (log 42). -/
opaque relayC0 : Nat → BitVec 32
/-- FCHECK over a payload and sideband bits [15:0]: R21 gives no polynomial (log 7). -/
opaque fcheck : BitVec 512 → BitVec 16 → BitVec 16
/-- Fuse slot contents: SHA-512 hash of the signing key of a slot (R555; log 8). -/
opaque keyHash : Nat → BitVec 512
/-- The address a packet of request class writes to, from the payload of its HEAD flit; none when it is no write (R21 leaves the layout of head fields to the units; log 61). -/
opaque writeHead : BitVec 512 → Option Nat
/-- The source endpoint of a packet, from the payload of its HEAD flit (R21 leaves the layout of head fields to the units; log 61). -/
opaque headSource : BitVec 512 → BitVec 11
/-- The device serial number (R561, R565; log 8). -/
opaque dsn : BitVec 64
/-- The certificate chain of SPDM slot 0 (R561; log 8). -/
opaque certChain : List (BitVec 8)
/-- The digest of the boot ROM, fixed at manufacture (R557; log 8). -/
opaque romDigest : BitVec 512
/-- The root of trust's random generator (R571; log 9). -/
opaque random : Nat → BitVec 64
/-- Where in configuration space a structure of R316 and R318 begins: 0 MSI-X, 1 CXL DVSEC, 2 Flex Bus DVSEC, 3 Register Locator DVSEC, 4 Readiness Time Reporting, 5 PCI Express (log 176). -/
opaque cfgBase : Nat → Nat
/-- A SPDM or attestation signature over a transcript: the scheme's secret key is not given (R566; log 9). -/
opaque sign : List (BitVec 8) → List (BitVec 8)

end Sys2Proof.Config
end

