-- ==== Sys2Proof/Machine/Operands.lean ====
section
/-! DEFINITION. Number formats and their arithmetic: the exact values behind each format of R77 to R92, rounding, and the operations the vector unit, the bank-side units, the reduction units, the converter and the control processor compute with. -/

namespace Sys2Proof.Machine

/-- A value of a floating-point format: NaN, an infinity, or (-1)^neg × m × 2^e exactly. -/
inductive FVal where
  | nan
  | inf (neg : Bool)
  | fin (neg : Bool) (m : Nat) (e : Int)
  deriving DecidableEq, Repr, Inhabited

/-- A floating-point format: exponent bits, mantissa bits, and whether it has infinities (E4M3 has none: R87, R89). -/
structure Fmt where
  eb : Nat
  mb : Nat
  hasInf : Bool
  deriving DecidableEq, Repr, Inhabited

def fp32 : Fmt := ⟨8, 23, true⟩
def fp64 : Fmt := ⟨11, 52, true⟩
def bf16 : Fmt := ⟨8, 7, true⟩
def fp16 : Fmt := ⟨5, 10, true⟩
def e5m2 : Fmt := ⟨5, 2, true⟩
def e4m3 : Fmt := ⟨4, 3, false⟩

/-- Exponent bias. -/
def Fmt.bias (f : Fmt) : Nat := 2 ^ (f.eb - 1) - 1
/-- Width in bits. -/
def Fmt.bits (f : Fmt) : Nat := 1 + f.eb + f.mb
/-- Code of the largest finite magnitude: 0x7E for E4M3, 0x7B for E5M2 (R87). -/
def Fmt.maxFin (f : Fmt) : Nat := if f.hasInf then (2 ^ f.eb - 1) * 2 ^ f.mb - 1 else 2 ^ (f.eb + f.mb) - 2
/-- Code of positive infinity, in a format that has one. -/
def Fmt.infCode (f : Fmt) : Nat := (2 ^ f.eb - 1) * 2 ^ f.mb
/-- The canonical NaN (R89); E5M2 writes 0x7F. -/
def Fmt.nanCode (f : Fmt) : Nat :=
  if f.hasInf ∧ f ≠ e5m2 then f.infCode + 2 ^ (f.mb - 1) else 2 ^ (f.eb + f.mb) - 1

/-- The value of a code. -/
def Fmt.decode (f : Fmt) (c : Nat) : FVal :=
  let neg := c / 2 ^ (f.eb + f.mb) % 2 == 1
  let e := c / 2 ^ f.mb % 2 ^ f.eb
  let m := c % 2 ^ f.mb
  if f.hasInf ∧ e = 2 ^ f.eb - 1 then (if m = 0 then .inf neg else .nan)
  else if !f.hasInf ∧ e = 2 ^ f.eb - 1 ∧ m = 2 ^ f.mb - 1 then .nan
  else if e = 0 then .fin neg m (1 - f.bias - f.mb)
  else .fin neg (2 ^ f.mb + m) (e - f.bias - f.mb)

/-- Rounding directions: nearest even is the device's only one (R91); the others are the control processor's floating-point modes. -/
inductive RMode where
  | rne | rtz | rdn | rup | rmm
  deriving DecidableEq, Repr, Inhabited

/-- A fraction n / d rounded to an integer magnitude, with whether it was inexact. -/
def roundRat (mode : RMode) (neg : Bool) (n d : Nat) : Nat × Bool :=
  let q := n / d
  let r := n % d
  if r = 0 then (q, false)
  else
    let up := match mode with
      | .rne => 2 * r > d || (2 * r == d && q % 2 == 1)
      | .rtz => false
      | .rdn => neg
      | .rup => !neg
      | .rmm => 2 * r ≥ d
    (if up then q + 1 else q, true)

/-- What a rounding gave: the code, and whether it was inexact, overflowed or was tiny and inexact. -/
structure Rounded where
  code : Nat
  nx : Bool
  of : Bool
  uf : Bool
  deriving DecidableEq, Repr, Inhabited

/-- The exponent of the leading bit of n / d, for n, d > 0. -/
def log2Rat (n d : Nat) : Int :=
  let k : Int := (Nat.log2 n : Int) - Nat.log2 d
  if k ≥ 0 then (if n < d * 2 ^ k.toNat then k - 1 else k)
  else (if n * 2 ^ (-k).toNat < d then k - 1 else k)

/-- Round (-1)^neg × (n / d) × 2^e to a format, keeping subnormals; `sat` takes an overflow to the largest finite value. -/
def Fmt.round (f : Fmt) (mode : RMode) (sat : Bool) (neg : Bool) (n d : Nat) (e : Int) : Rounded :=
  let s := if neg then 2 ^ (f.eb + f.mb) else 0
  if n = 0 then ⟨s, false, false, false⟩
  else
    let top := log2Rat n d + e
    let q := max (top - f.mb) (1 - f.bias - f.mb)
    let sh := q - e
    let (r, nx) := if sh ≥ 0 then roundRat mode neg n (d * 2 ^ sh.toNat) else roundRat mode neg (n * 2 ^ (-sh).toNat) d
    let code := if r < 2 ^ f.mb then r else (q + f.mb + f.bias).toNat * 2 ^ f.mb + (r - 2 ^ f.mb)
    if code > f.maxFin then
      let toMax := sat || !f.hasInf || mode == .rtz || (mode == .rdn && !neg) || (mode == .rup && neg)
      ⟨s + (if toMax then f.maxFin else f.infCode), true, true, false⟩
    else ⟨s + code, nx, false, nx && decide (top < 1 - (f.bias : Int))⟩

/-- Write a value in a format, to nearest even; FP8 saturates finite overflow and infinities (R87). -/
def Fmt.encode (f : Fmt) (v : FVal) : Nat :=
  let sat := f.eb + f.mb = 7
  match v with
  | .nan => f.nanCode
  | .inf neg => (if neg then 2 ^ (f.eb + f.mb) else 0) + (if sat then f.maxFin else f.infCode)
  | .fin neg m e => (f.round .rne sat neg m 1 e).code

/-- Exact negation. -/
def FVal.neg : FVal → FVal
  | .nan => .nan
  | .inf n => .inf (!n)
  | .fin n m e => .fin (!n) m e

/-- A signed integer multiple of a power of two as a value; zero takes the given sign. -/
def FVal.ofInt (z : Int) (e : Int) (zeroNeg : Bool) : FVal :=
  if z = 0 then .fin zeroNeg 0 e else .fin (decide (z < 0)) z.natAbs e

/-- The exact sum; an exact zero from unlike signs is +0 (nearest even). -/
def FVal.add : FVal → FVal → FVal
  | .nan, _ => .nan
  | _, .nan => .nan
  | .inf a, .inf b => if a = b then .inf a else .nan
  | .inf a, _ => .inf a
  | _, .inf b => .inf b
  | .fin na ma ea, .fin nb mb eb =>
    let e := min ea eb
    let a : Int := (if na then -1 else 1) * (ma * 2 ^ (ea - e).toNat : Nat)
    let b : Int := (if nb then -1 else 1) * (mb * 2 ^ (eb - e).toNat : Nat)
    FVal.ofInt (a + b) e (na && nb)

/-- The exact product. -/
def FVal.mul : FVal → FVal → FVal
  | .nan, _ => .nan
  | _, .nan => .nan
  | .inf a, .inf b => .inf (xor a b)
  | .inf a, .fin nb mb _ => if mb = 0 then .nan else .inf (xor a nb)
  | .fin na ma _, .inf b => if ma = 0 then .nan else .inf (xor na b)
  | .fin na ma ea, .fin nb mb eb => .fin (xor na nb) (ma * mb) (ea + eb)

/-- Exact comparison of finite or infinite values: whether a < b. -/
def FVal.lt : FVal → FVal → Bool
  | .nan, _ => false
  | _, .nan => false
  | .inf a, .inf b => a && !b
  | .inf a, _ => a
  | _, .inf b => !b
  | .fin na ma ea, .fin nb mb eb =>
    let e := min ea eb
    let a : Int := (if na then -1 else 1) * (ma * 2 ^ (ea - e).toNat : Nat)
    let b : Int := (if nb then -1 else 1) * (mb * 2 ^ (eb - e).toNat : Nat)
    decide (a < b)

/-- Whether the value is negative, zeros by their sign. -/
def FVal.isNeg : FVal → Bool
  | .nan => false
  | .inf n => n
  | .fin n _ _ => n

/-- Maximum: a NaN operand gives NaN (R90); of +0 and −0 the result is +0 (R184). -/
def FVal.fmax (a b : FVal) : FVal :=
  match a, b with
  | .nan, _ => .nan
  | _, .nan => .nan
  | _, _ => if a.lt b then b else if b.lt a then a else if a.isNeg then b else a

/-- Minimum, as the maximum. -/
def FVal.fmin (a b : FVal) : FVal :=
  match a, b with
  | .nan, _ => .nan
  | _, .nan => .nan
  | _, _ => if a.lt b then a else if b.lt a then b else if a.isNeg then a else b

/-- Whether a value is NaN or an infinity. -/
def FVal.special : FVal → Bool
  | .nan => true
  | .inf _ => true
  | .fin _ _ _ => false

/-- An FP32 addition, rounded once. -/
def f32Add (a b : Nat) : Nat := fp32.encode ((fp32.decode a).add (fp32.decode b))
/-- An FP32 subtraction, rounded once. -/
def f32Sub (a b : Nat) : Nat := fp32.encode ((fp32.decode a).add (fp32.decode b).neg)
/-- An FP32 multiplication, rounded once. -/
def f32Mul (a b : Nat) : Nat := fp32.encode ((fp32.decode a).mul (fp32.decode b))
/-- An FP32 fused multiply-add, rounded once. -/
def f32Fma (a b c : Nat) : Nat := fp32.encode (((fp32.decode a).mul (fp32.decode b)).add (fp32.decode c))
/-- The larger of two FP32 values. -/
def f32Max (a b : Nat) : Nat := fp32.encode ((fp32.decode a).fmax (fp32.decode b))
/-- Whether an FP32 code is finite. -/
def f32Finite (a : Nat) : Bool := !(fp32.decode a).special

/-! Elementary functions: the exact result rounded down to FP32, then moved by the open number of units in the last place that the accuracy of R90 allows. -/

/-- ln 2 × 2^160. -/
def ln2Fix : Nat := 1013035739299659071135698605846798551586536899366
/-- log2 e × 2^192. -/
def log2eFix : Nat := 9055943544797870567083544809312461607371518589544137143473

/-- Taylor sum of exp(t / 2^160) × 2^160, `n` more terms from term `t^k / k!` = `term`. -/
def expSeries (t : Nat) : Nat → Nat → Nat → Nat
  | 0, _, _ => 0
  | n + 1, k, term => term + expSeries t n (k + 1) (term * t / 2 ^ 160 / k)

/-- 2^(f / 2^160) × 2^160 for a fraction f < 2^160, rounded down. -/
def exp2Frac (f : Nat) : Nat := expSeries (f * ln2Fix / 2 ^ 160) 40 1 (2 ^ 160)

/-- 2^(y / 2^160), rounded down to an FP32 code. -/
def exp2Floor (y : Int) : Nat :=
  let n := y / 2 ^ 160
  let f := (y % 2 ^ 160).toNat
  (fp32.round .rtz false false (exp2Frac f) 1 (n - 160)).code

/-- Move a non-negative FP32 code by the open number of ulps, at most `n` from the exact result. -/
def ulpPick (n : Nat) (exact : Bool) (k : Int) (code : Nat) : Nat :=
  let k' := max (-(n : Int) + (if exact then 0 else 1)) (min n k)
  min fp32.infCode ((code : Int) + k').toNat

/-- m × 2^e as an integer multiple of 2^-160, rounded down. -/
def toFix (neg : Bool) (m : Nat) (e : Int) : Int :=
  let z : Int := (if neg then -1 else 1) * (m : Int)
  let sh := e + 160
  if sh ≥ 0 then z * 2 ^ sh.toNat else z / 2 ^ (-sh).toNat

/-- Base-2 exponential within 2 ulp; where `exact` is set, exact for integers from −149 to 127 (R90, R92; log 6). -/
def f32Exp2 (exact : Bool) (pick : BitVec 32 → Int) (a : Nat) : Nat :=
  match fp32.decode a with
  | .nan => fp32.nanCode
  | .inf neg => if neg then 0 else fp32.infCode
  | .fin neg m e =>
    let big := decide (Nat.log2 m + e ≥ 9) && m != 0
    if big then (if neg then ulpPick 2 false (pick (BitVec.ofNat 32 a)) 0 else fp32.infCode)
    else
      let y := toFix neg m e
      let whole := (m == 0 || (decide (e ≥ -160) && y % 2 ^ 160 == 0)) && decide (-149 * 2 ^ 160 ≤ y)
      if y ≥ 128 * 2 ^ 160 then fp32.infCode
      else if exact && whole then exp2Floor y
      else ulpPick 2 whole (pick (BitVec.ofNat 32 a)) (exp2Floor y)

/-- Base-e exponential within 3 ulp (R90; log 6). -/
def f32Exp (pick : BitVec 32 → Int) (a : Nat) : Nat :=
  match fp32.decode a with
  | .nan => fp32.nanCode
  | .inf neg => if neg then 0 else fp32.infCode
  | .fin neg m e =>
    if Nat.log2 m + e ≥ 9 ∧ m ≠ 0 then (if neg then ulpPick 3 false (pick (BitVec.ofNat 32 a)) 0 else fp32.infCode)
    else
      let y := toFix neg m e * log2eFix / 2 ^ 192
      if y ≥ 128 * 2 ^ 160 then fp32.infCode
      else ulpPick 3 (m == 0) (pick (BitVec.ofNat 32 a)) (exp2Floor y)

/-- Apply a sign to a non-negative FP32 code. -/
def f32Sign (neg : Bool) (c : Nat) : Nat := if neg then c + 2 ^ 31 else c

/-- Reciprocal within 1 ulp (R90). R90 gives none for ±0: `open'` does (log 147). -/
def f32Rcp (pick : BitVec 32 → Int) (open' : BitVec 32 → BitVec 32) (a : Nat) : Nat :=
  match fp32.decode a with
  | .nan => fp32.nanCode
  | .inf neg => f32Sign neg 0
  | .fin neg m e =>
    if m = 0 then (open' (BitVec.ofNat 32 a)).toNat
    else
      let r := fp32.round .rtz false false 1 m (-e)
      f32Sign neg (if r.of then fp32.infCode else ulpPick 1 (!r.nx) (pick (BitVec.ofNat 32 a)) r.code)

/-- Reciprocal square root within 2 ulp (R90). R90 gives none for ±0 and for a negative operand: `open'` does (log 147). -/
def f32Rsqrt (pick : BitVec 32 → Int) (open' : BitVec 32 → BitVec 32) (a : Nat) : Nat :=
  match fp32.decode a with
  | .nan => fp32.nanCode
  | .inf neg => if neg then (open' (BitVec.ofNat 32 a)).toNat else 0
  | .fin neg m e =>
    if m = 0 ∨ neg then (open' (BitVec.ofNat 32 a)).toNat
    else
      let (m', e') := if e % 2 = 0 then (m, e) else (2 * m, e - 1)
      let r := Nat.sqrt (2 ^ 320 / m')
      let x := fp32.round .rtz false false r 1 (-160 - e' / 2)
      ulpPick 2 (r * r * m' == 2 ^ 320) (pick (BitVec.ofNat 32 a)) x.code

/-- a / (1 + e^−a) within 4 ulp (R100). Of −Inf the quotient has no value: `open'` gives one (log 147). -/
def f32Silu (pick : BitVec 32 → Int) (open' : BitVec 32 → BitVec 32) (a : Nat) : Nat :=
  match fp32.decode a with
  | .nan => fp32.nanCode
  | .inf neg => if neg then (open' (BitVec.ofNat 32 a)).toNat else fp32.infCode
  | .fin neg m e =>
    if m = 0 then f32Sign neg (ulpPick 4 true (pick (BitVec.ofNat 32 a)) 0)
    else
      let y := toFix (!neg) m e * log2eFix / 2 ^ 192
      let den : Nat × Int :=   -- 1 + e^-a as numerator × 2^exponent
        if Nat.log2 m + e ≥ 9 then (if neg then (1, 512) else (1, 0))
        else
          let n := y / 2 ^ 160
          let f := exp2Frac (y % 2 ^ 160).toNat
          if n ≥ 0 then (2 ^ 160 + f * 2 ^ n.toNat, -160) else (2 ^ 160 + f / 2 ^ (-n).toNat, -160)
      let r := fp32.round .rtz false false m den.1 (e - den.2)
      f32Sign neg (ulpPick 4 false (pick (BitVec.ofNat 32 a)) r.code)

/-! Integers and bytes. -/

/-- The signed value of the low `w` bits. -/
def sx (w n : Nat) : Int :=
  let m := n % 2 ^ w
  if w ≠ 0 ∧ m ≥ 2 ^ (w - 1) then (m : Int) - 2 ^ w else m

/-- The low `w` bits of an integer. -/
def ux (w : Nat) (z : Int) : Nat := (z % 2 ^ w).toNat

/-- Bits [lo + w − 1 : lo] of a number. -/
def bitsOf (n lo w : Nat) : Nat := n / 2 ^ lo % 2 ^ w

/-- Whether bit `i` is set. -/
def bitOf (n i : Nat) : Bool := n / 2 ^ i % 2 == 1

/-- Little-endian bytes of a number (R9). -/
def toBytes : Nat → Nat → List Byte
  | 0, _ => []
  | k + 1, n => BitVec.ofNat 8 n :: toBytes k (n / 256)

/-- The number little-endian bytes spell (R9). -/
def ofBytes : List Byte → Nat
  | [] => 0
  | b :: t => b.toNat + 256 * ofBytes t

/-- Bytes of a number, none poisoned. -/
def toPBytes (k n : Nat) : List PByte := (toBytes k n).map fun b => ⟨b, false⟩

/-- The number poisonable bytes spell. -/
def ofPBytes (l : List PByte) : Nat := ofBytes (l.map (·.v))

/-- Whether any byte is poisoned. -/
def anyPoison (l : List PByte) : Bool := l.any (·.p)

/-- `k` poisoned bytes: zero data, marked. -/
def poisonBytes (k : Nat) : List PByte := List.replicate k ⟨0, true⟩

/-- Integer rounding of n / 2^k to nearest, ties to even. -/
def rneShift (n k : Nat) : Nat := (roundRat .rne false n (2 ^ k)).1

/-- A finite value rounded to an integer, ties to even. -/
def FVal.toIntRne : FVal → Int
  | .fin neg m e =>
    let r := if e ≥ 0 then m * 2 ^ e.toNat else rneShift m (-e).toNat
    if neg then -r else r
  | _ => 0

/-- Conversion into a signed integer type of width w: saturating, NaN giving the most negative value (R90). -/
def FVal.toIntSat (w : Nat) : FVal → Nat
  | .nan => 2 ^ (w - 1)
  | .inf neg => if neg then 2 ^ (w - 1) else 2 ^ (w - 1) - 1
  | v => ux w (max (-2 ^ (w - 1)) (min (2 ^ (w - 1) - 1) v.toIntRne))

/-! Quantising into MX formats (R82). -/

/-- The MX element formats the converter produces. -/
inductive MxFmt where
  | mxfp4 | mxfp6 | mxint8 | mxint16
  deriving DecidableEq, Repr, Inhabited

/-- Element maximum exponent (R82). -/
def MxFmt.emax : MxFmt → Int
  | .mxfp4 => 2
  | .mxfp6 => 2
  | _ => 0

/-- Largest integer of the target format (R82). -/
def MxFmt.imax : MxFmt → Nat
  | .mxfp4 => 12
  | .mxfp6 => 60
  | .mxint8 => 127
  | .mxint16 => 32767

/-- Factor exponent of the integer (R78, R84). -/
def MxFmt.fw : MxFmt → Int
  | .mxfp4 => -1
  | .mxfp6 => -3
  | .mxint8 => -6
  | .mxint16 => -14

/-- The nearest point of the extended grid to m × 2^e, a magnitude (R82): integers for the INT formats; for the FP formats integers with `mb` mantissa bits beyond the subnormals. -/
def MxFmt.grid (f : MxFmt) (m : Nat) (e : Int) : Nat :=
  let int (q : Int) : Nat := if e - q ≥ 0 then m * 2 ^ (e - q).toNat else rneShift m (q - e).toNat
  let fp (mb : Nat) : Nat :=
    if m = 0 then 0
    else
      let q := max 0 ((Nat.log2 m : Int) + e - mb)
      int q * 2 ^ q.toNat
  match f with
  | .mxint8 => int 0
  | .mxint16 => int 0
  | .mxfp4 => fp 1
  | .mxfp6 => fp 3

/-- What a block became: scale byte, integers, whether it counts nan_block, and how many clamps. -/
structure MxBlock where
  x : Nat
  els : List Int
  nanBlock : Bool
  clamps : Nat
  deriving DecidableEq, Repr, Inhabited

/-- Exponent of the leading bit of the largest finite magnitude in a block; none when all are zero. -/
def maxLead : List FVal → Option Int
  | [] => none
  | v :: t =>
    match v, maxLead t with
    | .fin _ m e, r =>
      if m = 0 then r
      else
        let k := (Nat.log2 m : Int) + e
        match r with
        | none => some k
        | some j => some (max k j)
    | _, r => r

/-- Quantise a block of source values (R82, R83). -/
def MxFmt.quantise (f : MxFmt) (v : List FVal) : MxBlock :=
  if v.any (·.special) then ⟨0xFF, v.map fun _ => 0, true, 0⟩
  else
    match maxLead v with
    | none => ⟨0, v.map fun _ => 0, false, 0⟩
    | some lead =>
      let xs := max (-127) (min 127 (lead - f.emax))
      let q := v.map fun x =>
        match x with
        | .fin neg m e => (neg, f.grid m (e - xs - f.fw))
        | _ => (false, 0)
      ⟨(xs + 127).toNat,
       q.map fun p => (if p.1 then -1 else 1) * (min p.2 f.imax : Nat),
       false, (q.filter fun p => decide (f.imax < p.2)).length⟩

/-- The integer of an MXFP4 code (R78). -/
def mxfp4Int (c : Nat) : Int :=
  let e := bitsOf c 1 2
  let m := bitsOf c 0 1
  let i : Nat := if e = 0 then m else (2 + m) * 2 ^ (e - 1)
  if bitOf c 3 then -i else i

/-- The integer of an MXFP6 E2M3 code (R78). -/
def mxfp6Int (c : Nat) : Int :=
  let e := bitsOf c 3 2
  let m := bitsOf c 0 3
  let i : Nat := if e = 0 then m else (8 + m) * 2 ^ (e - 1)
  if bitOf c 5 then -i else i

/-- The value of an MXFP6 E3M2 code (R572). -/
def mxfp6e3m2 (c : Nat) : FVal :=
  let e := bitsOf c 2 3
  let m := bitsOf c 0 2
  if e = 0 then .fin (bitOf c 5) m (-4) else .fin (bitOf c 5) (4 + m) ((e : Int) - 5)

/-- The j-th ternary digit of a TERN5 byte, as −1, 0 or +1 (R80). -/
def tern5Digit (b j : Nat) : Int := (b / 3 ^ j % 3 : Nat) - 1

end Sys2Proof.Machine
end

