-- ==== Sys2Proof/Machine/RegKinds.lean ====
section
/-! DEFINITION. What a register table says of a register and of a field: place, access code (R11), reset value. -/

namespace Sys2Proof.Machine

/-- Access codes (R11). -/
inductive Acc where
  | ro | rw | rwl | w1c | w1s | rc | wo
  deriving DecidableEq, Repr, Inhabited

/-- How a register repeats over units: by a fixed stride; over the 256 cores inside the cluster blocks with stride `j` per core; one per cluster; one per region (R35, R36). -/
inductive UKind where
  | flat (stride : Nat)
  | core (jstride : Nat)
  | cluster
  | region
  deriving DecidableEq, Repr, Inhabited

/-- Where a register lies: offset of unit 0, repetition over `units`, and `icount` registers `istride` apart within a unit. -/
structure RegPos where
  base : Nat
  kind : UKind
  units : Nat
  istride : Nat
  icount : Nat
  deriving DecidableEq, Repr, Inhabited

/-- The BAR0 offset of register number `i` of unit `u`. -/
def RegPos.off (p : RegPos) (u i : Nat) : Nat :=
  p.base + i * p.istride +
    match p.kind with
    | .flat s => u * s
    | .core j => 0x400000 + u / 8 * 0x10000 + u % 8 * j
    | .cluster => 0x400000 + u * 0x10000
    | .region => 0x800000 + u * 0x4000

/-- The unit and number at which a BAR0 offset meets this register, if it does. -/
def RegPos.at? (p : RegPos) (off : Nat) : Option (Nat × Nat) :=
  let fit (u r : Nat) : Option (Nat × Nat) :=
    if r < p.base then none
    else
      let x := r - p.base
      let i := if p.istride = 0 then 0 else x / p.istride
      if u < p.units ∧ i < p.icount ∧ x = i * p.istride then some (u, i) else none
  match p.kind with
  | .flat s =>
    if off < p.base then none
    else if s = 0 then fit 0 off
    else fit ((off - p.base) / s) (p.base + (off - p.base) % s)
  | .core j =>
    if off < 0x400000 then none
    else
      let k := (off - 0x400000) / 0x10000
      let w := (off - 0x400000) % 0x10000
      if w < p.base then none
      else
        let n := (w - p.base) / j
        if n < 8 then fit (8 * k + n) (p.base + (w - p.base) % j) else none
  | .cluster => if off < 0x400000 then none else fit ((off - 0x400000) / 0x10000) ((off - 0x400000) % 0x10000)
  | .region => if off < 0x800000 then none else fit ((off - 0x800000) / 0x4000) ((off - 0x800000) % 0x4000)

/-- A field: the register it is in, lowest bit, width, access code and reset value. -/
structure Fld where
  pos : RegPos
  lo : Nat
  w : Nat
  acc : Acc
  rst : Nat
  deriving DecidableEq, Repr, Inhabited

/-- A register: its place and its named fields; every other bit is reserved (R12). -/
structure Reg where
  pos : RegPos
  fields : List Fld
  deriving DecidableEq, Repr, Inhabited

end Sys2Proof.Machine
end

