-- ==== Sys2Proof/Machine/RegMap.lean ====
section
/-! DEFINITION. The register map: every register of BAR0 (R35, R36) and of the device CSRs that hold fields (R114, R115), with the place, access code and reset value of each field as its register table gives them. A register the tables leave reserved in part lists only its named fields. -/

namespace Sys2Proof.Machine

/-- DEV_IDENT: where it lies (R5). -/
abbrev DEV_IDENT.pos : RegPos := ⟨0x0, (.flat 0), 1, 0x0, 1⟩
/-- DEV_IDENT.VENDOR, bits 15:0, RO, resets to 20036 (R5). -/
abbrev DEV_IDENT.VENDOR : Fld := ⟨DEV_IDENT.pos, 0, 16, .ro, 20036⟩
/-- DEV_IDENT.PART, bits 31:16, RO, resets to 3478 (R5). -/
abbrev DEV_IDENT.PART : Fld := ⟨DEV_IDENT.pos, 16, 16, .ro, 3478⟩
/-- DEV_IDENT.ARRAYS, bits 40:32, RO, resets to 0 (R5). -/
abbrev DEV_IDENT.ARRAYS : Fld := ⟨DEV_IDENT.pos, 32, 9, .ro, 0⟩
/-- DEV_IDENT.STEPPING, bits 55:48, RO, resets to 0 (R5). -/
abbrev DEV_IDENT.STEPPING : Fld := ⟨DEV_IDENT.pos, 48, 8, .ro, 0⟩
/-- DEV_IDENT, whole (R5). -/
abbrev DEV_IDENT.reg : Reg := ⟨DEV_IDENT.pos, [DEV_IDENT.VENDOR, DEV_IDENT.PART, DEV_IDENT.ARRAYS, DEV_IDENT.STEPPING]⟩
/-- DEV_ARRAY_MAP: where it lies (R6). -/
abbrev DEV_ARRAY_MAP.pos : RegPos := ⟨0x20, (.flat 0), 1, 0x8, 4⟩
/-- DEV_ARRAY_MAP.ENABLED, bits 63:0, RO, resets to 0 (R6). -/
abbrev DEV_ARRAY_MAP.ENABLED : Fld := ⟨DEV_ARRAY_MAP.pos, 0, 64, .ro, 0⟩
/-- DEV_ARRAY_MAP, whole (R6). -/
abbrev DEV_ARRAY_MAP.reg : Reg := ⟨DEV_ARRAY_MAP.pos, [DEV_ARRAY_MAP.ENABLED]⟩
/-- DEV_ERR: where it lies (R38). -/
abbrev DEV_ERR.pos : RegPos := ⟨0x8, (.flat 0), 1, 0x0, 1⟩
/-- DEV_ERR.BAD_ACCESS, bit 0, W1C, resets to 0 (R38). -/
abbrev DEV_ERR.BAD_ACCESS : Fld := ⟨DEV_ERR.pos, 0, 1, .w1c, 0⟩
/-- DEV_ERR.UNMAPPED, bit 1, W1C, resets to 0 (R38). -/
abbrev DEV_ERR.UNMAPPED : Fld := ⟨DEV_ERR.pos, 1, 1, .w1c, 0⟩
/-- DEV_ERR.ADDR_HOLE, bit 2, W1C, resets to 0 (R38). -/
abbrev DEV_ERR.ADDR_HOLE : Fld := ⟨DEV_ERR.pos, 2, 1, .w1c, 0⟩
/-- DEV_ERR.MULTIPLE, bit 3, W1C, resets to 0 (R38). -/
abbrev DEV_ERR.MULTIPLE : Fld := ⟨DEV_ERR.pos, 3, 1, .w1c, 0⟩
/-- DEV_ERR.HOLE_SOURCE, bits 26:16, RO, resets to 0 (R38). -/
abbrev DEV_ERR.HOLE_SOURCE : Fld := ⟨DEV_ERR.pos, 16, 11, .ro, 0⟩
/-- DEV_ERR.LAST_OFFSET, bits 55:32, RO, resets to 0 (R38). -/
abbrev DEV_ERR.LAST_OFFSET : Fld := ⟨DEV_ERR.pos, 32, 24, .ro, 0⟩
/-- DEV_ERR, whole (R38). -/
abbrev DEV_ERR.reg : Reg := ⟨DEV_ERR.pos, [DEV_ERR.BAD_ACCESS, DEV_ERR.UNMAPPED, DEV_ERR.ADDR_HOLE, DEV_ERR.MULTIPLE, DEV_ERR.HOLE_SOURCE, DEV_ERR.LAST_OFFSET]⟩
/-- DEV_HOLE_ADDR: where it lies (R39). -/
abbrev DEV_HOLE_ADDR.pos : RegPos := ⟨0x10, (.flat 0), 1, 0x0, 1⟩
/-- DEV_HOLE_ADDR.ADDR, bits 51:0, RO, resets to 0 (R39). -/
abbrev DEV_HOLE_ADDR.ADDR : Fld := ⟨DEV_HOLE_ADDR.pos, 0, 52, .ro, 0⟩
/-- DEV_HOLE_ADDR.WRITE, bit 52, RO, resets to 0 (R39). -/
abbrev DEV_HOLE_ADDR.WRITE : Fld := ⟨DEV_HOLE_ADDR.pos, 52, 1, .ro, 0⟩
/-- DEV_HOLE_ADDR, whole (R39). -/
abbrev DEV_HOLE_ADDR.reg : Reg := ⟨DEV_HOLE_ADDR.pos, [DEV_HOLE_ADDR.ADDR, DEV_HOLE_ADDR.WRITE]⟩
/-- DEV_PINS: where it lies (R396). -/
abbrev DEV_PINS.pos : RegPos := ⟨0x40, (.flat 0), 1, 0x0, 1⟩
/-- DEV_PINS.PERST, bit 0, RO, resets to 0 (R396). -/
abbrev DEV_PINS.PERST : Fld := ⟨DEV_PINS.pos, 0, 1, .ro, 0⟩
/-- DEV_PINS.PWR_GOOD, bit 1, RO, resets to 0 (R396). -/
abbrev DEV_PINS.PWR_GOOD : Fld := ⟨DEV_PINS.pos, 1, 1, .ro, 0⟩
/-- DEV_PINS.TRIPPED, bit 2, RO, resets to 0 (R396). -/
abbrev DEV_PINS.TRIPPED : Fld := ⟨DEV_PINS.pos, 2, 1, .ro, 0⟩
/-- DEV_PINS.ALERT, bit 3, RO, resets to 0 (R396). -/
abbrev DEV_PINS.ALERT : Fld := ⟨DEV_PINS.pos, 3, 1, .ro, 0⟩
/-- DEV_PINS.ADDR_SEL, bits 5:4, RO, resets to 0 (R396). -/
abbrev DEV_PINS.ADDR_SEL : Fld := ⟨DEV_PINS.pos, 4, 2, .ro, 0⟩
/-- DEV_PINS.MGMT_MODE, bit 6, RO, resets to 0 (R396). -/
abbrev DEV_PINS.MGMT_MODE : Fld := ⟨DEV_PINS.pos, 6, 1, .ro, 0⟩
/-- DEV_PINS.SLOWCLK_OK, bit 7, RO, resets to 0 (R396). -/
abbrev DEV_PINS.SLOWCLK_OK : Fld := ⟨DEV_PINS.pos, 7, 1, .ro, 0⟩
/-- DEV_PINS.MOD_PRESENT, bit 8, RO, resets to 0 (R396). -/
abbrev DEV_PINS.MOD_PRESENT : Fld := ⟨DEV_PINS.pos, 8, 1, .ro, 0⟩
/-- DEV_PINS.SRC_EVENT, bit 16, RO, resets to 0 (R396). -/
abbrev DEV_PINS.SRC_EVENT : Fld := ⟨DEV_PINS.pos, 16, 1, .ro, 0⟩
/-- DEV_PINS.SRC_SAG, bit 17, RO, resets to 0 (R396). -/
abbrev DEV_PINS.SRC_SAG : Fld := ⟨DEV_PINS.pos, 17, 1, .ro, 0⟩
/-- DEV_PINS.SRC_TEMP, bit 18, RO, resets to 0 (R396). -/
abbrev DEV_PINS.SRC_TEMP : Fld := ⟨DEV_PINS.pos, 18, 1, .ro, 0⟩
/-- DEV_PINS.SRC_COOL, bit 19, RO, resets to 0 (R396). -/
abbrev DEV_PINS.SRC_COOL : Fld := ⟨DEV_PINS.pos, 19, 1, .ro, 0⟩
/-- DEV_PINS.SRC_MODULE, bit 20, RO, resets to 0 (R396). -/
abbrev DEV_PINS.SRC_MODULE : Fld := ⟨DEV_PINS.pos, 20, 1, .ro, 0⟩
/-- DEV_PINS.SRC_LINK, bit 21, RO, resets to 0 (R396). -/
abbrev DEV_PINS.SRC_LINK : Fld := ⟨DEV_PINS.pos, 21, 1, .ro, 0⟩
/-- DEV_PINS.SRC_FATAL, bit 22, RO, resets to 0 (R396). -/
abbrev DEV_PINS.SRC_FATAL : Fld := ⟨DEV_PINS.pos, 22, 1, .ro, 0⟩
/-- DEV_PINS, whole (R396). -/
abbrev DEV_PINS.reg : Reg := ⟨DEV_PINS.pos, [DEV_PINS.PERST, DEV_PINS.PWR_GOOD, DEV_PINS.TRIPPED, DEV_PINS.ALERT, DEV_PINS.ADDR_SEL, DEV_PINS.MGMT_MODE, DEV_PINS.SLOWCLK_OK, DEV_PINS.MOD_PRESENT, DEV_PINS.SRC_EVENT, DEV_PINS.SRC_SAG, DEV_PINS.SRC_TEMP, DEV_PINS.SRC_COOL, DEV_PINS.SRC_MODULE, DEV_PINS.SRC_LINK, DEV_PINS.SRC_FATAL]⟩
/-- DEV_ALERT_MASK: where it lies (R397). -/
abbrev DEV_ALERT_MASK.pos : RegPos := ⟨0x48, (.flat 0), 1, 0x0, 1⟩
/-- DEV_ALERT_MASK.MASK, bits 6:0, RW, resets to 127 (R397). -/
abbrev DEV_ALERT_MASK.MASK : Fld := ⟨DEV_ALERT_MASK.pos, 0, 7, .rw, 127⟩
/-- DEV_ALERT_MASK, whole (R397). -/
abbrev DEV_ALERT_MASK.reg : Reg := ⟨DEV_ALERT_MASK.pos, [DEV_ALERT_MASK.MASK]⟩
/-- CORE_CTL: where it lies (R126). -/
abbrev CORE_CTL.pos : RegPos := ⟨0x0, (.core 0x800), 256, 0x0, 1⟩
/-- CORE_CTL.CP_RUN, bit 0, RW, resets to 0 (R126). -/
abbrev CORE_CTL.CP_RUN : Fld := ⟨CORE_CTL.pos, 0, 1, .rw, 0⟩
/-- CORE_CTL.LOAD_IMAGE, bit 1, RW, resets to 1 (R126). -/
abbrev CORE_CTL.LOAD_IMAGE : Fld := ⟨CORE_CTL.pos, 1, 1, .rw, 1⟩
/-- CORE_CTL.SEQ_ABORT, bit 2, WO, resets to 0 (R126). -/
abbrev CORE_CTL.SEQ_ABORT : Fld := ⟨CORE_CTL.pos, 2, 1, .wo, 0⟩
/-- CORE_CTL.IMG_GRAN, bits 31:16, RW, resets to 0 (R126). -/
abbrev CORE_CTL.IMG_GRAN : Fld := ⟨CORE_CTL.pos, 16, 16, .rw, 0⟩
/-- CORE_CTL, whole (R126). -/
abbrev CORE_CTL.reg : Reg := ⟨CORE_CTL.pos, [CORE_CTL.CP_RUN, CORE_CTL.LOAD_IMAGE, CORE_CTL.SEQ_ABORT, CORE_CTL.IMG_GRAN]⟩
/-- CORE_STATUS: where it lies (R127). -/
abbrev CORE_STATUS.pos : RegPos := ⟨0x8, (.core 0x800), 256, 0x0, 1⟩
/-- CORE_STATUS.CP_STATE, bits 1:0, RO, resets to 0 (R127). -/
abbrev CORE_STATUS.CP_STATE : Fld := ⟨CORE_STATUS.pos, 0, 2, .ro, 0⟩
/-- CORE_STATUS.CP_PRIV, bit 2, RO, resets to 1 (R127). -/
abbrev CORE_STATUS.CP_PRIV : Fld := ⟨CORE_STATUS.pos, 2, 1, .ro, 1⟩
/-- CORE_STATUS.SEQ_BUSY, bit 3, RO, resets to 0 (R127). -/
abbrev CORE_STATUS.SEQ_BUSY : Fld := ⟨CORE_STATUS.pos, 3, 1, .ro, 0⟩
/-- CORE_STATUS.LQ_FREE, bits 6:4, RO, resets to 4 (R127). -/
abbrev CORE_STATUS.LQ_FREE : Fld := ⟨CORE_STATUS.pos, 4, 3, .ro, 4⟩
/-- CORE_STATUS.MBOX_COUNT, bits 10:7, RO, resets to 0 (R127). -/
abbrev CORE_STATUS.MBOX_COUNT : Fld := ⟨CORE_STATUS.pos, 7, 4, .ro, 0⟩
/-- CORE_STATUS.ARRQ, bits 20:16, RO, resets to 0 (R127). -/
abbrev CORE_STATUS.ARRQ : Fld := ⟨CORE_STATUS.pos, 16, 5, .ro, 0⟩
/-- CORE_STATUS.VECQ, bits 24:21, RO, resets to 0 (R127). -/
abbrev CORE_STATUS.VECQ : Fld := ⟨CORE_STATUS.pos, 21, 4, .ro, 0⟩
/-- CORE_STATUS.DMAQ, bits 29:25, RO, resets to 0 (R127). -/
abbrev CORE_STATUS.DMAQ : Fld := ⟨CORE_STATUS.pos, 25, 5, .ro, 0⟩
/-- CORE_STATUS.SYNCQ, bits 33:30, RO, resets to 0 (R127). -/
abbrev CORE_STATUS.SYNCQ : Fld := ⟨CORE_STATUS.pos, 30, 4, .ro, 0⟩
/-- CORE_STATUS, whole (R127). -/
abbrev CORE_STATUS.reg : Reg := ⟨CORE_STATUS.pos, [CORE_STATUS.CP_STATE, CORE_STATUS.CP_PRIV, CORE_STATUS.SEQ_BUSY, CORE_STATUS.LQ_FREE, CORE_STATUS.MBOX_COUNT, CORE_STATUS.ARRQ, CORE_STATUS.VECQ, CORE_STATUS.DMAQ, CORE_STATUS.SYNCQ]⟩
/-- CORE_FAULT: where it lies (R125). -/
abbrev CORE_FAULT.pos : RegPos := ⟨0x10, (.core 0x800), 256, 0x0, 1⟩
/-- CORE_FAULT.VALID, bit 0, W1C, resets to 0 (R125). -/
abbrev CORE_FAULT.VALID : Fld := ⟨CORE_FAULT.pos, 0, 1, .w1c, 0⟩
/-- CORE_FAULT.MULTIPLE, bit 1, W1C, resets to 0 (R125). -/
abbrev CORE_FAULT.MULTIPLE : Fld := ⟨CORE_FAULT.pos, 1, 1, .w1c, 0⟩
/-- CORE_FAULT.STATUS, bits 15:8, RO, resets to 0 (R125). -/
abbrev CORE_FAULT.STATUS : Fld := ⟨CORE_FAULT.pos, 8, 8, .ro, 0⟩
/-- CORE_FAULT.DETAIL, bits 23:16, RO, resets to 0 (R125). -/
abbrev CORE_FAULT.DETAIL : Fld := ⟨CORE_FAULT.pos, 16, 8, .ro, 0⟩
/-- CORE_FAULT.OPCODE, bits 31:24, RO, resets to 0 (R125). -/
abbrev CORE_FAULT.OPCODE : Fld := ⟨CORE_FAULT.pos, 24, 8, .ro, 0⟩
/-- CORE_FAULT.PC, bits 50:32, RO, resets to 0 (R125). -/
abbrev CORE_FAULT.PC : Fld := ⟨CORE_FAULT.pos, 32, 19, .ro, 0⟩
/-- CORE_FAULT, whole (R125). -/
abbrev CORE_FAULT.reg : Reg := ⟨CORE_FAULT.pos, [CORE_FAULT.VALID, CORE_FAULT.MULTIPLE, CORE_FAULT.STATUS, CORE_FAULT.DETAIL, CORE_FAULT.OPCODE, CORE_FAULT.PC]⟩
/-- LS_ECC: where it lies (R128). -/
abbrev LS_ECC.pos : RegPos := ⟨0x20, (.core 0x800), 256, 0x0, 1⟩
/-- LS_ECC.CORR, bits 23:0, RC, resets to 0 (R128). -/
abbrev LS_ECC.CORR : Fld := ⟨LS_ECC.pos, 0, 24, .rc, 0⟩
/-- LS_ECC.UNCORR, bits 31:24, RC, resets to 0 (R128). -/
abbrev LS_ECC.UNCORR : Fld := ⟨LS_ECC.pos, 24, 8, .rc, 0⟩
/-- LS_ECC.UADDR, bits 53:32, RO, resets to 0 (R128). -/
abbrev LS_ECC.UADDR : Fld := ⟨LS_ECC.pos, 32, 22, .ro, 0⟩
/-- LS_ECC.USPACE, bits 55:54, RO, resets to 0 (R128). -/
abbrev LS_ECC.USPACE : Fld := ⟨LS_ECC.pos, 54, 2, .ro, 0⟩
/-- LS_ECC, whole (R128). -/
abbrev LS_ECC.reg : Reg := ⟨LS_ECC.pos, [LS_ECC.CORR, LS_ECC.UNCORR, LS_ECC.UADDR, LS_ECC.USPACE]⟩
/-- DMA_STATUS: where it lies (R149). -/
abbrev DMA_STATUS.pos : RegPos := ⟨0x600, (.core 0x800), 256, 0x0, 1⟩
/-- DMA_STATUS.HELD, bits 5:0, RO, resets to 0 (R149). -/
abbrev DMA_STATUS.HELD : Fld := ⟨DMA_STATUS.pos, 0, 6, .ro, 0⟩
/-- DMA_STATUS.WBUSY, bit 6, RO, resets to 0 (R149). -/
abbrev DMA_STATUS.WBUSY : Fld := ⟨DMA_STATUS.pos, 6, 1, .ro, 0⟩
/-- DMA_STATUS.IBUSY, bit 7, RO, resets to 0 (R149). -/
abbrev DMA_STATUS.IBUSY : Fld := ⟨DMA_STATUS.pos, 7, 1, .ro, 0⟩
/-- DMA_STATUS.G0BUSY, bit 8, RO, resets to 0 (R149). -/
abbrev DMA_STATUS.G0BUSY : Fld := ⟨DMA_STATUS.pos, 8, 1, .ro, 0⟩
/-- DMA_STATUS.G1BUSY, bit 9, RO, resets to 0 (R149). -/
abbrev DMA_STATUS.G1BUSY : Fld := ⟨DMA_STATUS.pos, 9, 1, .ro, 0⟩
/-- DMA_STATUS.PLANE_TILES, bits 11:10, RO, resets to 0 (R149). -/
abbrev DMA_STATUS.PLANE_TILES : Fld := ⟨DMA_STATUS.pos, 10, 2, .ro, 0⟩
/-- DMA_STATUS.CHK_HELD, bit 12, RO, resets to 0 (R149). -/
abbrev DMA_STATUS.CHK_HELD : Fld := ⟨DMA_STATUS.pos, 12, 1, .ro, 0⟩
/-- DMA_STATUS.CHK_WAIT, bit 13, RO, resets to 0 (R149). -/
abbrev DMA_STATUS.CHK_WAIT : Fld := ⟨DMA_STATUS.pos, 13, 1, .ro, 0⟩
/-- DMA_STATUS, whole (R149). -/
abbrev DMA_STATUS.reg : Reg := ⟨DMA_STATUS.pos, [DMA_STATUS.HELD, DMA_STATUS.WBUSY, DMA_STATUS.IBUSY, DMA_STATUS.G0BUSY, DMA_STATUS.G1BUSY, DMA_STATUS.PLANE_TILES, DMA_STATUS.CHK_HELD, DMA_STATUS.CHK_WAIT]⟩
/-- DMA_ERR: where it lies (R150). -/
abbrev DMA_ERR.pos : RegPos := ⟨0x608, (.core 0x800), 256, 0x0, 1⟩
/-- DMA_ERR.BAD_DESC, bit 0, W1C, resets to 0 (R150). -/
abbrev DMA_ERR.BAD_DESC : Fld := ⟨DMA_ERR.pos, 0, 1, .w1c, 0⟩
/-- DMA_ERR.PERM, bit 1, W1C, resets to 0 (R150). -/
abbrev DMA_ERR.PERM : Fld := ⟨DMA_ERR.pos, 1, 1, .w1c, 0⟩
/-- DMA_ERR.FMT_MISMATCH, bit 2, W1C, resets to 0 (R150). -/
abbrev DMA_ERR.FMT_MISMATCH : Fld := ⟨DMA_ERR.pos, 2, 1, .w1c, 0⟩
/-- DMA_ERR.TERN5_CODE, bit 3, W1C, resets to 0 (R150). -/
abbrev DMA_ERR.TERN5_CODE : Fld := ⟨DMA_ERR.pos, 3, 1, .w1c, 0⟩
/-- DMA_ERR.DATA_ERR, bit 4, W1C, resets to 0 (R150). -/
abbrev DMA_ERR.DATA_ERR : Fld := ⟨DMA_ERR.pos, 4, 1, .w1c, 0⟩
/-- DMA_ERR.MULTIPLE, bit 5, W1C, resets to 0 (R150). -/
abbrev DMA_ERR.MULTIPLE : Fld := ⟨DMA_ERR.pos, 5, 1, .w1c, 0⟩
/-- DMA_ERR.FIRST_GRAN, bits 31:16, RO, resets to 0 (R150). -/
abbrev DMA_ERR.FIRST_GRAN : Fld := ⟨DMA_ERR.pos, 16, 16, .ro, 0⟩
/-- DMA_ERR.FIRST_STATUS, bits 39:32, RO, resets to 0 (R150). -/
abbrev DMA_ERR.FIRST_STATUS : Fld := ⟨DMA_ERR.pos, 32, 8, .ro, 0⟩
/-- DMA_ERR, whole (R150). -/
abbrev DMA_ERR.reg : Reg := ⟨DMA_ERR.pos, [DMA_ERR.BAD_DESC, DMA_ERR.PERM, DMA_ERR.FMT_MISMATCH, DMA_ERR.TERN5_CODE, DMA_ERR.DATA_ERR, DMA_ERR.MULTIPLE, DMA_ERR.FIRST_GRAN, DMA_ERR.FIRST_STATUS]⟩
/-- DMA_CONV: where it lies (R151). -/
abbrev DMA_CONV.pos : RegPos := ⟨0x610, (.core 0x800), 256, 0x0, 1⟩
/-- DMA_CONV.NAN_BLOCK, bits 31:0, RC, resets to 0 (R151). -/
abbrev DMA_CONV.NAN_BLOCK : Fld := ⟨DMA_CONV.pos, 0, 32, .rc, 0⟩
/-- DMA_CONV.CLAMP, bits 63:32, RC, resets to 0 (R151). -/
abbrev DMA_CONV.CLAMP : Fld := ⟨DMA_CONV.pos, 32, 32, .rc, 0⟩
/-- DMA_CONV, whole (R151). -/
abbrev DMA_CONV.reg : Reg := ⟨DMA_CONV.pos, [DMA_CONV.NAN_BLOCK, DMA_CONV.CLAMP]⟩
/-- ARR_CFG: where it lies (R72). -/
abbrev ARR_CFG.pos : RegPos := ⟨0x700, (.core 0x800), 256, 0x0, 1⟩
/-- ARR_CFG.TARGET, bit 0, RW, resets to 0 (R72). -/
abbrev ARR_CFG.TARGET : Fld := ⟨ARR_CFG.pos, 0, 1, .rw, 0⟩
/-- ARR_CFG.TARGET_PENDING, bit 1, RO, resets to 0 (R72). -/
abbrev ARR_CFG.TARGET_PENDING : Fld := ⟨ARR_CFG.pos, 1, 1, .ro, 0⟩
/-- ARR_CFG.STATE_REQ, bit 4, RW, resets to 0 (R72). -/
abbrev ARR_CFG.STATE_REQ : Fld := ⟨ARR_CFG.pos, 4, 1, .rw, 0⟩
/-- ARR_CFG.FAULT_ON_SAT, bit 8, RW, resets to 0 (R72). -/
abbrev ARR_CFG.FAULT_ON_SAT : Fld := ⟨ARR_CFG.pos, 8, 1, .rw, 0⟩
/-- ARR_CFG, whole (R72). -/
abbrev ARR_CFG.reg : Reg := ⟨ARR_CFG.pos, [ARR_CFG.TARGET, ARR_CFG.TARGET_PENDING, ARR_CFG.STATE_REQ, ARR_CFG.FAULT_ON_SAT]⟩
/-- ARR_STATUS: where it lies (R73). -/
abbrev ARR_STATUS.pos : RegPos := ⟨0x708, (.core 0x800), 256, 0x0, 1⟩
/-- ARR_STATUS.ENABLED, bit 0, RO, resets to 0 (R73). -/
abbrev ARR_STATUS.ENABLED : Fld := ⟨ARR_STATUS.pos, 0, 1, .ro, 0⟩
/-- ARR_STATUS.SERVING, bit 1, RO, resets to 0 (R73). -/
abbrev ARR_STATUS.SERVING : Fld := ⟨ARR_STATUS.pos, 1, 1, .ro, 0⟩
/-- ARR_STATUS.STATE, bits 3:2, RO, resets to 0 (R73). -/
abbrev ARR_STATUS.STATE : Fld := ⟨ARR_STATUS.pos, 2, 2, .ro, 0⟩
/-- ARR_STATUS.BUSY, bit 4, RO, resets to 0 (R73). -/
abbrev ARR_STATUS.BUSY : Fld := ⟨ARR_STATUS.pos, 4, 1, .ro, 0⟩
/-- ARR_STATUS.SET0_LOADED, bit 5, RO, resets to 0 (R73). -/
abbrev ARR_STATUS.SET0_LOADED : Fld := ⟨ARR_STATUS.pos, 5, 1, .ro, 0⟩
/-- ARR_STATUS.SET1_LOADED, bit 6, RO, resets to 0 (R73). -/
abbrev ARR_STATUS.SET1_LOADED : Fld := ⟨ARR_STATUS.pos, 6, 1, .ro, 0⟩
/-- ARR_STATUS.HELD, bit 7, RO, resets to 0 (R73). -/
abbrev ARR_STATUS.HELD : Fld := ⟨ARR_STATUS.pos, 7, 1, .ro, 0⟩
/-- ARR_STATUS.OWN_PENDING, bits 11:8, RO, resets to 0 (R73). -/
abbrev ARR_STATUS.OWN_PENDING : Fld := ⟨ARR_STATUS.pos, 8, 4, .ro, 0⟩
/-- ARR_STATUS.PARTNER_PENDING, bits 15:12, RO, resets to 0 (R73). -/
abbrev ARR_STATUS.PARTNER_PENDING : Fld := ⟨ARR_STATUS.pos, 12, 4, .ro, 0⟩
/-- ARR_STATUS, whole (R73). -/
abbrev ARR_STATUS.reg : Reg := ⟨ARR_STATUS.pos, [ARR_STATUS.ENABLED, ARR_STATUS.SERVING, ARR_STATUS.STATE, ARR_STATUS.BUSY, ARR_STATUS.SET0_LOADED, ARR_STATUS.SET1_LOADED, ARR_STATUS.HELD, ARR_STATUS.OWN_PENDING, ARR_STATUS.PARTNER_PENDING]⟩
/-- ARR_ERR: where it lies (R74). -/
abbrev ARR_ERR.pos : RegPos := ⟨0x710, (.core 0x800), 256, 0x0, 1⟩
/-- ARR_ERR.SAT, bit 0, W1C, resets to 0 (R74). -/
abbrev ARR_ERR.SAT : Fld := ⟨ARR_ERR.pos, 0, 1, .w1c, 0⟩
/-- ARR_ERR.NAN, bit 1, W1C, resets to 0 (R74). -/
abbrev ARR_ERR.NAN : Fld := ⟨ARR_ERR.pos, 1, 1, .w1c, 0⟩
/-- ARR_ERR.WPARITY, bit 2, W1C, resets to 0 (R74). -/
abbrev ARR_ERR.WPARITY : Fld := ⟨ARR_ERR.pos, 2, 1, .w1c, 0⟩
/-- ARR_ERR.IN_POISON, bit 3, W1C, resets to 0 (R74). -/
abbrev ARR_ERR.IN_POISON : Fld := ⟨ARR_ERR.pos, 3, 1, .w1c, 0⟩
/-- ARR_ERR.BAD_CMD, bit 4, W1C, resets to 0 (R74). -/
abbrev ARR_ERR.BAD_CMD : Fld := ⟨ARR_ERR.pos, 4, 1, .w1c, 0⟩
/-- ARR_ERR.UNAVAILABLE, bit 5, W1C, resets to 0 (R74). -/
abbrev ARR_ERR.UNAVAILABLE : Fld := ⟨ARR_ERR.pos, 5, 1, .w1c, 0⟩
/-- ARR_ERR.CFG_CONFLICT, bit 6, W1C, resets to 0 (R74). -/
abbrev ARR_ERR.CFG_CONFLICT : Fld := ⟨ARR_ERR.pos, 6, 1, .w1c, 0⟩
/-- ARR_ERR.MULTIPLE, bit 7, W1C, resets to 0 (R74). -/
abbrev ARR_ERR.MULTIPLE : Fld := ⟨ARR_ERR.pos, 7, 1, .w1c, 0⟩
/-- ARR_ERR.FIRST_SLOT, bits 22:16, RO, resets to 0 (R74). -/
abbrev ARR_ERR.FIRST_SLOT : Fld := ⟨ARR_ERR.pos, 16, 7, .ro, 0⟩
/-- ARR_ERR.FIRST_BANK, bit 23, RO, resets to 0 (R74). -/
abbrev ARR_ERR.FIRST_BANK : Fld := ⟨ARR_ERR.pos, 23, 1, .ro, 0⟩
/-- ARR_ERR, whole (R74). -/
abbrev ARR_ERR.reg : Reg := ⟨ARR_ERR.pos, [ARR_ERR.SAT, ARR_ERR.NAN, ARR_ERR.WPARITY, ARR_ERR.IN_POISON, ARR_ERR.BAD_CMD, ARR_ERR.UNAVAILABLE, ARR_ERR.CFG_CONFLICT, ARR_ERR.MULTIPLE, ARR_ERR.FIRST_SLOT, ARR_ERR.FIRST_BANK]⟩
/-- ARR_RENORM: where it lies (R75). -/
abbrev ARR_RENORM.pos : RegPos := ⟨0x718, (.core 0x800), 256, 0x0, 1⟩
/-- ARR_RENORM.COUNT, bits 31:0, RC, resets to 0 (R75). -/
abbrev ARR_RENORM.COUNT : Fld := ⟨ARR_RENORM.pos, 0, 32, .rc, 0⟩
/-- ARR_RENORM, whole (R75). -/
abbrev ARR_RENORM.reg : Reg := ⟨ARR_RENORM.pos, [ARR_RENORM.COUNT]⟩
/-- ARR_STALL: where it lies (R76). -/
abbrev ARR_STALL.pos : RegPos := ⟨0x720, (.core 0x800), 256, 0x0, 1⟩
/-- ARR_STALL.LOAD_STALL, bits 31:0, RC, resets to 0 (R76). -/
abbrev ARR_STALL.LOAD_STALL : Fld := ⟨ARR_STALL.pos, 0, 32, .rc, 0⟩
/-- ARR_STALL.INPUT_STALL, bits 63:32, RC, resets to 0 (R76). -/
abbrev ARR_STALL.INPUT_STALL : Fld := ⟨ARR_STALL.pos, 32, 32, .rc, 0⟩
/-- ARR_STALL, whole (R76). -/
abbrev ARR_STALL.reg : Reg := ⟨ARR_STALL.pos, [ARR_STALL.LOAD_STALL, ARR_STALL.INPUT_STALL]⟩
/-- DXMCTL: where it lies (R114). -/
abbrev DXMCTL.pos : RegPos := ⟨0x1000000, (.flat 0x100), 256, 0x0, 1⟩
/-- DXMCTL.USER_SEQ, bit 0, RW, resets to 0 (R114). -/
abbrev DXMCTL.USER_SEQ : Fld := ⟨DXMCTL.pos, 0, 1, .rw, 0⟩
/-- DXMCTL.USER_GATES, bit 1, RW, resets to 0 (R114). -/
abbrev DXMCTL.USER_GATES : Fld := ⟨DXMCTL.pos, 1, 1, .rw, 0⟩
/-- DXMCTL.PERF_USER, bit 2, RW, resets to 0 (R114). -/
abbrev DXMCTL.PERF_USER : Fld := ⟨DXMCTL.pos, 2, 1, .rw, 0⟩
/-- DXMCTL.DIRECT_EN, bit 3, RW, resets to 0 (R114). -/
abbrev DXMCTL.DIRECT_EN : Fld := ⟨DXMCTL.pos, 3, 1, .rw, 0⟩
/-- DXMCTL.USER_POST, bit 4, RW, resets to 0 (R114). -/
abbrev DXMCTL.USER_POST : Fld := ⟨DXMCTL.pos, 4, 1, .rw, 0⟩
/-- DXMCTL.LAUNCH_LOST, bit 5, W1C, resets to 0 (R114). -/
abbrev DXMCTL.LAUNCH_LOST : Fld := ⟨DXMCTL.pos, 5, 1, .w1c, 0⟩
/-- DXMCTL.RETIRE_LOST, bit 6, W1C, resets to 0 (R114). -/
abbrev DXMCTL.RETIRE_LOST : Fld := ⟨DXMCTL.pos, 6, 1, .w1c, 0⟩
/-- DXMCTL, whole (R114). -/
abbrev DXMCTL.reg : Reg := ⟨DXMCTL.pos, [DXMCTL.USER_SEQ, DXMCTL.USER_GATES, DXMCTL.PERF_USER, DXMCTL.DIRECT_EN, DXMCTL.USER_POST, DXMCTL.LAUNCH_LOST, DXMCTL.RETIRE_LOST]⟩
/-- DXUWIN: where it lies (R115). -/
abbrev DXUWIN.pos : RegPos := ⟨0x1000008, (.flat 0x100), 256, 0x8, 4⟩
/-- DXUWIN.EN, bit 0, RW, resets to 0 (R115). -/
abbrev DXUWIN.EN : Fld := ⟨DXUWIN.pos, 0, 1, .rw, 0⟩
/-- DXUWIN.WRITE, bit 1, RW, resets to 0 (R115). -/
abbrev DXUWIN.WRITE : Fld := ⟨DXUWIN.pos, 1, 1, .rw, 0⟩
/-- DXUWIN.LOG2SIZE, bits 7:2, RW, resets to 0 (R115). -/
abbrev DXUWIN.LOG2SIZE : Fld := ⟨DXUWIN.pos, 2, 6, .rw, 0⟩
/-- DXUWIN.BASE, bits 51:20, RW, resets to 0 (R115). -/
abbrev DXUWIN.BASE : Fld := ⟨DXUWIN.pos, 20, 32, .rw, 0⟩
/-- DXUWIN, whole (R115). -/
abbrev DXUWIN.reg : Reg := ⟨DXUWIN.pos, [DXUWIN.EN, DXUWIN.WRITE, DXUWIN.LOG2SIZE, DXUWIN.BASE]⟩
/-- PERF_CYCLE: where it lies (R533). -/
abbrev PERF_CYCLE.pos : RegPos := ⟨0x4000, (.core 0x200), 256, 0x0, 1⟩
/-- PERF_CYCLE.CYCLES, bits 63:0, RO, resets to 0 (R533). -/
abbrev PERF_CYCLE.CYCLES : Fld := ⟨PERF_CYCLE.pos, 0, 64, .ro, 0⟩
/-- PERF_CYCLE, whole (R533). -/
abbrev PERF_CYCLE.reg : Reg := ⟨PERF_CYCLE.pos, [PERF_CYCLE.CYCLES]⟩
/-- PERF_CTL: where it lies (R534). -/
abbrev PERF_CTL.pos : RegPos := ⟨0x4010, (.core 0x200), 256, 0x8, 6⟩
/-- PERF_CTL.EVENT, bits 7:0, RW, resets to 0 (R534). -/
abbrev PERF_CTL.EVENT : Fld := ⟨PERF_CTL.pos, 0, 8, .rw, 0⟩
/-- PERF_CTL.EN, bit 8, RW, resets to 0 (R534). -/
abbrev PERF_CTL.EN : Fld := ⟨PERF_CTL.pos, 8, 1, .rw, 0⟩
/-- PERF_CTL.IRQ, bit 9, RW, resets to 0 (R534). -/
abbrev PERF_CTL.IRQ : Fld := ⟨PERF_CTL.pos, 9, 1, .rw, 0⟩
/-- PERF_CTL.SAMPLE, bit 10, RW, resets to 0 (R534). -/
abbrev PERF_CTL.SAMPLE : Fld := ⟨PERF_CTL.pos, 10, 1, .rw, 0⟩
/-- PERF_CTL, whole (R534). -/
abbrev PERF_CTL.reg : Reg := ⟨PERF_CTL.pos, [PERF_CTL.EVENT, PERF_CTL.EN, PERF_CTL.IRQ, PERF_CTL.SAMPLE]⟩
/-- PERF_CNT: where it lies (R535). -/
abbrev PERF_CNT.pos : RegPos := ⟨0x4040, (.core 0x200), 256, 0x8, 6⟩
/-- PERF_CNT.COUNT, bits 47:0, RW, resets to 0 (R535). -/
abbrev PERF_CNT.COUNT : Fld := ⟨PERF_CNT.pos, 0, 48, .rw, 0⟩
/-- PERF_CNT, whole (R535). -/
abbrev PERF_CNT.reg : Reg := ⟨PERF_CNT.pos, [PERF_CNT.COUNT]⟩
/-- PERF_OVF: where it lies (R536). -/
abbrev PERF_OVF.pos : RegPos := ⟨0x4070, (.core 0x200), 256, 0x0, 1⟩
/-- PERF_OVF.OVF, bits 5:0, W1C, resets to 0 (R536). -/
abbrev PERF_OVF.OVF : Fld := ⟨PERF_OVF.pos, 0, 6, .w1c, 0⟩
/-- PERF_OVF, whole (R536). -/
abbrev PERF_OVF.reg : Reg := ⟨PERF_OVF.pos, [PERF_OVF.OVF]⟩
/-- PERF_SAMPLE: where it lies (R537). -/
abbrev PERF_SAMPLE.pos : RegPos := ⟨0x4078, (.core 0x200), 256, 0x0, 1⟩
/-- PERF_SAMPLE.VALID, bit 0, W1C, resets to 0 (R537). -/
abbrev PERF_SAMPLE.VALID : Fld := ⟨PERF_SAMPLE.pos, 0, 1, .w1c, 0⟩
/-- PERF_SAMPLE.CNT, bits 3:1, RO, resets to 0 (R537). -/
abbrev PERF_SAMPLE.CNT : Fld := ⟨PERF_SAMPLE.pos, 1, 3, .ro, 0⟩
/-- PERF_SAMPLE.OPCODE, bits 15:8, RO, resets to 0 (R537). -/
abbrev PERF_SAMPLE.OPCODE : Fld := ⟨PERF_SAMPLE.pos, 8, 8, .ro, 0⟩
/-- PERF_SAMPLE.PC, bits 34:16, RO, resets to 0 (R537). -/
abbrev PERF_SAMPLE.PC : Fld := ⟨PERF_SAMPLE.pos, 16, 19, .ro, 0⟩
/-- PERF_SAMPLE, whole (R537). -/
abbrev PERF_SAMPLE.reg : Reg := ⟨PERF_SAMPLE.pos, [PERF_SAMPLE.VALID, PERF_SAMPLE.CNT, PERF_SAMPLE.OPCODE, PERF_SAMPLE.PC]⟩
/-- SLC_CFG: where it lies (R176). -/
abbrev SLC_CFG.pos : RegPos := ⟨0x6000, (.core 0x400), 256, 0x0, 1⟩
/-- SLC_CFG.DETECT_EN, bit 0, RWL, resets to 1 (R176). -/
abbrev SLC_CFG.DETECT_EN : Fld := ⟨SLC_CFG.pos, 0, 1, .rwl, 1⟩
/-- SLC_CFG.AUTO_NARROW, bit 1, RWL, resets to 1 (R176). -/
abbrev SLC_CFG.AUTO_NARROW : Fld := ⟨SLC_CFG.pos, 1, 1, .rwl, 1⟩
/-- SLC_CFG.FORCE_NARROW, bit 2, RWL, resets to 0 (R176). -/
abbrev SLC_CFG.FORCE_NARROW : Fld := ⟨SLC_CFG.pos, 2, 1, .rwl, 0⟩
/-- SLC_CFG.HALF_SEL, bit 3, RWL, resets to 0 (R176). -/
abbrev SLC_CFG.HALF_SEL : Fld := ⟨SLC_CFG.pos, 3, 1, .rwl, 0⟩
/-- SLC_CFG.TRACK_CLEAR, bit 4, WO, resets to 0 (R176). -/
abbrev SLC_CFG.TRACK_CLEAR : Fld := ⟨SLC_CFG.pos, 4, 1, .wo, 0⟩
/-- SLC_CFG.BAND_FLOOR, bits 6:5, RWL, resets to 0 (R176). -/
abbrev SLC_CFG.BAND_FLOOR : Fld := ⟨SLC_CFG.pos, 5, 2, .rwl, 0⟩
/-- SLC_CFG, whole (R176). -/
abbrev SLC_CFG.reg : Reg := ⟨SLC_CFG.pos, [SLC_CFG.DETECT_EN, SLC_CFG.AUTO_NARROW, SLC_CFG.FORCE_NARROW, SLC_CFG.HALF_SEL, SLC_CFG.TRACK_CLEAR, SLC_CFG.BAND_FLOOR]⟩
/-- SLC_STATUS: where it lies (R177). -/
abbrev SLC_STATUS.pos : RegPos := ⟨0x6008, (.core 0x400), 256, 0x0, 1⟩
/-- SLC_STATUS.BAND, bits 1:0, RO, resets to 0 (R177). -/
abbrev SLC_STATUS.BAND : Fld := ⟨SLC_STATUS.pos, 0, 2, .ro, 0⟩
/-- SLC_STATUS.HOLD4X, bit 2, RO, resets to 0 (R177). -/
abbrev SLC_STATUS.HOLD4X : Fld := ⟨SLC_STATUS.pos, 2, 1, .ro, 0⟩
/-- SLC_STATUS.MODE, bits 4:3, RO, resets to 0 (R177). -/
abbrev SLC_STATUS.MODE : Fld := ⟨SLC_STATUS.pos, 3, 2, .ro, 0⟩
/-- SLC_STATUS.HALF, bit 5, RO, resets to 0 (R177). -/
abbrev SLC_STATUS.HALF : Fld := ⟨SLC_STATUS.pos, 5, 1, .ro, 0⟩
/-- SLC_STATUS.DEGRADED, bit 6, RO, resets to 0 (R177). -/
abbrev SLC_STATUS.DEGRADED : Fld := ⟨SLC_STATUS.pos, 6, 1, .ro, 0⟩
/-- SLC_STATUS.ROWQ, bits 13:8, RO, resets to 0 (R177). -/
abbrev SLC_STATUS.ROWQ : Fld := ⟨SLC_STATUS.pos, 8, 6, .ro, 0⟩
/-- SLC_STATUS.NETQ, bits 20:14, RO, resets to 0 (R177). -/
abbrev SLC_STATUS.NETQ : Fld := ⟨SLC_STATUS.pos, 14, 7, .ro, 0⟩
/-- SLC_STATUS.WBQ, bits 25:21, RO, resets to 0 (R177). -/
abbrev SLC_STATUS.WBQ : Fld := ⟨SLC_STATUS.pos, 21, 5, .ro, 0⟩
/-- SLC_STATUS.REF_DEBT, bits 29:26, RO, resets to 0 (R177). -/
abbrev SLC_STATUS.REF_DEBT : Fld := ⟨SLC_STATUS.pos, 26, 4, .ro, 0⟩
/-- SLC_STATUS.WINDOW, bits 34:30, RO, resets to 27 (R177). -/
abbrev SLC_STATUS.WINDOW : Fld := ⟨SLC_STATUS.pos, 30, 5, .ro, 27⟩
/-- SLC_STATUS, whole (R177). -/
abbrev SLC_STATUS.reg : Reg := ⟨SLC_STATUS.pos, [SLC_STATUS.BAND, SLC_STATUS.HOLD4X, SLC_STATUS.MODE, SLC_STATUS.HALF, SLC_STATUS.DEGRADED, SLC_STATUS.ROWQ, SLC_STATUS.NETQ, SLC_STATUS.WBQ, SLC_STATUS.REF_DEBT, SLC_STATUS.WINDOW]⟩
/-- SLC_ERR: where it lies (R178). -/
abbrev SLC_ERR.pos : RegPos := ⟨0x6010, (.core 0x400), 256, 0x0, 1⟩
/-- SLC_ERR.STUCK, bit 0, W1C, resets to 0 (R178). -/
abbrev SLC_ERR.STUCK : Fld := ⟨SLC_ERR.pos, 0, 1, .w1c, 0⟩
/-- SLC_ERR.NARROW, bit 1, W1C, resets to 0 (R178). -/
abbrev SLC_ERR.NARROW : Fld := ⟨SLC_ERR.pos, 1, 1, .w1c, 0⟩
/-- SLC_ERR.DEGRADED, bit 2, W1C, resets to 0 (R178). -/
abbrev SLC_ERR.DEGRADED : Fld := ⟨SLC_ERR.pos, 2, 1, .w1c, 0⟩
/-- SLC_ERR.COLLISION, bit 3, W1C, resets to 0 (R178). -/
abbrev SLC_ERR.COLLISION : Fld := ⟨SLC_ERR.pos, 3, 1, .w1c, 0⟩
/-- SLC_ERR.MULTIPLE, bit 4, W1C, resets to 0 (R178). -/
abbrev SLC_ERR.MULTIPLE : Fld := ⟨SLC_ERR.pos, 4, 1, .w1c, 0⟩
/-- SLC_ERR, whole (R178). -/
abbrev SLC_ERR.reg : Reg := ⟨SLC_ERR.pos, [SLC_ERR.STUCK, SLC_ERR.NARROW, SLC_ERR.DEGRADED, SLC_ERR.COLLISION, SLC_ERR.MULTIPLE]⟩
/-- SLC_STUCK: where it lies (R179). -/
abbrev SLC_STUCK.pos : RegPos := ⟨0x6018, (.core 0x400), 256, 0x0, 1⟩
/-- SLC_STUCK.CONN, bits 13:0, RO, resets to 0 (R179). -/
abbrev SLC_STUCK.CONN : Fld := ⟨SLC_STUCK.pos, 0, 14, .ro, 0⟩
/-- SLC_STUCK.LAYER_MIN, bits 19:16, RO, resets to 0 (R179). -/
abbrev SLC_STUCK.LAYER_MIN : Fld := ⟨SLC_STUCK.pos, 16, 4, .ro, 0⟩
/-- SLC_STUCK.DEAD_H0, bits 31:24, RO, resets to 0 (R179). -/
abbrev SLC_STUCK.DEAD_H0 : Fld := ⟨SLC_STUCK.pos, 24, 8, .ro, 0⟩
/-- SLC_STUCK.DEAD_H1, bits 39:32, RO, resets to 0 (R179). -/
abbrev SLC_STUCK.DEAD_H1 : Fld := ⟨SLC_STUCK.pos, 32, 8, .ro, 0⟩
/-- SLC_STUCK, whole (R179). -/
abbrev SLC_STUCK.reg : Reg := ⟨SLC_STUCK.pos, [SLC_STUCK.CONN, SLC_STUCK.LAYER_MIN, SLC_STUCK.DEAD_H0, SLC_STUCK.DEAD_H1]⟩
/-- SLC_TRACKMISS: where it lies (R180). -/
abbrev SLC_TRACKMISS.pos : RegPos := ⟨0x6020, (.core 0x400), 256, 0x0, 1⟩
/-- SLC_TRACKMISS.COUNT, bits 31:0, RC, resets to 0 (R180). -/
abbrev SLC_TRACKMISS.COUNT : Fld := ⟨SLC_TRACKMISS.pos, 0, 32, .rc, 0⟩
/-- SLC_TRACKMISS, whole (R180). -/
abbrev SLC_TRACKMISS.reg : Reg := ⟨SLC_TRACKMISS.pos, [SLC_TRACKMISS.COUNT]⟩
/-- BSU_CFG: where it lies (R204). -/
abbrev BSU_CFG.pos : RegPos := ⟨0x8000, (.core 0x400), 256, 0x0, 1⟩
/-- BSU_CFG.MODE, bits 1:0, RW, resets to 0 (R204). -/
abbrev BSU_CFG.MODE : Fld := ⟨BSU_CFG.pos, 0, 2, .rw, 0⟩
/-- BSU_CFG.SB_OFF, bit 2, RWL, resets to 0 (R204). -/
abbrev BSU_CFG.SB_OFF : Fld := ⟨BSU_CFG.pos, 2, 1, .rwl, 0⟩
/-- BSU_CFG.STALL_LIMIT, bits 15:8, RW, resets to 10 (R204). -/
abbrev BSU_CFG.STALL_LIMIT : Fld := ⟨BSU_CFG.pos, 8, 8, .rw, 10⟩
/-- BSU_CFG.UNIT_CAP, bits 21:16, RW, resets to 0 (R204). -/
abbrev BSU_CFG.UNIT_CAP : Fld := ⟨BSU_CFG.pos, 16, 6, .rw, 0⟩
/-- BSU_CFG, whole (R204). -/
abbrev BSU_CFG.reg : Reg := ⟨BSU_CFG.pos, [BSU_CFG.MODE, BSU_CFG.SB_OFF, BSU_CFG.STALL_LIMIT, BSU_CFG.UNIT_CAP]⟩
/-- BSU_STATUS: where it lies (R205). -/
abbrev BSU_STATUS.pos : RegPos := ⟨0x8008, (.core 0x400), 256, 0x0, 1⟩
/-- BSU_STATUS.STATE, bits 1:0, RO, resets to 0 (R205). -/
abbrev BSU_STATUS.STATE : Fld := ⟨BSU_STATUS.pos, 0, 2, .ro, 0⟩
/-- BSU_STATUS.HALT_WHY, bits 3:2, RO, resets to 0 (R205). -/
abbrev BSU_STATUS.HALT_WHY : Fld := ⟨BSU_STATUS.pos, 2, 2, .ro, 0⟩
/-- BSU_STATUS.BQ, bits 8:4, RO, resets to 0 (R205). -/
abbrev BSU_STATUS.BQ : Fld := ⟨BSU_STATUS.pos, 4, 5, .ro, 0⟩
/-- BSU_STATUS.ACTIVE, bits 14:9, RO, resets to 0 (R205). -/
abbrev BSU_STATUS.ACTIVE : Fld := ⟨BSU_STATUS.pos, 9, 6, .ro, 0⟩
/-- BSU_STATUS.LIMIT, bits 20:15, RO, resets to 0 (R205). -/
abbrev BSU_STATUS.LIMIT : Fld := ⟨BSU_STATUS.pos, 15, 6, .ro, 0⟩
/-- BSU_STATUS.ESCALATED, bit 21, RO, resets to 0 (R205). -/
abbrev BSU_STATUS.ESCALATED : Fld := ⟨BSU_STATUS.pos, 21, 1, .ro, 0⟩
/-- BSU_STATUS, whole (R205). -/
abbrev BSU_STATUS.reg : Reg := ⟨BSU_STATUS.pos, [BSU_STATUS.STATE, BSU_STATUS.HALT_WHY, BSU_STATUS.BQ, BSU_STATUS.ACTIVE, BSU_STATUS.LIMIT, BSU_STATUS.ESCALATED]⟩
/-- BSU_ERR: where it lies (R206). -/
abbrev BSU_ERR.pos : RegPos := ⟨0x8010, (.core 0x400), 256, 0x0, 1⟩
/-- BSU_ERR.IN_POISON, bit 0, W1C, resets to 0 (R206). -/
abbrev BSU_ERR.IN_POISON : Fld := ⟨BSU_ERR.pos, 0, 1, .w1c, 0⟩
/-- BSU_ERR.IN_UNCORR, bit 1, W1C, resets to 0 (R206). -/
abbrev BSU_ERR.IN_UNCORR : Fld := ⟨BSU_ERR.pos, 1, 1, .w1c, 0⟩
/-- BSU_ERR.ADDR_MISMATCH, bit 2, W1C, resets to 0 (R206). -/
abbrev BSU_ERR.ADDR_MISMATCH : Fld := ⟨BSU_ERR.pos, 2, 1, .w1c, 0⟩
/-- BSU_ERR.VIOLATION, bit 3, W1C, resets to 0 (R206). -/
abbrev BSU_ERR.VIOLATION : Fld := ⟨BSU_ERR.pos, 3, 1, .w1c, 0⟩
/-- BSU_ERR.BAD_CMD, bit 4, W1C, resets to 0 (R206). -/
abbrev BSU_ERR.BAD_CMD : Fld := ⟨BSU_ERR.pos, 4, 1, .w1c, 0⟩
/-- BSU_ERR.STALLED, bit 5, W1C, resets to 0 (R206). -/
abbrev BSU_ERR.STALLED : Fld := ⟨BSU_ERR.pos, 5, 1, .w1c, 0⟩
/-- BSU_ERR.MULTIPLE, bit 6, W1C, resets to 0 (R206). -/
abbrev BSU_ERR.MULTIPLE : Fld := ⟨BSU_ERR.pos, 6, 1, .w1c, 0⟩
/-- BSU_ERR.FIRST_ROW, bits 50:32, RO, resets to 0 (R206). -/
abbrev BSU_ERR.FIRST_ROW : Fld := ⟨BSU_ERR.pos, 32, 19, .ro, 0⟩
/-- BSU_ERR, whole (R206). -/
abbrev BSU_ERR.reg : Reg := ⟨BSU_ERR.pos, [BSU_ERR.IN_POISON, BSU_ERR.IN_UNCORR, BSU_ERR.ADDR_MISMATCH, BSU_ERR.VIOLATION, BSU_ERR.BAD_CMD, BSU_ERR.STALLED, BSU_ERR.MULTIPLE, BSU_ERR.FIRST_ROW]⟩
/-- BSU_BANKFLAG: where it lies (R207). -/
abbrev BSU_BANKFLAG.pos : RegPos := ⟨0x8018, (.core 0x400), 256, 0x8, 3⟩
/-- BSU_BANKFLAG.FLAG, bits 63:0, W1C, resets to 0 (R207). -/
abbrev BSU_BANKFLAG.FLAG : Fld := ⟨BSU_BANKFLAG.pos, 0, 64, .w1c, 0⟩
/-- BSU_BANKFLAG, whole (R207). -/
abbrev BSU_BANKFLAG.reg : Reg := ⟨BSU_BANKFLAG.pos, [BSU_BANKFLAG.FLAG]⟩
/-- BSU_COUNT: where it lies (R208). -/
abbrev BSU_COUNT.pos : RegPos := ⟨0x8030, (.core 0x400), 256, 0x0, 1⟩
/-- BSU_COUNT.OPS, bits 31:0, RC, resets to 0 (R208). -/
abbrev BSU_COUNT.OPS : Fld := ⟨BSU_COUNT.pos, 0, 32, .rc, 0⟩
/-- BSU_COUNT.CORR, bits 47:32, RC, resets to 0 (R208). -/
abbrev BSU_COUNT.CORR : Fld := ⟨BSU_COUNT.pos, 32, 16, .rc, 0⟩
/-- BSU_COUNT.VIOL, bits 63:48, RC, resets to 0 (R208). -/
abbrev BSU_COUNT.VIOL : Fld := ⟨BSU_COUNT.pos, 48, 16, .rc, 0⟩
/-- BSU_COUNT, whole (R208). -/
abbrev BSU_COUNT.reg : Reg := ⟨BSU_COUNT.pos, [BSU_COUNT.OPS, BSU_COUNT.CORR, BSU_COUNT.VIOL]⟩
/-- BSU_CMD: where it lies (R209). -/
abbrev BSU_CMD.pos : RegPos := ⟨0x8040, (.core 0x400), 256, 0x8, 4⟩
/-- BSU_CMD.BYTES, bits 63:0, WO, resets to 0 (R209). -/
abbrev BSU_CMD.BYTES : Fld := ⟨BSU_CMD.pos, 0, 64, .wo, 0⟩
/-- BSU_CMD, whole (R209). -/
abbrev BSU_CMD.reg : Reg := ⟨BSU_CMD.pos, [BSU_CMD.BYTES]⟩
/-- BSU_CMDST: where it lies (R210). -/
abbrev BSU_CMDST.pos : RegPos := ⟨0x8060, (.core 0x400), 256, 0x0, 1⟩
/-- BSU_CMDST.VALID, bit 0, RC, resets to 0 (R210). -/
abbrev BSU_CMDST.VALID : Fld := ⟨BSU_CMDST.pos, 0, 1, .rc, 0⟩
/-- BSU_CMDST.LOST, bit 1, W1C, resets to 0 (R210). -/
abbrev BSU_CMDST.LOST : Fld := ⟨BSU_CMDST.pos, 1, 1, .w1c, 0⟩
/-- BSU_CMDST.PENDING, bit 2, RO, resets to 0 (R210). -/
abbrev BSU_CMDST.PENDING : Fld := ⟨BSU_CMDST.pos, 2, 1, .ro, 0⟩
/-- BSU_CMDST.STATUS, bits 15:8, RO, resets to 0 (R210). -/
abbrev BSU_CMDST.STATUS : Fld := ⟨BSU_CMDST.pos, 8, 8, .ro, 0⟩
/-- BSU_CMDST.DONE, bits 28:16, RO, resets to 0 (R210). -/
abbrev BSU_CMDST.DONE : Fld := ⟨BSU_CMDST.pos, 16, 13, .ro, 0⟩
/-- BSU_CMDST.TAG, bits 63:32, RO, resets to 0 (R210). -/
abbrev BSU_CMDST.TAG : Fld := ⟨BSU_CMDST.pos, 32, 32, .ro, 0⟩
/-- BSU_CMDST, whole (R210). -/
abbrev BSU_CMDST.reg : Reg := ⟨BSU_CMDST.pos, [BSU_CMDST.VALID, BSU_CMDST.LOST, BSU_CMDST.PENDING, BSU_CMDST.STATUS, BSU_CMDST.DONE, BSU_CMDST.TAG]⟩
/-- PGW_CFG: where it lies (R274). -/
abbrev PGW_CFG.pos : RegPos := ⟨0xA000, .cluster, 32, 0x0, 1⟩
/-- PGW_CFG.LAB_EN, bit 0, RW, resets to 1 (R274). -/
abbrev PGW_CFG.LAB_EN : Fld := ⟨PGW_CFG.pos, 0, 1, .rw, 1⟩
/-- PGW_CFG.SKIP_EN, bit 1, RW, resets to 1 (R274). -/
abbrev PGW_CFG.SKIP_EN : Fld := ⟨PGW_CFG.pos, 1, 1, .rw, 1⟩
/-- PGW_CFG.LAB_INV, bit 2, WO, resets to 0 (R274). -/
abbrev PGW_CFG.LAB_INV : Fld := ⟨PGW_CFG.pos, 2, 1, .wo, 0⟩
/-- PGW_CFG, whole (R274). -/
abbrev PGW_CFG.reg : Reg := ⟨PGW_CFG.pos, [PGW_CFG.LAB_EN, PGW_CFG.SKIP_EN, PGW_CFG.LAB_INV]⟩
/-- PGW_STATUS: where it lies (R275). -/
abbrev PGW_STATUS.pos : RegPos := ⟨0xA008, .cluster, 32, 0x0, 1⟩
/-- PGW_STATUS.PHASE, bits 2:0, RO, resets to 0 (R275). -/
abbrev PGW_STATUS.PHASE : Fld := ⟨PGW_STATUS.pos, 0, 3, .ro, 0⟩
/-- PGW_STATUS.SLOT, bits 6:3, RO, resets to 0 (R275). -/
abbrev PGW_STATUS.SLOT : Fld := ⟨PGW_STATUS.pos, 3, 4, .ro, 0⟩
/-- PGW_STATUS.LAB_VALID, bits 17:8, RO, resets to 0 (R275). -/
abbrev PGW_STATUS.LAB_VALID : Fld := ⟨PGW_STATUS.pos, 8, 10, .ro, 0⟩
/-- PGW_STATUS.WALKS, bits 20:18, RO, resets to 0 (R275). -/
abbrev PGW_STATUS.WALKS : Fld := ⟨PGW_STATUS.pos, 18, 3, .ro, 0⟩
/-- PGW_STATUS, whole (R275). -/
abbrev PGW_STATUS.reg : Reg := ⟨PGW_STATUS.pos, [PGW_STATUS.PHASE, PGW_STATUS.SLOT, PGW_STATUS.LAB_VALID, PGW_STATUS.WALKS]⟩
/-- PGW_ERR: where it lies (R276). -/
abbrev PGW_ERR.pos : RegPos := ⟨0xA010, .cluster, 32, 0x0, 1⟩
/-- PGW_ERR.PTE_INVALID, bit 0, W1C, resets to 0 (R276). -/
abbrev PGW_ERR.PTE_INVALID : Fld := ⟨PGW_ERR.pos, 0, 1, .w1c, 0⟩
/-- PGW_ERR.PTE_MISPLACED, bit 1, W1C, resets to 0 (R276). -/
abbrev PGW_ERR.PTE_MISPLACED : Fld := ⟨PGW_ERR.pos, 1, 1, .w1c, 0⟩
/-- PGW_ERR.DIR_INVALID, bit 2, W1C, resets to 0 (R276). -/
abbrev PGW_ERR.DIR_INVALID : Fld := ⟨PGW_ERR.pos, 2, 1, .w1c, 0⟩
/-- PGW_ERR.PT_POISON, bit 3, W1C, resets to 0 (R276). -/
abbrev PGW_ERR.PT_POISON : Fld := ⟨PGW_ERR.pos, 3, 1, .w1c, 0⟩
/-- PGW_ERR.APPEND_REFUSED, bit 4, W1C, resets to 0 (R276). -/
abbrev PGW_ERR.APPEND_REFUSED : Fld := ⟨PGW_ERR.pos, 4, 1, .w1c, 0⟩
/-- PGW_ERR.MULTIPLE, bit 5, W1C, resets to 0 (R276). -/
abbrev PGW_ERR.MULTIPLE : Fld := ⟨PGW_ERR.pos, 5, 1, .w1c, 0⟩
/-- PGW_ERR.FIRST_V, bits 27:16, RO, resets to 0 (R276). -/
abbrev PGW_ERR.FIRST_V : Fld := ⟨PGW_ERR.pos, 16, 12, .ro, 0⟩
/-- PGW_ERR.FIRST_HEAD, bits 31:28, RO, resets to 0 (R276). -/
abbrev PGW_ERR.FIRST_HEAD : Fld := ⟨PGW_ERR.pos, 28, 4, .ro, 0⟩
/-- PGW_ERR.FIRST_LAYER, bits 39:32, RO, resets to 0 (R276). -/
abbrev PGW_ERR.FIRST_LAYER : Fld := ⟨PGW_ERR.pos, 32, 8, .ro, 0⟩
/-- PGW_ERR.FIRST_SLOT, bits 43:40, RO, resets to 0 (R276). -/
abbrev PGW_ERR.FIRST_SLOT : Fld := ⟨PGW_ERR.pos, 40, 4, .ro, 0⟩
/-- PGW_ERR, whole (R276). -/
abbrev PGW_ERR.reg : Reg := ⟨PGW_ERR.pos, [PGW_ERR.PTE_INVALID, PGW_ERR.PTE_MISPLACED, PGW_ERR.DIR_INVALID, PGW_ERR.PT_POISON, PGW_ERR.APPEND_REFUSED, PGW_ERR.MULTIPLE, PGW_ERR.FIRST_V, PGW_ERR.FIRST_HEAD, PGW_ERR.FIRST_LAYER, PGW_ERR.FIRST_SLOT]⟩
/-- PGW_COUNT: where it lies (R277). -/
abbrev PGW_COUNT.pos : RegPos := ⟨0xA018, .cluster, 32, 0x0, 1⟩
/-- PGW_COUNT.LAB_HIT, bits 31:0, RC, resets to 0 (R277). -/
abbrev PGW_COUNT.LAB_HIT : Fld := ⟨PGW_COUNT.pos, 0, 32, .rc, 0⟩
/-- PGW_COUNT.LAB_MISS, bits 63:32, RC, resets to 0 (R277). -/
abbrev PGW_COUNT.LAB_MISS : Fld := ⟨PGW_COUNT.pos, 32, 32, .rc, 0⟩
/-- PGW_COUNT, whole (R277). -/
abbrev PGW_COUNT.reg : Reg := ⟨PGW_COUNT.pos, [PGW_COUNT.LAB_HIT, PGW_COUNT.LAB_MISS]⟩
/-- PGW_PAGES: where it lies (R278). -/
abbrev PGW_PAGES.pos : RegPos := ⟨0xA020, .cluster, 32, 0x0, 1⟩
/-- PGW_PAGES.DONE, bits 31:0, RC, resets to 0 (R278). -/
abbrev PGW_PAGES.DONE : Fld := ⟨PGW_PAGES.pos, 0, 32, .rc, 0⟩
/-- PGW_PAGES.SKIPPED, bits 63:32, RC, resets to 0 (R278). -/
abbrev PGW_PAGES.SKIPPED : Fld := ⟨PGW_PAGES.pos, 32, 32, .rc, 0⟩
/-- PGW_PAGES, whole (R278). -/
abbrev PGW_PAGES.reg : Reg := ⟨PGW_PAGES.pos, [PGW_PAGES.DONE, PGW_PAGES.SKIPPED]⟩
/-- PGW_CTX: where it lies (R279). -/
abbrev PGW_CTX.pos : RegPos := ⟨0xA040, .cluster, 32, 0x8, 16⟩
/-- PGW_CTX.VALID, bit 0, RO, resets to 0 (R279). -/
abbrev PGW_CTX.VALID : Fld := ⟨PGW_CTX.pos, 0, 1, .ro, 0⟩
/-- PGW_CTX.TAIL, bit 1, RO, resets to 0 (R279). -/
abbrev PGW_CTX.TAIL : Fld := ⟨PGW_CTX.pos, 1, 1, .ro, 0⟩
/-- PGW_CTX.LEN, bits 22:2, RO, resets to 0 (R279). -/
abbrev PGW_CTX.LEN : Fld := ⟨PGW_CTX.pos, 2, 21, .ro, 0⟩
/-- PGW_CTX.NEXT_LAYER, bits 30:23, RO, resets to 0 (R279). -/
abbrev PGW_CTX.NEXT_LAYER : Fld := ⟨PGW_CTX.pos, 23, 8, .ro, 0⟩
/-- PGW_CTX, whole (R279). -/
abbrev PGW_CTX.reg : Reg := ⟨PGW_CTX.pos, [PGW_CTX.VALID, PGW_CTX.TAIL, PGW_CTX.LEN, PGW_CTX.NEXT_LAYER]⟩
/-- PERF_CLCTL: where it lies (R538). -/
abbrev PERF_CLCTL.pos : RegPos := ⟨0x5000, .cluster, 32, 0x0, 1⟩
/-- PERF_CLCTL.FREEZE, bit 0, RW, resets to 0 (R538). -/
abbrev PERF_CLCTL.FREEZE : Fld := ⟨PERF_CLCTL.pos, 0, 1, .rw, 0⟩
/-- PERF_CLCTL, whole (R538). -/
abbrev PERF_CLCTL.reg : Reg := ⟨PERF_CLCTL.pos, [PERF_CLCTL.FREEZE]⟩
/-- PERF_CLSEL: where it lies (R538). -/
abbrev PERF_CLSEL.pos : RegPos := ⟨0x5010, .cluster, 32, 0x8, 8⟩
/-- PERF_CLSEL.EVENT, bits 7:0, RW, resets to 0 (R538). -/
abbrev PERF_CLSEL.EVENT : Fld := ⟨PERF_CLSEL.pos, 0, 8, .rw, 0⟩
/-- PERF_CLSEL.EN, bit 8, RW, resets to 0 (R538). -/
abbrev PERF_CLSEL.EN : Fld := ⟨PERF_CLSEL.pos, 8, 1, .rw, 0⟩
/-- PERF_CLSEL, whole (R538). -/
abbrev PERF_CLSEL.reg : Reg := ⟨PERF_CLSEL.pos, [PERF_CLSEL.EVENT, PERF_CLSEL.EN]⟩
/-- PERF_CLCNT: where it lies (R538). -/
abbrev PERF_CLCNT.pos : RegPos := ⟨0x5050, .cluster, 32, 0x8, 8⟩
/-- PERF_CLCNT.COUNT, bits 47:0, RW, resets to 0 (R538). -/
abbrev PERF_CLCNT.COUNT : Fld := ⟨PERF_CLCNT.pos, 0, 48, .rw, 0⟩
/-- PERF_CLCNT, whole (R538). -/
abbrev PERF_CLCNT.reg : Reg := ⟨PERF_CLCNT.pos, [PERF_CLCNT.COUNT]⟩
/-- PERF_CLOVF: where it lies (R538). -/
abbrev PERF_CLOVF.pos : RegPos := ⟨0x5090, .cluster, 32, 0x0, 1⟩
/-- PERF_CLOVF.OVF, bits 7:0, W1C, resets to 0 (R538). -/
abbrev PERF_CLOVF.OVF : Fld := ⟨PERF_CLOVF.pos, 0, 8, .w1c, 0⟩
/-- PERF_CLOVF, whole (R538). -/
abbrev PERF_CLOVF.reg : Reg := ⟨PERF_CLOVF.pos, [PERF_CLOVF.OVF]⟩
/-- PERF_CLNETERR: where it lies (R538). -/
abbrev PERF_CLNETERR.pos : RegPos := ⟨0x5098, .cluster, 32, 0x0, 1⟩
/-- PERF_CLNETERR.DISCARDED, bits 31:0, RC, resets to 0 (R538). -/
abbrev PERF_CLNETERR.DISCARDED : Fld := ⟨PERF_CLNETERR.pos, 0, 32, .rc, 0⟩
/-- PERF_CLNETERR, whole (R538). -/
abbrev PERF_CLNETERR.reg : Reg := ⟨PERF_CLNETERR.pos, [PERF_CLNETERR.DISCARDED]⟩
/-- DEV_PCTL: where it lies (R539). -/
abbrev DEV_PCTL.pos : RegPos := ⟨0x1000, (.flat 0), 1, 0x8, 8⟩
/-- DEV_PCTL.EVENT, bits 7:0, RW, resets to 0 (R539). -/
abbrev DEV_PCTL.EVENT : Fld := ⟨DEV_PCTL.pos, 0, 8, .rw, 0⟩
/-- DEV_PCTL.EN, bit 8, RW, resets to 0 (R539). -/
abbrev DEV_PCTL.EN : Fld := ⟨DEV_PCTL.pos, 8, 1, .rw, 0⟩
/-- DEV_PCTL, whole (R539). -/
abbrev DEV_PCTL.reg : Reg := ⟨DEV_PCTL.pos, [DEV_PCTL.EVENT, DEV_PCTL.EN]⟩
/-- DEV_PCNT: where it lies (R539). -/
abbrev DEV_PCNT.pos : RegPos := ⟨0x1040, (.flat 0), 1, 0x8, 8⟩
/-- DEV_PCNT.COUNT, bits 47:0, RW, resets to 0 (R539). -/
abbrev DEV_PCNT.COUNT : Fld := ⟨DEV_PCNT.pos, 0, 48, .rw, 0⟩
/-- DEV_PCNT, whole (R539). -/
abbrev DEV_PCNT.reg : Reg := ⟨DEV_PCNT.pos, [DEV_PCNT.COUNT]⟩
/-- DEV_POVF: where it lies (R539). -/
abbrev DEV_POVF.pos : RegPos := ⟨0x1080, (.flat 0), 1, 0x0, 1⟩
/-- DEV_POVF.OVF, bits 7:0, W1C, resets to 0 (R539). -/
abbrev DEV_POVF.OVF : Fld := ⟨DEV_POVF.pos, 0, 8, .w1c, 0⟩
/-- DEV_POVF, whole (R539). -/
abbrev DEV_POVF.reg : Reg := ⟨DEV_POVF.pos, [DEV_POVF.OVF]⟩
/-- DEV_NETERR: where it lies (R539). -/
abbrev DEV_NETERR.pos : RegPos := ⟨0x1088, (.flat 0), 1, 0x0, 1⟩
/-- DEV_NETERR.DISCARDED, bits 31:0, RC, resets to 0 (R539). -/
abbrev DEV_NETERR.DISCARDED : Fld := ⟨DEV_NETERR.pos, 0, 32, .rc, 0⟩
/-- DEV_NETERR, whole (R539). -/
abbrev DEV_NETERR.reg : Reg := ⟨DEV_NETERR.pos, [DEV_NETERR.DISCARDED]⟩
/-- BCR_PART: where it lies (R235). -/
abbrev BCR_PART.pos : RegPos := ⟨0x0, .region, 128, 0x0, 1⟩
/-- BCR_PART.SCRATCH_MASK, bits 15:0, RW, resets to 0 (R235). -/
abbrev BCR_PART.SCRATCH_MASK : Fld := ⟨BCR_PART.pos, 0, 16, .rw, 0⟩
/-- BCR_PART, whole (R235). -/
abbrev BCR_PART.reg : Reg := ⟨BCR_PART.pos, [BCR_PART.SCRATCH_MASK]⟩
/-- BCR_CFG: where it lies (R236). -/
abbrev BCR_CFG.pos : RegPos := ⟨0x8, .region, 128, 0x0, 1⟩
/-- BCR_CFG.KEEP_MAX, bits 4:0, RW, resets to 12 (R236). -/
abbrev BCR_CFG.KEEP_MAX : Fld := ⟨BCR_CFG.pos, 0, 5, .rw, 12⟩
/-- BCR_CFG.TRAP_EN, bit 5, RW, resets to 1 (R236). -/
abbrev BCR_CFG.TRAP_EN : Fld := ⟨BCR_CFG.pos, 5, 1, .rw, 1⟩
/-- BCR_CFG.TRAP_ALL, bit 6, RW, resets to 0 (R236). -/
abbrev BCR_CFG.TRAP_ALL : Fld := ⟨BCR_CFG.pos, 6, 1, .rw, 0⟩
/-- BCR_CFG.TRAP_EVT, bit 7, RW, resets to 0 (R236). -/
abbrev BCR_CFG.TRAP_EVT : Fld := ⟨BCR_CFG.pos, 7, 1, .rw, 0⟩
/-- BCR_CFG.TRAP_CLEAR, bit 8, WO, resets to 0 (R236). -/
abbrev BCR_CFG.TRAP_CLEAR : Fld := ⟨BCR_CFG.pos, 8, 1, .wo, 0⟩
/-- BCR_CFG, whole (R236). -/
abbrev BCR_CFG.reg : Reg := ⟨BCR_CFG.pos, [BCR_CFG.KEEP_MAX, BCR_CFG.TRAP_EN, BCR_CFG.TRAP_ALL, BCR_CFG.TRAP_EVT, BCR_CFG.TRAP_CLEAR]⟩
/-- BCR_STATUS: where it lies (R237). -/
abbrev BCR_STATUS.pos : RegPos := ⟨0x10, .region, 128, 0x0, 1⟩
/-- BCR_STATUS.CACHE_WAYS, bits 4:0, RO, resets to 16 (R237). -/
abbrev BCR_STATUS.CACHE_WAYS : Fld := ⟨BCR_STATUS.pos, 0, 5, .ro, 16⟩
/-- BCR_STATUS.PART_BUSY, bit 5, RO, resets to 0 (R237). -/
abbrev BCR_STATUS.PART_BUSY : Fld := ⟨BCR_STATUS.pos, 5, 1, .ro, 0⟩
/-- BCR_STATUS.REDQ, bits 11:6, RO, resets to 0 (R237). -/
abbrev BCR_STATUS.REDQ : Fld := ⟨BCR_STATUS.pos, 6, 6, .ro, 0⟩
/-- BCR_STATUS.MISSRED, bits 16:12, RO, resets to 0 (R237). -/
abbrev BCR_STATUS.MISSRED : Fld := ⟨BCR_STATUS.pos, 12, 5, .ro, 0⟩
/-- BCR_STATUS.PINNED, bits 22:17, RO, resets to 0 (R237). -/
abbrev BCR_STATUS.PINNED : Fld := ⟨BCR_STATUS.pos, 17, 6, .ro, 0⟩
/-- BCR_STATUS.FILL_WAIT, bit 23, RO, resets to 0 (R237). -/
abbrev BCR_STATUS.FILL_WAIT : Fld := ⟨BCR_STATUS.pos, 23, 1, .ro, 0⟩
/-- BCR_STATUS.TRAP_USED, bits 30:24, RO, resets to 0 (R237). -/
abbrev BCR_STATUS.TRAP_USED : Fld := ⟨BCR_STATUS.pos, 24, 7, .ro, 0⟩
/-- BCR_STATUS, whole (R237). -/
abbrev BCR_STATUS.reg : Reg := ⟨BCR_STATUS.pos, [BCR_STATUS.CACHE_WAYS, BCR_STATUS.PART_BUSY, BCR_STATUS.REDQ, BCR_STATUS.MISSRED, BCR_STATUS.PINNED, BCR_STATUS.FILL_WAIT, BCR_STATUS.TRAP_USED]⟩
/-- BCR_ERR: where it lies (R238). -/
abbrev BCR_ERR.pos : RegPos := ⟨0x18, .region, 128, 0x0, 1⟩
/-- BCR_ERR.TRAP_HIT, bit 0, W1C, resets to 0 (R238). -/
abbrev BCR_ERR.TRAP_HIT : Fld := ⟨BCR_ERR.pos, 0, 1, .w1c, 0⟩
/-- BCR_ERR.NOWAY_RED, bit 1, W1C, resets to 0 (R238). -/
abbrev BCR_ERR.NOWAY_RED : Fld := ⟨BCR_ERR.pos, 1, 1, .w1c, 0⟩
/-- BCR_ERR.PART_REFUSED, bit 2, W1C, resets to 0 (R238). -/
abbrev BCR_ERR.PART_REFUSED : Fld := ⟨BCR_ERR.pos, 2, 1, .w1c, 0⟩
/-- BCR_ERR.RED_ERR, bit 3, W1C, resets to 0 (R238). -/
abbrev BCR_ERR.RED_ERR : Fld := ⟨BCR_ERR.pos, 3, 1, .w1c, 0⟩
/-- BCR_ERR.UNCORR, bit 4, W1C, resets to 0 (R238). -/
abbrev BCR_ERR.UNCORR : Fld := ⟨BCR_ERR.pos, 4, 1, .w1c, 0⟩
/-- BCR_ERR.MULTIPLE, bit 5, W1C, resets to 0 (R238). -/
abbrev BCR_ERR.MULTIPLE : Fld := ⟨BCR_ERR.pos, 5, 1, .w1c, 0⟩
/-- BCR_ERR.FIRST_LINE, bits 55:16, RO, resets to 0 (R238). -/
abbrev BCR_ERR.FIRST_LINE : Fld := ⟨BCR_ERR.pos, 16, 40, .ro, 0⟩
/-- BCR_ERR, whole (R238). -/
abbrev BCR_ERR.reg : Reg := ⟨BCR_ERR.pos, [BCR_ERR.TRAP_HIT, BCR_ERR.NOWAY_RED, BCR_ERR.PART_REFUSED, BCR_ERR.RED_ERR, BCR_ERR.UNCORR, BCR_ERR.MULTIPLE, BCR_ERR.FIRST_LINE]⟩
/-- BCR_ACCESS: where it lies (R239). -/
abbrev BCR_ACCESS.pos : RegPos := ⟨0x20, .region, 128, 0x0, 1⟩
/-- BCR_ACCESS.HIT, bits 31:0, RC, resets to 0 (R239). -/
abbrev BCR_ACCESS.HIT : Fld := ⟨BCR_ACCESS.pos, 0, 32, .rc, 0⟩
/-- BCR_ACCESS.MISS, bits 63:32, RC, resets to 0 (R239). -/
abbrev BCR_ACCESS.MISS : Fld := ⟨BCR_ACCESS.pos, 32, 32, .rc, 0⟩
/-- BCR_ACCESS, whole (R239). -/
abbrev BCR_ACCESS.reg : Reg := ⟨BCR_ACCESS.pos, [BCR_ACCESS.HIT, BCR_ACCESS.MISS]⟩
/-- BCR_DEAD: where it lies (R240). -/
abbrev BCR_DEAD.pos : RegPos := ⟨0x28, .region, 128, 0x0, 1⟩
/-- BCR_DEAD.DEAD_READ, bits 31:0, RC, resets to 0 (R240). -/
abbrev BCR_DEAD.DEAD_READ : Fld := ⟨BCR_DEAD.pos, 0, 32, .rc, 0⟩
/-- BCR_DEAD.TRAP_HIT, bits 63:32, RC, resets to 0 (R240). -/
abbrev BCR_DEAD.TRAP_HIT : Fld := ⟨BCR_DEAD.pos, 32, 32, .rc, 0⟩
/-- BCR_DEAD, whole (R240). -/
abbrev BCR_DEAD.reg : Reg := ⟨BCR_DEAD.pos, [BCR_DEAD.DEAD_READ, BCR_DEAD.TRAP_HIT]⟩
/-- BCR_PIN: where it lies (R241). -/
abbrev BCR_PIN.pos : RegPos := ⟨0x30, .region, 128, 0x0, 1⟩
/-- BCR_PIN.WAITS, bits 31:0, RC, resets to 0 (R241). -/
abbrev BCR_PIN.WAITS : Fld := ⟨BCR_PIN.pos, 0, 32, .rc, 0⟩
/-- BCR_PIN.LONGEST, bits 47:32, RC, resets to 0 (R241). -/
abbrev BCR_PIN.LONGEST : Fld := ⟨BCR_PIN.pos, 32, 16, .rc, 0⟩
/-- BCR_PIN, whole (R241). -/
abbrev BCR_PIN.reg : Reg := ⟨BCR_PIN.pos, [BCR_PIN.WAITS, BCR_PIN.LONGEST]⟩
/-- BCR_RED: where it lies (R242). -/
abbrev BCR_RED.pos : RegPos := ⟨0x38, .region, 128, 0x0, 1⟩
/-- BCR_RED.APPLIED, bits 31:0, RC, resets to 0 (R242). -/
abbrev BCR_RED.APPLIED : Fld := ⟨BCR_RED.pos, 0, 32, .rc, 0⟩
/-- BCR_RED.REFUSED, bits 63:32, RC, resets to 0 (R242). -/
abbrev BCR_RED.REFUSED : Fld := ⟨BCR_RED.pos, 32, 32, .rc, 0⟩
/-- BCR_RED, whole (R242). -/
abbrev BCR_RED.reg : Reg := ⟨BCR_RED.pos, [BCR_RED.APPLIED, BCR_RED.REFUSED]⟩
/-- BCR_ECC: where it lies (R243). -/
abbrev BCR_ECC.pos : RegPos := ⟨0x40, .region, 128, 0x0, 1⟩
/-- BCR_ECC.CORR, bits 23:0, RC, resets to 0 (R243). -/
abbrev BCR_ECC.CORR : Fld := ⟨BCR_ECC.pos, 0, 24, .rc, 0⟩
/-- BCR_ECC.REFETCH, bits 39:24, RC, resets to 0 (R243). -/
abbrev BCR_ECC.REFETCH : Fld := ⟨BCR_ECC.pos, 24, 16, .rc, 0⟩
/-- BCR_ECC.UNCORR, bits 55:40, RC, resets to 0 (R243). -/
abbrev BCR_ECC.UNCORR : Fld := ⟨BCR_ECC.pos, 40, 16, .rc, 0⟩
/-- BCR_ECC, whole (R243). -/
abbrev BCR_ECC.reg : Reg := ⟨BCR_ECC.pos, [BCR_ECC.CORR, BCR_ECC.REFETCH, BCR_ECC.UNCORR]⟩
/-- BCR_TRAP: where it lies (R244). -/
abbrev BCR_TRAP.pos : RegPos := ⟨0x400, .region, 128, 0x8, 64⟩
/-- BCR_TRAP.LINE, bits 39:0, RO, resets to 0 (R244). -/
abbrev BCR_TRAP.LINE : Fld := ⟨BCR_TRAP.pos, 0, 40, .ro, 0⟩
/-- BCR_TRAP.HITS, bits 47:40, RO, resets to 0 (R244). -/
abbrev BCR_TRAP.HITS : Fld := ⟨BCR_TRAP.pos, 40, 8, .ro, 0⟩
/-- BCR_TRAP.VALID, bit 63, RO, resets to 0 (R244). -/
abbrev BCR_TRAP.VALID : Fld := ⟨BCR_TRAP.pos, 63, 1, .ro, 0⟩
/-- BCR_TRAP, whole (R244). -/
abbrev BCR_TRAP.reg : Reg := ⟨BCR_TRAP.pos, [BCR_TRAP.LINE, BCR_TRAP.HITS, BCR_TRAP.VALID]⟩
/-- SQ_BASE: where it lies (R281). -/
abbrev SQ_BASE.pos : RegPos := ⟨0x80000, (.flat 64), 4096, 0x0, 1⟩
/-- SQ_BASE.LOCAL, bit 0, RW, resets to 0 (R281). -/
abbrev SQ_BASE.LOCAL : Fld := ⟨SQ_BASE.pos, 0, 1, .rw, 0⟩
/-- SQ_BASE.BASE, bits 63:12, RW, resets to 0 (R281). -/
abbrev SQ_BASE.BASE : Fld := ⟨SQ_BASE.pos, 12, 52, .rw, 0⟩
/-- SQ_BASE, whole (R281). -/
abbrev SQ_BASE.reg : Reg := ⟨SQ_BASE.pos, [SQ_BASE.LOCAL, SQ_BASE.BASE]⟩
/-- CQ_BASE: where it lies (R281). -/
abbrev CQ_BASE.pos : RegPos := ⟨0x80008, (.flat 64), 4096, 0x0, 1⟩
/-- CQ_BASE.LOCAL, bit 0, RW, resets to 0 (R281). -/
abbrev CQ_BASE.LOCAL : Fld := ⟨CQ_BASE.pos, 0, 1, .rw, 0⟩
/-- CQ_BASE.BASE, bits 63:12, RW, resets to 0 (R281). -/
abbrev CQ_BASE.BASE : Fld := ⟨CQ_BASE.pos, 12, 52, .rw, 0⟩
/-- CQ_BASE, whole (R281). -/
abbrev CQ_BASE.reg : Reg := ⟨CQ_BASE.pos, [CQ_BASE.LOCAL, CQ_BASE.BASE]⟩
/-- RING_CFG: where it lies (R282). -/
abbrev RING_CFG.pos : RegPos := ⟨0x80010, (.flat 64), 4096, 0x0, 1⟩
/-- RING_CFG.ENABLE, bit 0, RW, resets to 0 (R282). -/
abbrev RING_CFG.ENABLE : Fld := ⟨RING_CFG.pos, 0, 1, .rw, 0⟩
/-- RING_CFG.SQ_LOG2, bits 4:1, RW, resets to 0 (R282). -/
abbrev RING_CFG.SQ_LOG2 : Fld := ⟨RING_CFG.pos, 1, 4, .rw, 0⟩
/-- RING_CFG.CQ_LOG2, bits 8:5, RW, resets to 0 (R282). -/
abbrev RING_CFG.CQ_LOG2 : Fld := ⟨RING_CFG.pos, 5, 4, .rw, 0⟩
/-- RING_CFG.CQ_SEL, bits 20:9, RW, resets to 0 (R282). -/
abbrev RING_CFG.CQ_SEL : Fld := ⟨RING_CFG.pos, 9, 12, .rw, 0⟩
/-- RING_CFG.WATCH, bit 21, RW, resets to 0 (R282). -/
abbrev RING_CFG.WATCH : Fld := ⟨RING_CFG.pos, 21, 1, .rw, 0⟩
/-- RING_CFG.POLL_US, bits 31:22, RW, resets to 0 (R282). -/
abbrev RING_CFG.POLL_US : Fld := ⟨RING_CFG.pos, 22, 10, .rw, 0⟩
/-- RING_CFG.PARTITION, bits 34:32, RW, resets to 0 (R282). -/
abbrev RING_CFG.PARTITION : Fld := ⟨RING_CFG.pos, 32, 3, .rw, 0⟩
/-- RING_CFG.PRIV, bit 35, RW, resets to 0 (R282). -/
abbrev RING_CFG.PRIV : Fld := ⟨RING_CFG.pos, 35, 1, .rw, 0⟩
/-- RING_CFG.DEPTH, bits 39:36, RW, resets to 0 (R282). -/
abbrev RING_CFG.DEPTH : Fld := ⟨RING_CFG.pos, 36, 4, .rw, 0⟩
/-- RING_CFG, whole (R282). -/
abbrev RING_CFG.reg : Reg := ⟨RING_CFG.pos, [RING_CFG.ENABLE, RING_CFG.SQ_LOG2, RING_CFG.CQ_LOG2, RING_CFG.CQ_SEL, RING_CFG.WATCH, RING_CFG.POLL_US, RING_CFG.PARTITION, RING_CFG.PRIV, RING_CFG.DEPTH]⟩
/-- DB_ADDR: where it lies (R284). -/
abbrev DB_ADDR.pos : RegPos := ⟨0x80018, (.flat 64), 4096, 0x0, 1⟩
/-- DB_ADDR.ADDR, bits 63:3, RW, resets to 0 (R284). -/
abbrev DB_ADDR.ADDR : Fld := ⟨DB_ADDR.pos, 3, 61, .rw, 0⟩
/-- DB_ADDR, whole (R284). -/
abbrev DB_ADDR.reg : Reg := ⟨DB_ADDR.pos, [DB_ADDR.ADDR]⟩
/-- RING_IDX: where it lies (R285). -/
abbrev RING_IDX.pos : RegPos := ⟨0x80020, (.flat 64), 4096, 0x0, 1⟩
/-- RING_IDX.SQ_HEAD, bits 31:0, RO, resets to 0 (R285). -/
abbrev RING_IDX.SQ_HEAD : Fld := ⟨RING_IDX.pos, 0, 32, .ro, 0⟩
/-- RING_IDX.SQ_TAIL, bits 63:32, RO, resets to 0 (R285). -/
abbrev RING_IDX.SQ_TAIL : Fld := ⟨RING_IDX.pos, 32, 32, .ro, 0⟩
/-- RING_IDX, whole (R285). -/
abbrev RING_IDX.reg : Reg := ⟨RING_IDX.pos, [RING_IDX.SQ_HEAD, RING_IDX.SQ_TAIL]⟩
/-- CQ_IDX: where it lies (R286). -/
abbrev CQ_IDX.pos : RegPos := ⟨0x80028, (.flat 64), 4096, 0x0, 1⟩
/-- CQ_IDX.CQ_TAIL, bits 31:0, RO, resets to 0 (R286). -/
abbrev CQ_IDX.CQ_TAIL : Fld := ⟨CQ_IDX.pos, 0, 32, .ro, 0⟩
/-- CQ_IDX.CQ_HEAD, bits 63:32, RO, resets to 0 (R286). -/
abbrev CQ_IDX.CQ_HEAD : Fld := ⟨CQ_IDX.pos, 32, 32, .ro, 0⟩
/-- CQ_IDX, whole (R286). -/
abbrev CQ_IDX.reg : Reg := ⟨CQ_IDX.pos, [CQ_IDX.CQ_TAIL, CQ_IDX.CQ_HEAD]⟩
/-- RING_STATUS: where it lies (R287). -/
abbrev RING_STATUS.pos : RegPos := ⟨0x80030, (.flat 64), 4096, 0x0, 1⟩
/-- RING_STATUS.STATE, bits 1:0, RO, resets to 0 (R287). -/
abbrev RING_STATUS.STATE : Fld := ⟨RING_STATUS.pos, 0, 2, .ro, 0⟩
/-- RING_STATUS.INFLIGHT, bits 6:2, RO, resets to 0 (R287). -/
abbrev RING_STATUS.INFLIGHT : Fld := ⟨RING_STATUS.pos, 2, 5, .ro, 0⟩
/-- RING_STATUS.CQ_FULL, bit 7, RO, resets to 0 (R287). -/
abbrev RING_STATUS.CQ_FULL : Fld := ⟨RING_STATUS.pos, 7, 1, .ro, 0⟩
/-- RING_STATUS.PENDING_EN, bit 8, RO, resets to 0 (R287). -/
abbrev RING_STATUS.PENDING_EN : Fld := ⟨RING_STATUS.pos, 8, 1, .ro, 0⟩
/-- RING_STATUS.OVERRUN, bit 9, W1C, resets to 0 (R287). -/
abbrev RING_STATUS.OVERRUN : Fld := ⟨RING_STATUS.pos, 9, 1, .w1c, 0⟩
/-- RING_STATUS.WRITE_FAIL, bit 10, W1C, resets to 0 (R287). -/
abbrev RING_STATUS.WRITE_FAIL : Fld := ⟨RING_STATUS.pos, 10, 1, .w1c, 0⟩
/-- RING_STATUS.CFG_IGNORED, bit 11, W1C, resets to 0 (R287). -/
abbrev RING_STATUS.CFG_IGNORED : Fld := ⟨RING_STATUS.pos, 11, 1, .w1c, 0⟩
/-- RING_STATUS, whole (R287). -/
abbrev RING_STATUS.reg : Reg := ⟨RING_STATUS.pos, [RING_STATUS.STATE, RING_STATUS.INFLIGHT, RING_STATUS.CQ_FULL, RING_STATUS.PENDING_EN, RING_STATUS.OVERRUN, RING_STATUS.WRITE_FAIL, RING_STATUS.CFG_IGNORED]⟩
/-- IRQ_CFG: where it lies (R288). -/
abbrev IRQ_CFG.pos : RegPos := ⟨0x80038, (.flat 64), 4096, 0x0, 1⟩
/-- IRQ_CFG.VECTOR, bits 10:0, RW, resets to 0 (R288). -/
abbrev IRQ_CFG.VECTOR : Fld := ⟨IRQ_CFG.pos, 0, 11, .rw, 0⟩
/-- IRQ_CFG.IRQ_EN, bit 11, RW, resets to 0 (R288). -/
abbrev IRQ_CFG.IRQ_EN : Fld := ⟨IRQ_CFG.pos, 11, 1, .rw, 0⟩
/-- IRQ_CFG.COAL_COUNT, bits 19:12, RW, resets to 0 (R288). -/
abbrev IRQ_CFG.COAL_COUNT : Fld := ⟨IRQ_CFG.pos, 12, 8, .rw, 0⟩
/-- IRQ_CFG.COAL_US, bits 29:20, RW, resets to 0 (R288). -/
abbrev IRQ_CFG.COAL_US : Fld := ⟨IRQ_CFG.pos, 20, 10, .rw, 0⟩
/-- IRQ_CFG, whole (R288). -/
abbrev IRQ_CFG.reg : Reg := ⟨IRQ_CFG.pos, [IRQ_CFG.VECTOR, IRQ_CFG.IRQ_EN, IRQ_CFG.COAL_COUNT, IRQ_CFG.COAL_US]⟩
/-- BTN_ERR: where it lies (R312). -/
abbrev BTN_ERR.pos : RegPos := ⟨0xC0000, (.flat 0), 1, 0x0, 1⟩
/-- BTN_ERR.BADACC, bit 0, W1C, resets to 0 (R312). -/
abbrev BTN_ERR.BADACC : Fld := ⟨BTN_ERR.pos, 0, 1, .w1c, 0⟩
/-- BTN_ERR.WAIT_FULL, bit 1, W1C, resets to 0 (R312). -/
abbrev BTN_ERR.WAIT_FULL : Fld := ⟨BTN_ERR.pos, 1, 1, .w1c, 0⟩
/-- BTN_ERR.UNCORR, bit 2, W1C, resets to 0 (R312). -/
abbrev BTN_ERR.UNCORR : Fld := ⟨BTN_ERR.pos, 2, 1, .w1c, 0⟩
/-- BTN_ERR.MULTIPLE, bit 3, W1C, resets to 0 (R312). -/
abbrev BTN_ERR.MULTIPLE : Fld := ⟨BTN_ERR.pos, 3, 1, .w1c, 0⟩
/-- BTN_ERR.FIRST_BATON, bits 29:16, RO, resets to 0 (R312). -/
abbrev BTN_ERR.FIRST_BATON : Fld := ⟨BTN_ERR.pos, 16, 14, .ro, 0⟩
/-- BTN_ERR, whole (R312). -/
abbrev BTN_ERR.reg : Reg := ⟨BTN_ERR.pos, [BTN_ERR.BADACC, BTN_ERR.WAIT_FULL, BTN_ERR.UNCORR, BTN_ERR.MULTIPLE, BTN_ERR.FIRST_BATON]⟩
/-- BTN_REGION: where it lies (R313). -/
abbrev BTN_REGION.pos : RegPos := ⟨0xC0100, (.flat 8), 128, 0x0, 1⟩
/-- BTN_REGION.WAITERS, bits 6:0, RO, resets to 0 (R313). -/
abbrev BTN_REGION.WAITERS : Fld := ⟨BTN_REGION.pos, 0, 7, .ro, 0⟩
/-- BTN_REGION.OPS, bits 39:8, RC, resets to 0 (R313). -/
abbrev BTN_REGION.OPS : Fld := ⟨BTN_REGION.pos, 8, 32, .rc, 0⟩
/-- BTN_REGION.TIMEOUTS, bits 55:40, RC, resets to 0 (R313). -/
abbrev BTN_REGION.TIMEOUTS : Fld := ⟨BTN_REGION.pos, 40, 16, .rc, 0⟩
/-- BTN_REGION, whole (R313). -/
abbrev BTN_REGION.reg : Reg := ⟨BTN_REGION.pos, [BTN_REGION.WAITERS, BTN_REGION.OPS, BTN_REGION.TIMEOUTS]⟩
/-- FAB_ID: where it lies (R347). -/
abbrev FAB_ID.pos : RegPos := ⟨0x130000, (.flat 0), 1, 0x0, 1⟩
/-- FAB_ID.FID, bits 11:0, RWL, resets to 0 (R347). -/
abbrev FAB_ID.FID : Fld := ⟨FAB_ID.pos, 0, 12, .rwl, 0⟩
/-- FAB_ID.FID_VALID, bit 12, RWL, resets to 0 (R347). -/
abbrev FAB_ID.FID_VALID : Fld := ⟨FAB_ID.pos, 12, 1, .rwl, 0⟩
/-- FAB_ID, whole (R347). -/
abbrev FAB_ID.reg : Reg := ⟨FAB_ID.pos, [FAB_ID.FID, FAB_ID.FID_VALID]⟩
/-- FAB_PORT: where it lies (R348). -/
abbrev FAB_PORT.pos : RegPos := ⟨0x130008, (.flat 0), 1, 0x0, 1⟩
/-- FAB_PORT.SPEED, bits 1:0, RO, resets to 0 (R348). -/
abbrev FAB_PORT.SPEED : Fld := ⟨FAB_PORT.pos, 0, 2, .ro, 0⟩
/-- FAB_PORT.WIDTH, bits 5:2, RO, resets to 0 (R348). -/
abbrev FAB_PORT.WIDTH : Fld := ⟨FAB_PORT.pos, 2, 4, .ro, 0⟩
/-- FAB_PORT.IDE_IO, bit 6, RO, resets to 0 (R348). -/
abbrev FAB_PORT.IDE_IO : Fld := ⟨FAB_PORT.pos, 6, 1, .ro, 0⟩
/-- FAB_PORT.IDE_CM, bit 7, RO, resets to 0 (R348). -/
abbrev FAB_PORT.IDE_CM : Fld := ⟨FAB_PORT.pos, 7, 1, .ro, 0⟩
/-- FAB_PORT.CACHE_EN, bit 8, RO, resets to 0 (R348). -/
abbrev FAB_PORT.CACHE_EN : Fld := ⟨FAB_PORT.pos, 8, 1, .ro, 0⟩
/-- FAB_PORT.MEM_ACTIVE, bit 9, RO, resets to 0 (R348). -/
abbrev FAB_PORT.MEM_ACTIVE : Fld := ⟨FAB_PORT.pos, 9, 1, .ro, 0⟩
/-- FAB_PORT.VIRAL, bit 10, RO, resets to 0 (R348). -/
abbrev FAB_PORT.VIRAL : Fld := ⟨FAB_PORT.pos, 10, 1, .ro, 0⟩
/-- FAB_PORT.LINK_DOWNS, bits 31:16, RC, resets to 0 (R348). -/
abbrev FAB_PORT.LINK_DOWNS : Fld := ⟨FAB_PORT.pos, 16, 16, .rc, 0⟩
/-- FAB_PORT, whole (R348). -/
abbrev FAB_PORT.reg : Reg := ⟨FAB_PORT.pos, [FAB_PORT.SPEED, FAB_PORT.WIDTH, FAB_PORT.IDE_IO, FAB_PORT.IDE_CM, FAB_PORT.CACHE_EN, FAB_PORT.MEM_ACTIVE, FAB_PORT.VIRAL, FAB_PORT.LINK_DOWNS]⟩
/-- FAB_ERR: where it lies (R349). -/
abbrev FAB_ERR.pos : RegPos := ⟨0x130010, (.flat 0), 1, 0x0, 1⟩
/-- FAB_ERR.WIN_RO, bit 0, W1C, resets to 0 (R349). -/
abbrev FAB_ERR.WIN_RO : Fld := ⟨FAB_ERR.pos, 0, 1, .w1c, 0⟩
/-- FAB_ERR.IN_REFUSED, bit 1, W1C, resets to 0 (R349). -/
abbrev FAB_ERR.IN_REFUSED : Fld := ⟨FAB_ERR.pos, 1, 1, .w1c, 0⟩
/-- FAB_ERR.RELAY_CRC, bit 2, W1C, resets to 0 (R349). -/
abbrev FAB_ERR.RELAY_CRC : Fld := ⟨FAB_ERR.pos, 2, 1, .w1c, 0⟩
/-- FAB_ERR.RELAY_LATE, bit 3, W1C, resets to 0 (R349). -/
abbrev FAB_ERR.RELAY_LATE : Fld := ⟨FAB_ERR.pos, 3, 1, .w1c, 0⟩
/-- FAB_ERR.INBOX_FULL, bit 4, W1C, resets to 0 (R349). -/
abbrev FAB_ERR.INBOX_FULL : Fld := ⟨FAB_ERR.pos, 4, 1, .w1c, 0⟩
/-- FAB_ERR.MULTIPLE, bit 5, W1C, resets to 0 (R349). -/
abbrev FAB_ERR.MULTIPLE : Fld := ⟨FAB_ERR.pos, 5, 1, .w1c, 0⟩
/-- FAB_ERR.FIRST_FID, bits 27:16, RO, resets to 0 (R349). -/
abbrev FAB_ERR.FIRST_FID : Fld := ⟨FAB_ERR.pos, 16, 12, .ro, 0⟩
/-- FAB_ERR, whole (R349). -/
abbrev FAB_ERR.reg : Reg := ⟨FAB_ERR.pos, [FAB_ERR.WIN_RO, FAB_ERR.IN_REFUSED, FAB_ERR.RELAY_CRC, FAB_ERR.RELAY_LATE, FAB_ERR.INBOX_FULL, FAB_ERR.MULTIPLE, FAB_ERR.FIRST_FID]⟩
/-- FAB_RELAY_CFG: where it lies (R350). -/
abbrev FAB_RELAY_CFG.pos : RegPos := ⟨0x130018, (.flat 0), 1, 0x0, 1⟩
/-- FAB_RELAY_CFG.DEF_DEADLINE, bits 15:0, RW, resets to 50 (R350). -/
abbrev FAB_RELAY_CFG.DEF_DEADLINE : Fld := ⟨FAB_RELAY_CFG.pos, 0, 16, .rw, 50⟩
/-- FAB_RELAY_CFG.POISON_INCOMPLETE, bit 16, RW, resets to 1 (R350). -/
abbrev FAB_RELAY_CFG.POISON_INCOMPLETE : Fld := ⟨FAB_RELAY_CFG.pos, 16, 1, .rw, 1⟩
/-- FAB_RELAY_CFG.CRC_CHECK, bit 17, RW, resets to 1 (R350). -/
abbrev FAB_RELAY_CFG.CRC_CHECK : Fld := ⟨FAB_RELAY_CFG.pos, 17, 1, .rw, 1⟩
/-- FAB_RELAY_CFG.INBOX_EN, bit 18, RW, resets to 0 (R350). -/
abbrev FAB_RELAY_CFG.INBOX_EN : Fld := ⟨FAB_RELAY_CFG.pos, 18, 1, .rw, 0⟩
/-- FAB_RELAY_CFG.BUF, bits 51:20, RW, resets to 0 (R350). -/
abbrev FAB_RELAY_CFG.BUF : Fld := ⟨FAB_RELAY_CFG.pos, 20, 32, .rw, 0⟩
/-- FAB_RELAY_CFG, whole (R350). -/
abbrev FAB_RELAY_CFG.reg : Reg := ⟨FAB_RELAY_CFG.pos, [FAB_RELAY_CFG.DEF_DEADLINE, FAB_RELAY_CFG.POISON_INCOMPLETE, FAB_RELAY_CFG.CRC_CHECK, FAB_RELAY_CFG.INBOX_EN, FAB_RELAY_CFG.BUF]⟩
/-- FAB_RELAY_CNT: where it lies (R351). -/
abbrev FAB_RELAY_CNT.pos : RegPos := ⟨0x130020, (.flat 0), 1, 0x0, 1⟩
/-- FAB_RELAY_CNT.CRC_DROPS, bits 15:0, RC, resets to 0 (R351). -/
abbrev FAB_RELAY_CNT.CRC_DROPS : Fld := ⟨FAB_RELAY_CNT.pos, 0, 16, .rc, 0⟩
/-- FAB_RELAY_CNT.LATE, bits 31:16, RC, resets to 0 (R351). -/
abbrev FAB_RELAY_CNT.LATE : Fld := ⟨FAB_RELAY_CNT.pos, 16, 16, .rc, 0⟩
/-- FAB_RELAY_CNT.STALE, bits 47:32, RC, resets to 0 (R351). -/
abbrev FAB_RELAY_CNT.STALE : Fld := ⟨FAB_RELAY_CNT.pos, 32, 16, .rc, 0⟩
/-- FAB_RELAY_CNT.REFUSED, bits 63:48, RC, resets to 0 (R351). -/
abbrev FAB_RELAY_CNT.REFUSED : Fld := ⟨FAB_RELAY_CNT.pos, 48, 16, .rc, 0⟩
/-- FAB_RELAY_CNT, whole (R351). -/
abbrev FAB_RELAY_CNT.reg : Reg := ⟨FAB_RELAY_CNT.pos, [FAB_RELAY_CNT.CRC_DROPS, FAB_RELAY_CNT.LATE, FAB_RELAY_CNT.STALE, FAB_RELAY_CNT.REFUSED]⟩
/-- FAB_RESP: where it lies (R352). -/
abbrev FAB_RESP.pos : RegPos := ⟨0x130028, (.flat 0), 1, 0x0, 1⟩
/-- FAB_RESP.TIMER_POISON, bits 15:0, RC, resets to 0 (R352). -/
abbrev FAB_RESP.TIMER_POISON : Fld := ⟨FAB_RESP.pos, 0, 16, .rc, 0⟩
/-- FAB_RESP.WRITE_LOST, bits 31:16, RC, resets to 0 (R352). -/
abbrev FAB_RESP.WRITE_LOST : Fld := ⟨FAB_RESP.pos, 16, 16, .rc, 0⟩
/-- FAB_RESP.UNMAPPED, bits 47:32, RC, resets to 0 (R352). -/
abbrev FAB_RESP.UNMAPPED : Fld := ⟨FAB_RESP.pos, 32, 16, .rc, 0⟩
/-- FAB_RESP.EARLY, bits 63:48, RC, resets to 0 (R352). -/
abbrev FAB_RESP.EARLY : Fld := ⟨FAB_RESP.pos, 48, 16, .rc, 0⟩
/-- FAB_RESP, whole (R352). -/
abbrev FAB_RESP.reg : Reg := ⟨FAB_RESP.pos, [FAB_RESP.TIMER_POISON, FAB_RESP.WRITE_LOST, FAB_RESP.UNMAPPED, FAB_RESP.EARLY]⟩
/-- FAB_BI_ADDR: where it lies (R353). -/
abbrev FAB_BI_ADDR.pos : RegPos := ⟨0x130030, (.flat 0), 1, 0x0, 1⟩
/-- FAB_BI_ADDR.ADDR, bits 51:6, RW, resets to 0 (R353). -/
abbrev FAB_BI_ADDR.ADDR : Fld := ⟨FAB_BI_ADDR.pos, 6, 46, .rw, 0⟩
/-- FAB_BI_ADDR, whole (R353). -/
abbrev FAB_BI_ADDR.reg : Reg := ⟨FAB_BI_ADDR.pos, [FAB_BI_ADDR.ADDR]⟩
/-- FAB_BI_CTL: where it lies (R353). -/
abbrev FAB_BI_CTL.pos : RegPos := ⟨0x130038, (.flat 0), 1, 0x0, 1⟩
/-- FAB_BI_CTL.LINES, bits 31:0, RW, resets to 0 (R353). -/
abbrev FAB_BI_CTL.LINES : Fld := ⟨FAB_BI_CTL.pos, 0, 32, .rw, 0⟩
/-- FAB_BI_CTL.GO, bit 32, WO, resets to 0 (R353). -/
abbrev FAB_BI_CTL.GO : Fld := ⟨FAB_BI_CTL.pos, 32, 1, .wo, 0⟩
/-- FAB_BI_CTL.BUSY, bit 33, RO, resets to 0 (R353). -/
abbrev FAB_BI_CTL.BUSY : Fld := ⟨FAB_BI_CTL.pos, 33, 1, .ro, 0⟩
/-- FAB_BI_CTL.SF_FULL, bits 63:48, RC, resets to 0 (R353). -/
abbrev FAB_BI_CTL.SF_FULL : Fld := ⟨FAB_BI_CTL.pos, 48, 16, .rc, 0⟩
/-- FAB_BI_CTL, whole (R353). -/
abbrev FAB_BI_CTL.reg : Reg := ⟨FAB_BI_CTL.pos, [FAB_BI_CTL.LINES, FAB_BI_CTL.GO, FAB_BI_CTL.BUSY, FAB_BI_CTL.SF_FULL]⟩
/-- FAB_WIN_A: where it lies (R354). -/
abbrev FAB_WIN_A.pos : RegPos := ⟨0x131000, (.flat 16), 63, 0x0, 1⟩
/-- FAB_WIN_A.EN, bit 0, RW, resets to 0 (R354). -/
abbrev FAB_WIN_A.EN : Fld := ⟨FAB_WIN_A.pos, 0, 1, .rw, 0⟩
/-- FAB_WIN_A.CACHE, bit 1, RW, resets to 0 (R354). -/
abbrev FAB_WIN_A.CACHE : Fld := ⟨FAB_WIN_A.pos, 1, 1, .rw, 0⟩
/-- FAB_WIN_A.HOST, bit 2, RW, resets to 0 (R354). -/
abbrev FAB_WIN_A.HOST : Fld := ⟨FAB_WIN_A.pos, 2, 1, .rw, 0⟩
/-- FAB_WIN_A.WRITE, bit 3, RW, resets to 0 (R354). -/
abbrev FAB_WIN_A.WRITE : Fld := ⟨FAB_WIN_A.pos, 3, 1, .rw, 0⟩
/-- FAB_WIN_A.LOG2SIZE, bits 13:8, RW, resets to 30 (R354). -/
abbrev FAB_WIN_A.LOG2SIZE : Fld := ⟨FAB_WIN_A.pos, 8, 6, .rw, 30⟩
/-- FAB_WIN_A.LBASE, bits 51:30, RW, resets to 0 (R354). -/
abbrev FAB_WIN_A.LBASE : Fld := ⟨FAB_WIN_A.pos, 30, 22, .rw, 0⟩
/-- FAB_WIN_A, whole (R354). -/
abbrev FAB_WIN_A.reg : Reg := ⟨FAB_WIN_A.pos, [FAB_WIN_A.EN, FAB_WIN_A.CACHE, FAB_WIN_A.HOST, FAB_WIN_A.WRITE, FAB_WIN_A.LOG2SIZE, FAB_WIN_A.LBASE]⟩
/-- FAB_WIN_B: where it lies (R354). -/
abbrev FAB_WIN_B.pos : RegPos := ⟨0x131008, (.flat 16), 63, 0x0, 1⟩
/-- FAB_WIN_B.TBASE, bits 63:30, RW, resets to 0 (R354). -/
abbrev FAB_WIN_B.TBASE : Fld := ⟨FAB_WIN_B.pos, 30, 34, .rw, 0⟩
/-- FAB_WIN_B, whole (R354). -/
abbrev FAB_WIN_B.reg : Reg := ⟨FAB_WIN_B.pos, [FAB_WIN_B.TBASE]⟩
/-- FAB_INWIN: where it lies (R355). -/
abbrev FAB_INWIN.pos : RegPos := ⟨0x132000, (.flat 8), 8, 0x0, 1⟩
/-- FAB_INWIN.EN, bit 0, RW, resets to 0 (R355). -/
abbrev FAB_INWIN.EN : Fld := ⟨FAB_INWIN.pos, 0, 1, .rw, 0⟩
/-- FAB_INWIN.WRITE, bit 1, RW, resets to 0 (R355). -/
abbrev FAB_INWIN.WRITE : Fld := ⟨FAB_INWIN.pos, 1, 1, .rw, 0⟩
/-- FAB_INWIN.LOG2SIZE, bits 7:2, RW, resets to 20 (R355). -/
abbrev FAB_INWIN.LOG2SIZE : Fld := ⟨FAB_INWIN.pos, 2, 6, .rw, 20⟩
/-- FAB_INWIN.LBASE, bits 51:20, RW, resets to 0 (R355). -/
abbrev FAB_INWIN.LBASE : Fld := ⟨FAB_INWIN.pos, 20, 32, .rw, 0⟩
/-- FAB_INWIN, whole (R355). -/
abbrev FAB_INWIN.reg : Reg := ⟨FAB_INWIN.pos, [FAB_INWIN.EN, FAB_INWIN.WRITE, FAB_INWIN.LOG2SIZE, FAB_INWIN.LBASE]⟩
/-- GDR_CFG: where it lies (R372). -/
abbrev GDR_CFG.pos : RegPos := ⟨0x140000, (.flat 0), 1, 0x0, 1⟩
/-- GDR_CFG.CHAN_MASK, bits 7:0, RWL, resets to 0 (R372). -/
abbrev GDR_CFG.CHAN_MASK : Fld := ⟨GDR_CFG.pos, 0, 8, .rwl, 0⟩
/-- GDR_CFG.CLAMSHELL, bit 8, RWL, resets to 0 (R372). -/
abbrev GDR_CFG.CLAMSHELL : Fld := ⟨GDR_CFG.pos, 8, 1, .rwl, 0⟩
/-- GDR_CFG.DENSITY, bit 9, RWL, resets to 0 (R372). -/
abbrev GDR_CFG.DENSITY : Fld := ⟨GDR_CFG.pos, 9, 1, .rwl, 0⟩
/-- GDR_CFG.RATE, bits 11:10, RWL, resets to 0 (R372). -/
abbrev GDR_CFG.RATE : Fld := ⟨GDR_CFG.pos, 10, 2, .rwl, 0⟩
/-- GDR_CFG.RETRY, bit 12, WO, resets to 0 (R372). -/
abbrev GDR_CFG.RETRY : Fld := ⟨GDR_CFG.pos, 12, 1, .wo, 0⟩
/-- GDR_CFG.RETRAIN_MS, bits 23:16, RW, resets to 100 (R372). -/
abbrev GDR_CFG.RETRAIN_MS : Fld := ⟨GDR_CFG.pos, 16, 8, .rw, 100⟩
/-- GDR_CFG.WCB_AGE_US, bits 31:24, RW, resets to 2 (R372). -/
abbrev GDR_CFG.WCB_AGE_US : Fld := ⟨GDR_CFG.pos, 24, 8, .rw, 2⟩
/-- GDR_CFG, whole (R372). -/
abbrev GDR_CFG.reg : Reg := ⟨GDR_CFG.pos, [GDR_CFG.CHAN_MASK, GDR_CFG.CLAMSHELL, GDR_CFG.DENSITY, GDR_CFG.RATE, GDR_CFG.RETRY, GDR_CFG.RETRAIN_MS, GDR_CFG.WCB_AGE_US]⟩
/-- GDR_STATUS: where it lies (R373). -/
abbrev GDR_STATUS.pos : RegPos := ⟨0x140008, (.flat 0), 1, 0x0, 1⟩
/-- GDR_STATUS.STATE, bits 2:0, RO, resets to 0 (R373). -/
abbrev GDR_STATUS.STATE : Fld := ⟨GDR_STATUS.pos, 0, 3, .ro, 0⟩
/-- GDR_STATUS.CHANNELS, bits 6:3, RO, resets to 0 (R373). -/
abbrev GDR_STATUS.CHANNELS : Fld := ⟨GDR_STATUS.pos, 3, 4, .ro, 0⟩
/-- GDR_STATUS.USABLE, bits 31:16, RO, resets to 0 (R373). -/
abbrev GDR_STATUS.USABLE : Fld := ⟨GDR_STATUS.pos, 16, 16, .ro, 0⟩
/-- GDR_STATUS.WCB_USED, bits 38:32, RO, resets to 0 (R373). -/
abbrev GDR_STATUS.WCB_USED : Fld := ⟨GDR_STATUS.pos, 32, 7, .ro, 0⟩
/-- GDR_STATUS, whole (R373). -/
abbrev GDR_STATUS.reg : Reg := ⟨GDR_STATUS.pos, [GDR_STATUS.STATE, GDR_STATUS.CHANNELS, GDR_STATUS.USABLE, GDR_STATUS.WCB_USED]⟩
/-- GDR_ERR: where it lies (R374). -/
abbrev GDR_ERR.pos : RegPos := ⟨0x140010, (.flat 0), 1, 0x0, 1⟩
/-- GDR_ERR.TRAIN_FAIL, bit 0, W1C, resets to 0 (R374). -/
abbrev GDR_ERR.TRAIN_FAIL : Fld := ⟨GDR_ERR.pos, 0, 1, .w1c, 0⟩
/-- GDR_ERR.UNCORR, bit 1, W1C, resets to 0 (R374). -/
abbrev GDR_ERR.UNCORR : Fld := ⟨GDR_ERR.pos, 1, 1, .w1c, 0⟩
/-- GDR_ERR.ADDR_MISMATCH, bit 2, W1C, resets to 0 (R374). -/
abbrev GDR_ERR.ADDR_MISMATCH : Fld := ⟨GDR_ERR.pos, 2, 1, .w1c, 0⟩
/-- GDR_ERR.DRIFT, bit 3, W1C, resets to 0 (R374). -/
abbrev GDR_ERR.DRIFT : Fld := ⟨GDR_ERR.pos, 3, 1, .w1c, 0⟩
/-- GDR_ERR.MULTIPLE, bit 4, W1C, resets to 0 (R374). -/
abbrev GDR_ERR.MULTIPLE : Fld := ⟨GDR_ERR.pos, 4, 1, .w1c, 0⟩
/-- GDR_ERR.FIRST_U, bits 51:16, RO, resets to 0 (R374). -/
abbrev GDR_ERR.FIRST_U : Fld := ⟨GDR_ERR.pos, 16, 36, .ro, 0⟩
/-- GDR_ERR, whole (R374). -/
abbrev GDR_ERR.reg : Reg := ⟨GDR_ERR.pos, [GDR_ERR.TRAIN_FAIL, GDR_ERR.UNCORR, GDR_ERR.ADDR_MISMATCH, GDR_ERR.DRIFT, GDR_ERR.MULTIPLE, GDR_ERR.FIRST_U]⟩
/-- GDR_WCB: where it lies (R375). -/
abbrev GDR_WCB.pos : RegPos := ⟨0x140018, (.flat 0), 1, 0x0, 1⟩
/-- GDR_WCB.FULL, bits 31:0, RC, resets to 0 (R375). -/
abbrev GDR_WCB.FULL : Fld := ⟨GDR_WCB.pos, 0, 32, .rc, 0⟩
/-- GDR_WCB.MERGE_READS, bits 63:32, RC, resets to 0 (R375). -/
abbrev GDR_WCB.MERGE_READS : Fld := ⟨GDR_WCB.pos, 32, 32, .rc, 0⟩
/-- GDR_WCB, whole (R375). -/
abbrev GDR_WCB.reg : Reg := ⟨GDR_WCB.pos, [GDR_WCB.FULL, GDR_WCB.MERGE_READS]⟩
/-- GDR_CHAN: where it lies (R376). -/
abbrev GDR_CHAN.pos : RegPos := ⟨0x140100, (.flat 8), 8, 0x0, 1⟩
/-- GDR_CHAN.TRAINED, bit 0, RO, resets to 0 (R376). -/
abbrev GDR_CHAN.TRAINED : Fld := ⟨GDR_CHAN.pos, 0, 1, .ro, 0⟩
/-- GDR_CHAN.FAILED, bit 1, RO, resets to 0 (R376). -/
abbrev GDR_CHAN.FAILED : Fld := ⟨GDR_CHAN.pos, 1, 1, .ro, 0⟩
/-- GDR_CHAN.DRIFT, bit 2, RO, resets to 0 (R376). -/
abbrev GDR_CHAN.DRIFT : Fld := ⟨GDR_CHAN.pos, 2, 1, .ro, 0⟩
/-- GDR_CHAN.CORR, bits 31:8, RC, resets to 0 (R376). -/
abbrev GDR_CHAN.CORR : Fld := ⟨GDR_CHAN.pos, 8, 24, .rc, 0⟩
/-- GDR_CHAN.RETRAINS, bits 47:32, RC, resets to 0 (R376). -/
abbrev GDR_CHAN.RETRAINS : Fld := ⟨GDR_CHAN.pos, 32, 16, .rc, 0⟩
/-- GDR_CHAN.UNCORR, bits 63:48, RC, resets to 0 (R376). -/
abbrev GDR_CHAN.UNCORR : Fld := ⟨GDR_CHAN.pos, 48, 16, .rc, 0⟩
/-- GDR_CHAN, whole (R376). -/
abbrev GDR_CHAN.reg : Reg := ⟨GDR_CHAN.pos, [GDR_CHAN.TRAINED, GDR_CHAN.FAILED, GDR_CHAN.DRIFT, GDR_CHAN.CORR, GDR_CHAN.RETRAINS, GDR_CHAN.UNCORR]⟩
/-- THM_STATUS: where it lies (R439). -/
abbrev THM_STATUS.pos : RegPos := ⟨0x50000, (.flat 0), 1, 0x0, 1⟩
/-- THM_STATUS.TJ_MAX, bits 11:0, RO, resets to 0 (R439). -/
abbrev THM_STATUS.TJ_MAX : Fld := ⟨THM_STATUS.pos, 0, 12, .ro, 0⟩
/-- THM_STATUS.TJ_DIE, bits 13:12, RO, resets to 0 (R439). -/
abbrev THM_STATUS.TJ_DIE : Fld := ⟨THM_STATUS.pos, 12, 2, .ro, 0⟩
/-- THM_STATUS.TJ_UNIT, bits 21:14, RO, resets to 0 (R439). -/
abbrev THM_STATUS.TJ_UNIT : Fld := ⟨THM_STATUS.pos, 14, 8, .ro, 0⟩
/-- THM_STATUS.DRAM_MAX, bits 35:24, RO, resets to 0 (R439). -/
abbrev THM_STATUS.DRAM_MAX : Fld := ⟨THM_STATUS.pos, 24, 12, .ro, 0⟩
/-- THM_STATUS.DRAM_COL, bits 42:36, RO, resets to 0 (R439). -/
abbrev THM_STATUS.DRAM_COL : Fld := ⟨THM_STATUS.pos, 36, 7, .ro, 0⟩
/-- THM_STATUS.DRAM_LAYER, bits 46:43, RO, resets to 0 (R439). -/
abbrev THM_STATUS.DRAM_LAYER : Fld := ⟨THM_STATUS.pos, 43, 4, .ro, 0⟩
/-- THM_STATUS.BAND_MAX, bits 49:48, RO, resets to 0 (R439). -/
abbrev THM_STATUS.BAND_MAX : Fld := ⟨THM_STATUS.pos, 48, 2, .ro, 0⟩
/-- THM_STATUS.COOL, bits 51:50, RO, resets to 0 (R439). -/
abbrev THM_STATUS.COOL : Fld := ⟨THM_STATUS.pos, 50, 2, .ro, 0⟩
/-- THM_STATUS.SENSOR_FAULT, bit 52, W1C, resets to 0 (R439). -/
abbrev THM_STATUS.SENSOR_FAULT : Fld := ⟨THM_STATUS.pos, 52, 1, .w1c, 0⟩
/-- THM_STATUS.LIMIT, bits 63:54, RO, resets to 600 (R439). -/
abbrev THM_STATUS.LIMIT : Fld := ⟨THM_STATUS.pos, 54, 10, .ro, 600⟩
/-- THM_STATUS, whole (R439). -/
abbrev THM_STATUS.reg : Reg := ⟨THM_STATUS.pos, [THM_STATUS.TJ_MAX, THM_STATUS.TJ_DIE, THM_STATUS.TJ_UNIT, THM_STATUS.DRAM_MAX, THM_STATUS.DRAM_COL, THM_STATUS.DRAM_LAYER, THM_STATUS.BAND_MAX, THM_STATUS.COOL, THM_STATUS.SENSOR_FAULT, THM_STATUS.LIMIT]⟩
/-- THM_RISE: where it lies (R440). -/
abbrev THM_RISE.pos : RegPos := ⟨0x50008, (.flat 0), 1, 0x0, 1⟩
/-- THM_RISE.X, bits 11:0, RO, resets to 0 (R440). -/
abbrev THM_RISE.X : Fld := ⟨THM_RISE.pos, 0, 12, .ro, 0⟩
/-- THM_RISE.RATE_10MS, bits 27:16, RO, resets to 0 (R440). -/
abbrev THM_RISE.RATE_10MS : Fld := ⟨THM_RISE.pos, 16, 12, .ro, 0⟩
/-- THM_RISE.RATE_1S, bits 43:32, RO, resets to 0 (R440). -/
abbrev THM_RISE.RATE_1S : Fld := ⟨THM_RISE.pos, 32, 12, .ro, 0⟩
/-- THM_RISE.FORECAST, bits 63:48, RO, resets to 65535 (R440). -/
abbrev THM_RISE.FORECAST : Fld := ⟨THM_RISE.pos, 48, 16, .ro, 65535⟩
/-- THM_RISE, whole (R440). -/
abbrev THM_RISE.reg : Reg := ⟨THM_RISE.pos, [THM_RISE.X, THM_RISE.RATE_10MS, THM_RISE.RATE_1S, THM_RISE.FORECAST]⟩
/-- THM_CFG: where it lies (R441). -/
abbrev THM_CFG.pos : RegPos := ⟨0x50010, (.flat 0), 1, 0x0, 1⟩
/-- THM_CFG.COOL_SLOW, bits 7:0, RW, resets to 10 (R441). -/
abbrev THM_CFG.COOL_SLOW : Fld := ⟨THM_CFG.pos, 0, 8, .rw, 10⟩
/-- THM_CFG.XDEG, bits 15:8, RW, resets to 32 (R441). -/
abbrev THM_CFG.XDEG : Fld := ⟨THM_CFG.pos, 8, 8, .rw, 32⟩
/-- THM_CFG.STEP_W, bits 22:16, RW, resets to 50 (R441). -/
abbrev THM_CFG.STEP_W : Fld := ⟨THM_CFG.pos, 16, 7, .rw, 50⟩
/-- THM_CFG.STEP_S, bits 31:24, RW, resets to 5 (R441). -/
abbrev THM_CFG.STEP_S : Fld := ⟨THM_CFG.pos, 24, 8, .rw, 5⟩
/-- THM_CFG.R_LID, bits 41:32, RW, resets to 150 (R441). -/
abbrev THM_CFG.R_LID : Fld := ⟨THM_CFG.pos, 32, 10, .rw, 150⟩
/-- THM_CFG.R_JUNC, bits 51:42, RW, resets to 450 (R441). -/
abbrev THM_CFG.R_JUNC : Fld := ⟨THM_CFG.pos, 42, 10, .rw, 450⟩
/-- THM_CFG.TAU_MS, bits 63:52, RW, resets to 40 (R441). -/
abbrev THM_CFG.TAU_MS : Fld := ⟨THM_CFG.pos, 52, 12, .rw, 40⟩
/-- THM_CFG, whole (R441). -/
abbrev THM_CFG.reg : Reg := ⟨THM_CFG.pos, [THM_CFG.COOL_SLOW, THM_CFG.XDEG, THM_CFG.STEP_W, THM_CFG.STEP_S, THM_CFG.R_LID, THM_CFG.R_JUNC, THM_CFG.TAU_MS]⟩
/-- THM_BAND: where it lies (R442). -/
abbrev THM_BAND.pos : RegPos := ⟨0x50100, (.flat 0), 1, 0x8, 4⟩
/-- THM_BAND.BAND, bits 63:0, RO, resets to 0 (R442). -/
abbrev THM_BAND.BAND : Fld := ⟨THM_BAND.pos, 0, 64, .ro, 0⟩
/-- THM_BAND, whole (R442). -/
abbrev THM_BAND.reg : Reg := ⟨THM_BAND.pos, [THM_BAND.BAND]⟩
/-- THM_RISEHIST: where it lies (R443). -/
abbrev THM_RISEHIST.pos : RegPos := ⟨0x50200, (.flat 0), 1, 0x0, 1⟩
/-- THM_RISEHIST.BINS, bits 63:0, RC, resets to 0 (R443). -/
abbrev THM_RISEHIST.BINS : Fld := ⟨THM_RISEHIST.pos, 0, 64, .rc, 0⟩
/-- THM_RISEHIST, whole (R443). -/
abbrev THM_RISEHIST.reg : Reg := ⟨THM_RISEHIST.pos, [THM_RISEHIST.BINS]⟩
/-- THM_COOLANT: where it lies (R391). -/
abbrev THM_COOLANT.pos : RegPos := ⟨0x50400, (.flat 0), 1, 0x0, 1⟩
/-- THM_COOLANT.INLET, bits 11:0, RW, resets to 0 (R391). -/
abbrev THM_COOLANT.INLET : Fld := ⟨THM_COOLANT.pos, 0, 12, .rw, 0⟩
/-- THM_COOLANT.INLET_VALID, bit 12, RW, resets to 0 (R391). -/
abbrev THM_COOLANT.INLET_VALID : Fld := ⟨THM_COOLANT.pos, 12, 1, .rw, 0⟩
/-- THM_COOLANT.FLOW, bits 27:16, RW, resets to 0 (R391). -/
abbrev THM_COOLANT.FLOW : Fld := ⟨THM_COOLANT.pos, 16, 12, .rw, 0⟩
/-- THM_COOLANT.FLOW_VALID, bit 28, RW, resets to 0 (R391). -/
abbrev THM_COOLANT.FLOW_VALID : Fld := ⟨THM_COOLANT.pos, 28, 1, .rw, 0⟩
/-- THM_COOLANT.STALE, bits 39:32, RW, resets to 30 (R391). -/
abbrev THM_COOLANT.STALE : Fld := ⟨THM_COOLANT.pos, 32, 8, .rw, 30⟩
/-- THM_COOLANT.AGE, bits 47:40, RO, resets to 0 (R391). -/
abbrev THM_COOLANT.AGE : Fld := ⟨THM_COOLANT.pos, 40, 8, .ro, 0⟩
/-- THM_COOLANT, whole (R391). -/
abbrev THM_COOLANT.reg : Reg := ⟨THM_COOLANT.pos, [THM_COOLANT.INLET, THM_COOLANT.INLET_VALID, THM_COOLANT.FLOW, THM_COOLANT.FLOW_VALID, THM_COOLANT.STALE, THM_COOLANT.AGE]⟩
/-- TK_TIME: where it lies (R444). -/
abbrev TK_TIME.pos : RegPos := ⟨0x60000, (.flat 0), 1, 0x0, 1⟩
/-- TK_TIME.US, bits 63:0, RO, resets to 0 (R444). -/
abbrev TK_TIME.US : Fld := ⟨TK_TIME.pos, 0, 64, .ro, 0⟩
/-- TK_TIME, whole (R444). -/
abbrev TK_TIME.reg : Reg := ⟨TK_TIME.pos, [TK_TIME.US]⟩
/-- TK_OSC: where it lies (R445). -/
abbrev TK_OSC.pos : RegPos := ⟨0x60008, (.flat 0), 1, 0x0, 1⟩
/-- TK_OSC.DISCIPLINED, bit 0, RO, resets to 0 (R445). -/
abbrev TK_OSC.DISCIPLINED : Fld := ⟨TK_OSC.pos, 0, 1, .ro, 0⟩
/-- TK_OSC.NO_SLOWCLK, bit 1, RO, resets to 1 (R445). -/
abbrev TK_OSC.NO_SLOWCLK : Fld := ⟨TK_OSC.pos, 1, 1, .ro, 1⟩
/-- TK_OSC.TRIM, bits 15:8, RO, resets to 0 (R445). -/
abbrev TK_OSC.TRIM : Fld := ⟨TK_OSC.pos, 8, 8, .ro, 0⟩
/-- TK_OSC.ERR_PPM, bits 31:16, RO, resets to 0 (R445). -/
abbrev TK_OSC.ERR_PPM : Fld := ⟨TK_OSC.pos, 16, 16, .ro, 0⟩
/-- TK_OSC, whole (R445). -/
abbrev TK_OSC.reg : Reg := ⟨TK_OSC.pos, [TK_OSC.DISCIPLINED, TK_OSC.NO_SLOWCLK, TK_OSC.TRIM, TK_OSC.ERR_PPM]⟩
/-- TK_HOLD: where it lies (R446). -/
abbrev TK_HOLD.pos : RegPos := ⟨0x60010, (.flat 0), 1, 0x0, 1⟩
/-- TK_HOLD.HELD, bit 0, RO, resets to 0 (R446). -/
abbrev TK_HOLD.HELD : Fld := ⟨TK_HOLD.pos, 0, 1, .ro, 0⟩
/-- TK_HOLD.FORCE, bit 1, RWL, resets to 0 (R446). -/
abbrev TK_HOLD.FORCE : Fld := ⟨TK_HOLD.pos, 1, 1, .rwl, 0⟩
/-- TK_HOLD.REASON, bits 7:4, RO, resets to 0 (R446). -/
abbrev TK_HOLD.REASON : Fld := ⟨TK_HOLD.pos, 4, 4, .ro, 0⟩
/-- TK_HOLD.ENTRIES, bits 31:16, RC, resets to 0 (R446). -/
abbrev TK_HOLD.ENTRIES : Fld := ⟨TK_HOLD.pos, 16, 16, .rc, 0⟩
/-- TK_HOLD.LAST_MS, bits 63:32, RO, resets to 0 (R446). -/
abbrev TK_HOLD.LAST_MS : Fld := ⟨TK_HOLD.pos, 32, 32, .ro, 0⟩
/-- TK_HOLD, whole (R446). -/
abbrev TK_HOLD.reg : Reg := ⟨TK_HOLD.pos, [TK_HOLD.HELD, TK_HOLD.FORCE, TK_HOLD.REASON, TK_HOLD.ENTRIES, TK_HOLD.LAST_MS]⟩
/-- TK_PACE: where it lies (R447). -/
abbrev TK_PACE.pos : RegPos := ⟨0x60018, (.flat 0), 1, 0x0, 1⟩
/-- TK_PACE.EN, bit 0, RW, resets to 0 (R447). -/
abbrev TK_PACE.EN : Fld := ⟨TK_PACE.pos, 0, 1, .rw, 0⟩
/-- TK_PACE.START, bit 1, WO, resets to 0 (R447). -/
abbrev TK_PACE.START : Fld := ⟨TK_PACE.pos, 1, 1, .wo, 0⟩
/-- TK_PACE.RUNNING, bit 2, RO, resets to 0 (R447). -/
abbrev TK_PACE.RUNNING : Fld := ⟨TK_PACE.pos, 2, 1, .ro, 0⟩
/-- TK_PACE.CUR, bits 6:3, RO, resets to 0 (R447). -/
abbrev TK_PACE.CUR : Fld := ⟨TK_PACE.pos, 3, 4, .ro, 0⟩
/-- TK_PACE.LEAD_MS, bits 15:8, RW, resets to 20 (R447). -/
abbrev TK_PACE.LEAD_MS : Fld := ⟨TK_PACE.pos, 8, 8, .rw, 20⟩
/-- TK_PACE.SWING_W, bits 25:16, RW, resets to 300 (R447). -/
abbrev TK_PACE.SWING_W : Fld := ⟨TK_PACE.pos, 16, 10, .rw, 300⟩
/-- TK_PACE.SPREAD_MS, bits 35:26, RW, resets to 80 (R447). -/
abbrev TK_PACE.SPREAD_MS : Fld := ⟨TK_PACE.pos, 26, 10, .rw, 80⟩
/-- TK_PACE, whole (R447). -/
abbrev TK_PACE.reg : Reg := ⟨TK_PACE.pos, [TK_PACE.EN, TK_PACE.START, TK_PACE.RUNNING, TK_PACE.CUR, TK_PACE.LEAD_MS, TK_PACE.SWING_W, TK_PACE.SPREAD_MS]⟩
/-- TK_PLAN: where it lies (R448). -/
abbrev TK_PLAN.pos : RegPos := ⟨0x60100, (.flat 0), 1, 0x8, 16⟩
/-- TK_PLAN.KIND, bits 1:0, RW, resets to 0 (R448). -/
abbrev TK_PLAN.KIND : Fld := ⟨TK_PLAN.pos, 0, 2, .rw, 0⟩
/-- TK_PLAN.VALID, bit 2, RW, resets to 0 (R448). -/
abbrev TK_PLAN.VALID : Fld := ⟨TK_PLAN.pos, 2, 1, .rw, 0⟩
/-- TK_PLAN.DURATION_MS, bits 31:8, RW, resets to 0 (R448). -/
abbrev TK_PLAN.DURATION_MS : Fld := ⟨TK_PLAN.pos, 8, 24, .rw, 0⟩
/-- TK_PLAN.POWER_W, bits 42:32, RW, resets to 0 (R448). -/
abbrev TK_PLAN.POWER_W : Fld := ⟨TK_PLAN.pos, 32, 11, .rw, 0⟩
/-- TK_PLAN, whole (R448). -/
abbrev TK_PLAN.reg : Reg := ⟨TK_PLAN.pos, [TK_PLAN.KIND, TK_PLAN.VALID, TK_PLAN.DURATION_MS, TK_PLAN.POWER_W]⟩
/-- PWR_STATUS: where it lies (R413). -/
abbrev PWR_STATUS.pos : RegPos := ⟨0x40000, (.flat 0), 1, 0x0, 1⟩
/-- PWR_STATUS.STATE, bits 2:0, RO, resets to 0 (R413). -/
abbrev PWR_STATUS.STATE : Fld := ⟨PWR_STATUS.pos, 0, 3, .ro, 0⟩
/-- PWR_STATUS.SPRINT, bit 3, RO, resets to 0 (R413). -/
abbrev PWR_STATUS.SPRINT : Fld := ⟨PWR_STATUS.pos, 3, 1, .ro, 0⟩
/-- PWR_STATUS.SAG_12V, bits 5:4, RO, resets to 0 (R413). -/
abbrev PWR_STATUS.SAG_12V : Fld := ⟨PWR_STATUS.pos, 4, 2, .ro, 0⟩
/-- PWR_STATUS.SAG_AON, bits 7:6, RO, resets to 0 (R413). -/
abbrev PWR_STATUS.SAG_AON : Fld := ⟨PWR_STATUS.pos, 6, 2, .ro, 0⟩
/-- PWR_STATUS.ARRAY_TRIM, bit 8, RO, resets to 0 (R413). -/
abbrev PWR_STATUS.ARRAY_TRIM : Fld := ⟨PWR_STATUS.pos, 8, 1, .ro, 0⟩
/-- PWR_STATUS.STACK_TRIM, bit 9, RO, resets to 0 (R413). -/
abbrev PWR_STATUS.STACK_TRIM : Fld := ⟨PWR_STATUS.pos, 9, 1, .ro, 0⟩
/-- PWR_STATUS.HOLD_BUDGET, bit 10, RO, resets to 0 (R413). -/
abbrev PWR_STATUS.HOLD_BUDGET : Fld := ⟨PWR_STATUS.pos, 10, 1, .ro, 0⟩
/-- PWR_STATUS.P_100US, bits 26:16, RO, resets to 0 (R413). -/
abbrev PWR_STATUS.P_100US : Fld := ⟨PWR_STATUS.pos, 16, 11, .ro, 0⟩
/-- PWR_STATUS.P_1S, bits 42:32, RO, resets to 0 (R413). -/
abbrev PWR_STATUS.P_1S : Fld := ⟨PWR_STATUS.pos, 32, 11, .ro, 0⟩
/-- PWR_STATUS.P_ARRAY, bits 57:48, RO, resets to 0 (R413). -/
abbrev PWR_STATUS.P_ARRAY : Fld := ⟨PWR_STATUS.pos, 48, 10, .ro, 0⟩
/-- PWR_STATUS, whole (R413). -/
abbrev PWR_STATUS.reg : Reg := ⟨PWR_STATUS.pos, [PWR_STATUS.STATE, PWR_STATUS.SPRINT, PWR_STATUS.SAG_12V, PWR_STATUS.SAG_AON, PWR_STATUS.ARRAY_TRIM, PWR_STATUS.STACK_TRIM, PWR_STATUS.HOLD_BUDGET, PWR_STATUS.P_100US, PWR_STATUS.P_1S, PWR_STATUS.P_ARRAY]⟩
/-- PWR_LIMIT: where it lies (R414). -/
abbrev PWR_LIMIT.pos : RegPos := ⟨0x40008, (.flat 0), 1, 0x0, 1⟩
/-- PWR_LIMIT.SUST_LIMIT, bits 10:0, RW, resets to 1200 (R414). -/
abbrev PWR_LIMIT.SUST_LIMIT : Fld := ⟨PWR_LIMIT.pos, 0, 11, .rw, 1200⟩
/-- PWR_LIMIT.SPRINT_EN, bit 11, RW, resets to 1 (R414). -/
abbrev PWR_LIMIT.SPRINT_EN : Fld := ⟨PWR_LIMIT.pos, 11, 1, .rw, 1⟩
/-- PWR_LIMIT.PRESET, bits 13:12, RW, resets to 3 (R414). -/
abbrev PWR_LIMIT.PRESET : Fld := ⟨PWR_LIMIT.pos, 12, 2, .rw, 3⟩
/-- PWR_LIMIT.PHASE, bit 14, RW, resets to 0 (R414). -/
abbrev PWR_LIMIT.PHASE : Fld := ⟨PWR_LIMIT.pos, 14, 1, .rw, 0⟩
/-- PWR_LIMIT.ARRAY_CAP, bits 25:16, RW, resets to 250 (R414). -/
abbrev PWR_LIMIT.ARRAY_CAP : Fld := ⟨PWR_LIMIT.pos, 16, 10, .rw, 250⟩
/-- PWR_LIMIT.STACK_CAP, bits 41:32, RW, resets to 225 (R414). -/
abbrev PWR_LIMIT.STACK_CAP : Fld := ⟨PWR_LIMIT.pos, 32, 10, .rw, 225⟩
/-- PWR_LIMIT, whole (R414). -/
abbrev PWR_LIMIT.reg : Reg := ⟨PWR_LIMIT.pos, [PWR_LIMIT.SUST_LIMIT, PWR_LIMIT.SPRINT_EN, PWR_LIMIT.PRESET, PWR_LIMIT.PHASE, PWR_LIMIT.ARRAY_CAP, PWR_LIMIT.STACK_CAP]⟩
/-- PWR_PARK: where it lies (R415). -/
abbrev PWR_PARK.pos : RegPos := ⟨0x40010, (.flat 0), 1, 0x0, 1⟩
/-- PWR_PARK.PARK, bit 0, WO, resets to 0 (R415). -/
abbrev PWR_PARK.PARK : Fld := ⟨PWR_PARK.pos, 0, 1, .wo, 0⟩
/-- PWR_PARK.WAKE, bit 1, WO, resets to 0 (R415). -/
abbrev PWR_PARK.WAKE : Fld := ⟨PWR_PARK.pos, 1, 1, .wo, 0⟩
/-- PWR_PARK.WAKE_ON_MEM, bit 2, RW, resets to 1 (R415). -/
abbrev PWR_PARK.WAKE_ON_MEM : Fld := ⟨PWR_PARK.pos, 2, 1, .rw, 1⟩
/-- PWR_PARK.WAKE_ON_DB, bit 3, RW, resets to 1 (R415). -/
abbrev PWR_PARK.WAKE_ON_DB : Fld := ⟨PWR_PARK.pos, 3, 1, .rw, 1⟩
/-- PWR_PARK.PARK_FAIL, bit 4, W1C, resets to 0 (R415). -/
abbrev PWR_PARK.PARK_FAIL : Fld := ⟨PWR_PARK.pos, 4, 1, .w1c, 0⟩
/-- PWR_PARK, whole (R415). -/
abbrev PWR_PARK.reg : Reg := ⟨PWR_PARK.pos, [PWR_PARK.PARK, PWR_PARK.WAKE, PWR_PARK.WAKE_ON_MEM, PWR_PARK.WAKE_ON_DB, PWR_PARK.PARK_FAIL]⟩
/-- PWR_SAG: where it lies (R416). -/
abbrev PWR_SAG.pos : RegPos := ⟨0x40018, (.flat 0), 1, 0x0, 1⟩
/-- PWR_SAG.WARN_CNT, bits 15:0, RC, resets to 0 (R416). -/
abbrev PWR_SAG.WARN_CNT : Fld := ⟨PWR_SAG.pos, 0, 16, .rc, 0⟩
/-- PWR_SAG.BLOCK_CNT, bits 31:16, RC, resets to 0 (R416). -/
abbrev PWR_SAG.BLOCK_CNT : Fld := ⟨PWR_SAG.pos, 16, 16, .rc, 0⟩
/-- PWR_SAG.MIN_12V, bits 43:32, RC, resets to 4095 (R416). -/
abbrev PWR_SAG.MIN_12V : Fld := ⟨PWR_SAG.pos, 32, 12, .rc, 4095⟩
/-- PWR_SAG.MIN_AON, bits 55:44, RC, resets to 4095 (R416). -/
abbrev PWR_SAG.MIN_AON : Fld := ⟨PWR_SAG.pos, 44, 12, .rc, 4095⟩
/-- PWR_SAG, whole (R416). -/
abbrev PWR_SAG.reg : Reg := ⟨PWR_SAG.pos, [PWR_SAG.WARN_CNT, PWR_SAG.BLOCK_CNT, PWR_SAG.MIN_12V, PWR_SAG.MIN_AON]⟩
/-- PWR_DOM: where it lies (R417). -/
abbrev PWR_DOM.pos : RegPos := ⟨0x41000, (.flat 8), 452, 0x0, 1⟩
/-- PWR_DOM.REQ, bit 0, RW, resets to 0 (R417). -/
abbrev PWR_DOM.REQ : Fld := ⟨PWR_DOM.pos, 0, 1, .rw, 0⟩
/-- PWR_DOM.STATE, bits 3:1, RO, resets to 0 (R417). -/
abbrev PWR_DOM.STATE : Fld := ⟨PWR_DOM.pos, 1, 3, .ro, 0⟩
/-- PWR_DOM.PENDING_ON, bit 4, RO, resets to 0 (R417). -/
abbrev PWR_DOM.PENDING_ON : Fld := ⟨PWR_DOM.pos, 4, 1, .ro, 0⟩
/-- PWR_DOM.SW, bit 5, RO, resets to 0 (R417). -/
abbrev PWR_DOM.SW : Fld := ⟨PWR_DOM.pos, 5, 1, .ro, 0⟩
/-- PWR_DOM.REFUSED, bit 6, W1C, resets to 0 (R417). -/
abbrev PWR_DOM.REFUSED : Fld := ⟨PWR_DOM.pos, 6, 1, .w1c, 0⟩
/-- PWR_DOM.RAMP_FAIL, bit 7, W1C, resets to 0 (R417). -/
abbrev PWR_DOM.RAMP_FAIL : Fld := ⟨PWR_DOM.pos, 7, 1, .w1c, 0⟩
/-- PWR_DOM.DRAIN_LATE, bit 8, W1C, resets to 0 (R417). -/
abbrev PWR_DOM.DRAIN_LATE : Fld := ⟨PWR_DOM.pos, 8, 1, .w1c, 0⟩
/-- PWR_DOM.RAMPS, bits 31:16, RC, resets to 0 (R417). -/
abbrev PWR_DOM.RAMPS : Fld := ⟨PWR_DOM.pos, 16, 16, .rc, 0⟩
/-- PWR_DOM, whole (R417). -/
abbrev PWR_DOM.reg : Reg := ⟨PWR_DOM.pos, [PWR_DOM.REQ, PWR_DOM.STATE, PWR_DOM.PENDING_ON, PWR_DOM.SW, PWR_DOM.REFUSED, PWR_DOM.RAMP_FAIL, PWR_DOM.DRAIN_LATE, PWR_DOM.RAMPS]⟩
/-- ECC_CNT: where it lies (R471). -/
abbrev ECC_CNT.pos : RegPos := ⟨0x1C0000, (.flat 0), 1, 0x8, 16⟩
/-- ECC_CNT.CORR, bits 31:0, RC, resets to 0 (R471). -/
abbrev ECC_CNT.CORR : Fld := ⟨ECC_CNT.pos, 0, 32, .rc, 0⟩
/-- ECC_CNT.UNCORR, bits 47:32, RC, resets to 0 (R471). -/
abbrev ECC_CNT.UNCORR : Fld := ⟨ECC_CNT.pos, 32, 16, .rc, 0⟩
/-- ECC_CNT.ADDR, bits 63:48, RC, resets to 0 (R471). -/
abbrev ECC_CNT.ADDR : Fld := ⟨ECC_CNT.pos, 48, 16, .rc, 0⟩
/-- ECC_CNT, whole (R471). -/
abbrev ECC_CNT.reg : Reg := ⟨ECC_CNT.pos, [ECC_CNT.CORR, ECC_CNT.UNCORR, ECC_CNT.ADDR]⟩
/-- ECC_OVF: where it lies (R472). -/
abbrev ECC_OVF.pos : RegPos := ⟨0x1C0080, (.flat 0), 1, 0x0, 1⟩
/-- ECC_OVF.DROPPED, bits 31:0, RC, resets to 0 (R472). -/
abbrev ECC_OVF.DROPPED : Fld := ⟨ECC_OVF.pos, 0, 32, .rc, 0⟩
/-- ECC_OVF, whole (R472). -/
abbrev ECC_OVF.reg : Reg := ⟨ECC_OVF.pos, [ECC_OVF.DROPPED]⟩
/-- ECC_SUM_A: where it lies (R473). -/
abbrev ECC_SUM_A.pos : RegPos := ⟨0x1C0800, (.flat 16), 64, 0x0, 1⟩
/-- ECC_SUM_A.CW, bits 51:5, RO, resets to 0 (R473). -/
abbrev ECC_SUM_A.CW : Fld := ⟨ECC_SUM_A.pos, 5, 47, .ro, 0⟩
/-- ECC_SUM_A.BIT, bits 60:52, RO, resets to 0 (R473). -/
abbrev ECC_SUM_A.BIT : Fld := ⟨ECC_SUM_A.pos, 52, 9, .ro, 0⟩
/-- ECC_SUM_A.KIND, bits 62:61, RO, resets to 0 (R473). -/
abbrev ECC_SUM_A.KIND : Fld := ⟨ECC_SUM_A.pos, 61, 2, .ro, 0⟩
/-- ECC_SUM_A.VALID, bit 63, W1C, resets to 0 (R473). -/
abbrev ECC_SUM_A.VALID : Fld := ⟨ECC_SUM_A.pos, 63, 1, .w1c, 0⟩
/-- ECC_SUM_A, whole (R473). -/
abbrev ECC_SUM_A.reg : Reg := ⟨ECC_SUM_A.pos, [ECC_SUM_A.CW, ECC_SUM_A.BIT, ECC_SUM_A.KIND, ECC_SUM_A.VALID]⟩
/-- ECC_SUM_B: where it lies (R473). -/
abbrev ECC_SUM_B.pos : RegPos := ⟨0x1C0808, (.flat 16), 64, 0x0, 1⟩
/-- ECC_SUM_B.COUNT, bits 15:0, RO, resets to 0 (R473). -/
abbrev ECC_SUM_B.COUNT : Fld := ⟨ECC_SUM_B.pos, 0, 16, .ro, 0⟩
/-- ECC_SUM_B.STRUCT, bits 19:16, RO, resets to 0 (R473). -/
abbrev ECC_SUM_B.STRUCT : Fld := ⟨ECC_SUM_B.pos, 16, 4, .ro, 0⟩
/-- ECC_SUM_B.UNIT, bits 27:20, RO, resets to 0 (R473). -/
abbrev ECC_SUM_B.UNIT : Fld := ⟨ECC_SUM_B.pos, 20, 8, .ro, 0⟩
/-- ECC_SUM_B.TIME_MS, bits 63:32, RO, resets to 0 (R473). -/
abbrev ECC_SUM_B.TIME_MS : Fld := ⟨ECC_SUM_B.pos, 32, 32, .ro, 0⟩
/-- ECC_SUM_B, whole (R473). -/
abbrev ECC_SUM_B.reg : Reg := ⟨ECC_SUM_B.pos, [ECC_SUM_B.COUNT, ECC_SUM_B.STRUCT, ECC_SUM_B.UNIT, ECC_SUM_B.TIME_MS]⟩
/-- ECC_SLC_A: where it lies (R473). -/
abbrev ECC_SLC_A.pos : RegPos := ⟨0x1D0000, (.flat 0x100), 256, 0x10, 16⟩
/-- ECC_SLC_A.CW, bits 51:5, RO, resets to 0 (R473). -/
abbrev ECC_SLC_A.CW : Fld := ⟨ECC_SLC_A.pos, 5, 47, .ro, 0⟩
/-- ECC_SLC_A.BIT, bits 60:52, RO, resets to 0 (R473). -/
abbrev ECC_SLC_A.BIT : Fld := ⟨ECC_SLC_A.pos, 52, 9, .ro, 0⟩
/-- ECC_SLC_A.KIND, bits 62:61, RO, resets to 0 (R473). -/
abbrev ECC_SLC_A.KIND : Fld := ⟨ECC_SLC_A.pos, 61, 2, .ro, 0⟩
/-- ECC_SLC_A.VALID, bit 63, W1C, resets to 0 (R473). -/
abbrev ECC_SLC_A.VALID : Fld := ⟨ECC_SLC_A.pos, 63, 1, .w1c, 0⟩
/-- ECC_SLC_A, whole (R473). -/
abbrev ECC_SLC_A.reg : Reg := ⟨ECC_SLC_A.pos, [ECC_SLC_A.CW, ECC_SLC_A.BIT, ECC_SLC_A.KIND, ECC_SLC_A.VALID]⟩
/-- ECC_SLC_B: where it lies (R473). -/
abbrev ECC_SLC_B.pos : RegPos := ⟨0x1D0008, (.flat 0x100), 256, 0x10, 16⟩
/-- ECC_SLC_B.COUNT, bits 15:0, RO, resets to 0 (R473). -/
abbrev ECC_SLC_B.COUNT : Fld := ⟨ECC_SLC_B.pos, 0, 16, .ro, 0⟩
/-- ECC_SLC_B.STRUCT, bits 19:16, RO, resets to 0 (R473). -/
abbrev ECC_SLC_B.STRUCT : Fld := ⟨ECC_SLC_B.pos, 16, 4, .ro, 0⟩
/-- ECC_SLC_B.UNIT, bits 27:20, RO, resets to 0 (R473). -/
abbrev ECC_SLC_B.UNIT : Fld := ⟨ECC_SLC_B.pos, 20, 8, .ro, 0⟩
/-- ECC_SLC_B.TIME_MS, bits 63:32, RO, resets to 0 (R473). -/
abbrev ECC_SLC_B.TIME_MS : Fld := ⟨ECC_SLC_B.pos, 32, 32, .ro, 0⟩
/-- ECC_SLC_B, whole (R473). -/
abbrev ECC_SLC_B.reg : Reg := ⟨ECC_SLC_B.pos, [ECC_SLC_B.COUNT, ECC_SLC_B.STRUCT, ECC_SLC_B.UNIT, ECC_SLC_B.TIME_MS]⟩
/-- ECC_REG_A: where it lies (R473). -/
abbrev ECC_REG_A.pos : RegPos := ⟨0x1E0000, (.flat 0x100), 128, 0x10, 16⟩
/-- ECC_REG_A.CW, bits 51:5, RO, resets to 0 (R473). -/
abbrev ECC_REG_A.CW : Fld := ⟨ECC_REG_A.pos, 5, 47, .ro, 0⟩
/-- ECC_REG_A.BIT, bits 60:52, RO, resets to 0 (R473). -/
abbrev ECC_REG_A.BIT : Fld := ⟨ECC_REG_A.pos, 52, 9, .ro, 0⟩
/-- ECC_REG_A.KIND, bits 62:61, RO, resets to 0 (R473). -/
abbrev ECC_REG_A.KIND : Fld := ⟨ECC_REG_A.pos, 61, 2, .ro, 0⟩
/-- ECC_REG_A.VALID, bit 63, W1C, resets to 0 (R473). -/
abbrev ECC_REG_A.VALID : Fld := ⟨ECC_REG_A.pos, 63, 1, .w1c, 0⟩
/-- ECC_REG_A, whole (R473). -/
abbrev ECC_REG_A.reg : Reg := ⟨ECC_REG_A.pos, [ECC_REG_A.CW, ECC_REG_A.BIT, ECC_REG_A.KIND, ECC_REG_A.VALID]⟩
/-- ECC_REG_B: where it lies (R473). -/
abbrev ECC_REG_B.pos : RegPos := ⟨0x1E0008, (.flat 0x100), 128, 0x10, 16⟩
/-- ECC_REG_B.COUNT, bits 15:0, RO, resets to 0 (R473). -/
abbrev ECC_REG_B.COUNT : Fld := ⟨ECC_REG_B.pos, 0, 16, .ro, 0⟩
/-- ECC_REG_B.STRUCT, bits 19:16, RO, resets to 0 (R473). -/
abbrev ECC_REG_B.STRUCT : Fld := ⟨ECC_REG_B.pos, 16, 4, .ro, 0⟩
/-- ECC_REG_B.UNIT, bits 27:20, RO, resets to 0 (R473). -/
abbrev ECC_REG_B.UNIT : Fld := ⟨ECC_REG_B.pos, 20, 8, .ro, 0⟩
/-- ECC_REG_B.TIME_MS, bits 63:32, RO, resets to 0 (R473). -/
abbrev ECC_REG_B.TIME_MS : Fld := ⟨ECC_REG_B.pos, 32, 32, .ro, 0⟩
/-- ECC_REG_B, whole (R473). -/
abbrev ECC_REG_B.reg : Reg := ⟨ECC_REG_B.pos, [ECC_REG_B.COUNT, ECC_REG_B.STRUCT, ECC_REG_B.UNIT, ECC_REG_B.TIME_MS]⟩
/-- ECC_SPLIT_CTL: where it lies (R474). -/
abbrev ECC_SPLIT_CTL.pos : RegPos := ⟨0x1C0200, (.flat 0), 1, 0x0, 1⟩
/-- ECC_SPLIT_CTL.MODE, bits 1:0, RW, resets to 0 (R474). -/
abbrev ECC_SPLIT_CTL.MODE : Fld := ⟨ECC_SPLIT_CTL.pos, 0, 2, .rw, 0⟩
/-- ECC_SPLIT_CTL.GO, bit 2, WO, resets to 0 (R474). -/
abbrev ECC_SPLIT_CTL.GO : Fld := ⟨ECC_SPLIT_CTL.pos, 2, 1, .wo, 0⟩
/-- ECC_SPLIT_CTL.BUSY, bit 3, RO, resets to 0 (R474). -/
abbrev ECC_SPLIT_CTL.BUSY : Fld := ⟨ECC_SPLIT_CTL.pos, 3, 1, .ro, 0⟩
/-- ECC_SPLIT_CTL.CLASS, bits 6:4, RO, resets to 0 (R474). -/
abbrev ECC_SPLIT_CTL.CLASS : Fld := ⟨ECC_SPLIT_CTL.pos, 4, 3, .ro, 0⟩
/-- ECC_SPLIT_CTL.ERR, bit 7, W1C, resets to 0 (R474). -/
abbrev ECC_SPLIT_CTL.ERR : Fld := ⟨ECC_SPLIT_CTL.pos, 7, 1, .w1c, 0⟩
/-- ECC_SPLIT_CTL.SYNDROME, bits 23:8, RO, resets to 0 (R474). -/
abbrev ECC_SPLIT_CTL.SYNDROME : Fld := ⟨ECC_SPLIT_CTL.pos, 8, 16, .ro, 0⟩
/-- ECC_SPLIT_CTL, whole (R474). -/
abbrev ECC_SPLIT_CTL.reg : Reg := ⟨ECC_SPLIT_CTL.pos, [ECC_SPLIT_CTL.MODE, ECC_SPLIT_CTL.GO, ECC_SPLIT_CTL.BUSY, ECC_SPLIT_CTL.CLASS, ECC_SPLIT_CTL.ERR, ECC_SPLIT_CTL.SYNDROME]⟩
/-- ECC_SPLIT_ADDR: where it lies (R474). -/
abbrev ECC_SPLIT_ADDR.pos : RegPos := ⟨0x1C0208, (.flat 0), 1, 0x0, 1⟩
/-- ECC_SPLIT_ADDR.ADDR, bits 51:5, RW, resets to 0 (R474). -/
abbrev ECC_SPLIT_ADDR.ADDR : Fld := ⟨ECC_SPLIT_ADDR.pos, 5, 47, .rw, 0⟩
/-- ECC_SPLIT_ADDR, whole (R474). -/
abbrev ECC_SPLIT_ADDR.reg : Reg := ⟨ECC_SPLIT_ADDR.pos, [ECC_SPLIT_ADDR.ADDR]⟩
/-- ECC_SPLIT_DATA: where it lies (R474). -/
abbrev ECC_SPLIT_DATA.pos : RegPos := ⟨0x1C0210, (.flat 0), 1, 0x8, 4⟩
/-- ECC_SPLIT_DATA.DATA, bits 63:0, RW, resets to 0 (R474). -/
abbrev ECC_SPLIT_DATA.DATA : Fld := ⟨ECC_SPLIT_DATA.pos, 0, 64, .rw, 0⟩
/-- ECC_SPLIT_DATA, whole (R474). -/
abbrev ECC_SPLIT_DATA.reg : Reg := ⟨ECC_SPLIT_DATA.pos, [ECC_SPLIT_DATA.DATA]⟩
/-- ECC_SPLIT_CHECK: where it lies (R474). -/
abbrev ECC_SPLIT_CHECK.pos : RegPos := ⟨0x1C0230, (.flat 0), 1, 0x0, 1⟩
/-- ECC_SPLIT_CHECK.C_TOP, bits 7:0, RW, resets to 0 (R474). -/
abbrev ECC_SPLIT_CHECK.C_TOP : Fld := ⟨ECC_SPLIT_CHECK.pos, 0, 8, .rw, 0⟩
/-- ECC_SPLIT_CHECK.C_BOT, bits 15:8, RW, resets to 0 (R474). -/
abbrev ECC_SPLIT_CHECK.C_BOT : Fld := ⟨ECC_SPLIT_CHECK.pos, 8, 8, .rw, 0⟩
/-- ECC_SPLIT_CHECK, whole (R474). -/
abbrev ECC_SPLIT_CHECK.reg : Reg := ⟨ECC_SPLIT_CHECK.pos, [ECC_SPLIT_CHECK.C_TOP, ECC_SPLIT_CHECK.C_BOT]⟩
/-- ECC_SCRUB: where it lies (R475). -/
abbrev ECC_SCRUB.pos : RegPos := ⟨0x1C0300, (.flat 0), 1, 0x8, 4⟩
/-- ECC_SCRUB.PASSES, bits 15:0, RC, resets to 0 (R475). -/
abbrev ECC_SCRUB.PASSES : Fld := ⟨ECC_SCRUB.pos, 0, 16, .rc, 0⟩
/-- ECC_SCRUB.PROGRESS, bits 25:16, RO, resets to 0 (R475). -/
abbrev ECC_SCRUB.PROGRESS : Fld := ⟨ECC_SCRUB.pos, 16, 10, .ro, 0⟩
/-- ECC_SCRUB.BEHIND, bit 26, RO, resets to 0 (R475). -/
abbrev ECC_SCRUB.BEHIND : Fld := ⟨ECC_SCRUB.pos, 26, 1, .ro, 0⟩
/-- ECC_SCRUB, whole (R475). -/
abbrev ECC_SCRUB.reg : Reg := ⟨ECC_SCRUB.pos, [ECC_SCRUB.PASSES, ECC_SCRUB.PROGRESS, ECC_SCRUB.BEHIND]⟩
/-- CHK_CFG: where it lies (R476). -/
abbrev CHK_CFG.pos : RegPos := ⟨0x180000, (.flat 0x100), 36, 0x0, 1⟩
/-- CHK_CFG.POLY, bit 0, RW, resets to 0 (R476). -/
abbrev CHK_CFG.POLY : Fld := ⟨CHK_CFG.pos, 0, 1, .rw, 0⟩
/-- CHK_CFG.FOLD, bits 2:1, RW, resets to 0 (R476). -/
abbrev CHK_CFG.FOLD : Fld := ⟨CHK_CFG.pos, 1, 2, .rw, 0⟩
/-- CHK_CFG.CONTINUE, bit 3, RW, resets to 0 (R476). -/
abbrev CHK_CFG.CONTINUE : Fld := ⟨CHK_CFG.pos, 3, 1, .rw, 0⟩
/-- CHK_CFG.CLAIMED, bit 4, RO, resets to 0 (R476). -/
abbrev CHK_CFG.CLAIMED : Fld := ⟨CHK_CFG.pos, 4, 1, .ro, 0⟩
/-- CHK_CFG.CLAIMER, bits 15:8, RO, resets to 0 (R476). -/
abbrev CHK_CFG.CLAIMER : Fld := ⟨CHK_CFG.pos, 8, 8, .ro, 0⟩
/-- CHK_CFG, whole (R476). -/
abbrev CHK_CFG.reg : Reg := ⟨CHK_CFG.pos, [CHK_CFG.POLY, CHK_CFG.FOLD, CHK_CFG.CONTINUE, CHK_CFG.CLAIMED, CHK_CFG.CLAIMER]⟩
/-- CHK_VAL: where it lies (R477). -/
abbrev CHK_VAL.pos : RegPos := ⟨0x180008, (.flat 0x100), 36, 0x0, 1⟩
/-- CHK_VAL.VAL, bits 63:0, RW, resets to 0 (R477). -/
abbrev CHK_VAL.VAL : Fld := ⟨CHK_VAL.pos, 0, 64, .rw, 0⟩
/-- CHK_VAL, whole (R477). -/
abbrev CHK_VAL.reg : Reg := ⟨CHK_VAL.pos, [CHK_VAL.VAL]⟩
/-- CHK_SEQ: where it lies (R477). -/
abbrev CHK_SEQ.pos : RegPos := ⟨0x180010, (.flat 0x100), 36, 0x0, 1⟩
/-- CHK_SEQ.SEQ, bits 63:0, RW, resets to 0 (R477). -/
abbrev CHK_SEQ.SEQ : Fld := ⟨CHK_SEQ.pos, 0, 64, .rw, 0⟩
/-- CHK_SEQ, whole (R477). -/
abbrev CHK_SEQ.reg : Reg := ⟨CHK_SEQ.pos, [CHK_SEQ.SEQ]⟩
/-- CHK_SNOOP: where it lies (R478). -/
abbrev CHK_SNOOP.pos : RegPos := ⟨0x180018, (.flat 0x100), 36, 0x0, 1⟩
/-- CHK_SNOOP.EN, bit 0, RW, resets to 0 (R478). -/
abbrev CHK_SNOOP.EN : Fld := ⟨CHK_SNOOP.pos, 0, 1, .rw, 0⟩
/-- CHK_SNOOP.PORT, bits 5:1, RW, resets to 0 (R478). -/
abbrev CHK_SNOOP.PORT : Fld := ⟨CHK_SNOOP.pos, 1, 5, .rw, 0⟩
/-- CHK_SNOOP.DIR, bit 6, RW, resets to 0 (R478). -/
abbrev CHK_SNOOP.DIR : Fld := ⟨CHK_SNOOP.pos, 6, 1, .rw, 0⟩
/-- CHK_SNOOP.LOG2SIZE, bits 13:8, RW, resets to 20 (R478). -/
abbrev CHK_SNOOP.LOG2SIZE : Fld := ⟨CHK_SNOOP.pos, 8, 6, .rw, 20⟩
/-- CHK_SNOOP.BASE, bits 51:20, RW, resets to 0 (R478). -/
abbrev CHK_SNOOP.BASE : Fld := ⟨CHK_SNOOP.pos, 20, 32, .rw, 0⟩
/-- CHK_SNOOP, whole (R478). -/
abbrev CHK_SNOOP.reg : Reg := ⟨CHK_SNOOP.pos, [CHK_SNOOP.EN, CHK_SNOOP.PORT, CHK_SNOOP.DIR, CHK_SNOOP.LOG2SIZE, CHK_SNOOP.BASE]⟩
/-- LNK_STATUS: where it lies (R494). -/
abbrev LNK_STATUS.pos : RegPos := ⟨0x200000, (.flat 0), 1, 0x0, 1⟩
/-- LNK_STATUS.VT_RESULT, bits 1:0, RO, resets to 0 (R494). -/
abbrev LNK_STATUS.VT_RESULT : Fld := ⟨LNK_STATUS.pos, 0, 2, .ro, 0⟩
/-- LNK_STATUS.D2D_UP, bit 2, RO, resets to 0 (R494). -/
abbrev LNK_STATUS.D2D_UP : Fld := ⟨LNK_STATUS.pos, 2, 1, .ro, 0⟩
/-- LNK_STATUS.D2D_FATAL, bit 3, RO, resets to 0 (R494). -/
abbrev LNK_STATUS.D2D_FATAL : Fld := ⟨LNK_STATUS.pos, 3, 1, .ro, 0⟩
/-- LNK_STATUS.D2D_SPARES, bits 11:8, RO, resets to 0 (R494). -/
abbrev LNK_STATUS.D2D_SPARES : Fld := ⟨LNK_STATUS.pos, 8, 4, .ro, 0⟩
/-- LNK_STATUS.NARROW_SLICES, bits 24:16, RO, resets to 0 (R494). -/
abbrev LNK_STATUS.NARROW_SLICES : Fld := ⟨LNK_STATUS.pos, 16, 9, .ro, 0⟩
/-- LNK_STATUS.LANES_RETIRED, bits 47:32, RO, resets to 0 (R494). -/
abbrev LNK_STATUS.LANES_RETIRED : Fld := ⟨LNK_STATUS.pos, 32, 16, .ro, 0⟩
/-- LNK_STATUS, whole (R494). -/
abbrev LNK_STATUS.reg : Reg := ⟨LNK_STATUS.pos, [LNK_STATUS.VT_RESULT, LNK_STATUS.D2D_UP, LNK_STATUS.D2D_FATAL, LNK_STATUS.D2D_SPARES, LNK_STATUS.NARROW_SLICES, LNK_STATUS.LANES_RETIRED]⟩
/-- LNK_ERR: where it lies (R495). -/
abbrev LNK_ERR.pos : RegPos := ⟨0x200008, (.flat 0), 1, 0x0, 1⟩
/-- LNK_ERR.SWAP, bit 0, W1C, resets to 0 (R495). -/
abbrev LNK_ERR.SWAP : Fld := ⟨LNK_ERR.pos, 0, 1, .w1c, 0⟩
/-- LNK_ERR.NOSPARE, bit 1, W1C, resets to 0 (R495). -/
abbrev LNK_ERR.NOSPARE : Fld := ⟨LNK_ERR.pos, 1, 1, .w1c, 0⟩
/-- LNK_ERR.CA_FAULT, bit 2, W1C, resets to 0 (R495). -/
abbrev LNK_ERR.CA_FAULT : Fld := ⟨LNK_ERR.pos, 2, 1, .w1c, 0⟩
/-- LNK_ERR.LANE_RETIRED, bit 3, W1C, resets to 0 (R495). -/
abbrev LNK_ERR.LANE_RETIRED : Fld := ⟨LNK_ERR.pos, 3, 1, .w1c, 0⟩
/-- LNK_ERR.LAST_LANE, bit 4, W1C, resets to 0 (R495). -/
abbrev LNK_ERR.LAST_LANE : Fld := ⟨LNK_ERR.pos, 4, 1, .w1c, 0⟩
/-- LNK_ERR.D2D_FATAL, bit 5, W1C, resets to 0 (R495). -/
abbrev LNK_ERR.D2D_FATAL : Fld := ⟨LNK_ERR.pos, 5, 1, .w1c, 0⟩
/-- LNK_ERR.MULTIPLE, bit 6, W1C, resets to 0 (R495). -/
abbrev LNK_ERR.MULTIPLE : Fld := ⟨LNK_ERR.pos, 6, 1, .w1c, 0⟩
/-- LNK_ERR.FIRST_UNIT, bits 23:16, RO, resets to 0 (R495). -/
abbrev LNK_ERR.FIRST_UNIT : Fld := ⟨LNK_ERR.pos, 16, 8, .ro, 0⟩
/-- LNK_ERR.FIRST_CONN, bits 37:24, RO, resets to 0 (R495). -/
abbrev LNK_ERR.FIRST_CONN : Fld := ⟨LNK_ERR.pos, 24, 14, .ro, 0⟩
/-- LNK_ERR, whole (R495). -/
abbrev LNK_ERR.reg : Reg := ⟨LNK_ERR.pos, [LNK_ERR.SWAP, LNK_ERR.NOSPARE, LNK_ERR.CA_FAULT, LNK_ERR.LANE_RETIRED, LNK_ERR.LAST_LANE, LNK_ERR.D2D_FATAL, LNK_ERR.MULTIPLE, LNK_ERR.FIRST_UNIT, LNK_ERR.FIRST_CONN]⟩
/-- LNK_CFG: where it lies (R496). -/
abbrev LNK_CFG.pos : RegPos := ⟨0x200010, (.flat 0), 1, 0x0, 1⟩
/-- LNK_CFG.SWAP_EN, bit 0, RWL, resets to 1 (R496). -/
abbrev LNK_CFG.SWAP_EN : Fld := ⟨LNK_CFG.pos, 0, 1, .rwl, 1⟩
/-- LNK_CFG.RETIRE_EN, bit 1, RWL, resets to 1 (R496). -/
abbrev LNK_CFG.RETIRE_EN : Fld := ⟨LNK_CFG.pos, 1, 1, .rwl, 1⟩
/-- LNK_CFG.RETIRE_CLEAR, bit 2, RWL, resets to 0 (R496). -/
abbrev LNK_CFG.RETIRE_CLEAR : Fld := ⟨LNK_CFG.pos, 2, 1, .rwl, 0⟩
/-- LNK_CFG, whole (R496). -/
abbrev LNK_CFG.reg : Reg := ⟨LNK_CFG.pos, [LNK_CFG.SWAP_EN, LNK_CFG.RETIRE_EN, LNK_CFG.RETIRE_CLEAR]⟩
/-- LNK_D2D: where it lies (R497). -/
abbrev LNK_D2D.pos : RegPos := ⟨0x200018, (.flat 0), 1, 0x0, 1⟩
/-- LNK_D2D.RETRIES, bits 31:0, RC, resets to 0 (R497). -/
abbrev LNK_D2D.RETRIES : Fld := ⟨LNK_D2D.pos, 0, 32, .rc, 0⟩
/-- LNK_D2D.FATAL_LANE, bits 39:32, RO, resets to 0 (R497). -/
abbrev LNK_D2D.FATAL_LANE : Fld := ⟨LNK_D2D.pos, 32, 8, .ro, 0⟩
/-- LNK_D2D.FATAL_WHY, bits 41:40, RO, resets to 0 (R497). -/
abbrev LNK_D2D.FATAL_WHY : Fld := ⟨LNK_D2D.pos, 40, 2, .ro, 0⟩
/-- LNK_D2D, whole (R497). -/
abbrev LNK_D2D.reg : Reg := ⟨LNK_D2D.pos, [LNK_D2D.RETRIES, LNK_D2D.FATAL_LANE, LNK_D2D.FATAL_WHY]⟩
/-- LNK_D2D_GRP: where it lies (R498). -/
abbrev LNK_D2D_GRP.pos : RegPos := ⟨0x200100, (.flat 8), 16, 0x0, 1⟩
/-- LNK_D2D_GRP.SPARE_FOR, bits 3:0, RO, resets to 15 (R498). -/
abbrev LNK_D2D_GRP.SPARE_FOR : Fld := ⟨LNK_D2D_GRP.pos, 0, 4, .ro, 15⟩
/-- LNK_D2D_GRP.RETRIES, bits 39:8, RC, resets to 0 (R498). -/
abbrev LNK_D2D_GRP.RETRIES : Fld := ⟨LNK_D2D_GRP.pos, 8, 32, .rc, 0⟩
/-- LNK_D2D_GRP, whole (R498). -/
abbrev LNK_D2D_GRP.reg : Reg := ⟨LNK_D2D_GRP.pos, [LNK_D2D_GRP.SPARE_FOR, LNK_D2D_GRP.RETRIES]⟩
/-- LNK_SLICE: where it lies (R499). -/
abbrev LNK_SLICE.pos : RegPos := ⟨0x201000, (.flat 8), 256, 0x0, 1⟩
/-- LNK_SLICE.DATA_USED, bits 8:0, RO, resets to 0 (R499). -/
abbrev LNK_SLICE.DATA_USED : Fld := ⟨LNK_SLICE.pos, 0, 9, .ro, 0⟩
/-- LNK_SLICE.DATA_BAD, bits 17:9, RO, resets to 0 (R499). -/
abbrev LNK_SLICE.DATA_BAD : Fld := ⟨LNK_SLICE.pos, 9, 9, .ro, 0⟩
/-- LNK_SLICE.CA_USED, bits 21:18, RO, resets to 0 (R499). -/
abbrev LNK_SLICE.CA_USED : Fld := ⟨LNK_SLICE.pos, 18, 4, .ro, 0⟩
/-- LNK_SLICE.CA_FAULT, bit 22, RO, resets to 0 (R499). -/
abbrev LNK_SLICE.CA_FAULT : Fld := ⟨LNK_SLICE.pos, 22, 1, .ro, 0⟩
/-- LNK_SLICE.SWAPS, bits 31:24, RO, resets to 0 (R499). -/
abbrev LNK_SLICE.SWAPS : Fld := ⟨LNK_SLICE.pos, 24, 8, .ro, 0⟩
/-- LNK_SLICE, whole (R499). -/
abbrev LNK_SLICE.reg : Reg := ⟨LNK_SLICE.pos, [LNK_SLICE.DATA_USED, LNK_SLICE.DATA_BAD, LNK_SLICE.CA_USED, LNK_SLICE.CA_FAULT, LNK_SLICE.SWAPS]⟩
/-- LNK_GRPMAP: where it lies (R500). -/
abbrev LNK_GRPMAP.pos : RegPos := ⟨0x204000, (.flat 0x80), 256, 0x8, 9⟩
/-- LNK_GRPMAP.STATE, bits 63:0, RO, resets to 0 (R500). -/
abbrev LNK_GRPMAP.STATE : Fld := ⟨LNK_GRPMAP.pos, 0, 64, .ro, 0⟩
/-- LNK_GRPMAP, whole (R500). -/
abbrev LNK_GRPMAP.reg : Reg := ⟨LNK_GRPMAP.pos, [LNK_GRPMAP.STATE]⟩
/-- LNK_COLUMN: where it lies (R501). -/
abbrev LNK_COLUMN.pos : RegPos := ⟨0x202000, (.flat 8), 128, 0x0, 1⟩
/-- LNK_COLUMN.L_DOWN, bits 2:0, RO, resets to 0 (R501). -/
abbrev LNK_COLUMN.L_DOWN : Fld := ⟨LNK_COLUMN.pos, 0, 3, .ro, 0⟩
/-- LNK_COLUMN.L_UP, bits 5:3, RO, resets to 0 (R501). -/
abbrev LNK_COLUMN.L_UP : Fld := ⟨LNK_COLUMN.pos, 3, 3, .ro, 0⟩
/-- LNK_COLUMN.U_DOWN, bits 8:6, RO, resets to 0 (R501). -/
abbrev LNK_COLUMN.U_DOWN : Fld := ⟨LNK_COLUMN.pos, 6, 3, .ro, 0⟩
/-- LNK_COLUMN.U_UP, bits 11:9, RO, resets to 0 (R501). -/
abbrev LNK_COLUMN.U_UP : Fld := ⟨LNK_COLUMN.pos, 9, 3, .ro, 0⟩
/-- LNK_COLUMN.FCHECK, bits 27:12, RC, resets to 0 (R501). -/
abbrev LNK_COLUMN.FCHECK : Fld := ⟨LNK_COLUMN.pos, 12, 16, .rc, 0⟩
/-- LNK_COLUMN.COLLINK, bits 43:28, RC, resets to 0 (R501). -/
abbrev LNK_COLUMN.COLLINK : Fld := ⟨LNK_COLUMN.pos, 28, 16, .rc, 0⟩
/-- LNK_COLUMN, whole (R501). -/
abbrev LNK_COLUMN.reg : Reg := ⟨LNK_COLUMN.pos, [LNK_COLUMN.L_DOWN, LNK_COLUMN.L_UP, LNK_COLUMN.U_DOWN, LNK_COLUMN.U_UP, LNK_COLUMN.FCHECK, LNK_COLUMN.COLLINK]⟩
/-- STARTER_CTL: where it lies (R518). -/
abbrev STARTER_CTL.pos : RegPos := ⟨0x10000, (.flat 0), 1, 0x0, 1⟩
/-- STARTER_CTL.STEP, bits 3:0, WO, resets to 0 (R518). -/
abbrev STARTER_CTL.STEP : Fld := ⟨STARTER_CTL.pos, 0, 4, .wo, 0⟩
/-- STARTER_CTL, whole (R518). -/
abbrev STARTER_CTL.reg : Reg := ⟨STARTER_CTL.pos, [STARTER_CTL.STEP]⟩
/-- STARTER_STATUS: where it lies (R519). -/
abbrev STARTER_STATUS.pos : RegPos := ⟨0x10008, (.flat 0), 1, 0x0, 1⟩
/-- STARTER_STATUS.DONE, bits 3:0, RO, resets to 0 (R519). -/
abbrev STARTER_STATUS.DONE : Fld := ⟨STARTER_STATUS.pos, 0, 4, .ro, 0⟩
/-- STARTER_STATUS.RUNNING, bits 7:4, RO, resets to 0 (R519). -/
abbrev STARTER_STATUS.RUNNING : Fld := ⟨STARTER_STATUS.pos, 4, 4, .ro, 0⟩
/-- STARTER_STATUS.RESULT, bits 9:8, RO, resets to 0 (R519). -/
abbrev STARTER_STATUS.RESULT : Fld := ⟨STARTER_STATUS.pos, 8, 2, .ro, 0⟩
/-- STARTER_STATUS.FALSE_START, bit 10, W1C, resets to 0 (R519). -/
abbrev STARTER_STATUS.FALSE_START : Fld := ⟨STARTER_STATUS.pos, 10, 1, .w1c, 0⟩
/-- STARTER_STATUS.BOOT_FAULT, bit 11, RO, resets to 0 (R519). -/
abbrev STARTER_STATUS.BOOT_FAULT : Fld := ⟨STARTER_STATUS.pos, 11, 1, .ro, 0⟩
/-- STARTER_STATUS.FAIL_STEP, bits 15:12, RO, resets to 0 (R519). -/
abbrev STARTER_STATUS.FAIL_STEP : Fld := ⟨STARTER_STATUS.pos, 12, 4, .ro, 0⟩
/-- STARTER_STATUS.FAIL_CODE, bits 23:16, RO, resets to 0 (R519). -/
abbrev STARTER_STATUS.FAIL_CODE : Fld := ⟨STARTER_STATUS.pos, 16, 8, .ro, 0⟩
/-- STARTER_STATUS.ELAPSED_MS, bits 63:32, RO, resets to 0 (R519). -/
abbrev STARTER_STATUS.ELAPSED_MS : Fld := ⟨STARTER_STATUS.pos, 32, 32, .ro, 0⟩
/-- STARTER_STATUS, whole (R519). -/
abbrev STARTER_STATUS.reg : Reg := ⟨STARTER_STATUS.pos, [STARTER_STATUS.DONE, STARTER_STATUS.RUNNING, STARTER_STATUS.RESULT, STARTER_STATUS.FALSE_START, STARTER_STATUS.BOOT_FAULT, STARTER_STATUS.FAIL_STEP, STARTER_STATUS.FAIL_CODE, STARTER_STATUS.ELAPSED_MS]⟩
/-- STARTER_OPT: where it lies (R520). -/
abbrev STARTER_OPT.pos : RegPos := ⟨0x10010, (.flat 0), 1, 0x0, 1⟩
/-- STARTER_OPT.FULL_TEST, bit 0, RWL, resets to 0 (R520). -/
abbrev STARTER_OPT.FULL_TEST : Fld := ⟨STARTER_OPT.pos, 0, 1, .rwl, 0⟩
/-- STARTER_OPT.RELEASE_PART, bits 15:8, RWL, resets to 255 (R520). -/
abbrev STARTER_OPT.RELEASE_PART : Fld := ⟨STARTER_OPT.pos, 8, 8, .rwl, 255⟩
/-- STARTER_OPT, whole (R520). -/
abbrev STARTER_OPT.reg : Reg := ⟨STARTER_OPT.pos, [STARTER_OPT.FULL_TEST, STARTER_OPT.RELEASE_PART]⟩
/-- STARTER_IMG: where it lies (R521). -/
abbrev STARTER_IMG.pos : RegPos := ⟨0x10018, (.flat 0), 1, 0x0, 1⟩
/-- STARTER_IMG.ADDR, bits 51:12, RWL, resets to 0 (R521). -/
abbrev STARTER_IMG.ADDR : Fld := ⟨STARTER_IMG.pos, 12, 40, .rwl, 0⟩
/-- STARTER_IMG, whole (R521). -/
abbrev STARTER_IMG.reg : Reg := ⟨STARTER_IMG.pos, [STARTER_IMG.ADDR]⟩
/-- RST_DEV: where it lies (R522). -/
abbrev RST_DEV.pos : RegPos := ⟨0x20000, (.flat 0), 1, 0x0, 1⟩
/-- RST_DEV.GO, bit 0, WO, resets to 0 (R522). -/
abbrev RST_DEV.GO : Fld := ⟨RST_DEV.pos, 0, 1, .wo, 0⟩
/-- RST_DEV.KEY, bits 31:16, WO, resets to 0 (R522). -/
abbrev RST_DEV.KEY : Fld := ⟨RST_DEV.pos, 16, 16, .wo, 0⟩
/-- RST_DEV, whole (R522). -/
abbrev RST_DEV.reg : Reg := ⟨RST_DEV.pos, [RST_DEV.GO, RST_DEV.KEY]⟩
/-- RST_CTL: where it lies (R523). -/
abbrev RST_CTL.pos : RegPos := ⟨0x20008, (.flat 0), 1, 0x0, 1⟩
/-- RST_CTL.SCOPE, bits 1:0, RW, resets to 0 (R523). -/
abbrev RST_CTL.SCOPE : Fld := ⟨RST_CTL.pos, 0, 2, .rw, 0⟩
/-- RST_CTL.TARGET, bits 15:8, RW, resets to 0 (R523). -/
abbrev RST_CTL.TARGET : Fld := ⟨RST_CTL.pos, 8, 8, .rw, 0⟩
/-- RST_CTL.GO, bit 16, WO, resets to 0 (R523). -/
abbrev RST_CTL.GO : Fld := ⟨RST_CTL.pos, 16, 1, .wo, 0⟩
/-- RST_CTL, whole (R523). -/
abbrev RST_CTL.reg : Reg := ⟨RST_CTL.pos, [RST_CTL.SCOPE, RST_CTL.TARGET, RST_CTL.GO]⟩
/-- RST_STATUS: where it lies (R524). -/
abbrev RST_STATUS.pos : RegPos := ⟨0x20010, (.flat 0), 1, 0x0, 1⟩
/-- RST_STATUS.BUSY, bit 0, RO, resets to 0 (R524). -/
abbrev RST_STATUS.BUSY : Fld := ⟨RST_STATUS.pos, 0, 1, .ro, 0⟩
/-- RST_STATUS.DRAIN_LATE, bit 1, W1C, resets to 0 (R524). -/
abbrev RST_STATUS.DRAIN_LATE : Fld := ⟨RST_STATUS.pos, 1, 1, .w1c, 0⟩
/-- RST_STATUS.REFUSED, bit 2, W1C, resets to 0 (R524). -/
abbrev RST_STATUS.REFUSED : Fld := ⟨RST_STATUS.pos, 2, 1, .w1c, 0⟩
/-- RST_STATUS.PART_REFUSED, bit 3, W1C, resets to 0 (R524). -/
abbrev RST_STATUS.PART_REFUSED : Fld := ⟨RST_STATUS.pos, 3, 1, .w1c, 0⟩
/-- RST_STATUS.FENCE_REFUSED, bit 4, W1C, resets to 0 (R524). -/
abbrev RST_STATUS.FENCE_REFUSED : Fld := ⟨RST_STATUS.pos, 4, 1, .w1c, 0⟩
/-- RST_STATUS.ABSORBED, bits 31:16, RC, resets to 0 (R524). -/
abbrev RST_STATUS.ABSORBED : Fld := ⟨RST_STATUS.pos, 16, 16, .rc, 0⟩
/-- RST_STATUS.LAST_DRAIN, bits 63:32, RO, resets to 0 (R524). -/
abbrev RST_STATUS.LAST_DRAIN : Fld := ⟨RST_STATUS.pos, 32, 32, .ro, 0⟩
/-- RST_STATUS, whole (R524). -/
abbrev RST_STATUS.reg : Reg := ⟨RST_STATUS.pos, [RST_STATUS.BUSY, RST_STATUS.DRAIN_LATE, RST_STATUS.REFUSED, RST_STATUS.PART_REFUSED, RST_STATUS.FENCE_REFUSED, RST_STATUS.ABSORBED, RST_STATUS.LAST_DRAIN]⟩
/-- RST_PART: where it lies (R525). -/
abbrev RST_PART.pos : RegPos := ⟨0x20100, (.flat 8), 8, 0x0, 1⟩
/-- RST_PART.CLUSTERS, bits 31:0, RW, resets to 0 (R525). -/
abbrev RST_PART.CLUSTERS : Fld := ⟨RST_PART.pos, 0, 32, .rw, 0⟩
/-- RST_PART, whole (R525). -/
abbrev RST_PART.reg : Reg := ⟨RST_PART.pos, [RST_PART.CLUSTERS]⟩
/-- RST_FENCE: where it lies (R526). -/
abbrev RST_FENCE.pos : RegPos := ⟨0x21000, (.flat 8), 256, 0x0, 1⟩
/-- RST_FENCE.FENCE, bit 0, RW, resets to 1 (R526). -/
abbrev RST_FENCE.FENCE : Fld := ⟨RST_FENCE.pos, 0, 1, .rw, 1⟩
/-- RST_FENCE.STATE, bits 2:1, RO, resets to 2 (R526). -/
abbrev RST_FENCE.STATE : Fld := ⟨RST_FENCE.pos, 1, 2, .ro, 2⟩
/-- RST_FENCE.AUTO_FENCE, bit 3, RW, resets to 1 (R526). -/
abbrev RST_FENCE.AUTO_FENCE : Fld := ⟨RST_FENCE.pos, 3, 1, .rw, 1⟩
/-- RST_FENCE.AUTO, bit 4, RO, resets to 0 (R526). -/
abbrev RST_FENCE.AUTO : Fld := ⟨RST_FENCE.pos, 4, 1, .ro, 0⟩
/-- RST_FENCE.FENCES, bits 31:16, RC, resets to 0 (R526). -/
abbrev RST_FENCE.FENCES : Fld := ⟨RST_FENCE.pos, 16, 16, .rc, 0⟩
/-- RST_FENCE, whole (R526). -/
abbrev RST_FENCE.reg : Reg := ⟨RST_FENCE.pos, [RST_FENCE.FENCE, RST_FENCE.STATE, RST_FENCE.AUTO_FENCE, RST_FENCE.AUTO, RST_FENCE.FENCES]⟩
/-- LIFE_STATUS: where it lies (R551). -/
abbrev LIFE_STATUS.pos : RegPos := ⟨0x240000, (.flat 0), 1, 0x0, 1⟩
/-- LIFE_STATUS.GATE, bits 1:0, RO, resets to 0 (R551). -/
abbrev LIFE_STATUS.GATE : Fld := ⟨LIFE_STATUS.pos, 0, 2, .ro, 0⟩
/-- LIFE_STATUS.COPY, bit 2, RO, resets to 0 (R551). -/
abbrev LIFE_STATUS.COPY : Fld := ⟨LIFE_STATUS.pos, 2, 1, .ro, 0⟩
/-- LIFE_STATUS.VALID, bit 3, RO, resets to 0 (R551). -/
abbrev LIFE_STATUS.VALID : Fld := ⟨LIFE_STATUS.pos, 3, 1, .ro, 0⟩
/-- LIFE_STATUS.PAGE_A, bits 9:4, RO, resets to 1 (R551). -/
abbrev LIFE_STATUS.PAGE_A : Fld := ⟨LIFE_STATUS.pos, 4, 6, .ro, 1⟩
/-- LIFE_STATUS.PAGE_B, bits 15:10, RO, resets to 2 (R551). -/
abbrev LIFE_STATUS.PAGE_B : Fld := ⟨LIFE_STATUS.pos, 10, 6, .ro, 2⟩
/-- LIFE_STATUS.PENDING, bits 25:16, RO, resets to 0 (R551). -/
abbrev LIFE_STATUS.PENDING : Fld := ⟨LIFE_STATUS.pos, 16, 10, .ro, 0⟩
/-- LIFE_STATUS.IMG_PENDING, bit 26, RO, resets to 0 (R551). -/
abbrev LIFE_STATUS.IMG_PENDING : Fld := ⟨LIFE_STATUS.pos, 26, 1, .ro, 0⟩
/-- LIFE_STATUS.DROPPED, bits 47:32, RC, resets to 0 (R551). -/
abbrev LIFE_STATUS.DROPPED : Fld := ⟨LIFE_STATUS.pos, 32, 16, .rc, 0⟩
/-- LIFE_STATUS.PAGE_JOURNAL, bits 53:48, RO, resets to 4 (R551). -/
abbrev LIFE_STATUS.PAGE_JOURNAL : Fld := ⟨LIFE_STATUS.pos, 48, 6, .ro, 4⟩
/-- LIFE_STATUS.PAGE_RETIRED, bits 59:54, RO, resets to 3 (R551). -/
abbrev LIFE_STATUS.PAGE_RETIRED : Fld := ⟨LIFE_STATUS.pos, 54, 6, .ro, 3⟩
/-- LIFE_STATUS, whole (R551). -/
abbrev LIFE_STATUS.reg : Reg := ⟨LIFE_STATUS.pos, [LIFE_STATUS.GATE, LIFE_STATUS.COPY, LIFE_STATUS.VALID, LIFE_STATUS.PAGE_A, LIFE_STATUS.PAGE_B, LIFE_STATUS.PENDING, LIFE_STATUS.IMG_PENDING, LIFE_STATUS.DROPPED, LIFE_STATUS.PAGE_JOURNAL, LIFE_STATUS.PAGE_RETIRED]⟩
/-- LIFE_CTL: where it lies (R552). -/
abbrev LIFE_CTL.pos : RegPos := ⟨0x240008, (.flat 0), 1, 0x0, 1⟩
/-- LIFE_CTL.FLUSH, bit 0, WO, resets to 0 (R552). -/
abbrev LIFE_CTL.FLUSH : Fld := ⟨LIFE_CTL.pos, 0, 1, .wo, 0⟩
/-- LIFE_CTL.PAGE, bits 6:1, RW, resets to 0 (R552). -/
abbrev LIFE_CTL.PAGE : Fld := ⟨LIFE_CTL.pos, 1, 6, .rw, 0⟩
/-- LIFE_CTL.WEAR_WARN, bits 31:16, RW, resets to 5000 (R552). -/
abbrev LIFE_CTL.WEAR_WARN : Fld := ⟨LIFE_CTL.pos, 16, 16, .rw, 5000⟩
/-- LIFE_CTL.RETRY_WEEKS, bits 35:32, RW, resets to 3 (R552). -/
abbrev LIFE_CTL.RETRY_WEEKS : Fld := ⟨LIFE_CTL.pos, 32, 4, .rw, 3⟩
/-- LIFE_CTL.RETRY_WARN, bits 63:40, RW, resets to 100000 (R552). -/
abbrev LIFE_CTL.RETRY_WARN : Fld := ⟨LIFE_CTL.pos, 40, 24, .rw, 100000⟩
/-- LIFE_CTL, whole (R552). -/
abbrev LIFE_CTL.reg : Reg := ⟨LIFE_CTL.pos, [LIFE_CTL.FLUSH, LIFE_CTL.PAGE, LIFE_CTL.WEAR_WARN, LIFE_CTL.RETRY_WEEKS, LIFE_CTL.RETRY_WARN]⟩
/-- LIFE_WEAR: where it lies (R553). -/
abbrev LIFE_WEAR.pos : RegPos := ⟨0x240100, (.flat 8), 16, 0x0, 1⟩
/-- LIFE_WEAR.DAMAGE_PPM, bits 31:0, RO, resets to 0 (R553). -/
abbrev LIFE_WEAR.DAMAGE_PPM : Fld := ⟨LIFE_WEAR.pos, 0, 32, .ro, 0⟩
/-- LIFE_WEAR.HALF_CYCLES, bits 63:32, RO, resets to 0 (R553). -/
abbrev LIFE_WEAR.HALF_CYCLES : Fld := ⟨LIFE_WEAR.pos, 32, 32, .ro, 0⟩
/-- LIFE_WEAR, whole (R553). -/
abbrev LIFE_WEAR.reg : Reg := ⟨LIFE_WEAR.pos, [LIFE_WEAR.DAMAGE_PPM, LIFE_WEAR.HALF_CYCLES]⟩
/-- SEC_STATUS: where it lies (R567). -/
abbrev SEC_STATUS.pos : RegPos := ⟨0x280000, (.flat 0), 1, 0x0, 1⟩
/-- SEC_STATUS.BOOT_SLOT, bit 0, RO, resets to 0 (R567). -/
abbrev SEC_STATUS.BOOT_SLOT : Fld := ⟨SEC_STATUS.pos, 0, 1, .ro, 0⟩
/-- SEC_STATUS.FALLBACK, bit 1, RO, resets to 0 (R567). -/
abbrev SEC_STATUS.FALLBACK : Fld := ⟨SEC_STATUS.pos, 1, 1, .ro, 0⟩
/-- SEC_STATUS.DEBUG_UNLOCKED, bit 2, RO, resets to 0 (R567). -/
abbrev SEC_STATUS.DEBUG_UNLOCKED : Fld := ⟨SEC_STATUS.pos, 2, 1, .ro, 0⟩
/-- SEC_STATUS.PERMS, bits 10:3, RO, resets to 0 (R567). -/
abbrev SEC_STATUS.PERMS : Fld := ⟨SEC_STATUS.pos, 3, 8, .ro, 0⟩
/-- SEC_STATUS.RUN_SVN_MGMT, bits 16:11, RO, resets to 0 (R567). -/
abbrev SEC_STATUS.RUN_SVN_MGMT : Fld := ⟨SEC_STATUS.pos, 11, 6, .ro, 0⟩
/-- SEC_STATUS.RUN_SVN_CORE, bits 22:17, RO, resets to 0 (R567). -/
abbrev SEC_STATUS.RUN_SVN_CORE : Fld := ⟨SEC_STATUS.pos, 17, 6, .ro, 0⟩
/-- SEC_STATUS.CORE_IMAGES, bits 47:32, RO, resets to 0 (R567). -/
abbrev SEC_STATUS.CORE_IMAGES : Fld := ⟨SEC_STATUS.pos, 32, 16, .ro, 0⟩
/-- SEC_STATUS, whole (R567). -/
abbrev SEC_STATUS.reg : Reg := ⟨SEC_STATUS.pos, [SEC_STATUS.BOOT_SLOT, SEC_STATUS.FALLBACK, SEC_STATUS.DEBUG_UNLOCKED, SEC_STATUS.PERMS, SEC_STATUS.RUN_SVN_MGMT, SEC_STATUS.RUN_SVN_CORE, SEC_STATUS.CORE_IMAGES]⟩
/-- SEC_FUSE: where it lies (R568). -/
abbrev SEC_FUSE.pos : RegPos := ⟨0x280008, (.flat 0), 1, 0x0, 1⟩
/-- SEC_FUSE.REVOKED0, bit 0, RO, resets to 0 (R568). -/
abbrev SEC_FUSE.REVOKED0 : Fld := ⟨SEC_FUSE.pos, 0, 1, .ro, 0⟩
/-- SEC_FUSE.REVOKED1, bit 1, RO, resets to 0 (R568). -/
abbrev SEC_FUSE.REVOKED1 : Fld := ⟨SEC_FUSE.pos, 1, 1, .ro, 0⟩
/-- SEC_FUSE.DEBUG_LOCK, bit 2, RO, resets to 0 (R568). -/
abbrev SEC_FUSE.DEBUG_LOCK : Fld := ⟨SEC_FUSE.pos, 2, 1, .ro, 0⟩
/-- SEC_FUSE.SVN_MGMT, bits 13:8, RO, resets to 0 (R568). -/
abbrev SEC_FUSE.SVN_MGMT : Fld := ⟨SEC_FUSE.pos, 8, 6, .ro, 0⟩
/-- SEC_FUSE.SVN_CORE, bits 21:16, RO, resets to 0 (R568). -/
abbrev SEC_FUSE.SVN_CORE : Fld := ⟨SEC_FUSE.pos, 16, 6, .ro, 0⟩
/-- SEC_FUSE, whole (R568). -/
abbrev SEC_FUSE.reg : Reg := ⟨SEC_FUSE.pos, [SEC_FUSE.REVOKED0, SEC_FUSE.REVOKED1, SEC_FUSE.DEBUG_LOCK, SEC_FUSE.SVN_MGMT, SEC_FUSE.SVN_CORE]⟩
/-- SEC_CMD: where it lies (R569). -/
abbrev SEC_CMD.pos : RegPos := ⟨0x280010, (.flat 0), 1, 0x0, 1⟩
/-- SEC_CMD.OP, bits 3:0, WO, resets to 0 (R569). -/
abbrev SEC_CMD.OP : Fld := ⟨SEC_CMD.pos, 0, 4, .wo, 0⟩
/-- SEC_CMD.TYPE, bits 5:4, WO, resets to 0 (R569). -/
abbrev SEC_CMD.TYPE : Fld := ⟨SEC_CMD.pos, 4, 2, .wo, 0⟩
/-- SEC_CMD.ADDR, bits 51:12, WO, resets to 0 (R569). -/
abbrev SEC_CMD.ADDR : Fld := ⟨SEC_CMD.pos, 12, 40, .wo, 0⟩
/-- SEC_CMD, whole (R569). -/
abbrev SEC_CMD.reg : Reg := ⟨SEC_CMD.pos, [SEC_CMD.OP, SEC_CMD.TYPE, SEC_CMD.ADDR]⟩
/-- SEC_CMDST: where it lies (R570). -/
abbrev SEC_CMDST.pos : RegPos := ⟨0x280018, (.flat 0), 1, 0x0, 1⟩
/-- SEC_CMDST.BUSY, bit 0, RO, resets to 0 (R570). -/
abbrev SEC_CMDST.BUSY : Fld := ⟨SEC_CMDST.pos, 0, 1, .ro, 0⟩
/-- SEC_CMDST.DONE, bit 1, W1C, resets to 0 (R570). -/
abbrev SEC_CMDST.DONE : Fld := ⟨SEC_CMDST.pos, 1, 1, .w1c, 0⟩
/-- SEC_CMDST.STATUS, bits 9:2, RO, resets to 0 (R570). -/
abbrev SEC_CMDST.STATUS : Fld := ⟨SEC_CMDST.pos, 2, 8, .ro, 0⟩
/-- SEC_CMDST, whole (R570). -/
abbrev SEC_CMDST.reg : Reg := ⟨SEC_CMDST.pos, [SEC_CMDST.BUSY, SEC_CMDST.DONE, SEC_CMDST.STATUS]⟩
/-- SEC_DBG_GEN: where it lies (R571). -/
abbrev SEC_DBG_GEN.pos : RegPos := ⟨0x280020, (.flat 0), 1, 0x0, 1⟩
/-- SEC_DBG_GEN.GEN, bit 0, WO, resets to 0 (R571). -/
abbrev SEC_DBG_GEN.GEN : Fld := ⟨SEC_DBG_GEN.pos, 0, 1, .wo, 0⟩
/-- SEC_DBG_GEN, whole (R571). -/
abbrev SEC_DBG_GEN.reg : Reg := ⟨SEC_DBG_GEN.pos, [SEC_DBG_GEN.GEN]⟩
/-- SEC_DBG_NONCE: where it lies (R571). -/
abbrev SEC_DBG_NONCE.pos : RegPos := ⟨0x280028, (.flat 0), 1, 0x8, 4⟩
/-- SEC_DBG_NONCE.NONCE, bits 63:0, RO, resets to 0 (R571). -/
abbrev SEC_DBG_NONCE.NONCE : Fld := ⟨SEC_DBG_NONCE.pos, 0, 64, .ro, 0⟩
/-- SEC_DBG_NONCE, whole (R571). -/
abbrev SEC_DBG_NONCE.reg : Reg := ⟨SEC_DBG_NONCE.pos, [SEC_DBG_NONCE.NONCE]⟩
/-- The registers of the map, part 0. -/
def regMap0 : List Reg :=
  [DEV_IDENT.reg,
   DEV_ARRAY_MAP.reg,
   DEV_ERR.reg,
   DEV_HOLE_ADDR.reg,
   DEV_PINS.reg,
   DEV_ALERT_MASK.reg,
   CORE_CTL.reg,
   CORE_STATUS.reg,
   CORE_FAULT.reg,
   LS_ECC.reg,
   DMA_STATUS.reg,
   DMA_ERR.reg,
   DMA_CONV.reg,
   ARR_CFG.reg,
   ARR_STATUS.reg,
   ARR_ERR.reg,
   ARR_RENORM.reg,
   ARR_STALL.reg,
   DXMCTL.reg,
   DXUWIN.reg]
/-- The registers of the map, part 1. -/
def regMap1 : List Reg :=
  [PERF_CYCLE.reg,
   PERF_CTL.reg,
   PERF_CNT.reg,
   PERF_OVF.reg,
   PERF_SAMPLE.reg,
   SLC_CFG.reg,
   SLC_STATUS.reg,
   SLC_ERR.reg,
   SLC_STUCK.reg,
   SLC_TRACKMISS.reg,
   BSU_CFG.reg,
   BSU_STATUS.reg,
   BSU_ERR.reg,
   BSU_BANKFLAG.reg,
   BSU_COUNT.reg,
   BSU_CMD.reg,
   BSU_CMDST.reg,
   PGW_CFG.reg,
   PGW_STATUS.reg,
   PGW_ERR.reg]
/-- The registers of the map, part 2. -/
def regMap2 : List Reg :=
  [PGW_COUNT.reg,
   PGW_PAGES.reg,
   PGW_CTX.reg,
   PERF_CLCTL.reg,
   PERF_CLSEL.reg,
   PERF_CLCNT.reg,
   PERF_CLOVF.reg,
   PERF_CLNETERR.reg,
   DEV_PCTL.reg,
   DEV_PCNT.reg,
   DEV_POVF.reg,
   DEV_NETERR.reg,
   BCR_PART.reg,
   BCR_CFG.reg,
   BCR_STATUS.reg,
   BCR_ERR.reg,
   BCR_ACCESS.reg,
   BCR_DEAD.reg,
   BCR_PIN.reg,
   BCR_RED.reg]
/-- The registers of the map, part 3. -/
def regMap3 : List Reg :=
  [BCR_ECC.reg,
   BCR_TRAP.reg,
   SQ_BASE.reg,
   CQ_BASE.reg,
   RING_CFG.reg,
   DB_ADDR.reg,
   RING_IDX.reg,
   CQ_IDX.reg,
   RING_STATUS.reg,
   IRQ_CFG.reg,
   BTN_ERR.reg,
   BTN_REGION.reg,
   FAB_ID.reg,
   FAB_PORT.reg,
   FAB_ERR.reg,
   FAB_RELAY_CFG.reg,
   FAB_RELAY_CNT.reg,
   FAB_RESP.reg,
   FAB_BI_ADDR.reg,
   FAB_BI_CTL.reg]
/-- The registers of the map, part 4. -/
def regMap4 : List Reg :=
  [FAB_WIN_A.reg,
   FAB_WIN_B.reg,
   FAB_INWIN.reg,
   GDR_CFG.reg,
   GDR_STATUS.reg,
   GDR_ERR.reg,
   GDR_WCB.reg,
   GDR_CHAN.reg,
   THM_STATUS.reg,
   THM_RISE.reg,
   THM_CFG.reg,
   THM_BAND.reg,
   THM_RISEHIST.reg,
   THM_COOLANT.reg,
   TK_TIME.reg,
   TK_OSC.reg,
   TK_HOLD.reg,
   TK_PACE.reg,
   TK_PLAN.reg,
   PWR_STATUS.reg]
/-- The registers of the map, part 5. -/
def regMap5 : List Reg :=
  [PWR_LIMIT.reg,
   PWR_PARK.reg,
   PWR_SAG.reg,
   PWR_DOM.reg,
   ECC_CNT.reg,
   ECC_OVF.reg,
   ECC_SUM_A.reg,
   ECC_SUM_B.reg,
   ECC_SLC_A.reg,
   ECC_SLC_B.reg,
   ECC_REG_A.reg,
   ECC_REG_B.reg,
   ECC_SPLIT_CTL.reg,
   ECC_SPLIT_ADDR.reg,
   ECC_SPLIT_DATA.reg,
   ECC_SPLIT_CHECK.reg,
   ECC_SCRUB.reg,
   CHK_CFG.reg,
   CHK_VAL.reg,
   CHK_SEQ.reg]
/-- The registers of the map, part 6. -/
def regMap6 : List Reg :=
  [CHK_SNOOP.reg,
   LNK_STATUS.reg,
   LNK_ERR.reg,
   LNK_CFG.reg,
   LNK_D2D.reg,
   LNK_D2D_GRP.reg,
   LNK_SLICE.reg,
   LNK_GRPMAP.reg,
   LNK_COLUMN.reg,
   STARTER_CTL.reg,
   STARTER_STATUS.reg,
   STARTER_OPT.reg,
   STARTER_IMG.reg,
   RST_DEV.reg,
   RST_CTL.reg,
   RST_STATUS.reg,
   RST_PART.reg,
   RST_FENCE.reg,
   LIFE_STATUS.reg,
   LIFE_CTL.reg]
/-- The registers of the map, part 7. -/
def regMap7 : List Reg :=
  [LIFE_WEAR.reg,
   SEC_STATUS.reg,
   SEC_FUSE.reg,
   SEC_CMD.reg,
   SEC_CMDST.reg,
   SEC_DBG_GEN.reg,
   SEC_DBG_NONCE.reg]
/-- Every register of the map. -/
def regMap : List Reg := regMap0 ++ regMap1 ++ regMap2 ++ regMap3 ++ regMap4 ++ regMap5 ++ regMap6 ++ regMap7

end Sys2Proof.Machine
end

