-- ==== Sys2Proof/Machine/State.lean ====
section
/-! DEFINITION. The state of the block: every register, queue, buffer, counter, mode and pin the spec gives it, as plain data, and the state right after reset. -/

namespace Sys2Proof.Machine

/-- No event of the block stops the machine: the spec gives every one an effect, an error record or nothing. No meaning raises a fault (safe: there is none to raise). -/
inductive Fault where
  deriving DecidableEq, Repr

/-- Why a command is refused. -/
inductive Refusal where
  /-- The command has no meaning in the model yet; raised by an arm of exec only (safe). -/
  | notModelled (mnemonic : String)
  deriving DecidableEq, Repr

/-- Completion statuses (R299), also the STATUS of a response (R28). -/
inductive Status where
  | ok | poisonRead | uncorr | addrMismatch | falseStart | deadline | fencedUnit | badDescriptor | permission
  | crcMismatch | thermalHold | resetAbort | busyBank
  deriving DecidableEq, Repr, Inhabited

/-- The code of a status (R299). -/
def Status.code : Status → Nat
  | .ok => 0x00
  | .poisonRead => 0x01
  | .uncorr => 0x02
  | .addrMismatch => 0x03
  | .falseStart => 0x04
  | .deadline => 0x05
  | .fencedUnit => 0x06
  | .badDescriptor => 0x07
  | .permission => 0x08
  | .crcMismatch => 0x09
  | .thermalHold => 0x0A
  | .resetAbort => 0x0B
  | .busyBank => 0x0C

/-- The memory of one arbiter: its toggle and the winner of its last tie (R29). -/
structure Arb where
  toggle : Bool
  winner : Option Nat
  deriving DecidableEq, Repr, Inhabited

/-! Slices and bank-side units (R152 to R210). -/

/-- A request held by a slice controller: its requester, its arrival SCLK its place in the order of arrival (R162 to R164), and whether its whole codewords have gone into WB ahead of the others, which wait for their row (R165). -/
structure NetEnt where
  req : MemReq
  arr : Nat
  seq : Nat
  split : Bool
  deriving DecidableEq, Repr, Inhabited

/-- A whole-row read waiting in ROW (R162), and whether an event of the weight channel has asked for it (R129; log 136). -/
structure RowEnt where
  row : Nat
  arr : Nat
  seq : Nat
  own : Bool
  deriving DecidableEq, Repr, Inhabited

/-- A WB entry: write data of one row, its codewords with their 32 bytes (R162), and the ACT of the read of a read-merge-write whose write it holds (R165). -/
structure WbEnt where
  row : Nat
  arr : Nat
  seq : Nat
  cws : List (Nat × List PByte)
  rmw : Option Nat
  deriving DecidableEq, Repr, Inhabited

/-- A row opened by ACT that waits for its RD or WR, tRCD later (R155), and whether the bank was busy under SB_OFF (R194). -/
structure OpenRow where
  row : Nat
  at' : Nat
  write : Option WbEnt
  busy : Bool
  seq : Nat
  deriving DecidableEq, Repr, Inhabited

/-- A row on its way to the controller: the requests numbered up to `seq` that it answers (R156, R162). -/
structure RowMove where
  row : Nat
  at' : Nat
  busy : Bool
  seq : Nat
  deriving DecidableEq, Repr, Inhabited

/-- A tracker entry of the stuck-lane detector (R170). -/
structure Track where
  conn : Nat
  layerMin : Nat
  lastRow : Nat
  count : Nat
  deriving DecidableEq, Repr, Inhabited

/-- The op latch of a bank-side unit (R181): the target's row, the command it belongs to, the operation, the end of the busy window, and whether its effect has been carried out. -/
structure OpLatch where
  row : Nat
  cmdSeq : Nat
  target : Nat
  op : Nat
  endAt : Nat
  done : Bool
  deriving DecidableEq, Repr, Inhabited

/-- A bank-side unit (R181): registers SV0 to SV15 with their poison bits, the op latch, and the operation it held before, whose busy window may still run while the next is on its way (R183, R186). -/
structure BankUnit where
  sv : List (BitVec 32)
  svPoison : BitVec 16
  latch : Option OpLatch
  last : Option OpLatch
  deriving DecidableEq, Repr, Inhabited

/-- A broadcast command at a slice controller (R182, R196): source (0 page walker, 1 queue engine, 2 register path), the queue-engine descriptor it serves, the targets started, and the failure in the lowest target. -/
structure BsuCmd where
  src : Fin 3
  owner : Option Nat
  cmd : BitVec 256
  arr : Nat
  seq : Nat
  started : List Nat
  fail : Option (Nat × Status)
  lastStart : Nat
  deriving DecidableEq, Repr, Inhabited

/-- Width mode of a slice (SLC_STATUS.MODE; in self-refresh the width is kept). -/
inductive SlcMode where
  | full | switching | narrow
  deriving DecidableEq, Repr, Inhabited

/-- An online spare swap: none under way, its new repair position being staged in the layers, staged with the issue of ACT stopped (R483). -/
inductive SwapStep where
  | idle | staging | stopped
  deriving DecidableEq, Repr, Inhabited

/-- A slice controller and the bank-side units of its slice. `rowGot`: rows read for the weight channel that it has not taken (R129). `mrwLeft`: layers still to be written by MRW, for narrow mode or for the oldest swap request, as `swapStep` says. `haltAt`: since when band T3 has halted starts (R199); `resume`: a halt has ended and no start has been made since (R190); `refBase`: when the refresh schedule began (R159); `bandOld`, `bandAt`: the band before the latest change and the SCLK of the change, whose decisions still use it (R161, R175). -/
structure Slice where
  net : List NetEnt
  netHeld : List NetEnt
  rowQ : List RowEnt
  rowGot : List (Nat × List PByte × Status)
  wb : List WbEnt
  opens : List OpenRow
  moves : List RowMove
  ready : Tbl Nat
  due : Tbl (Option Nat)
  debt : Tbl Int
  lastRef : Tbl Nat
  refRow : Tbl Nat
  hist : List Nat
  layerHist : List (Nat × Nat)
  lastSlot : Option Nat
  noActUntil : Nat
  srAt : Option Nat
  srWanted : Bool
  resetting : Bool
  seq : Nat
  band : Nat
  hold4x : Bool
  mode : SlcMode
  half : Nat
  degraded : Bool
  narrowHalf : Option Nat
  mrwLeft : List Nat
  layerMode : Tbl Nat
  tracker : Tbl (Option Track)
  dead : List Nat
  swapped : List Nat
  swapReq : List Nat
  swapStep : SwapStep
  decayAt : Nat
  calibAt : Nat
  stopFree : Nat
  bq : List BsuCmd
  bqHeld : List BsuCmd
  units : Tbl BankUnit
  haltAt : Option Nat
  resume : Bool
  refBase : Nat
  bandOld : Nat
  bandAt : Option Nat
  cmdBytes : List (BitVec 64)
  deriving DecidableEq, Repr, Inhabited

/-- Registers +0, poison clear, latch empty (R181). -/
def BankUnit.init : BankUnit := ⟨List.replicate 16 0, 0, none, none⟩

/-- A slice controller after reset. -/
def Slice.init : Slice :=
  { net := [], netHeld := [], rowQ := [], rowGot := [], wb := [], opens := [], moves := [], ready := [], due := [], debt := [],
    lastRef := [], refRow := [], hist := [], layerHist := [], lastSlot := none, noActUntil := 0, srAt := none, srWanted := false,
    resetting := false, seq := 0, band := 0, hold4x := false, mode := .full, half := 0, degraded := false,
    narrowHalf := none, mrwLeft := [], layerMode := [], tracker := [], dead := [], swapped := [], swapReq := [], swapStep := .idle,
    decayAt := 0, calibAt := 0, stopFree := 0, bq := [], bqHeld := [], units := [], haltAt := none,
    resume := false, refBase := 0, bandOld := 0, bandAt := none, cmdBytes := [0, 0, 0, 0] }

/-! Cache regions (R211 to R244). -/

/-- The state of a cache line (R218). -/
inductive LineState where
  | keep | normal | firstOut | dead
  deriving DecidableEq, Repr, Inhabited

/-- One way of one set: the tag l, the line's state, valid and dirty bits per sector, and the time of its last use (R217 to R219). -/
structure Line where
  l : Nat
  st : LineState
  valid : BitVec 16
  dirty : BitVec 16
  use : Nat
  deriving DecidableEq, Repr, Inhabited

/-- The operations on a line (R222). -/
inductive LineOp where
  | prefetch | clean | flush | invalidate | discard | sethint
  deriving DecidableEq, Repr, Inhabited

/-- What waits at a region for a fill of a line, in order of arrival; a line operation of a CACHE_RANGE with its descriptor and its line there (R223, R225, R226). -/
inductive Waiter where
  | read (req : MemReq)
  | write (req : MemReq)
  | red (op : Fin 4) (src : Nat) (addr : Nat) (data : List PByte) (hint : Fin 4)
  | op (o : LineOp) (hint : Fin 4) (own : Option (Nat × Nat))
  deriving DecidableEq, Repr, Inhabited

/-- An entry of the trap table (R221); `at'` orders the entries by age. -/
structure TrapEnt where
  line : Nat
  hits : Nat
  at' : Nat
  deriving DecidableEq, Repr, Inhabited

/-- What a region controller carries out once its bank accesses are granted: an access; a fill whose data has returned; the writeback reads of a line that leaves its way, which line `new` takes, or nothing in a partition change; a patrol scrub of a codeword, with the physical errors it meets (R219, R231, R474). -/
inductive RegAct where
  | acc (w : Waiter)
  | fill
  | evict (way : Nat) (new : Option Nat)
  | scrub (cw : Nat) (flips : List BitFlip)
  deriving DecidableEq, Repr, Inhabited

/-- The fill of a line in progress: the sectors asked for, those that have come, their data by sector with the status it came with, and whether the line got its way for it (R217, R219). -/
structure FillBuf where
  asked : BitVec 16
  got : BitVec 16
  data : List (Nat × List PByte × Status)
  alloc : Bool
  deriving DecidableEq, Repr, Inhabited

/-- A line brought in for an access of the block's own engines, which makes it once the data is there: the sectors it needs, whether it came over the CXL port (R362), and the status the data came with (R217, R329). -/
structure EngFill where
  line : Nat
  need : BitVec 16
  crit : Bool
  st : Status
  deriving DecidableEq, Repr, Inhabited

/-- Something that has reached a region controller: when, its requester index, its line, the banks it still needs an access of, and what it is (R231). -/
structure RegEnt where
  arr : Nat
  idx : Nat
  line : Nat
  banks : List Nat
  act : RegAct
  deriving DecidableEq, Repr, Inhabited

/-- A cache region: its lines by 16 × set + way; the recency stamp, and that of ways whose line has left; what waits for its bank accesses, in order of arrival; the BCLK cycle of the last grants and the banks granted in it; what waits for a line; the fills in progress, by line; reduction packets the network still holds; the trap table; the granules a partition change is turning into scratch (PART_BUSY while there are any), and since when it zeroes them; fills that wait on a pinned set (line, since when); lines brought in for the block's own engines; line operations whose writebacks are not acknowledged (R211 to R231). -/
structure Region where
  lines : Tbl (Option Line)
  stamp : Nat
  gone : Tbl Nat
  queue : List RegEnt
  cyc : Nat
  used : List Nat
  waiting : List (Nat × Waiter)
  fills : Tbl (Option FillBuf)
  held : List Waiter
  traps : Tbl (Option TrapEnt)
  zeroing : Option (BitVec 16)
  zeroAt : Option Nat
  fillWait : List (Nat × Nat)
  engine : List EngFill
  opsOut : List (Nat × LineOp × Status × Option (Nat × Nat))
  deriving DecidableEq, Repr, Inhabited

/-- A region after reset: no line, nothing waiting. -/
def Region.init : Region :=
  { lines := [], stamp := 0, gone := [], queue := [], cyc := 0, used := [], waiting := [], fills := [], held := [], traps := [], zeroing := none, zeroAt := none, fillWait := [], engine := [], opsOut := [] }

/-! Requests the block sends over the port (R325, R329). -/

/-- What an outbound request serves: a fill of a line of a region, the writebacks of a line operation or of a partition change, a command of the queue engine, a descriptor of a core's DMA engine, a store of a control processor, a relay step, a read of the engine at an endpoint, nobody. -/
inductive UioOwner where
  | line (region line : Nat)
  | op (region line : Nat)
  | part (region : Nat)
  | desc (id : Nat)
  | dma (core id : Nat)
  | cp (core : Nat)
  | relay (up : Bool)
  | eng (src : Nat)
  | none
  deriving DecidableEq, Repr, Inhabited

/-- An outbound UIO request of at most 512 B: its tag, whether it writes, global address, length, data (a read's once it has arrived), owner, when it was issued, when a refused write is tried again, and the status a read has ended with, once it has (R314, R329). -/
structure Uio where
  tag : Nat
  write : Bool
  addr : Nat
  len : Nat
  data : List PByte
  owner : UioOwner
  issued : Option Nat
  retryAt : Option Nat
  done : Option Status
  deriving DecidableEq, Repr, Inhabited

/-- What an access that cannot be made yet waits for: its turn at its unit, a row read for the weight channel, sectors of a line of a region, or the data of a read over the port by the engine at an endpoint (R217, R226, R329). -/
inductive Ask where
  | turn
  | row (core row : Nat)
  | line (region line : Nat) (need : BitVec 16) (crit : Bool)
  | uio (src addr len : Nat)
  deriving DecidableEq, Repr, Inhabited

/-! GDDR controllers (R356 to R376). -/

/-- An entry of a write-combining buffer: the block within the channel, the time of its oldest write, and its bytes by offset within the block's 3,840 usable bytes (R365); what it held before the writes of SCLK `wasAt` (R371). -/
structure WcbEnt where
  blk : Nat
  first : Nat
  bytes : Tbl (Option PByte)
  was : Tbl (Option PByte)
  wasAt : Nat
  deriving DecidableEq, Repr, Inhabited

/-- A read that waits at a controller: its requester, bytes, class CRIT or READ, physical errors met, arrival, what it has taken already where a later write to its sector arrived, and for a fill its region, line and sector (R362, R363, R367). -/
structure GdrReq where
  src : Nat
  addr : Nat
  len : Nat
  crit : Bool
  flips : List BitFlip
  arr : Nat
  took : Option (List PByte × Status)
  own : Option (Nat × Nat × Nat)
  deriving DecidableEq, Repr, Inhabited

/-- GDR_STATUS.STATE (R373). -/
inductive GddrState where
  | absent | training | ready | disabled | selfRefresh
  deriving DecidableEq, Repr, Inhabited

/-- The GDDR controllers: the channels that have devices, state, the buffer of each channel (oldest first), failed retrainings in a row, when each channel last trained and the temperature its devices had then, banks refreshed, the stop of each channel; the reads each controller holds, oldest first, those the link holds for it, the next GCLK in which it may issue, what is left of its batch of drains (R363), and the channels that a request has woken in PARKED (R370). -/
structure Gddr where
  fitted : BitVec 8
  state : GddrState
  usableMib : Nat
  wcb : Tbl (List WcbEnt)
  failsInRow : Tbl Nat
  trainedAt : Tbl (Option Nat)
  trainTemp : Tbl (Option Int)
  refreshed : Tbl Nat
  stopUntil : Tbl Nat
  queue : Tbl (List GdrReq)
  link : Tbl (List GdrReq)
  nextG : Tbl Nat
  batch : Tbl Nat
  woken : Tbl Bool
  deriving DecidableEq, Repr, Inhabited

/-! The matrix array (R44 to R76). -/

/-- A weight set: planes by 8 × group + plane (1 KiB each, R52), scale bytes by 256 × group + column, the parity bits of the rows by 8 × group + plane (R69), P and WMX of its last LOAD, groups completely written, and whether a poisoned transfer reached it. -/
structure WSet where
  planes : Tbl (BitVec 8192)
  scales : Tbl (BitVec 8)
  parity : Tbl (BitVec 32)
  p : Nat
  wmx : Bool
  groups : Nat
  loaded : Bool
  poison : Bool
  deriving DecidableEq, Repr, Inhabited

/-- An unloaded set. -/
def WSet.init : WSet := ⟨[], [], [], 1, false, 0, false, false⟩

/-- An array command accepted and not complete: its owner (true: the partner), its tile word with the captured SCALE_GRAN, its number in the program, whether it has been granted its port or has started, how many groups it has loaded or slots it has drained, and when it was accepted. -/
structure ArrCmd where
  partner : Bool
  core : CoreId
  id : Nat
  word : BitVec 64
  scaleGran : Nat
  active : Bool
  pos : Nat
  at' : Nat
  deriving DecidableEq, Repr, Inhabited

/-- One activation vector at the input port: 128 bytes, scale word, the rows whose element came poisoned, its descriptor (R139). -/
structure InVec where
  bytes : BitVec 1024
  scale : BitVec 32
  poisonRows : List Nat
  desc : Nat
  deriving DecidableEq, Repr, Inhabited

/-- A run started and not complete (R49 to R54): its command, the set it uses, the planes P of that set, the cycle t0 in which row 0 takes vector 0, the set as it was when a later LOAD began to overwrite it, vectors received, vectors whose last word the array has accepted, vectors written, groups released, poison by a parity error. What row k holds in a cycle, with its plane counter and set tag, follows from t0 and P (R44, `ArrRun.rowAt`). -/
structure ArrRun where
  cmd : ArrCmd
  set : Nat
  p : Nat
  t0 : Nat
  snap : Option WSet
  vecs : List InVec
  accepted : Nat
  written : Nat
  released : Nat
  poison : Bool
  deriving DecidableEq, Repr, Inhabited

/-- Clock states of an array (R67). -/
inductive ArrPower where
  | run | idle | sleep | off
  deriving DecidableEq, Repr, Inhabited

/-- The array of one core: the two sets, accumulator entries by (128 × bank + slot) × 256 + column (an unlisted entry is EMPTY), commands held, the runs started and not complete in issue order, the last cycle the array is known to have reached, the cycles of the poisoned input words, power state, the clock count when it was last active, when a wake ends, whether it was woken from SLEEP, a TARGET change that waits (R65), whether bank 1 and set 1 are given back when the last run in progress of the partner ends (R66), and, by 4 × resource + owner, when a command of that owner was last granted it, from when its next one asks (R30). -/
structure ArrayUnit where
  sets : Tbl WSet
  acc : Tbl (BitVec 64)
  cmds : List ArrCmd
  runs : List ArrRun
  cyc : Nat
  badWords : List Nat
  power : ArrPower
  lastUse : Nat
  wakeAt : Option Nat
  woken : Bool
  targetTo : Option Bool
  wipe : Bool
  granted : Tbl Nat
  deriving DecidableEq, Repr, Inhabited

/-- An entry no term has been added to: EMPTY set (R56). -/
def accEmpty : BitVec 64 := 1#64 <<< 58

/-- An array after reset. -/
def ArrayUnit.init : ArrayUnit := ⟨[], [], [], [], 0, [], .run, 0, none, false, none, false, []⟩

/-! The core: sequencer, vector unit, control processor, DMA engine (R95 to R151). -/

/-- A tile command taken by the dispatcher: its number, word, address, the captured address registers (dst, a, b, c), SCALE_GRAN and BVALUE, and the CCLK of its dispatch (R102, R103). -/
structure TileCmd where
  id : Nat
  word : BitVec 64
  pc : Nat
  ops : List Nat
  scaleGran : Nat
  bvalue : Nat
  at' : Nat
  deriving DecidableEq, Repr, Inhabited

/-- An issued command that has not completed, and the status its unit finished it with, if it has. -/
structure Issued where
  cmd : TileCmd
  done : Option Status
  deriving DecidableEq, Repr, Inhabited

/-- A loop being repeated: first word of the body, first word after it, repeats left (R102). -/
structure LoopFrame where
  first : Nat
  last : Nat
  left : Nat
  deriving DecidableEq, Repr, Inhabited

/-- A program in the launch queue: first word, tag, USER, whether a DIRECT entry brought it, the CCLK in which it arrived, and whether it is a page walker's program of the running attention step (R106, R113, R119, R258). -/
structure Launch where
  pc : Nat
  tag : Nat
  user : Bool
  direct : Bool
  at' : Nat
  attn : Bool
  deriving DecidableEq, Repr, Inhabited

/-- The clock of a cluster (R19, R400): ACLK in MHz, since when, ACLK cycles × 1,000 counted up to then, and those of them outside HOLD. -/
structure Clk where
  mhz : Nat
  at' : Nat
  sum : Nat
  live : Nat
  deriving DecidableEq, Repr, Inhabited

/-- The running tile program (R103 to R107): next word, launch, END met, fault met (status and DETAIL), address registers, parameters, loops, the four queues, issued commands, the clock count outside HOLD at the last issue or completion, the decode buffer (address, word and poison of each word fetched and not yet dispatched), by queue index the CCLK since which its head has been the head, and the CCLK in which the dispatcher is next free (R103: one word a cycle). -/
structure Prog where
  pc : Nat
  launch : Launch
  ended : Bool
  faulted : Option (Status × Nat)
  ars : Tbl (Nat × Int)
  scaleGran : Nat
  watchdog : Nat
  bvalue : Nat
  loops : List LoopFrame
  arrQ : List TileCmd
  vecQ : List TileCmd
  dmaQ : List TileCmd
  syncQ : List TileCmd
  issued : List Issued
  quietAt : Nat
  buf : List (Nat × Nat × Bool)
  headAt : Tbl Nat
  dispAt : Nat
  deriving DecidableEq, Repr, Inhabited

/-- A retirement record (R120). -/
structure RetRec where
  tag : Nat
  status : Status
  detail : Nat
  deriving DecidableEq, Repr, Inhabited

/-- What CORE_STATUS.CP_STATE names (R127). -/
inductive CpState where
  | reset | copying | running | halted
  deriving DecidableEq, Repr, Inhabited

/-- The control processor (R111): RV64GC registers, CSRs, privilege, reservation and wait state, whether the next fetch is that of a trap handler, the clock count at which its image copy began, and whether a fence has stopped its clocks (R510). -/
structure Cp where
  st : CpState
  pc : BitVec 64
  x : Tbl (BitVec 64)
  f : Tbl (BitVec 64)
  user : Bool
  mstatus : BitVec 64
  mie : BitVec 64
  mtvec : BitVec 64
  mscratch : BitVec 64
  mepc : BitVec 64
  mcause : BitVec 64
  mtval : BitVec 64
  mcounteren : BitVec 64
  fcsr : BitVec 8
  mcycle : BitVec 64
  minstret : BitVec 64
  resv : Option Nat
  wfi : Bool
  trapFault : Bool
  copyAt : Nat
  stopped : Bool
  deriving DecidableEq, Repr, Inhabited

/-- The processor held in reset, in machine mode (R126, R127). -/
def Cp.init : Cp :=
  { st := .reset, pc := 0, x := [], f := [], user := false, mstatus := 0x1800, mie := 0, mtvec := 0, mscratch := 0, mepc := 0,
    mcause := 0, mtval := 0, mcounteren := 0, fcsr := 0, mcycle := 0, minstret := 0, resv := none, wfi := false, trapFault := false, copyAt := 0, stopped := false }

/-- Where a held descriptor is: waiting, on a general channel, in its stream, refused or finished with a status (R130, R131, R145). -/
inductive DescStage where
  | waiting
  | onChannel (c : Fin 2)
  | stream
  | finished
  deriving DecidableEq, Repr, Inhabited

/-- A descriptor the DMA engine holds (R130, R133): its number, the DMA word that named it, granule, bytes, how its read went, stage, whether its checks have been made, next unit, first error, units the array has taken, whether it holds the check-value unit, whether DONE has been written, whether its program was launched with USER = 1, whether it has met a data error (R150), and when its claim of the check-value unit arrived (R29, R143). -/
structure DmaDesc where
  id : Nat
  cmdId : Nat
  gran : Nat
  body : BitVec 512
  stage : DescStage
  checked : Bool
  unit : Nat
  status : Status
  taken : Nat
  chk : Bool
  written : Bool
  user : Bool
  dataErr : Bool
  chkAt : Option Nat
  deriving DecidableEq, Repr, Inhabited

/-- A converted weight tile in the plane buffer (R132, R137): its stream and descriptor, the LOAD it serves, P, WMX, plane transfers by 8 × group + plane, scale bytes by 256 × group + column, whether its transfers are poisoned, groups emitted, when the first was (R53). -/
structure Tile where
  stream : Nat
  desc : Nat
  loadId : Nat
  p : Nat
  wmx : Bool
  planes : Tbl (BitVec 8192)
  scales : Tbl (BitVec 8)
  poison : List Nat
  emitted : Nat
  last : Bool
  at' : Nat
  deriving DecidableEq, Repr, Inhabited

/-- The core DMA engine (R129 to R151). -/
structure Dma where
  held : List DmaDesc
  nextId : Nat
  tiles : List Tile
  inputs : Tbl (List InVec)
  deriving DecidableEq, Repr, Inhabited

def Dma.init : Dma := ⟨[], 0, [], []⟩

/-- A scoped reset in progress: its scope (0 core, 1 cluster, 2 partition, 3 die), its target, when GO was written (R513, R514). -/
structure ResetRun where
  scope : Nat
  target : Nat
  at' : Nat
  deriving DecidableEq, Repr, Inhabited

/-- What one core holds: the running program, the 16 gates (R104), the commands numbered so far, launch, post and retirement queues, a SET acknowledgement that waits for the post queue, mailbox, timer, processor, array, DMA engine, an armed sample, requests at local-store banks, when its fence began. -/
structure Core where
  prog : Option Prog
  gates : List Nat
  nextCmd : Nat
  lq : List Launch
  postQ : List (BitVec 32)
  retQ : List RetRec
  swapAck : Option (Nat × BitVec 32 × Status)
  mbox : Tbl (BitVec 256)
  mboxHead : Nat
  mboxTail : Nat
  mboxHeld : List (BitVec 256)
  timecmp : BitVec 64
  cp : Cp
  arr : ArrayUnit
  dma : Dma
  sampleArm : Option (Nat × Nat)
  lsQ : List (Nat × LsReq)
  fenceAt : Nat
  deriving DecidableEq, Repr, Inhabited

def Core.init : Core :=
  { prog := none, gates := List.replicate 16 0, nextCmd := 0, lq := [], postQ := [], retQ := [], swapAck := none, mbox := [], mboxHead := 0, mboxTail := 0,
    mboxHeld := [], timecmp := 0, cp := Cp.init, arr := ArrayUnit.init, dma := Dma.init, sampleArm := none, lsQ := [], fenceAt := 0 }

/-! Batons and rings (R280 to R313). -/

/-- Who waits for a baton operation's acknowledgement: a BATON word of a tile program, a descriptor of the queue engine, the requester of a load or store of a record, another device that made one by UIO (R303, R304, R306). -/
inductive BtnSrc where
  | tile (core cmd : Nat)
  | desc (id : Nat)
  | mem (src : Nat)
  | uio (fid : Nat)
  deriving DecidableEq, Repr, Inhabited

/-- The operations of a baton (R304), and the load of its record (R303). -/
inductive BtnKind where
  | add | set | wait | handoff | load
  deriving DecidableEq, Repr, Inhabited

/-- An operation at a baton unit: its input port at the stop, its arrival, when its wait times out, and of an access of the record its offset, its size, and whether it stores poison (R303 to R306, R322). -/
structure BtnOp where
  kind : BtnKind
  baton : Nat
  v : Nat
  src : BtnSrc
  port : Nat
  arr : Nat
  limit : Option Nat
  off : Nat := 0
  size : Nat := 0
  poison : Bool := false
  deriving DecidableEq, Repr, Inhabited

/-- How a descriptor ended: status, DETAIL, RESULT (R298). -/
structure Fin3 where
  st : Status
  detail : Nat
  result : Nat
  deriving DecidableEq, Repr, Inhabited

/-- A descriptor in flight: its number, ring, submission index, bytes, place in the order of starts, when it started, whether its work has been sent out, the cores or slices whose report it still waits for (R121, R202), the reports it has: core, status, targets done, how it ended, and whether its record is held or written (R294, R298, R301). -/
structure Desc where
  id : Nat
  ring : Nat
  idx : Nat
  body : BitVec 512
  seq : Nat
  at' : Nat
  sent : Bool
  cores : List Nat
  reports : List (Nat × Status × Nat)
  fin : Option Fin3
  deriving DecidableEq, Repr, Inhabited

/-- A descriptor fetched and not started: submission index, bytes, whether its read was poisoned, and the doorbell read that made it available (R294). -/
structure Fetched where
  idx : Nat
  body : BitVec 512
  poison : Bool
  age : Nat
  deriving DecidableEq, Repr, Inhabited

/-- A completion record that has not been written: its descriptor and submission ring, bytes 0 to 15 without PHASE, IRQ_NOW or a bad status, when it became ready (R298, R301, R302). -/
structure Cpl where
  id : Nat
  ring : Nat
  body : BitVec 128
  now : Bool
  at' : Nat
  deriving DecidableEq, Repr, Inhabited

/-- RING_STATUS.STATE (R283). -/
inductive RingState where
  | disabled | running | draining | stopped
  deriving DecidableEq, Repr, Inhabited

/-- Ring pair i: submission indices, state, pending enable, fetched descriptors, doorbell reads that made entries available (up to which index, when), the completion ring's indices, whether it is in use, records not written, its interrupt moderation: records written since the last message, when the first of them was, whether one of them wants it at once; and when its doorbell slot is next polled (R283 to R302). -/
structure Ring where
  state : RingState
  pendingEn : Bool
  sqHead : Nat
  sqTail : Nat
  avail : List (Nat × Nat)
  fetched : List Fetched
  cqTail : Nat
  cqHead : Nat
  inUse : Bool
  ready : List Cpl
  since : Nat
  firstAt : Option Nat
  urgent : Bool
  pollAt : Nat
  deriving DecidableEq, Repr, Inhabited

/-- A ring pair after reset. -/
def Ring.init : Ring := ⟨.disabled, false, 0, 0, [], [], 0, 0, false, [], 0, none, false, 0⟩

/-- A line of the doorbell watch table: held in Shared state, a re-read outstanding, and another needed after it (R290). -/
structure Watch where
  reading : Bool
  again : Bool
  deriving DecidableEq, Repr, Inhabited

/-! Attention and page walkers (R245 to R279). -/

/-- A loaded context slot: its descriptor, STRETCH_LEN and NEXT_LAYER (R247, R248). -/
structure Ctx where
  body : BitVec 512
  len : Nat
  next : Nat
  deriving DecidableEq, Repr, Inhabited

/-- A look-aside entry: its tag, the frame's address and when it was last used (R253). -/
structure LabEnt where
  slot : Nat
  layer : Nat
  head : Nat
  v : Nat
  frame : Nat
  use : Nat
  deriving DecidableEq, Repr, Inhabited

/-- A page of the running step: the core that runs it, KV head, page number, page index of R262, its frame once walked, its recorded maxima with their poison, whether it is out of the step, whether it is skipped. -/
structure AttnPage where
  core : Nat
  head : Nat
  v : Nat
  i : Nat
  frame : Nat
  maxima : List (Nat × Bool)
  out : Bool
  skip : Bool
  deriving DecidableEq, Repr, Inhabited

/-- The running ATTN_STEP: its descriptor and operands, its slot's context, tokens it sees, phase of R257 (6: done, 7: a refused append, 8: a die reset is ending it), pages, status so far, KV heads whose columns are poisoned, m[c] after phase 3, bank-side reports it waits for once their commands are out, cores fenced or reset while it runs. -/
structure Attn where
  id : Nat
  body : BitVec 512
  ctx : Ctx
  n : Nat
  phase : Nat
  pages : List AttnPage
  st : Status
  badHeads : List Nat
  mref : List (Nat × Bool)
  wait : Option Nat
  lost : List (Nat × Status)
  deriving DecidableEq, Repr, Inhabited

/-! The port and the relay (R314 to R355). -/

/-- A host request the port holds (R334, R335): its tag, whether it writes, DPA, length, data, the state a read is granted, limit of its timer, whether its target has it, and whether the timer has answered it. -/
structure PortReq where
  tag : Nat
  write : Bool
  dpa : Nat
  len : Nat
  data : List PByte
  state : CohState
  limit : Nat
  sent : Bool
  answered : Bool
  deriving DecidableEq, Repr, Inhabited

/-- A committed HDM decoder: host base, size, DPA base (R320). -/
structure Hdm where
  hpa : Nat
  size : Nat
  dpa : Nat
  deriving DecidableEq, Repr, Inhabited

/-- Whether the device is PARKED, leaving PARKED, or in HALT (R404 to R411). -/
inductive DevPower where
  | run | parked | waking | halt
  deriving DecidableEq, Repr, Inhabited

/-- A relay chunk that is kept: its header, its place in the buffer (none: only the trace of a chunk whose CRC failed), its arrival (R340, R341). -/
structure RChunk where
  src : Nat
  kind : Nat
  rtag : Nat
  step : Nat
  layer : Nat
  missing : Nat
  chunk : Nat
  slot : Option Nat
  at' : Nat
  deriving DecidableEq, Repr, Inhabited

/-- A RELAY_STEP in progress: descriptor, plan, deadline, chunks of HIDDEN (kind 1) and KVNEW (kind 2) it has, children merged, missing counts by plan index, whether a missing message had a CRC failure, whether a send failed, the first failure of its own reads and writes, and whether its inputs are done with (R337 to R345). -/
structure RelayRun where
  id : Nat
  body : BitVec 512
  plan : BitVec 512
  limit : Nat
  got : List (Nat × Nat)
  merged : List Nat
  missing : List (Nat × Nat)
  crc : Bool
  failed : Bool
  st : Status
  sending : Bool
  deriving DecidableEq, Repr, Inhabited

/-! Power, temperature, pace (R399 to R448). -/

/-- One level of one supply: consecutive samples below it, consecutive samples above it and its hysteresis, whether it is in force (R410). -/
structure SagLevel where
  below : Nat
  above : Nat
  on : Bool
  deriving DecidableEq, Repr, Inhabited

/-- The budget: the last 100 samples in watts of the total, the ARRAY and the STACK pool, newest first; the 1 ms bin being filled and the full ones, newest first; the sprint in progress, when the last one ended; trim steps in force and when each pool's was made; since when both pools have been at their floors with the 1 s average too high; the sag levels by 4 × supply + level; when HALT was entered; when the device parked and when a wake cause last came; when and by which path PRESET was last written: 0 BAR0, 1 the pacer (R407 to R412). -/
structure Pwr where
  tot : List Nat
  arr : List Nat
  stk : List Nat
  msSum : Nat
  msCnt : Nat
  bins : List Nat
  sprintAt : Option Nat
  sprintEnd : Option Nat
  arrTrim : Nat
  stkTrim : Nat
  arrAt : Nat
  stkAt : Nat
  floorAt : Option Nat
  sag : Tbl SagLevel
  haltAt : Nat
  parkAt : Option Nat
  wakeAt : Option Nat
  presetBy : Option (Nat × Nat)
  deriving DecidableEq, Repr, Inhabited

/-- The rail of a cluster: its level in mV when its regulator was last set, when that was, and the level it moves to (R400). -/
structure Rail where
  mv : Nat
  at' : Nat
  goal : Nat
  deriving DecidableEq, Repr, Inhabited

/-- Times of the domains of PWR_DOM (R402, R403). -/
abbrev DomTimes := Tbl Nat

/-- The thermal unit: each sensor's last three readings, newest first; rounds for which it has differed from its group; failed sensors; rounds for which a hub's references have disagreed; WARN and CRIT in force; steps by which each cluster is held down, and when the last was made; clusters all of whose sensors have failed; a base or I/O sensor at THROTTLE since its last step; the residuals of the last rounds in 2^−16 units of 0.125 °C, newest first; p_lag in 2^−16 W and the t_ref learned; the thermal limit in W; the 1 ms average of a second ago; TJ_MAX of a second ago and its rise; consecutive seconds of slow rise, of the end of DEGRADED and of the end of RISE_FAST; whether a round of the running second has broken the condition of either; rounds above RISE_FAST; DEGRADED; when the limit's next step is due; when HOLD began; when THM_COOLANT was last written; when and by which path it was: 0 BAR0, 1 the management controller; HOLD reasons that wait for the end of PARKED (R419 to R433). -/
structure Therm where
  hist : Tbl (List Int)
  diff : Tbl Nat
  failed : List Nat
  hubs : Tbl Nat
  warn : Bool
  crit : Bool
  down : Tbl Nat
  downAt : Tbl Nat
  dead : List Nat
  baseAt : Option Nat
  xs : List Int
  pLag : Int
  tRef : Option Int
  limit : Nat
  x1s : Int
  tj1s : Int
  tjRise : Int
  slow : Nat
  calm : Nat
  fastCalm : Nat
  calmBad : Bool
  fastBad : Bool
  fast : Nat
  degraded : Bool
  stepAt : Nat
  holdAt : Nat
  coolAt : Nat
  coolBy : Option (Nat × Nat)
  later : List Nat
  deriving DecidableEq, Repr, Inhabited

/-- The pacer: the running entry as it began and when, whether the next entry's preset has been written, and a spread in progress: the ARRAY and the STACK cap's code it starts from and ends at, and steps made (R434, R435). -/
structure Pace where
  entry : BitVec 64
  at' : Nat
  led : Bool
  spread : Option ((Nat × Nat) × (Nat × Nat) × Nat)
  deriving DecidableEq, Repr, Inhabited

/-! Hexoarn, the die-to-die link, the lap counter (R21 to R31, R486 to R492, R544). -/

/-- A flit buffered at a router: input port, lane, class, flit, number of its arrival, output port, destination endpoint, and whether the router consumes it, answering the packet or delivering it nowhere (R21 to R27). -/
structure NocFlit where
  port : Nat
  lane : Nat
  cls : Nat
  flit : Flit
  at' : Nat
  out : Nat
  dest : Nat
  answer : Bool
  deriving DecidableEq, Repr, Inhabited

/-- A packet under way: at an input lane for the flits that follow its HEAD, at an output lane for those that must not be interleaved: input port and lane, class, output port, destination, source endpoint, whether it is answered, the address its next payload is written to, where it is a write, and a response's STATUS with whether a flit of it came poisoned (R25, R27, R28, R466). -/
structure NocPkt where
  port : Nat
  lane : Nat
  cls : Nat
  out : Nat
  dest : Nat
  src : Nat
  answer : Bool
  addr : Option Nat
  status : Nat
  bad : Bool
  deriving DecidableEq, Repr, Inhabited

/-- A router: flits in order of arrival, packets under way by input lane and class and by output lane; for each output port the class last granted and for how many grants in a row while another class waited (R25); when each input port's request of a class was accepted at an output's arbiter (R30); its cycles so far; 1 past the time of the last HEAD on each input (R512). -/
structure Router where
  bufs : List NocFlit
  inp : Tbl (Option NocPkt)
  outp : Tbl (Option NocPkt)
  runs : Tbl (Nat × Nat)
  offers : Tbl (Option Nat)
  seq : Nat
  headAt : Tbl Nat
  deriving DecidableEq, Repr, Inhabited

/-- An empty router. -/
def Router.init : Router := ⟨[], [], [], [], [], 0, []⟩

/-- A die-to-die lane group: the SEQ its receiver expects, whether the receiver has returned NAK and discards frames, and replays in a row of the frame it expects, and when the last of them was asked (R490, R491, R493). -/
structure D2dGroup where
  next : Nat
  nak : Bool
  replays : Nat
  at' : Nat
  deriving DecidableEq, Repr, Inhabited

/-- An interface of the lap counter, in units of 0.0625 °C: the running extreme, whether it is rising (none: not yet known), and the stack of reversals, newest first (R492, R544). -/
structure Lap where
  ext : Int
  up : Option Bool
  stack : List Int
  deriving DecidableEq, Repr, Inhabited

/-! Bring-up and trust (R502 to R508, R555 to R571). -/

/-- A request held in the call room: its channel, the service it needs, the command that brought it, when it arrived (R503). -/
structure Call where
  chan : Channel
  svc : Service
  req : Instr
  arr : Nat
  deriving DecidableEq, Repr

/-- The STARTER step that runs: when it began, the FAIL_CODE it will end with, whether it ends degraded, and for step 5 the channels whose training will pass (R360, R505). -/
structure StepRun where
  at' : Nat
  fail : Option Nat
  degraded : Bool
  train : Option Nat := none
  deriving DecidableEq, Repr, Inhabited

/-- An SPDM session: its number, transport, whether FINISH has been answered, key updates made (R562, R563). -/
structure Session where
  id : Nat
  doe : Bool
  open' : Bool
  gen : Nat
  deriving DecidableEq, Repr, Inhabited

/-- The SPDM connection of one transport: requests answered in order (0 none, 1 version, 2 capabilities, 3 algorithms) and the transcript a signature covers (R562). -/
structure Spdm where
  stage : Nat
  script : List Byte
  deriving DecidableEq, Repr, Inhabited

/-- A programmed IDE key: stream (0 link, 1 and 2 selective, 3 CXL.cachemem), key set, key, whether the set is in use (R563). -/
structure IdeKey where
  stream : Nat
  keySet : Bool
  key : BitVec 256
  go : Bool
  deriving DecidableEq, Repr, Inhabited

/-- JTAG instructions (R389). -/
inductive JtagIr where
  | bypass | idcode | sample | extest
  deriving DecidableEq, Repr, Inhabited

/-- What the last PMBus poll read: VIN, IOUT, VOUT, temperature (R395), and the last VAON sample in tenths of a millivolt (R410). -/
structure Pmb where
  vin : Nat
  iout : Nat
  vout : Nat
  temp : Nat
  aon : Nat
  deriving DecidableEq, Repr, Inhabited

/-! Event records, what the block sends out, and the whole state. -/

/-- The configuration registers of the port that CXL and PCI Express give a part in what this chapter states (R314 to R317, R331): MSI-X Enable and Function Mask, Viral Enable, whether cachemem IDE runs in skid mode (else containment), and whether a MAC failure has ended it. -/
structure PortCfg where
  msixEn : Bool
  msixMask : Bool
  viralEn : Bool
  ideSkid : Bool
  ideFailed : Bool
  deriving DecidableEq, Repr, Inhabited

/-- A UIO request of another device, or a relay chunk, that has reached the port and waits its turn: its fabric ID, whether it writes, local address, length and data (R330, R341). -/
structure InReq where
  fid : Nat
  write : Bool
  addr : Nat
  len : Nat
  data : List PByte
  deriving DecidableEq, Repr, Inhabited

/-- What an event record reports (R332, R436 and the chapters that raise the others). -/
inductive EvKind where
  | thermalWarn | thermalThrottle | coolingDegraded | coolantStale | planHot | sensorFault | slowclkLost | coolingLost
  | thermalCrit | holdExit | thermalTrip | holdBudget | holdForce
  | codeError | trapHit | writeLost | supplySag | gddrDrift | ideMac | sag | d2dFatal | wear | retries | caFault | lastLane
  deriving DecidableEq, Repr, Inhabited

/-- An event record: handle, log (0 Informational, 1 Warning, 2 Failure, 3 Fatal), what it reports, its payload, and TK_TIME (R332, R436, R437). -/
structure EvRec where
  handle : Nat
  log : Nat
  kind : EvKind
  payload : List Nat
  time : Nat
  deriving DecidableEq, Repr, Inhabited

/-- What leaves the block in answer to a command, oldest first. -/
inductive Output where
  | regRead (r : Req) (v : BitVec 64)
  | memResp (dst : Nat) (st : Status) (data : List PByte)
  | redAck (dst : Nat) (st : Status)
  | bsuReport (core : CoreId) (src : Fin 3) (tag : Nat) (st : Status) (done : Nat)
  | flit (router : RouterId) (port : Nat) (lane : Nat) (f : Flit)
  | netReport (dest : Nat) (st : Status)
  | hostWrite (addr : Nat) (data : List PByte)
  | uio (tag : Nat) (write : Bool) (addr : Nat) (len : Nat) (data : List PByte)
  | hostRead (addr : Nat) (len : Nat)
  | lineDone (region line : Nat) (op : LineOp) (st : Status)
  | coreFaulted (core : Nat)
  | msix (vector : Nat)
  | evMessage (handle : Nat)
  | evInterrupt (log : Nat)
  | memData (tag : Nat) (poison : Bool) (state : CohState) (data : List PByte)
  | memCmp (tag : Nat)
  | biSnp (line : Nat) (count : Nat)
  | snpResp (line : Nat) (hit : Bool)
  | uioResp (fid : Nat) (status : UioStatus) (data : List PByte)
  | hdm (ok : Bool)
  | config (retry : Bool) (value : BitVec 32)
  | mailbox (code : Nat) (data : List Byte)
  | events (log lost : Nat) (recs : List EvRec)
  | doe (data : List Byte)
  | viral
  | d2dAck (group : Nat) (seq : Nat) (nak : Bool)
  | served (svc : Service) (chan : Channel) (body : List Byte)
  | busy (svc : Service) (chan : Channel)
  | mctpReply (vdm : Bool) (type : Nat) (body : List Byte)
  | pldmValue (sensor : Nat) (value : Option Int) (state : Nat)
  | spdm (doe : Bool) (session : Option Nat) (body : List Byte)
  | smbAddress (addr : Nat)
  | i3cIbi
  | pin (name : Nat) (level : Bool)
  | jtag (bits : List Bool)
  deriving DecidableEq, Repr, Inhabited

/-- The fuses: arrays disabled, stepping, key-slot revocations, minimum versions, DEBUG_LOCK, KCLK trim (R5, R6, R555, R568, R432). -/
structure Fuse where
  disabled : List Nat
  stepping : Nat
  revoked : List Nat
  svnMgmt : Nat
  svnCore : Nat
  debugLock : Bool
  trim : Nat
  deriving DecidableEq, Repr, Inhabited

/-- A register access that waits for the end of PARKED: who made it, BAR0 offset, size, and the value of a write (R406). -/
structure RegWait where
  req : Req
  off : Nat
  size : Nat
  value : Option Word
  deriving DecidableEq, Repr, Inhabited

/-- A code event that asks for a new entry of the summary table: requester index of R470, then codeword, bit, kind, structure code and unit of the entry (R458, R473). -/
structure SumEnt where
  idx : Nat
  cw : Nat
  bit : Nat
  kind : Nat
  st : Nat
  unit : Nat
  deriving DecidableEq, Repr, Inhabited

/-- What the block must tell apart of the SCLK cycle that runs: the register words as it began, the bits of W1C and RC fields the block itself has written 1 to since, the bits of each register that software has written since, the HDM decoders and the snoop filter as it began, the code events that have asked for summary entries since, the writes of RST_PART refused since, with PART_REFUSED before them, and whether a timed update of the life log has been made (R13, R346, R470, R517, R550). -/
structure Cycle where
  regs : Tbl (BitVec 64)
  set : Tbl (BitVec 64)
  soft : Tbl (BitVec 64)
  hdm : List Hdm
  sf : Tbl (List Nat)
  sums : List SumEnt
  parts : List (Nat × Nat × Bool)
  saved : Bool
  deriving DecidableEq, Repr, Inhabited

/-- Everything the block holds but its queue of commands. -/
structure Dev where
  /-- SCLK cycles since the model's start; the model's own clock, one per idle step (log 2). -/
  ns : Nat
  /-- Counter of the free values drawn; the model's own (log 5). -/
  fresh : Nat
  /-- What the block has sent out, newest first; the model's own. -/
  out : List Output
  /-- Every register of the register map: its word XOR its reset word, by BAR0 offset (R10, R35). -/
  regs : Tbl (BitVec 64)
  /-- Every arbiter's toggle and last winner (R29). -/
  arbs : Tbl Arb
  /-- The stores: one entry per byte that is not zero, by the key of Codes.lean (R32, R449). -/
  mem : List Host.Cell
  /-- Stored check bits XOR the check bits of R449, by codeword key: 0 is a valid codeword, 0x80E0 a poison codeword (R453). -/
  chk : Tbl (BitVec 16)
  /-- Slice controllers and bank-side units (R152, R181). -/
  slices : Tbl Slice
  /-- Cache regions (R211). -/
  regions : Tbl Region
  /-- GDDR controllers (R356). -/
  gddr : Gddr
  /-- Cores (R95). -/
  cores : Tbl Core
  /-- The clock count at which each core's cycle counter was 0 (R527, R533). -/
  cycBase : Tbl Nat
  /-- A scoped reset in progress (R513). -/
  rst : Option ResetRun
  /-- Cluster clocks (R19, R400). -/
  clks : Tbl Clk
  /-- Ring pairs (R280). -/
  rings : Tbl Ring
  /-- Descriptors in flight, in the order they started (R294). -/
  descs : List Desc
  /-- Numbers given so far to descriptors in flight. -/
  descSeq : Nat
  /-- The doorbell watch table, by line number (R290). -/
  watch : Tbl (Option Watch)
  /-- Baton VALUEs (R303). -/
  btnVal : Tbl (BitVec 32)
  /-- Context slots, by 16 × walker + slot (R247). -/
  ctxs : Tbl (Option Ctx)
  /-- Look-aside entries, by 512 × walker + 8 × set + way, and their recency stamp (R253). -/
  lab : Tbl (Option LabEnt)
  labStamp : Nat
  /-- The attention step in progress (R255). -/
  attn : Option Attn
  /-- Batons whose state is uncorrectable (R309). -/
  btnBad : List Nat
  /-- Operations that have reached each region's baton unit and not been taken (R305). -/
  btnQ : Tbl (List BtnOp)
  /-- Registered waiters of each region, oldest first (R306). -/
  btnW : Tbl (List BtnOp)
  /-- Outbound UIO requests, oldest first: the first 1,024 are outstanding (R329). -/
  uio : List Uio
  /-- Tags given so far to outbound requests. -/
  uioTag : Nat
  /-- What the accesses of the event in hand still wait for; empty between events, the model's own (log 136). -/
  waits : List Ask
  /-- Host requests the port holds, in order of arrival (R334, R335). -/
  port : List PortReq
  /-- Committed HDM decoders, in order (R320). -/
  hdm : List Hdm
  /-- The snoop filter: the DPA lines of each set, least recently granted first (R323). -/
  sf : Tbl (List Nat)
  /-- Lines with a BISnpInv the host has not answered. -/
  biOut : List Nat
  /-- Lines a recall still waits for (R324). -/
  recalls : List Nat
  /-- When PERST_N was deasserted, or the last other reset of R516 ended (R502). -/
  perstAt : Option Nat
  /-- PARKED, on the way out of it, in HALT, or none of these (R404, R406, R411). -/
  power : DevPower
  /-- When 3V3_AUX rose, while it is present (R384). -/
  auxAt : Option Nat
  /-- The power budget (R407 to R411). -/
  pwr : Pwr
  /-- Since when each switched domain has been in its state (R402). -/
  domAt : DomTimes
  /-- When each switched domain was last requested ON (R403). -/
  domAsked : DomTimes
  /-- The operating point of each cluster whose clock runs (R400). -/
  points : Tbl Nat
  /-- The rail VCL of each cluster (R400). -/
  rails : Tbl Rail
  /-- The thermal unit (R418 to R433). -/
  therm : Therm
  /-- The pacer (R434, R435). -/
  pace : Pace
  /-- MOD_EN, when it rose, and whether the module failed to answer it (R384). -/
  modEn : Bool
  modEnAt : Nat
  modFail : Bool
  /-- Services that are ready (R502). -/
  svc : List Service
  /-- The device timestamp: the value set and when (R314). -/
  stamp : Option (Nat × Nat)
  /-- RELAY_STEPs in progress: DOWN at 0, UP at 1 (R339). -/
  relays : Tbl (Option RelayRun)
  /-- Relay chunks kept (R341). -/
  chunks : List RChunk
  /-- The last (STEP, LAYER) completed of each RTAG, most recent first, at most 16 (R342). -/
  relayLast : List (Nat × Nat × Nat)
  /-- The 4 KiB granules whose fold each check-value unit has entered since its claim (R465). -/
  chkSeen : Tbl (List Nat)
  /-- When each check-value unit was last claimed, while a claim of that cycle may still meet it (R29, R470). -/
  chkWhen : Tbl (Option Nat)
  /-- When VAL of a check-value unit was last written, and what it held before (R470). -/
  chkWas : Tbl (Option (Nat × Nat))
  /-- Event logs by number, newest first (R332). -/
  evLogs : Tbl (List EvRec)
  /-- Records dropped per log (R332). -/
  evOver : Tbl Nat
  /-- Handles given so far. -/
  evHandle : Nat
  /-- Event interrupt settings, a byte per log (R332, SET_EVENT_INTERRUPT_POLICY). -/
  evPolicy : BitVec 32
  /-- Records the board manager has not accepted (R396). -/
  evPending : Nat
  /-- Journal records made so far (R548). -/
  lifeSeq : Nat
  /-- Journal records waiting in retention SRAM, oldest first (R547). -/
  lifePend : List (List Byte)
  /-- Repair positions, by 512 × core + group: data groups 0 to 271, command groups from 300 (R480). -/
  repair : Tbl Nat
  /-- States of the command groups, by 16 × core + group, coded as LNK_GRPMAP.STATE (R481, R485, R500). -/
  caGrp : Tbl Nat
  /-- Lanes retired or disabled: router, input port, lane (R481, R486). -/
  laneOff : List (Nat × Nat × Nat)
  /-- Times of the last FCHECK mismatches of each input lane, newest first (R486). -/
  laneErr : Tbl (List Nat)
  /-- Die-to-die lane groups (R488 to R491). -/
  d2d : Tbl D2dGroup
  /-- Routers: clusters 0 to 31, base stops from 32, the I/O die network 160 (R23). -/
  noc : Tbl Router
  /-- The lap counter's interfaces, and the last valid INLET (R492, R544). -/
  laps : Tbl (Option Lap)
  lapInlet : Option Int
  /-- Clock count up to which each cycle-counting counter has counted (R528, R532). -/
  pmcAt : Tbl Nat
  /-- TK_TIME of the last update of the life log (R546). -/
  lifeAt : Nat
  /-- A histogram image waits in retention SRAM (R547). -/
  imgPend : Bool
  /-- Interfaces that have reached WEAR_WARN (R545). -/
  worn : List Nat
  /-- PLDM sensors as last refreshed; a sensor without a value is unavailable (R540). -/
  pldm : Tbl (Option Int)
  /-- The last PMBus readings, and STATUS_WORD read on PMB_ALERT_N (R395). -/
  pmb : Pmb
  pmbStatus : BitVec 16
  /-- The call room, in order of arrival (R503). -/
  calls : List Call
  /-- Services that answer Busy until device reset (R503). -/
  dead : List Service
  /-- Endpoint IDs of the two bindings: management bus 0, PCIe VDM 1 (R393). -/
  eid : Tbl (BitVec 8)
  /-- The STARTER step in progress (R505). -/
  step : Option StepRun
  /-- When PERST_N fell, or a sensor last read 100 °C or more if that is later (R387). -/
  perstLow : Nat
  /-- Location of a thermal trip that no reset has reported yet (R387, R436). -/
  tripRec : Option Nat
  /-- The straps have been sampled (R381). -/
  strapped : Bool
  /-- The JTAG instruction, its bypass bit, the captured boundary (R389). -/
  jtagIr : JtagIr
  jtagBypass : Bool
  boundary : List Bool
  /-- Verified management firmware runs (R557). -/
  mgmt : Bool
  /-- Measurements 1 to 3, as digests (R562). -/
  meas : Tbl (BitVec 512)
  /-- SPDM connections: MCTP 0, DOE 1 (R562). -/
  spdm : Tbl Spdm
  /-- SPDM sessions, oldest first (R562). -/
  sessions : List Session
  /-- IDE keys (R563). -/
  ide : List IdeKey
  /-- Draws made from the random generator of the root of trust (R571). -/
  draws : Nat
  /-- Register accesses that wait for a block to run again, oldest first (R406). -/
  regHeld : List RegWait
  /-- A fatal device error has occurred since device reset (R396). -/
  fatal : Bool
  /-- The SCLK cycle that runs (R13, R346). -/
  cyc : Cycle
  /-- Requests that have come in from the fabric and wait their turn, oldest first (R330, R341). -/
  inq : List InReq
  /-- MSI-X and IDE settings of the port (R317, R331). -/
  cfg : PortCfg
  /-- ALERT_N as it was when the I3C in-band interrupt was last considered (R388). -/
  alerted : Bool
  /-- Fuses (R555). -/
  fuse : Fuse
  deriving DecidableEq, Repr

/-- The state: the commands waiting, first in first out, and everything else. -/
structure State where
  pending : List Instr
  dev : Dev
  deriving DecidableEq, Repr

/-- GDDR controllers after reset: the board has devices on all eight channels (log 170), none is in use. -/
def Gddr.init : Gddr :=
  { fitted := 0xFF, state := .absent, usableMib := 0, wcb := [], failsInRow := [], trainedAt := [], trainTemp := [], refreshed := [], stopUntil := [],
    queue := [], link := [], nextG := [], batch := [], woken := [] }

/-- Fuses of a DX96-256-A0 as it is made: DEBUG_LOCK blown (R558; log 4). -/
def Fuse.init : Fuse := ⟨[], 0, [], 0, 0, true, 0⟩

/-- The budget after reset. -/
def Pwr.init : Pwr := ⟨[], [], [], 0, 0, [], none, none, 0, 0, 0, 0, none, [], 0, none, none, none⟩
/-- The thermal unit after reset. -/
def Therm.init : Therm :=
  { hist := [], diff := [], failed := [], hubs := [], warn := false, crit := false, down := [], downAt := [], dead := [], baseAt := none,
    xs := [], pLag := 0, tRef := none, limit := 1200, x1s := 0, tj1s := 0, tjRise := 0, slow := 0, calm := 0, fastCalm := 0, calmBad := false, fastBad := false, fast := 0, degraded := false,
    stepAt := 0, holdAt := 0, coolAt := 0, coolBy := none, later := [] }

/-- Everything the block holds, before 3V3_AUX rises. -/
def Dev.reset : Dev :=
  { ns := 0, fresh := 0, out := [], regs := [(0x20100, 0xFFFFFFFF)], arbs := [], mem := [], chk := [], slices := [], regions := [],
    gddr := Gddr.init, cores := [], cycBase := [], rst := none, clks := [], rings := [], descs := [], descSeq := 0, watch := [], ctxs := [], lab := [], labStamp := 0, attn := none, btnVal := [], btnBad := [], btnQ := [], btnW := [], uio := [], uioTag := 0, waits := [], port := [], hdm := [], sf := [], biOut := [], recalls := [], perstAt := none, power := .run, auxAt := none, pwr := Pwr.init, domAt := [], domAsked := [], points := [], rails := [], therm := Therm.init, pace := ⟨0, 0, false, none⟩, modEn := false, modEnAt := 0, modFail := false, svc := [], stamp := none, relays := [], chunks := [], relayLast := [], chkSeen := [], chkWhen := [], chkWas := [], evLogs := [], evOver := [], evHandle := 0, evPolicy := 0, evPending := 0, lifeSeq := 0, lifePend := [], repair := [], caGrp := [], laneOff := [], laneErr := [], d2d := [], noc := [], laps := [], lapInlet := none, pmcAt := [], lifeAt := 0, imgPend := false, worn := [], pldm := [], pmb := ⟨0, 0, 0, 0, 0⟩, pmbStatus := 0, calls := [], dead := [], eid := [], step := none, perstLow := 0, tripRec := none, strapped := false, jtagIr := .bypass, jtagBypass := false, boundary := [], mgmt := false, meas := [], spdm := [], sessions := [], ide := [], draws := 0, regHeld := [], fatal := false, cyc := ⟨[(0x20100, 0xFFFFFFFF)], [], [], [], [], [], [], false⟩, inq := [], cfg := ⟨false, false, false, false, false⟩, alerted := false, fuse := Fuse.init }

/-- The state right after reset: no command waiting. -/
def State.reset : State := ⟨[], Dev.reset⟩

end Sys2Proof.Machine
end

