-- ==== Sys2Proof/Machine/Ops.lean ====
section
/-! DEFINITION. The named operations every meaning is written in: register fields, arbiters, free values, outputs, and the frame of an event. -/

namespace Sys2Proof.Machine

/-! Register fields (R10 to R12). -/

/-- The stored word of the register that field `f` lies in. -/
def Dev.word (d : Dev) (f : Fld) (u i : Nat) : BitVec 64 := Tbl.get 0 d.regs (f.pos.off u i)

/-- The value of field `f` of unit `u`, register number `i`. -/
def Dev.fld (d : Dev) (f : Fld) (u i : Nat) : Nat := ((d.word f u i).extractLsb' f.lo f.w).toNat ^^^ f.rst

/-- A field read as a bit. -/
def Dev.bit (d : Dev) (f : Fld) (u i : Nat) : Bool := d.fld f u i != 0

/-- The bits of field `f` within its word. -/
def Fld.mask (f : Fld) : BitVec 64 := (BitVec.ofNat 64 (2 ^ f.w - 1)) <<< f.lo

/-- Replace field `f` in a stored word. -/
def Fld.put (f : Fld) (w : BitVec 64) (v : Nat) : BitVec 64 :=
  (w &&& ~~~f.mask) ||| (BitVec.ofNat 64 ((v % 2 ^ f.w) ^^^ f.rst) <<< f.lo)

/-- Software's hand on a field of one unit; the value is taken modulo the field's width. -/
def Dev.putFld (d : Dev) (f : Fld) (u i v : Nat) : Dev :=
  { d with regs := Tbl.set 0 d.regs (f.pos.off u i) (f.put (d.word f u i) v) }

/-- The block sets a field of one unit. Of a W1C or RC field it notes which bits it has written 1 to in this cycle (R13). -/
def Dev.setFld (d : Dev) (f : Fld) (u i v : Nat) : Dev :=
  { d.putFld f u i v with
    cyc := if f.acc = .w1c ∨ f.acc = .rc then
        { d.cyc with set := Tbl.set 0 d.cyc.set (f.pos.off u i) (Tbl.get 0 d.cyc.set (f.pos.off u i) ||| (BitVec.ofNat 64 (v % 2 ^ f.w) <<< f.lo)) }
      else d.cyc }

/-- The block sets some bits of a W1C field, and leaves the others (R13). -/
def Dev.setBits (d : Dev) (f : Fld) (u i m : Nat) : Dev :=
  { d.putFld f u i (d.fld f u i ||| m) with
    cyc := { d.cyc with set := Tbl.set 0 d.cyc.set (f.pos.off u i) (Tbl.get 0 d.cyc.set (f.pos.off u i) ||| (BitVec.ofNat 64 (m % 2 ^ f.w) <<< f.lo)) } }

/-- Software has written field f in this cycle (R13). -/
def Dev.softNow (d : Dev) (f : Fld) (u i : Nat) : Bool := Tbl.get 0 d.cyc.soft (f.pos.off u i) &&& f.mask != 0

/-- The block updates an RW field: what software has written in the same cycle stands (R13). -/
def Dev.hwFld (d : Dev) (f : Fld) (u i v : Nat) : Dev := if d.softNow f u i then d else d.setFld f u i v

/-- Set a bit field. -/
def Dev.setBit (d : Dev) (f : Fld) (u i : Nat) (v : Bool) : Dev := d.setFld f u i (if v then 1 else 0)

/-- Return a field to its reset value. -/
def Dev.clrFld (d : Dev) (f : Fld) (u i : Nat) : Dev := d.setFld f u i f.rst

/-- Return every field of a register to its reset value. -/
def Dev.clrReg (d : Dev) (r : Reg) (u i : Nat) : Dev := { d with regs := Tbl.set 0 d.regs (r.pos.off u i) 0 }

/-- The machine with its registers as they were when this cycle began (R13, R346). -/
def Dev.begun (d : Dev) : Dev := { d with regs := d.cyc.regs }

/-- The bits of a W1C or RC field that the block has written 1 to in this cycle (R13). -/
def Dev.setNow (d : Dev) (f : Fld) (u i : Nat) : Nat := ((Tbl.get 0 d.cyc.set (f.pos.off u i)).extractLsb' f.lo f.w).toNat

/-- A cycle begins: what it has to tell apart starts from here (R13, R346). -/
def Dev.sync (d : Dev) : Dev := { d with cyc := ⟨d.regs, [], [], d.hdm, d.sf, [], [], false⟩ }

/-- Add to a counter that holds at its maximum. -/
def Dev.count (d : Dev) (f : Fld) (u i n : Nat) : Dev := d.setFld f u i (min (2 ^ f.w - 1) (d.fld f u i + n))

/-- Record an error in the pattern of the error registers: if a bit of the group is already set, MULTIPLE is set as well; else the first-error fields take their values (R38, R74, R150, R178, R206 and the like). -/
def Dev.raise (d : Dev) (group : List Fld) (mult : Fld) (u i : Nat) (bit : Fld) (first : List (Fld × Nat)) : Dev :=
  if group.any fun g => d.bit g u i then (d.setBit mult u i true).setBit bit u i true
  else first.foldl (fun e p => e.setFld p.1 u i p.2) (d.setBit bit u i true)

/-! Units. -/

/-- The slice of core `n`. -/
def Dev.slice (d : Dev) (n : Nat) : Slice := Tbl.get Slice.init d.slices n
/-- Replace the slice of core `n`. -/
def Dev.setSlice (d : Dev) (n : Nat) (s : Slice) : Dev := { d with slices := Tbl.set Slice.init d.slices n s }
/-- Cache region `c`. -/
def Dev.region (d : Dev) (c : Nat) : Region := Tbl.get Region.init d.regions c
/-- Replace cache region `c`. -/
def Dev.setRegion (d : Dev) (c : Nat) (r : Region) : Dev := { d with regions := Tbl.set Region.init d.regions c r }
/-- Core `n`. -/
def Dev.core (d : Dev) (n : Nat) : Core := Tbl.get Core.init d.cores n
/-- Replace core `n`. -/
def Dev.setCore (d : Dev) (n : Nat) (c : Core) : Dev := { d with cores := Tbl.set Core.init d.cores n c }
/-- The array of core `n`. -/
def Dev.arr (d : Dev) (n : Nat) : ArrayUnit := (d.core n).arr
/-- Replace the array of core `n`. -/
def Dev.setArr (d : Dev) (n : Nat) (a : ArrayUnit) : Dev := d.setCore n { d.core n with arr := a }
/-- The DMA engine of core `n`. -/
def Dev.dma (d : Dev) (n : Nat) : Dma := (d.core n).dma
/-- Replace the DMA engine of core `n`. -/
def Dev.setDma (d : Dev) (n : Nat) (e : Dma) : Dev := d.setCore n { d.core n with dma := e }

/-- The cluster of core n (R8). -/
def clusterOf (n : Nat) : Nat := n / 8
/-- The column of core n (R8). -/
def columnOf (n : Nat) : Nat := n % 128
/-- The partner of core n (R63). -/
def partnerOf (n : Nat) : Nat := (n + 128) % 256

/-! Outputs and free values. -/

/-- Send something out. -/
def Dev.emit (d : Dev) (o : Output) : Dev := { d with out := o :: d.out }

/-- Draw a free value: one the spec leaves open. -/
def Dev.free (d : Dev) : BitVec 64 × Dev := (Config.freeValue d.fresh, { d with fresh := d.fresh + 1 })

/-- TK_TIME: microseconds since 3V3_AUX rose (R432, R444). -/
def Dev.us (d : Dev) : Nat := match d.auxAt with | some t => (d.ns - t) / 1000 | none => 0

/-! The photo-finish rule (R29). -/

/-- Insert into an ascending list. -/
def insertAsc (x : Nat) : List Nat → List Nat
  | [] => [x]
  | y :: t => if x ≤ y then x :: y :: t else y :: insertAsc x t

/-- Requester indices in ascending order. -/
def sortAsc : List Nat → List Nat
  | [] => []
  | x :: t => insertAsc x (sortAsc t)

/-- The order in which an arbiter with memory `a` considers tied requesters (R29, steps 1 and 2). -/
def Arb.order (a : Arb) (reqs : List Nat) : List Nat :=
  let o := if a.toggle then (sortAsc reqs).reverse else sortAsc reqs
  match a.winner with
  | none => o
  | some w => if o.contains w then (o.filter (· != w)) ++ [w] else o

/-- Resolve tied requesters: the one granted, and the arbiter afterwards. One requester alone is no tie and changes nothing (R29). -/
def Arb.grant (a : Arb) (reqs : List Nat) : Option (Nat × Arb) :=
  match reqs with
  | [] => none
  | [x] => some (x, a)
  | _ =>
    match a.order reqs with
    | [] => none
    | x :: _ => some (x, ⟨!a.toggle, some x⟩)

/-- The arbiter a key names; after reset its toggle is 0 and no winner is recorded (R29). -/
def Dev.arb (d : Dev) (key : Nat) : Arb := Tbl.get ⟨false, none⟩ d.arbs key

/-- Resolve a tie at the arbiter `key`. -/
def Dev.tie (d : Dev) (key : Nat) (reqs : List Nat) : Option (Nat × Dev) :=
  match (d.arb key).grant reqs with
  | none => none
  | some (x, a) => some (x, { d with arbs := Tbl.set ⟨false, none⟩ d.arbs key a })

/-- Keys of the arbiters: a kind of arbiter and a unit number. -/
def arbKey (kind unit : Nat) : Nat := kind * 2 ^ 32 + unit

/-! Statuses. -/

/-- The first status that is not OK stands. -/
def Status.first (a b : Status) : Status := if a = .ok then b else a

/-- Whether a status is OK. -/
def Status.isOk (a : Status) : Bool := a == .ok

/-- The status a code names; an unlisted code counts as BAD_DESCRIPTOR. -/
def Status.ofCode (n : Nat) : Status :=
  match n with
  | 0x00 => .ok
  | 0x01 => .poisonRead
  | 0x02 => .uncorr
  | 0x03 => .addrMismatch
  | 0x04 => .falseStart
  | 0x05 => .deadline
  | 0x06 => .fencedUnit
  | 0x08 => .permission
  | 0x09 => .crcMismatch
  | 0x0A => .thermalHold
  | 0x0B => .resetAbort
  | 0x0C => .busyBank
  | _ => .badDescriptor

/-! Device conditions that many units read. -/

/-- The device is in HOLD (R446), or in HALT, which stops arrays and bank-side units as HOLD does (R411). -/
def Dev.held (d : Dev) : Bool := d.bit TK_HOLD.HELD 0 0 || d.power == .halt

/-- STARTER steps complete (R519). -/
def Dev.done (d : Dev) : Nat := d.fld STARTER_STATUS.DONE 0 0

/-- The band reported for column `c` (R442). -/
def Dev.bandOf (d : Dev) (c : Nat) : Nat := bitsOf (d.fld THM_BAND.BAND 0 (c / 32)) (2 * (c % 32)) 2

/-- The clock of cluster k; stopped until bring-up starts it. -/
def Dev.clk (d : Dev) (k : Nat) : Clk := Tbl.get ⟨0, 0, 0, 0⟩ d.clks k

/-- ACLK cycles × 1,000 that cluster k has counted (R19). -/
def Dev.clkSum (d : Dev) (k : Nat) : Nat := (d.clk k).sum + (d.clk k).mhz * (d.ns - (d.clk k).at')

/-- Those of them outside HOLD (R107). -/
def Dev.clkLive (d : Dev) (k : Nat) : Nat := (d.clk k).live + if d.held then 0 else (d.clk k).mhz * (d.ns - (d.clk k).at')

/-- Bring the counts of a cluster's clock up to now, and let it run at another frequency from here. -/
def Dev.clkSet (d : Dev) (k mhz : Nat) : Dev :=
  { d with clks := Tbl.set ⟨0, 0, 0, 0⟩ d.clks k ⟨mhz, d.ns, d.clkSum k, d.clkLive k⟩ }

/-- Bring every cluster's counts up to now, as HOLD begins or ends. -/
def Dev.clkMark (d : Dev) : Dev := (List.range 32).foldl (fun e k => e.clkSet k (d.clk k).mhz) d

/-- Domain `k` is ON (R417). -/
def Dev.domOn (d : Dev) (k : Nat) : Bool := d.fld PWR_DOM.STATE k 0 == 2

/-- The state of core `n` in RST_FENCE (R510). -/
def Dev.fenceState (d : Dev) (n : Nat) : Nat := d.fld RST_FENCE.STATE n 0

/-- The core is in service (R510). -/
def Dev.inService (d : Dev) (n : Nat) : Bool := d.fenceState n == 0

/-! The frame of an event. -/

/-- What an event makes of the machine, but that its clock has not moved, no fuse is burnt and nothing waits in its middle. -/
def Dev.keep (d t : Dev) : Dev := { t with ns := d.ns, fuse := d.fuse, waits := d.waits }

/-- Carry out an event of the block. An ordinary event neither moves the model's clock nor burns a fuse: those stand as they were. -/
def State.ev (s : State) (f : Dev → Dev) : Host.Outcome State Fault Refusal := .next { s with dev := s.dev.keep (f s.dev) }

/-- What burning fuses `f` up to content `g` leaves: a fuse, once blown, stays blown; a version count has 63 bits, and only the two key slots can be revoked (R558). -/
def Fuse.burn (f g : Fuse) : Fuse :=
  { f with
    svnMgmt := max f.svnMgmt (min 63 g.svnMgmt)
    svnCore := max f.svnCore (min 63 g.svnCore)
    revoked := f.revoked ++ g.revoked.filter fun i => decide (i < 2) && !f.revoked.contains i }

/-- What an event of the root of trust makes of the machine, but that its clock has not moved, and that fuses only burn (R558). -/
def Dev.keepClock (d t : Dev) : Dev := { t with ns := d.ns, fuse := d.fuse.burn t.fuse, waits := d.waits }

/-- Carry out an event of the root of trust, which may burn fuses (R555, R561). -/
def State.evFuse (s : State) (f : Dev → Dev) : Host.Outcome State Fault Refusal := .next { s with dev := s.dev.keepClock (f s.dev) }

end Sys2Proof.Machine
end

