-- ==== Sys2Proof/Machine/Codes.lean ====
section
/-! DEFINITION. The HX272 code, poison, the stores of the block read and written by codeword, and the two CRCs (R449 to R456, R464). -/

namespace Sys2Proof.Machine

/-! The code. -/

/-- Parity of a byte or a 7-bit value. -/
def parity8 (x : Nat) : Nat := ((List.range 8).filter fun i => bitOf x i).length % 2

/-- Weight of a byte. -/
def weight8 (x : Nat) : Nat := ((List.range 8).filter fun i => bitOf x i).length

/-- E(x) = (x << 1) | parity of x (R449). -/
def hxE (x : Nat) : Nat := 2 * x + parity8 x

/-- The sequence x_t (R449). -/
def hxX : List Nat :=
  [7, 11, 13, 14, 15, 19, 21, 22, 23, 25, 26, 27, 28, 29, 30, 31,
   35, 37, 38, 39, 41, 42, 43, 44, 45, 46, 47, 49, 50, 51, 52, 53]

/-- The contribution of the data bytes to the check bits: C_top in the low byte, C_bot in the high (R449). -/
def hxData : Nat → List Byte → BitVec 16
  | _, [] => 0
  | i, b :: t =>
    let bot := if parity8 b.toNat = 1 then hxE (i + 1) else 0
    (BitVec.ofNat 16 (b.toNat + 256 * bot)) ^^^ hxData (i + 1) t

/-- The contribution of the tag to the check bits (R449). -/
def hxTag (a : Nat) : Nat → List Nat → BitVec 16
  | _, [] => 0
  | t, x :: r => (if bitOf a t then BitVec.ofNat 16 (hxE x + 256 * hxE (t + 1)) else 0) ^^^ hxTag a (t + 1) r

/-- The check bits of 32 data bytes under a tag (R449). -/
def hxCheck (data : List Byte) (tag : Nat) : BitVec 16 := hxData 0 data ^^^ hxTag tag 0 hxX

/-- How a decoder classifies a codeword (R450). -/
inductive CwClass where
  | clean | poison
  | corr (bit : Nat)
  | uncorr | addr
  deriving DecidableEq, Repr, Inhabited

/-- The bit of a byte of weight 1. -/
def oneBit (x : Nat) : Nat := Nat.log2 x

/-- The data byte whose E matches, if any. -/
def hxByte (bot : Nat) : Option Nat := (List.range 32).find? fun i => hxE (i + 1) == bot

/-- Classify a syndrome (R450): the first row that matches. -/
def hxClass (s : BitVec 16) : CwClass :=
  let top := s.toNat % 256
  let bot := s.toNat / 256
  if top = 0 ∧ bot = 0 then .clean
  else if top = 0xE0 ∧ bot = 0x80 then .poison
  else if weight8 top = 1 ∧ (hxByte bot).isSome then .corr (8 * (hxByte bot).getD 0 + oneBit top)
  else if weight8 top = 1 ∧ bot = 0 then .corr (256 + oneBit top)
  else if top = 0 ∧ weight8 bot = 1 then .corr (264 + oneBit bot)
  else if weight8 top % 2 = 0 ∧ weight8 top ≥ 4 ∧ bot ≠ 0 then .addr
  else .uncorr

/-- What an error in one of the 272 bits adds to the syndrome (R449). -/
def hxSyn (bit : Nat) : BitVec 16 :=
  if bit < 256 then BitVec.ofNat 16 (2 ^ (bit % 8) + 256 * hxE (bit / 8 + 1))
  else if bit < 264 then BitVec.ofNat 16 (2 ^ (bit - 256))
  else BitVec.ofNat 16 (256 * 2 ^ (bit - 264))

/-- Check bits of a poison codeword XOR those of its tag: 0xE0 on top, 0x80 below (R453). -/
def poisonDelta : BitVec 16 := 0x80E0

/-- Flip one data bit of 32 bytes. -/
def flipData (data : List Byte) (bit : Nat) : List Byte :=
  if bit < 256 then data.modify (bit / 8) (fun b => b ^^^ BitVec.ofNat 8 (2 ^ (bit % 8))) else data

/-- The status a class reports (R455, R456). -/
def CwClass.status : CwClass → Status
  | .poison => .poisonRead
  | .uncorr => .uncorr
  | .addr => .addrMismatch
  | _ => .ok

/-! The keys of the stores: a local address is its own key. -/

/-- Key of a byte of the I-store (D = 0) or D-store (D = 1) of core n. -/
def storeKey (n dd off : Nat) : Nat := 2 ^ 52 + n * 2 ^ 17 + dd * 2 ^ 16 + off
/-- Key of a byte of cache line data, by its backing local address. -/
def cacheKey (a : Nat) : Nat := 2 ^ 53 + a
/-- Key of a byte of the 4 MiB MRAM of the life log (R14, R541). -/
def mramKey (off : Nat) : Nat := 2 ^ 54 + off
/-- Key of a byte of the 8 MiB firmware store (R557). -/
def fwKey (off : Nat) : Nat := 2 ^ 54 + 2 ^ 24 + off
/-- Key of a byte of the working histograms in retention SRAM, laid out as a copy of R542 (R546). -/
def histKey (off : Nat) : Nat := 2 ^ 54 + 2 ^ 25 + off
/-- Key of a byte of the histogram image that waits in retention SRAM (R547). -/
def pendKey (off : Nat) : Nat := 2 ^ 54 + 2 ^ 26 + off
/-- Local address of byte `off` of the local store of core n (R32). -/
def lsAddr (n off : Nat) : Nat := 0x4100000000 + n * 0x400000 + off

/-! Bytes and codewords. -/

/-- The stored byte at a key; a byte nothing has written is 0 (log 1). -/
def Dev.byte (d : Dev) (k : Nat) : Byte := Tbl.get 0 d.mem k

/-- The 32 stored data bytes of a codeword. -/
def Dev.cwData (d : Dev) (cw : Nat) : List Byte := (List.range 32).map fun i => d.byte (32 * cw + i)

/-- A codeword as a decoder delivers it, with physical errors in the given bits: its class, and its bytes corrected or poisoned (R450). -/
def Dev.readCw (d : Dev) (cw : Nat) (flips : List Nat) : CwClass × List PByte :=
  let syn := flips.foldl (fun s b => s ^^^ hxSyn b) (Tbl.get 0 d.chk cw)
  let data := flips.foldl flipData (d.cwData cw)
  match hxClass syn with
  | .clean => (.clean, data.map fun b => ⟨b, false⟩)
  | .corr b => (.corr b, (flipData data b).map fun b => ⟨b, false⟩)
  | c => (c, poisonBytes 32)

/-- Store bytes of one key range in memory. -/
def storeBytes (m : List Host.Cell) : Nat → List Byte → List Host.Cell
  | _, [] => m
  | k, b :: t => storeBytes (Tbl.set 0 m k b) (k + 1) t

/-- Store a whole codeword: valid, or the poison codeword when any byte is poisoned (R453). -/
def Dev.putCw (d : Dev) (cw : Nat) (b : List PByte) : Dev :=
  if anyPoison b then
    { d with mem := storeBytes d.mem (32 * cw) (List.replicate 32 0), chk := Tbl.set 0 d.chk cw poisonDelta }
  else { d with mem := storeBytes d.mem (32 * cw) (b.map (·.v)), chk := Tbl.set 0 d.chk cw 0 }

/-- Write bytes at an offset of one codeword: a partial write merges with what the decoder delivers, and a merge with poison is poison (R165, R453). -/
def Dev.writeCw (d : Dev) (cw off : Nat) (b : List PByte) : Dev :=
  if off = 0 ∧ b.length = 32 then d.putCw cw b
  else
    let old := (d.readCw cw []).2
    d.putCw cw (old.take off ++ b ++ old.drop (off + b.length))

/-- Write a run of bytes from key `k`, codeword by codeword, at most `fuel` of them. -/
def Dev.writeFrom (d : Dev) : Nat → Nat → List PByte → Dev
  | 0, _, _ => d
  | _, _, [] => d
  | fuel + 1, k, b =>
    let n := 32 - k % 32
    (d.writeCw (k / 32) (k % 32) (b.take n)).writeFrom fuel (k + n) (b.drop n)

/-- Write a run of bytes from key `k`. -/
def Dev.write (d : Dev) (k : Nat) (b : List PByte) : Dev := d.writeFrom (b.length / 32 + 2) k b

/-- The codewords a range touches. -/
def cwsOf (k len : Nat) : List Nat :=
  if len = 0 then [] else (List.range ((k + len - 1) / 32 - k / 32 + 1)).map (· + k / 32)

/-- Read a run of bytes as a decoder delivers them, with the class of every codeword, in address order. -/
def Dev.read (d : Dev) (k len : Nat) : List PByte × List (Nat × CwClass) :=
  let r := (cwsOf k len).map fun cw => (cw, d.readCw cw [])
  (((r.flatMap fun p => p.2.2).drop (k % 32)).take len, r.map fun p => (p.1, p.2.1))

/-- The status of the first codeword that did not deliver data. -/
def classStatus (l : List (Nat × CwClass)) : Status := l.foldl (fun s p => s.first p.2.status) .ok

/-- The classes a write of a run of bytes meets in the codewords it covers only in part: those it reads to merge (R110, R165, R232, R335). -/
def Dev.mergeCls (d : Dev) (k len : Nat) : List (Nat × CwClass) :=
  ((cwsOf k len).filter fun cw => !(decide (k ≤ 32 * cw) && decide (32 * cw + 32 ≤ k + len))).map fun cw => (cw, (d.readCw cw []).1)

/-- Write valid codewords of zero data over a whole span of keys (R213, R460). -/
def Dev.zeroSpan (d : Dev) (k len : Nat) : Dev :=
  { d with mem := d.mem.filter (fun c => c.1 < k || k + len ≤ c.1),
           chk := d.chk.filter (fun c => c.1 < k / 32 || (k + len) / 32 ≤ c.1) }

/-! CRCs (R464). -/

/-- `n` bit steps of a reflected CRC-32C. -/
def crc32Steps : Nat → BitVec 32 → BitVec 32
  | 0, c => c
  | n + 1, c => crc32Steps n (if c.getLsbD 0 then (c >>> 1) ^^^ 0x82F63B78 else c >>> 1)

/-- CRC-32C register after some bytes. -/
def crc32c (c : BitVec 32) (l : List Byte) : BitVec 32 := l.foldl (fun c b => crc32Steps 8 (c ^^^ b.setWidth 32)) c

/-- `n` bit steps of CRC-64, most significant bit first. -/
def crc64Steps : Nat → BitVec 64 → BitVec 64
  | 0, c => c
  | n + 1, c => crc64Steps n (if c.getMsbD 0 then (c <<< 1) ^^^ 0x42F0E1EBA9EA3693 else c <<< 1)

/-- CRC-64 register after some bytes. -/
def crc64 (c : BitVec 64) (l : List Byte) : BitVec 64 := l.foldl (fun c b => crc64Steps 8 (c ^^^ (BitVec.setWidth 64 b) <<< (56 : Nat))) c

/-- The initial register of a unit (R464). -/
def crcInit (poly64 : Bool) : BitVec 64 := if poly64 then 0 else 0xFFFFFFFF

/-- The register after some bytes, for either polynomial. -/
def crcFeed (poly64 : Bool) (r : BitVec 64) (l : List Byte) : BitVec 64 :=
  if poly64 then crc64 r l else (crc32c (r.setWidth 32) l).setWidth 64

/-- The result of a stream: the register XOR the final XOR (R464). -/
def crcFinal (poly64 : Bool) (r : BitVec 64) : BitVec 64 := if poly64 then r else r ^^^ 0xFFFFFFFF

end Sys2Proof.Machine
end

