-- ==== Sys2Proof/Machine/Flags.lean ====
section
/-! DEFINITION. Every flag and status computation that several units share: device errors for holes, event records, code counters and logging tables, local-store code counters. -/

namespace Sys2Proof.Machine

/-- A device-internal access reached a hole (R33, R38, R39): ADDR_HOLE, its source and address are recorded; a further error sets MULTIPLE. -/
def Dev.hole (d : Dev) (src addr : Nat) (write : Bool) : Dev :=
  let was := d.bit DEV_ERR.ADDR_HOLE 0 0
  let any := was || d.bit DEV_ERR.BAD_ACCESS 0 0 || d.bit DEV_ERR.UNMAPPED 0 0
  let d := if any then d.setBit DEV_ERR.MULTIPLE 0 0 true else d
  let d := d.setBit DEV_ERR.ADDR_HOLE 0 0 true
  if was then d
  else ((d.setFld DEV_ERR.HOLE_SOURCE 0 0 src).setFld DEV_HOLE_ADDR.ADDR 0 0 addr).setBit DEV_HOLE_ADDR.WRITE 0 0 write

/-- A BAR0 access error (R38): LAST_OFFSET takes the offset while both kinds are clear. -/
def Dev.barError (d : Dev) (bit : Fld) (off : Nat) : Dev :=
  let busErr := d.bit DEV_ERR.BAD_ACCESS 0 0 || d.bit DEV_ERR.UNMAPPED 0 0
  let any := busErr || d.bit DEV_ERR.ADDR_HOLE 0 0
  let d := if any then d.setBit DEV_ERR.MULTIPLE 0 0 true else d
  let d := d.setBit bit 0 0 true
  if busErr then d else d.setFld DEV_ERR.LAST_OFFSET 0 0 off

/-- Raise an event record into one of the four logs; a full log drops it. Warning, Failure and Fatal records also go out as messages and await acceptance (R332, R394, R396). -/
def Dev.event (d : Dev) (log : Nat) (kind : EvKind) (payload : List Nat) : Dev :=
  let h := d.evHandle + 1
  let l := Tbl.get [] d.evLogs log
  let d := { d with evHandle := h }
  let d :=
    if l.length < 64 then
      let d := { d with evLogs := Tbl.set [] d.evLogs log (⟨h, log, kind, payload, d.us⟩ :: l) }
      if bitsOf d.evPolicy.toNat (8 * log) 2 = 1 then d.emit (.evInterrupt log) else d
    else { d with evOver := Tbl.set 0 d.evOver log (Tbl.get 0 d.evOver log + 1) }
  if log = 0 then d else ({ d with evPending := d.evPending + 1 }).emit (.evMessage h)

/-- Viral is signalled, if the host has enabled it (R322, R331). -/
def Dev.viralSig (d : Dev) : Dev := if d.cfg.viralEn then (d.setBit FAB_PORT.VIRAL 0 0 true).emit .viral else d

/-! Responses (R27, R334, R335). -/

/-- The source a request of the port carries: its endpoint (R22) and the request's tag. -/
def portSrc (tag : Nat) : Nat := 1536 + 65536 * (tag + 1)

/-- A target answers a host request: a read gets its data unless the timer has answered it, when the late data counts as well, a write is completed unless the timer has, and a failed write is counted and recorded (R334, R335). -/
def Dev.portReply (d : Dev) (tag : Nat) (st : Status) (data : List PByte) : Dev :=
  match d.port.find? fun r => r.tag == tag with
  | none => d
  | some r =>
    let d := { d with port := d.port.filter fun r => r.tag != tag }
    if r.write then
      let d := if st = .ok then d else (d.count FAB_RESP.WRITE_LOST 0 0 1).event 2 .writeLost [st.code]
      if r.answered then d else d.emit (.memCmp tag)
    else if r.answered then d.count FAB_RESP.TIMER_POISON 0 0 1
    else d.emit (.memData tag (anyPoison data || st != .ok) r.state data)

/-- A response goes to the endpoint that asked; one to the port ends a host request. -/
def Dev.memReply (d : Dev) (src : Nat) (st : Status) (data : List PByte) : Dev :=
  if 65536 ≤ src then d.portReply (src / 65536 - 1) st data else d.emit (.memResp src st data)

/-! The life log's records (R542, R546 to R548). -/

/-- The little-endian number in `n` stored bytes. -/
def Dev.num (d : Dev) (k n : Nat) : Nat := ofBytes ((List.range n).map fun i => d.byte (k + i))

/-- Store a little-endian number in `n` bytes, without a code of its own (MRAM and retention SRAM). -/
def Dev.putNum (d : Dev) (k n v : Nat) : Dev := { d with mem := storeBytes d.mem k (toBytes n v) }

/-- Add to a count of the working histograms; counts hold at their maximum (R542). -/
def Dev.hist (d : Dev) (off n v : Nat) : Dev := d.putNum (histKey off) n (min (2 ^ (8 * n) - 1) (d.num (histKey off) n + v))

/-- LIFE_S: seconds with 3V3_AUX present (R542). -/
def Dev.lifeS (d : Dev) : Nat := d.num (histKey 16) 8

/-- The ring entry of the present week of life (R542). -/
def Dev.week (d : Dev) : Nat := d.lifeS / 604800 % 32

/-- Writes to the life log, fuses and firmware store are refused at NVM_BLOCK and HALT (R410). -/
def Dev.nvmBlocked (d : Dev) : Bool := decide (2 ≤ d.fld PWR_STATUS.SAG_12V 0 0) || decide (2 ≤ d.fld PWR_STATUS.SAG_AON 0 0) || d.power == .halt

/-- Where the journal lies in the MRAM (R541, R551). -/
def Dev.journalBase (d : Dev) : Nat := d.fld LIFE_STATUS.PAGE_JOURNAL 0 0 * 0x10000

/-- Where the retired-connection list lies in the MRAM (R541, R551). -/
def Dev.retiredBase (d : Dev) : Nat := d.fld LIFE_STATUS.PAGE_RETIRED 0 0 * 0x10000

/-- An entry of the retired-connection list: core or router, class (0 data, 1 command, 2 flit lane), connection; the layout is the model's (log 58). -/
def retiredWord (unit cls conn : Nat) : Nat := 2 ^ 63 + cls * 2 ^ 32 + unit * 2 ^ 16 + conn

/-- Put an entry into the retired-connection list, once (R482). -/
def Dev.retireAdd (d : Dev) (w : Nat) : Dev :=
  match (List.range 8192).find? fun i => let v := d.num (mramKey (d.retiredBase + 8 * i)) 8; v == 0 || v == w with
  | some i => d.putNum (mramKey (d.retiredBase + 8 * i)) 8 w
  | none => d

/-- Write a journal record into the ring at the place its SEQ gives; a record of a retirement also enters the retired list (R482, R541, R548). -/
def Dev.journalWrite (d : Dev) (r : List Byte) : Dev :=
  let d := { d with mem := storeBytes d.mem (mramKey (d.journalBase + ofBytes ((r.drop 4).take 4) % 4096 * 64)) r }
  let item (i : Nat) : Nat := ofBytes ((r.drop (24 + 4 * i)).take 4)
  if r.headD 0 = 4 then d.retireAdd (retiredWord (item 0) (item 1) (item 2)) else d

/-- Make a journal record (R548): it is written at once, or waits in retention SRAM while the supply gate refuses it, or is dropped when the 640 places are full (R547). The payload's items take 4 bytes each (log 12). -/
def Dev.journal (d : Dev) (code : Nat) (payload : List Nat) : Dev :=
  let head := toBytes 4 code ++ toBytes 4 d.lifeSeq ++ toBytes 8 d.us ++ toBytes 8 d.lifeS ++
    ((payload.flatMap fun v => toBytes 4 v) ++ List.replicate 32 0).take 32
  let r := head ++ toBytes 8 (crc64 0 head).toNat
  let d1 := { d with lifeSeq := d.lifeSeq + 1 }
  if d.nvmBlocked then
    if d.lifePend.length < 640 then { d1 with lifePend := d.lifePend ++ [r] } else d.count LIFE_STATUS.DROPPED 0 0 1
  else d1.journalWrite r

/-- Add a code event to the life log's error totals and this week's (R542): structure, kind. -/
def Dev.histEcc (d : Dev) (st kind : Nat) : Dev :=
  (d.hist (0x3400 + (st * 3 + kind) * 8) 8 1).hist (0x3500 + (d.week * 27 + st * 3 + kind) * 4) 4 1

/-! The logging tables (R458, R473). -/

/-- A logging table: the device summary, the slice table of a core, the table of a region. -/
inductive EccTbl where
  | sum
  | slc (n : Nat)
  | reg (c : Nat)
  deriving DecidableEq, Repr, Inhabited

/-- The fields of an entry: CW, BIT, KIND, VALID, COUNT, STRUCT, UNIT, TIME_MS. -/
structure EccFlds where
  cw : Fld
  bit : Fld
  kind : Fld
  valid : Fld
  count : Fld
  struct : Fld
  unit : Fld
  time : Fld

/-- The fields of a table. -/
def EccTbl.flds : EccTbl → EccFlds
  | .sum => ⟨ECC_SUM_A.CW, ECC_SUM_A.BIT, ECC_SUM_A.KIND, ECC_SUM_A.VALID, ECC_SUM_B.COUNT, ECC_SUM_B.STRUCT, ECC_SUM_B.UNIT, ECC_SUM_B.TIME_MS⟩
  | .slc _ => ⟨ECC_SLC_A.CW, ECC_SLC_A.BIT, ECC_SLC_A.KIND, ECC_SLC_A.VALID, ECC_SLC_B.COUNT, ECC_SLC_B.STRUCT, ECC_SLC_B.UNIT, ECC_SLC_B.TIME_MS⟩
  | .reg _ => ⟨ECC_REG_A.CW, ECC_REG_A.BIT, ECC_REG_A.KIND, ECC_REG_A.VALID, ECC_REG_B.COUNT, ECC_REG_B.STRUCT, ECC_REG_B.UNIT, ECC_REG_B.TIME_MS⟩

/-- Unit and number of entry e. -/
def EccTbl.at' (t : EccTbl) (e : Nat) : Nat × Nat :=
  match t with
  | .sum => (e, 0)
  | .slc n => (n, e)
  | .reg c => (c, e)

/-- Entries of a table. -/
def EccTbl.size : EccTbl → Nat
  | .sum => 64
  | _ => 16

/-- A field of entry e. -/
def Dev.eccGet (d : Dev) (t : EccTbl) (f : EccFlds → Fld) (e : Nat) : Nat := d.fld (f t.flds) (t.at' e).1 (t.at' e).2
/-- Set a field of entry e. -/
def Dev.eccSet (d : Dev) (t : EccTbl) (f : EccFlds → Fld) (e v : Nat) : Dev := d.setFld (f t.flds) (t.at' e).1 (t.at' e).2 v

/-- The valid entry of a codeword, kind and structure, if any. -/
def Dev.eccFind (d : Dev) (t : EccTbl) (cw kind st : Nat) : Option Nat :=
  (List.range t.size).find? fun e =>
    d.eccGet t (·.valid) e == 1 && d.eccGet t (·.cw) e == cw && d.eccGet t (·.kind) e == kind && d.eccGet t (·.struct) e == st

/-- The CORR entry with the lowest COUNT, lowest index first. -/
def Dev.eccVictim (d : Dev) (t : EccTbl) : Option Nat :=
  (List.range t.size).foldl (fun best e =>
    if d.eccGet t (·.kind) e != 0 then best
    else
      match best with
      | none => some e
      | some b => if d.eccGet t (·.count) e < d.eccGet t (·.count) b then some e else best) none

/-- Where a new entry goes: a free entry, else the CORR victim (R458). -/
def Dev.eccPlace (d : Dev) (t : EccTbl) : Option Nat :=
  ((List.range t.size).find? fun e => d.eccGet t (·.valid) e == 0).orElse fun _ => d.eccVictim t

/-- Write a new entry with a count. -/
def Dev.eccNew (d : Dev) (t : EccTbl) (e cw bit kind st unit count : Nat) : Dev :=
  let d := d.eccSet t (·.cw) e cw
  let d := d.eccSet t (·.bit) e bit
  let d := d.eccSet t (·.kind) e kind
  let d := d.eccSet t (·.valid) e 1
  let d := d.eccSet t (·.count) e count
  let d := d.eccSet t (·.struct) e st
  let d := d.eccSet t (·.unit) e unit
  d.eccSet t (·.time) e (d.us / 1000)

/-- Log an event in one table under R458 (an entry it counts into stays valid, R470): the table afterwards, and whether a new entry was made. -/
def Dev.eccPut (d : Dev) (t : EccTbl) (cw bit kind st unit : Nat) : Dev × Bool :=
  match d.eccFind t cw kind st with
  | some e => ((d.eccSet t (·.count) e (min 0xFFFF (d.eccGet t (·.count) e + 1))).eccSet t (·.valid) e 1, false)
  | none =>
    match d.eccPlace t with
    | some e => (d.eccNew t e cw bit kind st unit 1, true)
    | none => (d.count ECC_OVF.DROPPED 0 0 1, false)

/-- The table that the events of structure `st` enter: of a core's slice, of a region, or the summary alone (R457). -/
def eccTable (st unit : Nat) : EccTbl := if st ≤ 1 then .slc unit else if st = 2 then .reg unit else .sum

/-- The requester index of a table's events at the summary (R470). -/
def EccTbl.idx (t : EccTbl) (st : Nat) : Nat :=
  match t with
  | .slc n => n
  | .reg c => 256 + c
  | .sum => 384 + st

/-- An event takes its entry of the summary: with the count of the unit table's entry, or one of its own, which raises a Warning record when it is new (R458). -/
def Dev.sumPut (d : Dev) (e : SumEnt) : Dev :=
  let t := eccTable e.st e.unit
  let (d1, new) := d.eccPut .sum e.cw e.bit e.kind e.st e.unit
  match if t = .sum then none else d1.eccFind t e.cw e.kind e.st, d1.eccFind .sum e.cw e.kind e.st with
  | some k, some g => d1.eccSet .sum (·.count) g (d1.eccGet t (·.count) k)
  | _, _ => if new && e.kind != 0 then d1.event 1 .codeError [e.st, e.unit, e.cw, e.kind] else d1

/-- The events of a cycle enter the summary: each table's in their order, the tables by R29 (R470). -/
def Dev.sumSettle : Nat → Dev → Dev
  | 0, d => d
  | k + 1, d =>
    match d.tie (arbKey 60 0) (d.cyc.sums.map (·.idx)).eraseDups with
    | none => d
    | some (i, d) =>
      match d.cyc.sums.find? fun e => e.idx == i with
      | none => d
      | some e => Dev.sumSettle k ({ d with cyc := { d.cyc with sums := d.cyc.sums.erase e } }.sumPut e)

/-- An event asks for its entry of the summary; it gets it at the end of the cycle (R470). -/
def Dev.sumAsk (d : Dev) (e : SumEnt) : Dev := { d with cyc := { d.cyc with sums := d.cyc.sums ++ [e] } }

/-- Log an event in a unit table and the summary (R458): the summary's count follows the unit's, and a new UNCORR or ADDR entry raises a Warning record. -/
def Dev.eccLog (d : Dev) (t : EccTbl) (cw bit kind st unit : Nat) : Dev :=
  let ask : SumEnt := ⟨t.idx st, cw, bit, kind, st, unit⟩
  if t = .sum then d.sumAsk ask
  else
    let (d1, new) := d.eccPut t cw bit kind st unit
    let d2 :=
      if new then d1.sumAsk ask
      else
        match d1.eccFind t cw kind st, d1.eccFind .sum cw kind st with
        | some e, some g => d1.eccSet .sum (·.count) g (d1.eccGet t (·.count) e)
        | _, _ => d1
    if new && kind != 0 then d2.event 1 .codeError [st, unit, cw, kind] else d2

/-- Count a code event of structure `st` in ECC_CNT and log it where R457 says; clean and poison codewords are no events. -/
def Dev.eccEvent (d : Dev) (st unit cw : Nat) (cls : CwClass) : Dev :=
  let tbl := eccTable st unit
  match cls with
  | .corr b => ((d.count ECC_CNT.CORR 0 st 1).histEcc st 0).eccLog tbl cw b 0 st unit
  | .uncorr => ((d.count ECC_CNT.UNCORR 0 st 1).histEcc st 1).eccLog tbl cw 0x1FF 1 st unit
  | .addr => ((d.count ECC_CNT.ADDR 0 st 1).histEcc st 2).eccLog tbl cw 0x1FF 2 st unit
  | _ => d

/-- Count events of codewords read in a store of core n (local store, I-store, D-store: codes 3, 4, 5) in LS_ECC as well (R110, R128); `off` is the byte address of the codeword in its store. A codeword of the I-store or D-store is logged by its tag (R451, R473). -/
def Dev.lsEcc (d : Dev) (n space cw off : Nat) (cls : CwClass) : Dev :=
  let d := d.eccEvent (3 + space) n (if space = 0 then cw else 0xE0000000 + n * 65536 + (space - 1) * 32768 + off / 32) cls
  match cls with
  | .corr _ => d.count LS_ECC.CORR n 0 1
  | .uncorr | .addr =>
    let first := d.fld LS_ECC.UNCORR n 0 == 0
    let d := d.count LS_ECC.UNCORR n 0 1
    if first then (d.setFld LS_ECC.UADDR n 0 off).setFld LS_ECC.USPACE n 0 space else d
  | _ => d

/-- Write a corrected codeword back (R110, R232). -/
def Dev.scrubCw (d : Dev) (cw : Nat) (cls : CwClass) : Dev :=
  match cls with
  | .corr _ => d.putCw cw (d.readCw cw []).2
  | _ => d

/-- Read bytes of the local store of core n at one of its ports: corrected codewords are written back, uncorrectable ones poison (R110). -/
def Dev.lsRead (d : Dev) (n off len : Nat) : List PByte × Status × Dev :=
  let k := lsAddr n off
  let (b, cl) := d.read k len
  (b, classStatus cl,
   cl.foldl (fun e p => (e.scrubCw p.1 p.2).lsEcc n 0 p.1 (32 * p.1 - lsAddr n 0) p.2) d)

/-- Write bytes of the local store of core n; what the read of a partly written codeword meets is counted like any other (R110, R128). -/
def Dev.lsWrite (d : Dev) (n off : Nat) (b : List PByte) : Dev :=
  ((d.mergeCls (lsAddr n off) b.length).foldl (fun e p => e.lsEcc n 0 p.1 (32 * p.1 - lsAddr n 0) p.2) d).write (lsAddr n off) b

/-! Performance counters (R527 to R532, R538, R539). -/

/-- Add to a 48-bit counter, which wraps and leaves a sticky bit: the device, and whether it wrapped (R529). A count that software has written in the same cycle stands (R13). -/
def Dev.pmcAdd (d : Dev) (cnt ovf : Fld) (u i k : Nat) : Dev × Bool :=
  if d.softNow cnt u i then (d, false)
  else
    let v := d.fld cnt u i + k
    let d := d.setFld cnt u i v
    if v < 2 ^ 48 then (d, false) else (d.setBits ovf u 0 (2 ^ i), true)

/-- A counter of cycles has been brought up to now: a wrap is one of this cycle only if the counter has gone no further since than a cycle takes it (R13). -/
def Dev.ovfPast (d was : Dev) (cnt ovf : Fld) (u i : Nat) : Dev :=
  if d.fld cnt u i < 3 then d
  else { d with cyc := { d.cyc with set := Tbl.set 0 d.cyc.set (ovf.pos.off u 0) (Tbl.get 0 was.cyc.set (ovf.pos.off u 0)) } }

/-- A counter of core n takes k events; a wrap with SAMPLE and IRQ set arms a sample unless one is held or armed; of two counters that wrap in one cycle the lower-numbered takes it (R529, R530, R550). -/
def Dev.pmcCoreAdd (d : Dev) (n i k : Nat) : Dev :=
  let (d, w) := d.pmcAdd PERF_CNT.COUNT PERF_OVF.OVF n i k
  if w && d.bit PERF_CTL.SAMPLE n i && d.bit PERF_CTL.IRQ n i && !d.bit PERF_SAMPLE.VALID n 0 && ((d.core n).sampleArm.all fun a => a.2 == d.ns && decide (i < a.1)) then
    d.setCore n { d.core n with sampleArm := some (i, d.ns) }
  else d

/-- k core events of a code, counted while EN is 1 and the cluster is not frozen (R527, R528). -/
def Dev.pmcCore (d : Dev) (n code k : Nat) : Dev :=
  if k = 0 ∨ d.bit PERF_CLCTL.FREEZE (n / 8) 0 then d
  else (List.range 6).foldl (fun d i => if d.bit PERF_CTL.EN n i && d.fld PERF_CTL.EVENT n i == code then d.pmcCoreAdd n i k else d) d

/-- k cluster events of a code (R532). -/
def Dev.pmcCluster (d : Dev) (c code k : Nat) : Dev :=
  if k = 0 ∨ d.bit PERF_CLCTL.FREEZE c 0 then d
  else (List.range 8).foldl (fun d i => if d.bit PERF_CLSEL.EN c i && d.fld PERF_CLSEL.EVENT c i == code then (d.pmcAdd PERF_CLCNT.COUNT PERF_CLOVF.OVF c i k).1 else d) d

/-- k device events of a code (R532, R539). -/
def Dev.pmcDev (d : Dev) (code k : Nat) : Dev :=
  if k = 0 then d
  else (List.range 8).foldl (fun d i => if d.bit DEV_PCTL.EN 0 i && d.fld DEV_PCTL.EVENT 0 i == code then (d.pmcAdd DEV_PCNT.COUNT DEV_POVF.OVF 0 i k).1 else d) d

/-! Counters of cycles. A counter of cycles takes the cycles since it was last looked at whenever it is looked at. -/

/-- CCLK cycles of core n (R19). -/
def Dev.cclk (d : Dev) (n : Nat) : Nat := d.clkSum (n / 8) / 2000
/-- Those of them in HOLD. -/
def Dev.cclkHeld (d : Dev) (n : Nat) : Nat := (d.clkSum (n / 8) - d.clkLive (n / 8)) / 2000
/-- NCLK cycles since the model's start: 2.2 GHz (R19). -/
def Dev.nclk (d : Dev) : Nat := d.ns * 22 / 10
/-- LCLK cycles: 1.75 GHz (R19). -/
def Dev.lclk (d : Dev) : Nat := d.ns * 7 / 4

/-- Take the count a counter of cycles stands at: cycles since it was last taken. -/
def Dev.pmcSince (d : Dev) (key now : Nat) : Nat × Dev := (now - Tbl.get 0 d.pmcAt key, { d with pmcAt := Tbl.set 0 d.pmcAt key now })

/-- The clock that PMCi of core n counts by. -/
def Dev.pmcNow (d : Dev) (n i : Nat) : Nat := if d.fld PERF_CTL.EVENT n i = 0x10 then d.cclkHeld n else d.cclk n

/-- Bring PMCi of core n up to now. Cycles with the vector unit busy or a queue waiting on a gate are a free part of those that passed (log 65). -/
def Dev.pmcSettle (d : Dev) (n i : Nat) : Dev :=
  let (k, d) := d.pmcSince (8 * n + i) (d.pmcNow n i)
  if !d.bit PERF_CTL.EN n i || d.bit PERF_CLCTL.FREEZE (n / 8) 0 || decide (k = 0) then d
  else
    match d.fld PERF_CTL.EVENT n i with
    | 0x01 | 0x10 => (d.pmcCoreAdd n i k).ovfPast d PERF_CNT.COUNT PERF_OVF.OVF n i
    | 0x06 | 0x08 =>
      let (v, d) := d.free
      (d.pmcCoreAdd n i (v.toNat % (k + 1))).ovfPast d PERF_CNT.COUNT PERF_OVF.OVF n i
    | _ => d

/-- Bring every PMC of core n up to now. -/
def Dev.pmcSettleCore (d : Dev) (n : Nat) : Dev := (List.range 6).foldl (fun d i => d.pmcSettle n i) d

/-- Bring counter i of cluster k up to now (R532). -/
def Dev.pmcSettleCl (d : Dev) (k i : Nat) : Dev :=
  let (c, d) := d.pmcSince (2048 + 8 * k + i) d.nclk
  if d.bit PERF_CLSEL.EN k i && !d.bit PERF_CLCTL.FREEZE k 0 && d.fld PERF_CLSEL.EVENT k i == 0x01 then ((d.pmcAdd PERF_CLCNT.COUNT PERF_CLOVF.OVF k i c).1).ovfPast d PERF_CLCNT.COUNT PERF_CLOVF.OVF k i else d

/-- Bring counter i of the device up to now (R532, R539). -/
def Dev.pmcSettleDev (d : Dev) (i : Nat) : Dev :=
  let (c, d) := d.pmcSince (4096 + i) d.lclk
  if d.bit DEV_PCTL.EN 0 i && d.fld DEV_PCTL.EVENT 0 i == 0x01 then ((d.pmcAdd DEV_PCNT.COUNT DEV_POVF.OVF 0 i c).1).ovfPast d DEV_PCNT.COUNT DEV_POVF.OVF 0 i else d

/-! Fixed sets of error bits. -/

/-- The bits of ARR_ERR that MULTIPLE follows (R74). -/
def arrErrBits : List Fld :=
  [ARR_ERR.SAT, ARR_ERR.NAN, ARR_ERR.WPARITY, ARR_ERR.IN_POISON, ARR_ERR.BAD_CMD, ARR_ERR.UNAVAILABLE, ARR_ERR.CFG_CONFLICT]

/-- An array error of core n that names no slot. -/
def Dev.arrErr (d : Dev) (n : Nat) (bit : Fld) : Dev := d.raise arrErrBits ARR_ERR.MULTIPLE n 0 bit []

/-- An array error of core n at a slot: FIRST_SLOT and FIRST_BANK take the first of SAT, NAN, WPARITY and IN_POISON (R74). -/
def Dev.arrErrAt (d : Dev) (n : Nat) (bit : Fld) (slot bank : Nat) : Dev :=
  let first := !([ARR_ERR.SAT, ARR_ERR.NAN, ARR_ERR.WPARITY, ARR_ERR.IN_POISON].any fun g => d.bit g n 0)
  let d := d.arrErr n bit
  if first then (d.setFld ARR_ERR.FIRST_SLOT n 0 slot).setFld ARR_ERR.FIRST_BANK n 0 bank else d

/-- A DMA error of core n (R150). -/
def Dev.dmaErr (d : Dev) (n : Nat) (bit : Fld) (gran : Nat) (st : Status) : Dev :=
  d.raise [DMA_ERR.BAD_DESC, DMA_ERR.PERM, DMA_ERR.FMT_MISMATCH, DMA_ERR.TERN5_CODE, DMA_ERR.DATA_ERR] DMA_ERR.MULTIPLE n 0 bit
    [(DMA_ERR.FIRST_GRAN, gran), (DMA_ERR.FIRST_STATUS, st.code)]

/-- A slice error of core n (R178). -/
def Dev.slcErr (d : Dev) (n : Nat) (bit : Fld) : Dev :=
  d.raise [SLC_ERR.STUCK, SLC_ERR.NARROW, SLC_ERR.DEGRADED, SLC_ERR.COLLISION] SLC_ERR.MULTIPLE n 0 bit []

/-- A bank-side error of core n at a slice row (R206). -/
def Dev.bsuErr (d : Dev) (n : Nat) (bit : Fld) (row : Nat) : Dev :=
  d.raise [BSU_ERR.IN_POISON, BSU_ERR.IN_UNCORR, BSU_ERR.ADDR_MISMATCH, BSU_ERR.VIOLATION, BSU_ERR.BAD_CMD, BSU_ERR.STALLED]
    BSU_ERR.MULTIPLE n 0 bit [(BSU_ERR.FIRST_ROW, row)]

/-- A region error of region c at a line (R238). -/
def Dev.bcrErr (d : Dev) (c : Nat) (bit : Fld) (line : Nat) : Dev :=
  d.raise [BCR_ERR.TRAP_HIT, BCR_ERR.NOWAY_RED, BCR_ERR.PART_REFUSED, BCR_ERR.RED_ERR, BCR_ERR.UNCORR] BCR_ERR.MULTIPLE c 0 bit
    [(BCR_ERR.FIRST_LINE, line)]

/-- A GDDR error; FIRST_U takes the byte offset of an UNCORR or ADDR_MISMATCH that finds the bits clear (R374). -/
def Dev.gdrErr (d : Dev) (bit : Fld) (u : Option Nat) : Dev :=
  d.raise [GDR_ERR.TRAIN_FAIL, GDR_ERR.UNCORR, GDR_ERR.ADDR_MISMATCH, GDR_ERR.DRIFT] GDR_ERR.MULTIPLE 0 0 bit
    (match u with | some x => [(GDR_ERR.FIRST_U, x)] | none => [])

/-- A program fault recorded in CORE_FAULT (R125): the first sets VALID and its fields, a further one MULTIPLE. -/
def Dev.coreFault (d : Dev) (n : Nat) (st : Status) (detail opcode pc : Nat) : Dev :=
  if d.bit CORE_FAULT.VALID n 0 then d.setBit CORE_FAULT.MULTIPLE n 0 true
  else
    let d := d.setBit CORE_FAULT.VALID n 0 true
    let d := d.setFld CORE_FAULT.STATUS n 0 st.code
    let d := d.setFld CORE_FAULT.DETAIL n 0 detail
    (d.setFld CORE_FAULT.OPCODE n 0 opcode).setFld CORE_FAULT.PC n 0 (bitsOf pc 3 19)

end Sys2Proof.Machine
end

