-- ==== Sys2Proof/Machine/Queue.lean ====
section
/-! DEFINITION. Ring pairs and descriptors in flight: enable and drain, the doorbell watch table, how a descriptor ends and its record becomes ready, MSI-X messages (R283 to R302, R317). -/

namespace Sys2Proof.Machine

/-! Fields. -/

/-- Ring pair i. -/
def Dev.ring (d : Dev) (i : Nat) : Ring := Tbl.get Ring.init d.rings i
/-- Replace ring pair i. -/
def Dev.setRing (d : Dev) (i : Nat) (r : Ring) : Dev := { d with rings := Tbl.set Ring.init d.rings i r }
/-- Change ring pair i. -/
def Dev.modRing (d : Dev) (i : Nat) (f : Ring → Ring) : Dev := d.setRing i (f (d.ring i))

/-- `w` bits of a descriptor from bit `lo` of a byte. -/
def dq (b : BitVec 512) (byte lo w : Nat) : Nat := bitsOf b.toNat (8 * byte + lo) w
/-- OPCODE (R293). -/
def dqOp (b : BitVec 512) : Nat := dq b 0 0 8
/-- QUIET (R293). -/
def dqQuiet (b : BitVec 512) : Bool := dq b 1 0 1 == 1

/-- Entries that a size code means (R282). -/
def ringLen (code : Nat) : Nat := 2 ^ (min 12 code + 4)
/-- Entries of submission ring i. -/
def Dev.sqLen (d : Dev) (i : Nat) : Nat := ringLen (d.fld RING_CFG.SQ_LOG2 i 0)
/-- Entries of completion ring j. -/
def Dev.cqLen (d : Dev) (j : Nat) : Nat := ringLen (d.fld RING_CFG.CQ_LOG2 j 0)
/-- The completion ring of submission ring i. -/
def Dev.cqOf (d : Dev) (i : Nat) : Nat := d.fld RING_CFG.CQ_SEL i 0

/-- How far index a is past index b, modulo 2^32. -/
def idxDiff (a b : Nat) : Nat := (a + 2 ^ 32 - b % 2 ^ 32) % 2 ^ 32

/-- Submission ring i is out of DISABLED. -/
def Ring.on (r : Ring) : Bool := r.state != .disabled

/-- Descriptors of ring i started and not posted (R287). -/
def Dev.inflight (d : Dev) (i : Nat) : List Desc := d.descs.filter fun x => x.ring == i

/-- Completion ring j holds records back: one is ready and every entry is taken (R301). -/
def Dev.cqFull (d : Dev) (j : Nat) : Bool :=
  let r := d.ring j
  !r.ready.isEmpty && decide (d.cqLen j ≤ idxDiff r.cqTail r.cqHead)

/-- Change a descriptor in flight. -/
def Dev.modFlight (d : Dev) (id : Nat) (f : Desc → Desc) : Dev := { d with descs := d.descs.map fun x : Desc => if x.id = id then f x else x }

/-- The descriptor in flight with a number. -/
def Dev.flight (d : Dev) (id : Nat) : Option Desc := d.descs.find? fun x : Desc => x.id == id

/-! Doorbells (R289 to R291). -/

/-- The CXL link is up and the port takes requests (R336, R411). -/
def Dev.linkOn (d : Dev) : Bool := d.fld FAB_PORT.SPEED 0 0 != 0 && d.power != .halt
/-- CXL.cache is enabled on the link. -/
def Dev.cacheEn (d : Dev) : Bool := d.bit FAB_PORT.CACHE_EN 0 0
/-- Ring pair i watches its slot. -/
def Dev.watches (d : Dev) (i : Nat) : Bool := d.bit RING_CFG.WATCH i 0
/-- Ring pair i polls its slot. -/
def Dev.polls (d : Dev) (i : Nat) : Bool := d.fld RING_CFG.POLL_US i 0 != 0
/-- Number of the 64 B host line that holds the slot of ring pair i. -/
def Dev.slotLine (d : Dev) (i : Nat) : Nat := d.fld DB_ADDR.ADDR i 0 / 8

/-- A ring pair still needs its watched line (R290, R292). -/
def Dev.lineNeeded (d : Dev) (line : Nat) : Bool :=
  d.rings.any fun p => d.watches p.1 && d.slotLine p.1 == line && (p.2.on || p.2.inUse)

/-- Release a line of the watch table that nobody needs (R290). -/
def Dev.watchDrop (d : Dev) (line : Nat) : Dev := if d.lineNeeded line then d else { d with watch := Tbl.set none d.watch line none }

/-- The polling period of ring pair i in ns: values above 1,000 µs act as 1,000 (R282). -/
def Dev.pollNs (d : Dev) (i : Nat) : Nat := 1000 * min 1000 (d.fld RING_CFG.POLL_US i 0)

/-- Read the slot of ring pair i: through its watched line, entered when absent, or by itself; polling goes on from here (R283, R290, R291). -/
def Dev.slotRead (d : Dev) (i : Nat) : Dev :=
  let d := d.modRing i fun r => { r with pollAt := d.ns + if d.watches i then d.pollNs i else 0 }
  if d.watches i then
    let l := d.slotLine i
    match Tbl.get none d.watch l with
    | some w => if w.reading then d else ({ d with watch := Tbl.set none d.watch l (some { w with reading := true }) }).emit (.hostRead (64 * l) 64)
    | none => ({ d with watch := Tbl.set none d.watch l (some ⟨true, false⟩) }).emit (.hostRead (64 * l) 64)
  else d.emit (.hostRead (8 * d.fld DB_ADDR.ADDR i 0) 8)

/-! Enable and drain (R283, R292). -/

/-- Ring pair j can supply CQ_HEAD (R292). -/
def Dev.canSupply (d : Dev) (j : Nat) : Bool := (d.watches j || d.polls j) && !(d.watches j && !d.cacheEn)

/-- Enable submission ring i from DISABLED, or refuse (R283, R292). -/
def Dev.ringOn (d : Dev) (i : Nat) : Dev :=
  let j := d.cqOf i
  if d.canSupply i && d.canSupply j then
    let d := (d.setBit RING_CFG.ENABLE i 0 true).modRing i fun r => { r with state := .running, pendingEn := false, sqHead := 0, sqTail := 0, avail := [], fetched := [] }
    if (d.ring j).inUse then d.slotRead i
    else
      let d := d.modRing j fun r => { r with inUse := true, cqTail := 0, cqHead := 0, since := 0, firstAt := none, urgent := false }
      (if j = i then d else d.slotRead j).slotRead i
  else (d.setBit RING_CFG.ENABLE i 0 false).setBit RING_STATUS.CFG_IGNORED i 0 true

/-- Completion ring j leaves use once its last submission ring is DISABLED and its records are written (R292). -/
def Dev.cqRelease (d : Dev) (j : Nat) : Dev :=
  if (d.ring j).inUse && (d.ring j).ready.isEmpty && !(d.rings.any fun p => p.2.on && d.cqOf p.1 == j) then
    (d.modRing j fun r => { r with inUse := false }).watchDrop (d.slotLine j)
  else d

/-- A draining ring reaches DISABLED when its last started descriptor has posted; an enable that waited takes effect (R283). -/
def Dev.ringSettle (d : Dev) (i : Nat) : Dev :=
  let r := d.ring i
  if r.state = .draining ∧ d.inflight i = [] then
    let d := (d.setRing i { r with state := .disabled, pendingEn := false, avail := [], fetched := [] }).cqRelease (d.cqOf i)
    let d := d.watchDrop (d.slotLine i)
    if r.pendingEn then d.ringOn i else d
  else d.cqRelease (d.cqOf i)

/-- ENABLE is written 1 (R283). -/
def Dev.ringEnable (d : Dev) (i : Nat) : Dev :=
  match (d.ring i).state with
  | .disabled => d.ringOn i
  | .draining => (d.setBit RING_CFG.ENABLE i 0 true).modRing i fun r => { r with pendingEn := true }
  | _ => d.setBit RING_CFG.ENABLE i 0 true

/-- ENABLE is written 0 (R283): a waiting enable is withdrawn (log 40). -/
def Dev.ringDisable (d : Dev) (i : Nat) : Dev :=
  let d := d.setBit RING_CFG.ENABLE i 0 false
  match (d.ring i).state with
  | .running | .stopped => (d.modRing i fun r => { r with state := .draining }).ringSettle i
  | .draining => d.modRing i fun r => { r with pendingEn := false }
  | .disabled => d

/-! Descriptors end (R298 to R301). -/

/-- Bytes 0 to 15 of a completion record but PHASE (R298). -/
def cplBody (x : Desc) (f : Fin3) : BitVec 128 :=
  BitVec.ofNat 128 (x.ring % 2 ^ 12 + x.idx % 2 ^ 16 * 2 ^ 16 + dq x.body 4 0 32 * 2 ^ 32 + f.st.code * 2 ^ 64 + f.detail % 2 ^ 8 * 2 ^ 72 + f.result % 2 ^ 32 * 2 ^ 96)

/-- A descriptor in flight ends: QUIET and OK, it leaves without a record; else its record becomes ready (R298, R301). -/
def Dev.descDone (d : Dev) (id : Nat) (st : Status) (detail result : Nat) : Dev :=
  match d.flight id with
  | none => d
  | some x =>
    if x.fin.isSome then d
    else if dqQuiet x.body && st.isOk then Dev.ringSettle { d with descs := d.descs.filter fun y : Desc => y.id != id } x.ring
    else
      let f : Fin3 := ⟨st, detail, result⟩
      let d := d.modFlight id fun y => { y with fin := some f }
      d.modRing (d.cqOf x.ring) fun r => { r with ready := r.ready ++ [⟨id, x.ring, cplBody x f, dq x.body 1 1 1 == 1 || !st.isOk, d.ns⟩] }

/-- The lowest-numbered core or slice whose report is not OK (R121, R297). -/
def Desc.worst (x : Desc) : Option (Nat × Status) :=
  x.reports.foldl (fun b r =>
    if r.2.1 = .ok then b
    else
      match b with
      | some (n, _) => if r.1 < n then some (r.1, r.2.1) else b
      | none => some (r.1, r.2.1)) none

/-- A slice reports a bank-side command to the queue engine, or a region a line operation; a BSU_BROADCAST ends when the last of its slices has, and a CACHE_RANGE with its last line operation, with the status of the first in address order that failed (R202, R223, R297). -/
def Dev.descReport (d : Dev) (id n : Nat) (st : Status) (done : Nat) : Dev :=
  let d := d.modFlight id fun x => { x with cores := x.cores.erase n, reports := x.reports ++ [(n, st, done)] }
  match d.flight id with
  | some x => if (dqOp x.body = 0x60 ∨ dqOp x.body = 0x30) ∧ x.cores = [] then d.descDone id ((x.worst.map (·.2)).getD .ok) 0 ((x.reports.map (·.2.2)).sum) else d
  | none => d

/-! MSI-X (R302, R316, R317). -/

/-- The stored word at a BAR0 offset that no register table describes. -/
def Dev.rawWord (d : Dev) (off : Nat) : BitVec 64 := Tbl.get 0 d.regs off
/-- Store it. -/
def Dev.setRaw (d : Dev) (off : Nat) (v : BitVec 64) : Dev := { d with regs := Tbl.set 0 d.regs off v }

/-- Offset of the second 8 bytes of MSI-X table entry v: message data, then vector control (R316). -/
def msixCtl (v : Nat) : Nat := 0x120008 + 16 * v
/-- Offset of the pending-bit word of vector v (R316). -/
def msixPba (v : Nat) : Nat := 0x128000 + 8 * (v / 64)

/-- Vector v sends nothing: its mask bit is set, as it is after reset, or the Function Mask of the capability, or MSI-X is not enabled (PCI Express; logs 41, 176). The table's word is stored XOR its reset value. -/
def Dev.msixMasked (d : Dev) (v : Nat) : Bool := !d.cfg.msixEn || d.cfg.msixMask || !(d.rawWord (msixCtl v)).getLsbD 32

/-- The pending bit of vector v. -/
def Dev.msixPending (d : Dev) (v : Nat) : Bool := (d.rawWord (msixPba v)).getLsbD (v % 64)

/-- Set the pending bit of vector v. -/
def Dev.setPending (d : Dev) (v : Nat) (x : Bool) : Dev :=
  let w := d.rawWord (msixPba v)
  let m := BitVec.ofNat 64 (2 ^ (v % 64))
  d.setRaw (msixPba v) (if x then w ||| m else w &&& ~~~m)

/-- Send the message of vector v, or leave it pending while the vector is masked (R317). -/
def Dev.msixFire (d : Dev) (v : Nat) : Dev := if d.msixMasked v then d.setPending v true else (d.pmcDev 0x0A 1).emit (.msix v)

/-- The vector is unmasked: a pending message is sent (R317). -/
def Dev.msixRelease (d : Dev) (v : Nat) : Dev :=
  if d.msixPending v && !d.msixMasked v then ((d.setPending v false).pmcDev 0x0A 1).emit (.msix v) else d

end Sys2Proof.Machine
end

