-- ==== Sys2Proof/Machine/Slices.lean ====
section
/-! DEFINITION. Slice controllers: address mapping, queues, the row-slot decision, row moves, refresh, the stuck-lane detector and narrow mode (R152 to R180). -/

namespace Sys2Proof.Machine

/-- Bytes of a slice (R153). -/
def sliceBytes : Nat := 402653184

/-- Core of a stack address (R153). -/
def stackCore (a : Nat) : Nat := a / sliceBytes
/-- Slice row index of a stack address (R153). -/
def stackRow (a : Nat) : Nat := a % sliceBytes / 1024
/-- Layer of a slice row (R153). -/
def rowLayer (r : Nat) : Nat := r % 12
/-- Bank of a slice row among the 192 of the slice, as 16 × layer + b (R153, R207). -/
def rowBank (r : Nat) : Nat := r % 12 * 16 + r / 12 % 16
/-- Row in its bank of a slice row (R153). -/
def rowInBank (r : Nat) : Nat := r / 12 / 16
/-- Physical bank, in its column and layer, of a slice row of core n (R152, R153). -/
def physBank (n r : Nat) : Nat := if n < 128 then r / 12 % 16 + 16 else r / 12 % 16
/-- The slice rows that a REFpb covers in bank b (16 × layer + b) when its next row is `at'`: 8 rows of the bank (R153, R159). -/
def refreshedRows (b at' : Nat) : List Nat := (List.range 8).map fun i => ((at' + i) % 2048 * 16 + b % 16) * 12 + b / 16
/-- Local address of a slice row of core n (R153). -/
def rowAddr (n r : Nat) : Nat := n * sliceBytes + r * 1024
/-- Codeword key of codeword w of a slice row. -/
def rowCw (n r w : Nat) : Nat := rowAddr n r / 32 + w

/-- The band the slice uses from the next SCLK on: the greater of the reported band and BAND_FLOOR (R161, R176). -/
def Dev.slcBandNext (d : Dev) (n : Nat) : Nat := max (d.slice n).band (d.fld SLC_CFG.BAND_FLOOR n 0)
/-- The band of the decisions of this SCLK: in the SCLK of a change, the old one (R161, R175, R203). -/
def Dev.slcBand (d : Dev) (n : Nat) : Nat :=
  if (d.slice n).bandAt = some d.ns then max (d.slice n).bandOld (d.fld SLC_CFG.BAND_FLOOR n 0) else d.slcBandNext n

/-! Bank-side commands: the fields a slice controller reads (R182). -/

/-- OP. -/
def bOp (c : BitVec 256) : Nat := bitsOf c.toNat 0 8
/-- FIRST. -/
def bFirst (c : BitVec 256) : Nat := bitsOf c.toNat 64 19
/-- COUNT. -/
def bCount (c : BitVec 256) : Nat := bitsOf c.toNat 96 12 + 1
/-- STRIDE. -/
def bStride (c : BitVec 256) : Nat := bitsOf c.toNat 112 12
/-- Slice row of target i (R182). -/
def bRow (c : BitVec 256) (i : Nat) : Nat := bFirst c + i * bStride c

/-- Busy window of an operation (R183). -/
def bBusy (op : Nat) : Nat :=
  match op with
  | 0x04 => 48
  | 0x05 => 44
  | 0x07 => 1
  | _ => 40

/-- The unit of a bank. -/
def Slice.unit (s : Slice) (b : Nat) : BankUnit := Tbl.get BankUnit.init s.units b
/-- Replace the unit of a bank. -/
def Slice.setUnit (s : Slice) (b : Nat) (u : BankUnit) : Slice := { s with units := Tbl.set BankUnit.init s.units b u }

/-- Units active at time t: banks whose operation, SVSET apart, has reached the layer and not ended its busy window (R186). -/
def Slice.activeAt (s : Slice) (t : Nat) : List Nat :=
  (s.units.filter fun p =>
    (match p.2.latch with
    | some l => l.op != 0x07 && decide (l.endAt ≤ t + bBusy l.op) && (decide (t < l.endAt) || !l.done)
    | none => false) || (p.2.last.any fun l => l.op != 0x07 && decide (t < l.endAt))).map (·.1)

/-- The scoreboard shows the bank busy at time t (R193). -/
def Slice.busyAt (s : Slice) (b t : Nat) : Bool :=
  match (s.unit b).latch with
  | some l => decide (t < l.endAt) || !l.done
  | none => false

/-- Starts of bank-side work are halted: HOLD, band T3, self-refresh or the stop of R171 (R190, R199). -/
def Dev.bsuHalted (d : Dev) (n : Nat) : Bool :=
  let s := d.slice n
  d.held || d.slcBand n == 3 || s.srAt.isSome || s.srWanted || s.mode == .switching

/-- The slice has bank-side work, is not halted, and has made a start since the last halt (R190). -/
def Dev.bsuWorking (d : Dev) (n : Nat) : Bool :=
  let s := d.slice n
  (!s.bq.isEmpty || !(s.activeAt d.ns).isEmpty) && !d.bsuHalted n && !s.resume

/-- The table of R190 gives processor mode. -/
def Dev.bsuTable (d : Dev) (n : Nat) : Bool :=
  d.fld BSU_CFG.MODE n 0 == 1 || d.slcBand n ≥ 2 || (d.slice n).mode != .full

/-- Processor mode (R190). -/
def Dev.bsuProcessor (d : Dev) (n : Nat) : Bool := d.bsuWorking n && d.bsuTable n

/-- W of R157 in force: H5 binds in mixed mode while a unit is active (R187); the budget lowers it by a step at a time, down to 16 (R408). -/
def Dev.slcWindow (d : Dev) (n : Nat) : Nat :=
  let s := d.slice n
  let band := d.slcBand n
  let w := if band = 0 then 27 else if band = 1 then 26 else if band = 2 then 24 else 20
  let w := if d.bsuWorking n && !d.bsuProcessor n && !(s.activeAt d.ns).isEmpty then min w (if band = 0 then 16 else 14) else w
  min w (max 16 (w - d.pwr.stkTrim))

/-! The row slot (R155, R157, R163). -/

/-- The row slot of SCLK `t` is taken: by a row command, or by a row move of an engine that waits for it (R155; log 136). -/
def Slice.slotTaken (s : Slice) (t : Nat) : Bool := s.lastSlot == some t || s.hist.contains t

/-- The row slot of this SCLK is free: one row command each (R155), none in self-refresh or during a calibration burst. -/
def Dev.slotOpen (d : Dev) (n : Nat) : Bool :=
  let s := d.slice n
  !s.slotTaken d.ns && s.srAt.isNone && decide (s.calibAt ≤ d.ns)

/-- No 32 consecutive SCLK that hold `t` hold `w` of some times already (R154, R157). -/
def windowRoom (l : List Nat) (w t : Nat) : Bool :=
  let h := l.filter fun x => decide (t < x + 32) && decide (x < t + 32)
  if h.all fun x => decide (x ≤ t) then decide (h.length < w)
  else (List.range 32).all fun j => decide ((h.filter fun x => decide (t ≤ x + j) && decide (x + j < t + 32)).length < w)

/-- The slot is free and the window of R157 has room for an ACT or a REFpb. -/
def Dev.slotFree (d : Dev) (n : Nat) : Bool := d.slotOpen n && windowRoom (d.slice n).hist (d.slcWindow n) d.ns

/-- Room for an activation of a layer at SCLK `t`: the layer window, and the 2-SCLK spacing of narrow mode (R154, R169). -/
def Slice.layerRoom (s : Slice) (layer t : Nat) : Bool :=
  windowRoom ((s.layerHist.filter fun p => p.1 == layer).map (·.2)) 8 t &&
    (s.mode != .narrow || (s.layerHist.all fun p => decide (p.2 + 2 ≤ t) || decide (t + 2 ≤ p.2)))

/-- ACT alone: the layer window, the 2-SCLK spacing of narrow mode, tXS and the stops of R171 and R483. -/
def Dev.actFree (d : Dev) (n row : Nat) : Bool :=
  let s := d.slice n
  d.slotFree n && s.mode != .switching && s.swapStep != .stopped && decide (s.noActUntil ≤ d.ns) && s.layerRoom (rowLayer row) d.ns

/-- tRC, tRFCpb and tRP are met for a bank (R156). -/
def Dev.bankReady (d : Dev) (n b : Nat) : Bool := decide (Tbl.get 0 (d.slice n).ready b ≤ d.ns)

/-- The bank can take an ordinary row command: ready, and free on the scoreboard unless SB_OFF (R193, R194). -/
def Dev.bankFree (d : Dev) (n b : Nat) : Bool :=
  d.bankReady n b && (d.bit BSU_CFG.SB_OFF n 0 || !(d.slice n).busyAt b (d.ns + 2))

/-- Slice row of a request. -/
def NetEnt.row (e : NetEnt) : Nat := stackRow e.req.addr

/-- A write covers whole aligned codewords only. -/
def fullCws (a len : Nat) : Bool := a % 32 == 0 && len % 32 == 0

/-- A write of part of a codeword, which is read-merge-write (R165). -/
def NetEnt.part (e : NetEnt) : Bool := e.req.write && !fullCws e.req.addr e.req.len

/-- A write of a row that arrived before `seq` has not reached the bank (R164). -/
def Slice.writeBefore (s : Slice) (row seq : Nat) : Bool :=
  (s.wb.any fun w => w.row == row && decide (w.seq < seq)) ||
    (s.opens.any fun o => o.row == row && (o.write.any fun w => decide (w.seq < seq))) ||
    (s.net.any fun e => e.req.write && e.row == row && decide (e.seq < seq))

/-- A read of a row that arrived before `seq` has not been answered (R164). -/
def Slice.readBefore (s : Slice) (row seq : Nat) : Bool :=
  (s.net.any fun e => !e.req.write && e.row == row && decide (e.seq < seq)) ||
    (s.rowQ.any fun e => e.row == row && decide (e.seq < seq))

/-- A bank-side command that arrived before `seq` has a target in this row not yet done (R195). -/
def Slice.opBefore (s : Slice) (row seq ns : Nat) : Bool :=
  s.bq.any fun c => decide (c.seq < seq) && (List.range (bCount c.cmd)).any fun i =>
    bRow c.cmd i == row && (!c.started.contains i || s.busyAt (rowBank row) ns)

/-- A row already open or moving for requests up to `seq`. -/
def Slice.covered (s : Slice) (row seq : Nat) : Bool :=
  (s.opens.any fun o => o.row == row && o.write.isNone && decide (seq < o.seq)) ||
    (s.moves.any fun m => m.row == row && decide (seq < m.seq))

/-- A candidate for the row slot: arrival, requester index of R163, place in the order, row, and the WB entry for a write. -/
structure RowCand where
  arr : Nat
  idx : Nat
  seq : Nat
  row : Nat
  wb : Option WbEnt
  deriving DecidableEq, Repr, Inhabited

/-- NET and ROW reads, partial writes and WB entries whose order allows their activation now (R162 to R165, R195). -/
def Slice.cands (s : Slice) (ns : Nat) : List RowCand :=
  let rd := s.net.filterMap fun e =>
    if s.covered e.row e.seq || s.writeBefore e.row e.seq || s.opBefore e.row e.seq ns ||
       (e.req.write && (!e.part || s.readBefore e.row e.seq)) then none
    else some ⟨e.arr, 1, e.seq, e.row, none⟩
  let rq := s.rowQ.filterMap fun e =>
    if s.covered e.row e.seq || s.writeBefore e.row e.seq || s.opBefore e.row e.seq ns then none
    else some ⟨e.arr, 0, e.seq, e.row, none⟩
  let wr := s.wb.filterMap fun w =>
    if s.readBefore w.row w.seq || s.opBefore w.row w.seq ns || (s.opens.any fun o => o.row == w.row) ||
       (s.wb.any fun v => v.row == w.row && decide (v.seq < w.seq)) then none
    else some ⟨w.arr, 1, w.seq, w.row, some w⟩
  rd ++ rq ++ wr

/-- The oldest of some candidates by a key, first in the list among equals. -/
def oldest {α : Type} (key : α → Nat) : List α → Option α
  | [] => none
  | x :: t =>
    match oldest key t with
    | none => some x
    | some y => if key x ≤ key y then some x else some y

/-- The write of a read-merge-write follows tRC after its read's ACT, on the bank held for it (R165). -/
def RowCand.second (c : RowCand) (ns : Nat) : Bool := (c.wb.bind (·.rmw)).any fun t => decide (t + 40 ≤ ns)

/-- Candidates an ACT could serve now. -/
def Dev.actCands (d : Dev) (n : Nat) : List RowCand :=
  ((d.slice n).cands d.ns).filter fun c => d.actFree n c.row && (d.bankFree n (rowBank c.row) || c.second d.ns)

/-- NET requests at the escalation age wait, writes accepted into WB among them (R163, R192). -/
def Dev.escalated (d : Dev) (n : Nat) : Bool :=
  ((d.slice n).net.any fun e => decide (e.arr + 256 ≤ d.ns)) || (d.slice n).wb.any fun w => decide (w.arr + 256 ≤ d.ns)

/-! Starts of bank-side operations (R187, R188). -/

/-- H1 or H2 in use, after UNIT_CAP (R187, R204), which the budget lowers by 8 a step, down to 8 (R408). -/
def Dev.hurdle (d : Dev) (n : Nat) : Nat :=
  let band := d.slcBand n
  let h := if d.bsuTable n then (if band = 0 then 48 else if band = 1 then 24 else if band = 2 then 12 else 0)
           else (if band = 0 then 24 else if band = 1 then 12 else 0)
  let cap := min 48 (d.fld BSU_CFG.UNIT_CAP n 0)
  let h := if cap = 0 then h else min h cap
  if d.pwr.stkTrim = 0 then h else min h (max 8 ((if cap = 0 then 48 else cap) - 8 * d.pwr.stkTrim))

/-- H3 and H4 (R187). -/
def Dev.hurdleLayer (d : Dev) (n : Nat) : Nat :=
  let band := d.slcBand n
  if band = 0 then 4 else if band = 1 then 2 else if band = 2 then 1 else 0

/-- Target i of a command can start now: its order on the bank, the row's order, the scoreboard, tRP and tRFCpb, and no urgent refresh (R188, R193, R195). -/
def Dev.targetReady (d : Dev) (n : Nat) (c : BsuCmd) (i : Nat) : Bool :=
  let s := d.slice n
  let row := bRow c.cmd i
  let b := rowBank row
  !c.started.contains i && d.bankReady n b && !s.busyAt b (d.ns + 2) && Tbl.get 0 s.debt b < 8 &&
    !s.writeBefore row c.seq && !s.readBefore row c.seq &&
    !((List.range i).any fun j => rowBank (bRow c.cmd j) == b && !c.started.contains j) &&
    !(s.bq.any fun e => decide (e.seq < c.seq) &&
        (List.range (bCount e.cmd)).any fun j => rowBank (bRow e.cmd j) == b && !e.started.contains j)

/-- The command whose oldest unstarted ready target starts next, and that target (R188, R196). -/
def Dev.startCand (d : Dev) (n : Nat) : Option (BsuCmd × Nat) :=
  let s := d.slice n
  let open' := (s.bq.filter fun c => !c.started.isEmpty).length
  s.bq.findSome? fun c =>
    if c.started.isEmpty && decide (4 ≤ open') then none
    else ((List.range (bCount c.cmd)).find? fun i => d.targetReady n c i).map fun i => (c, i)

/-- Whether a start may issue now under the hurdles (R187, R189, R199); none in the stop of R483. -/
def Dev.startFree (d : Dev) (n : Nat) (row : Nat) (op : Nat) : Bool :=
  let s := d.slice n
  let act := s.activeAt (d.ns + 2)
  !s.slotTaken d.ns && !d.bsuHalted n && s.swapStep != .stopped &&
    (op == 0x07 || (decide (act.length < d.hurdle n) &&
      decide ((act.filter fun b => b / 16 == rowLayer row).length < d.hurdleLayer n)))

/-- What the row slot goes to. -/
inductive RowChoice where
  | none
  | refresh (bank : Nat)
  | act (c : RowCand)
  | start (seq : Nat) (target : Nat)
  | mrw
  deriving DecidableEq, Repr, Inhabited

/-- Banks by what their refresh needs, lowest first (R160). -/
def Dev.refBank (d : Dev) (n : Nat) (p : Int → Bool) : Option Nat :=
  (List.range 192).find? fun b => p (Tbl.get 0 (d.slice n).debt b) && d.bankFree n b

/-- The next MRW may issue: it needs no window, and the last waits until the row path may stop again (R157, R171, R483, R484). -/
def Dev.mrwFree (d : Dev) (n : Nat) : Bool :=
  let s := d.slice n
  !s.mrwLeft.isEmpty && (decide (2 ≤ s.mrwLeft.length) || decide (s.stopFree ≤ d.ns))

/-- A REFpb that has fallen due, then a pull-in REFpb, where the window allows (R160, R163). -/
def Dev.slotRefresh (d : Dev) (n : Nat) : Option Nat :=
  if d.slotFree n then (d.refBank n fun x => x > 0).orElse fun _ => d.refBank n fun x => x > -8 else none

/-- Class 4 of R163: REFpb, and last MRW; calibration and scrub, between the two, come as commands of their own. -/
def Dev.background (d : Dev) (n : Nat) : RowChoice :=
  match d.slotRefresh n with
  | some b => .refresh b
  | none => if d.mrwFree n then .mrw else .none

/-- The start that the hurdles let issue now. -/
def Dev.startNow (d : Dev) (n : Nat) : Option (BsuCmd × Nat) :=
  (d.startCand n).filter fun p => d.startFree n (bRow p.1.cmd p.2) (bOp p.1.cmd)

/-- Class 3 in mixed mode or without bank-side work: the oldest by arrival, ties by R29 with ROW 0, NET 1, bank-side 3 (R163, R191). -/
def Dev.slotClass3 (d : Dev) (n : Nat) (cands : List RowCand) (st : Option (BsuCmd × Nat)) : RowChoice × Dev :=
  match oldest id (cands.map (·.arr) ++ (st.map (·.1.arr)).toList) with
  | none => (d.background n, d)
  | some a =>
    let tied := cands.filter fun c => c.arr == a
    let idxs := [0, 1].filter (fun i => tied.any fun c => c.idx == i) ++ (if st.any fun p => p.1.arr == a then [3] else [])
    match d.tie (arbKey 1 n) idxs with
    | none => (.none, d)
    | some (w, d') =>
      if w = 3 then (match st with | some (c, i) => .start c.seq i | none => .none, d')
      else (match oldest (·.seq) (tied.filter fun c => c.idx == w) with | some c => .act c | none => .none, d')

/-- The row-slot decision of R163, with R190 to R192 for bank-side work; the device carries the arbiter of a tie. -/
def Dev.rowSlot (d : Dev) (n : Nat) : RowChoice × Dev :=
  if !d.slotOpen n then (.none, d)
  else
    match if d.slotFree n then d.refBank n (fun x => x ≥ 8) else none with
    | some b => (.refresh b, d)
    | none =>
      let cands := d.actCands n
      match oldest (·.seq) (cands.filter fun c => c.idx == 1 && decide (c.arr + 256 ≤ d.ns)) with
      | some c => (.act c, d)
      | none =>
        if d.bsuProcessor n then
          match if d.escalated n then none else d.startNow n with
          | some (c, i) => (.start c.seq i, d)
          | none => (match d.slotRefresh n with | some b => .refresh b | none => .none, d)
        else if d.bsuTable n && (d.slice n).resume && !d.escalated n then
          match d.startNow n with
          | some (c, i) => (.start c.seq i, d)
          | none => d.slotClass3 n cands none
        else d.slotClass3 n cands (if d.bsuTable n then none else d.startNow n)

/-- The row slot of this SCLK is taken (R155). -/
def Slice.tookSlot (s : Slice) (ns : Nat) : Slice := { s with lastSlot := some ns }

/-- An activation of a row at SCLK `t` is counted in both windows, and its bank is next ready `rc` later (R154, R156, R157). -/
def Slice.booked (s : Slice) (ns t row rc : Nat) : Slice :=
  let b := rowBank row
  { s with
    hist := t :: s.hist.filter (fun x => decide (ns < x + 32))
    ready := Tbl.set 0 s.ready b (max (Tbl.get 0 s.ready b) (t + rc))
    layerHist := (rowLayer row, t) :: s.layerHist.filter (fun p => decide (ns < p.2 + 32)) }

/-- An activation in this SCLK. -/
def Slice.activated (s : Slice) (ns row rc : Nat) : Slice := s.booked ns ns row rc

/-- The first SCLK from `t` on in which the windows let a row move of an engine activate its row (R154, R155, R157). -/
def Dev.bookAt (d : Dev) (n row : Nat) : Nat → Nat → Nat
  | 0, t => t
  | fuel + 1, t =>
    let s := d.slice n
    if !s.slotTaken t && windowRoom s.hist (d.slcWindow n) t && s.layerRoom (rowLayer row) t then t else d.bookAt n row fuel (t + 1)

/-- A row move of an engine takes the next row slot that its bank, the windows and the moves before it leave, and is counted (R154 to R157, R528; log 136). -/
def Dev.rowBook (d : Dev) (n row rc : Nat) : Dev :=
  let s := d.slice n
  let b := rowBank row
  let free := match (s.unit b).latch with | some l => l.endAt - 2 | none => 0
  let t := d.bookAt n row 128 (s.hist.foldl (fun m x => max m (x + 1)) (max (max d.ns (Tbl.get 0 s.ready b)) (max (max s.noActUntil s.calibAt) free)))
  (d.setSlice n (s.booked d.ns t row rc)).pmcCore n 0x0C 1

/-- A row read now answers a write of part of a codeword, so that the bank is held for its write as well (R165). -/
def Slice.mergesNow (s : Slice) (row : Nat) : Bool :=
  s.net.any fun e => e.part && e.row == row && !s.writeBefore row e.seq

/-- ACT: the row opens; its bank is next ready after tRC, after 80 SCLK where a read-merge-write begins (R155, R156, R165). Under SB_OFF it may meet a busy bank (R194). -/
def Dev.slcAct (d : Dev) (n : Nat) : Dev :=
  match d.rowSlot n with
  | (.act c, d) =>
    let s := d.slice n
    let rc := if c.wb = none ∧ s.mergesNow c.row then 80 else 40
    let t := (s.tookSlot d.ns).activated d.ns c.row rc
    d.setSlice n { t with
      opens := s.opens ++ [⟨c.row, d.ns, c.wb, s.busyAt (rowBank c.row) (d.ns + 2), s.seq⟩]
      wb := match c.wb with | some w => s.wb.filter (fun v => v.seq != w.seq) | none => s.wb }
  | _ => d

/-- RD: the row opened for reading moves to the controller, exactly tRCD after its ACT (R155, R163). -/
def Dev.slcRd (d : Dev) (n : Nat) : Dev :=
  let s := d.slice n
  match s.opens.find? fun o => o.write.isNone && decide (o.at' + 12 ≤ d.ns) with
  | some o => d.setSlice n { s with opens := s.opens.filter (· != o), moves := s.moves ++ [⟨o.row, o.at' + 12, o.busy, o.seq⟩] }
  | none => d

/-- An access met a busy bank under SB_OFF (R194). -/
def Dev.violation (d : Dev) (n row : Nat) : Dev := (d.bsuErr n BSU_ERR.VIOLATION row).count BSU_COUNT.VIOL n 0 1

/-- Write the codewords of a WB entry to its row. -/
def Dev.wbCommit (d : Dev) (n : Nat) (w : WbEnt) : Dev := w.cws.foldl (fun e p => e.putCw (rowCw n w.row p.1) p.2) d

/-- WR: the row opened for writing tRCD ago takes the codewords of its mask; a busy bank discards them (R155, R194). It issues exactly then, so that tWR ends within tRAS and tRC stands (R156). -/
def Dev.slcWr (d : Dev) (n : Nat) : Dev :=
  let s := d.slice n
  match s.opens.find? fun o => o.write.isSome && decide (o.at' + 12 ≤ d.ns) with
  | some o =>
    let d := (d.setSlice n { s with opens := s.opens.filter (· != o) }).pmcCore n 0x0C 1
    match o.write with
    | some w => if o.busy then d.violation n o.row else d.wbCommit n w
    | none => d
  | none => d

/-! Acceptance into WB, and arrivals (R162, R164, R165). -/

/-- Merge codewords: later data replaces earlier. -/
def cwMerge (old new : List (Nat × List PByte)) : List (Nat × List PByte) :=
  (old.filter fun p => !(new.any fun q => q.1 == p.1)) ++ new

/-- Codeword w lies wholly within `len` bytes at `off` of its row. -/
def cwWhole (off len w : Nat) : Bool := decide (off ≤ 32 * w) && decide (32 * w + 32 ≤ off + len)

/-- The codewords a write covers whole, with their bytes. -/
def cwsWhole (off : Nat) (b : List PByte) : List (Nat × List PByte) :=
  ((List.range 32).filter (cwWhole off b.length)).map fun w => (w, (b.drop (32 * w - off)).take 32)

/-- Put codewords of a row into WB: merged into the row's entry unless a read or an operation arrived in between, else a new entry; nothing when WB is full (R162, R195). `rmw`: the ACT of the read they were merged with (R165). -/
def Slice.wbPut (s : Slice) (row arr seq : Nat) (cws : List (Nat × List PByte)) (rmw : Option Nat) : Option Slice :=
  let new := if s.wb.length < 16 then some { s with wb := s.wb ++ [⟨row, arr, seq, cws, rmw⟩] } else none
  match (s.wb.filter fun w => w.row == row).reverse with
  | w :: _ =>
    let readAfter := (s.net.any fun e => !e.req.write && e.row == row && decide (w.seq < e.seq) && decide (e.seq < seq)) ||
      (s.rowQ.any fun e => e.row == row && decide (w.seq < e.seq) && decide (e.seq < seq))
    let opAfter := s.bq.any fun c => decide (w.seq < c.seq) && decide (c.seq < seq) && (List.range (bCount c.cmd)).any fun i => bRow c.cmd i == row
    if readAfter || opAfter then new
    else some { s with wb := s.wb.map fun v => if v.seq = w.seq then { v with cws := cwMerge v.cws cws, rmw := rmw.orElse fun _ => v.rmw } else v }
  | [] => new

/-- Take the whole codewords of the first waiting write that has some into WB: the write is acknowledged where they are all of it, and its other codewords wait for their row otherwise; an earlier write of its row goes first, and what arrives in the SCLK waits it out before it merges with older data (R162, R165, R175). -/
def Dev.wbAdmit1 (d : Dev) (n : Nat) : Option Dev :=
  let s := d.slice n
  let cws (e : NetEnt) : List (Nat × List PByte) := cwsWhole (e.req.addr % 1024) e.req.data
  let ok (e : NetEnt) : Bool :=
    e.req.write && !e.split && !(cws e).isEmpty && !(s.net.any fun f => f.req.write && f.row == e.row && decide (f.seq < e.seq)) &&
      !(e.arr == d.ns && s.wb.any fun w => w.row == e.row && decide (w.arr < d.ns))
  (s.net.filter ok).findSome? fun e =>
    (s.wbPut e.row e.arr e.seq (cws e) none).map fun s' =>
      if e.part then d.setSlice n { s' with net := s.net.map fun f => if f.seq = e.seq then { f with split := true } else f }
      else (d.setSlice n { s' with net := s.net.filter (fun f => f.seq != e.seq) }).memReply e.req.src .ok []

/-- Take every write that WB has room for, and move requests the router holds into NET while it has room (R162). -/
def Dev.wbAdmit (d : Dev) (n : Nat) : Nat → Dev
  | 0 => d
  | fuel + 1 =>
    match d.wbAdmit1 n with
    | some d' => d'.wbAdmit n fuel
    | none =>
      let s := d.slice n
      match s.netHeld with
      | e :: t =>
        if s.net.length < 64 then
          (d.setSlice n { s with net := s.net ++ [{ e with arr := d.ns, seq := s.seq }], netHeld := t, seq := s.seq + 1 }).wbAdmit n fuel
        else d
      | [] => d

/-- Room enough for every request the slice and the router hold. -/
def Dev.netAdmit (d : Dev) (n : Nat) : Dev := d.wbAdmit n (2 * ((d.slice n).net.length + (d.slice n).netHeld.length) + 1)

/-! Arrivals of one SCLK (R175, R203). -/

/-- What has arrived for a row in this SCLK: requester index of R163 and R191, place in the order. -/
def Slice.rivals (s : Slice) (ns row : Nat) : List (Nat × Nat) :=
  ((s.rowQ.filter fun e => e.arr == ns && e.row == row).map fun e => (0, e.seq)) ++
    ((s.net.filter fun e => e.req.write && e.arr == ns && e.row == row).map fun e => (1, e.seq)) ++
    ((s.wb.filter fun w => w.arr == ns && w.row == row).map fun w => (1, w.seq)) ++
    ((s.bq.filter fun c => c.arr == ns && (List.range (bCount c.cmd)).any fun i => bRow c.cmd i == row).map fun c => (3, c.seq))

/-- Make room in the order at place k: everything from there on moves up by one. -/
def Slice.gap (s : Slice) (k : Nat) : Slice :=
  let up (x : Nat) : Nat := if k ≤ x then x + 1 else x
  let lim (x : Nat) : Nat := if k < x then x + 1 else x
  { s with
    seq := s.seq + 1
    net := s.net.map fun e => { e with seq := up e.seq }
    rowQ := s.rowQ.map fun e => { e with seq := up e.seq }
    wb := s.wb.map fun w => { w with seq := up w.seq }
    opens := s.opens.map fun o => { o with seq := lim o.seq, write := o.write.map fun w => { w with seq := up w.seq } }
    moves := s.moves.map fun m => { m with seq := lim m.seq }
    bq := s.bq.map fun c => { c with seq := up c.seq }
    units := s.units.map fun p => (p.1, { p.2 with latch := p.2.latch.map fun l => { l with cmdSeq := up l.cmdSeq } }) }

/-- The place in the order that a newcomer of requester index `idx` takes: last, or, where it meets another class in one SCLK over a row and wins by R29, ahead of it (R163, R175, R191, R203). -/
def Dev.arrPlace (d : Dev) (n key idx : Nat) (rs : List (Nat × Nat)) : Nat × Dev :=
  let s := d.slice n
  let rs := rs.filter fun p => p.1 != idx
  let last (d : Dev) : Nat × Dev := (s.seq, d.setSlice n { s with seq := s.seq + 1 })
  match oldest id (rs.map (·.2)), d.tie key (idx :: (rs.map (·.1)).dedup) with
  | some k, some (w, d') => if w = idx then (k, d'.setSlice n (s.gap k)) else last d'
  | _, _ => last d

/-- A request addressed to the slice of core n lies within one row of it (R162). -/
def netFits (n : Nat) (q : MemReq) : Bool :=
  stackCore q.addr == n && decide (0 < q.len) && decide (q.addr % 1024 + q.len ≤ 1024) && (!q.write || q.data.length == q.len)

/-- A network request reaches the controller: it enters NET, or is held by the router while NET is full, or is aborted by a die reset (R162, R174). -/
def Dev.slcNet (d : Dev) (n : Nat) (q : MemReq) : Dev :=
  let s := d.slice n
  if s.resetting then d.memReply q.src .resetAbort (poisonBytes (if q.write then 0 else q.len))
  else if s.net.length < 64 then
    let (k, d) := d.arrPlace n (arbKey 1 n) 1 (if q.write then s.rivals d.ns (stackRow q.addr) else [])
    let s := d.slice n
    (d.setSlice n { s with net := s.net ++ [⟨q, d.ns, k, false⟩] }).netAdmit n
  else d.setSlice n { s with netHeld := s.netHeld ++ [⟨q, d.ns, s.seq, false⟩] }

/-- A whole-row read of the core's weight channel enters ROW while it has room (R162); `own`: one that an event of the channel has asked for. -/
def Dev.slcRow (d : Dev) (n row : Nat) (own : Bool) : Dev :=
  if (d.slice n).rowQ.length < 32 then
    let (k, d) := d.arrPlace n (arbKey 1 n) 0 ((d.slice n).rivals d.ns row)
    let s := d.slice n
    d.setSlice n { s with rowQ := s.rowQ ++ [⟨row, d.ns, k, own⟩] }
  else d

/-- Writes that waited their SCLK out go into WB. -/
def Dev.slcPump (d : Dev) : Dev :=
  (d.slices.filter fun p => p.2.net.any fun e => e.req.write && decide (e.arr < d.ns)).foldl (fun d p => d.netAdmit p.1) d

/-! The stuck-lane detector (R168 to R172). -/

/-- The logical connection that carried bit `bit` of codeword `w` (R168, R169). -/
def connOf (narrow : Bool) (half w bit : Nat) : Nat :=
  if narrow then
    (if bit < 136 then bit * 32 + w else (bit - 136) * 32 + (w + 16) % 32) + 4352 * half
  else bit * 32 + w

/-- Codewords made uncorrectable by two dead connections that share a transfer (R172). -/
def Slice.collided (s : Slice) (w : Nat) : Bool :=
  match s.mode with
  | .narrow =>
    let c := (s.dead.filter fun v => v / 4352 == s.half).map fun v => v % 4352 % 32
    decide (2 ≤ (c.filter (· == w)).length) || decide (2 ≤ (c.filter fun x => (x + 16) % 32 == w).length)
  | _ => decide (2 ≤ (s.dead.filter fun v => v % 32 == w).length)

/-- The half to keep: none dead, else fewer dead, a tie going to H0 (R171, step 2). -/
def Slice.bestHalf (s : Slice) : Nat :=
  if (s.dead.filter fun v => decide (4352 ≤ v)).length < (s.dead.filter fun v => decide (v < 4352)).length then 1 else 0

/-- Ask for narrow mode on a half: steps 3 to 6 of R171 follow; a swap waits for them (R483). -/
def Slice.askNarrow (s : Slice) (h : Nat) : Slice := { s with narrowHalf := some h, mrwLeft := List.range 12, swapStep := .idle }

/-- Narrow mode after a declaration: asked for, or the half chosen again while the row path has not stopped, unless FORCE_NARROW fixed it (R171, R175). -/
def Dev.narrowAgain (d : Dev) (n : Nat) : Dev :=
  let s := d.slice n
  match s.narrowHalf with
  | none => if d.bit SLC_CFG.AUTO_NARROW n 0 then d.setSlice n (s.askNarrow s.bestHalf) else d
  | some h => if d.bit SLC_CFG.FORCE_NARROW n 0 || h == s.bestHalf then d else d.setSlice n (s.askNarrow s.bestHalf)

/-- A connection that no spare takes is dead: recorded once, its outcome as R172 gives, and narrow mode asked for under AUTO_NARROW (R170, R171). -/
def Dev.connDead (d : Dev) (n conn : Nat) : Dev :=
  let s := d.slice n
  if s.dead.contains conn then d
  else
    let t := { s with dead := s.dead ++ [conn] }
    let d := (d.setSlice n t).count (if conn < 4352 then SLC_STUCK.DEAD_H0 else SLC_STUCK.DEAD_H1) n 0 1
    let clash := (List.range 32).any fun w => t.collided w && !s.collided w
    let d := if clash then d.slcErr n SLC_ERR.COLLISION else d
    match s.mode with
    | .narrow =>
      if conn / 4352 = s.half then (d.setSlice n { t with degraded := true }).slcErr n SLC_ERR.DEGRADED else d
    | .switching => d
    | .full => d.narrowAgain n

/-- Declare a connection dead: STUCK, SLC_STUCK, and the request for an online spare swap (R170). -/
def Dev.declare (d : Dev) (n conn layer : Nat) : Dev :=
  let d := d.slcErr n SLC_ERR.STUCK
  let d := (d.setFld SLC_STUCK.CONN n 0 conn).setFld SLC_STUCK.LAYER_MIN n 0 layer
  let s := d.slice n
  d.setSlice n { s with swapReq := s.swapReq ++ [conn] }

/-- The tracker entry to replace: lowest count of 3 or less, lowest number first (R170). -/
def Slice.trackVictim (s : Slice) : Option Nat :=
  (List.range 16).foldl (fun best e =>
    match Tbl.get none s.tracker e with
    | none => best
    | some t =>
      if t.count > 3 then best
      else
        match best.bind fun b => Tbl.get none s.tracker b with
        | none => some e
        | some u => if t.count < u.count then some e else best) none

/-- A correction identifies a connection (R170). -/
def Dev.track (d : Dev) (n conn row : Nat) : Dev :=
  if !d.bit SLC_CFG.DETECT_EN n 0 || (d.slice n).swapped.contains conn then d
  else
    let s := d.slice n
    let put (e : Nat) (t : Option Track) : Dev := d.setSlice n { s with tracker := Tbl.set none s.tracker e t }
    match (List.range 16).find? fun e => (Tbl.get none s.tracker e).any fun t => t.conn == conn with
    | some e =>
      match Tbl.get none s.tracker e with
      | none => d
      | some t =>
        let lm := min t.layerMin (rowLayer row)
        if t.lastRow = row then put e (some { t with layerMin := lm })
        else if t.count + 1 ≥ 64 then (put e none).declare n conn lm
        else put e (some { t with layerMin := lm, lastRow := row, count := t.count + 1 })
    | none =>
      let new : Track := ⟨conn, rowLayer row, row, 1⟩
      match (List.range 16).find? fun e => (Tbl.get none s.tracker e).isNone with
      | some e => put e (some new)
      | none =>
        match s.trackVictim with
        | some e => put e (some new)
        | none => d.count SLC_TRACKMISS.COUNT n 0 1

/-! Row moves reaching the controller (R156, R165, R194, R450). -/

/-- Decode codewords of a row with the given physical errors; a collision of dead connections is uncorrectable (R172). -/
def Dev.cwDecode (d : Dev) (n row : Nat) (flips : List BitFlip) (ws : List Nat) : List (Nat × CwClass × List PByte) :=
  ws.map fun w =>
    if (d.slice n).collided w then (w, .uncorr, poisonBytes 32)
    else
      let r := d.readCw (rowCw n row w) ((flips.filter fun f => f.cw == w).map fun f => f.bit % 272)
      (w, r.1, r.2)

/-- The 32 codewords of a row move. -/
def Dev.rowDecode (d : Dev) (n row : Nat) (flips : List BitFlip) : List (Nat × CwClass × List PByte) :=
  d.cwDecode n row flips (List.range 32)

/-- What a row move from a busy bank holds under SB_OFF: the busy-poison codeword in every place (R194, R454). -/
def busyRow : List (Nat × CwClass × List PByte) := (List.range 32).map fun w => (w, .poison, poisonBytes 32)

/-- Count, log and track the code events of a row move (R170, R457). -/
def Dev.rowEvents (d : Dev) (n row : Nat) (cws : List (Nat × CwClass × List PByte)) : Dev :=
  cws.foldl (fun e c =>
    let e := e.eccEvent 0 n (rowCw n row c.1) c.2.1
    match c.2.1 with
    | .corr b =>
      let s := e.slice n
      e.track n (connOf (s.mode == .narrow) s.half c.1 b) row
    | _ => e) d

/-- Answer to a read of some bytes of a decoded row: bytes, and the status of its first codeword that failed. -/
def rowAnswer (cws : List (Nat × CwClass × List PByte)) (off len : Nat) : Status × List PByte :=
  let hit := cws.filter fun c => decide (c.1 * 32 < off + len) && decide (off < c.1 * 32 + 32)
  (hit.foldl (fun s c => s.first c.2.1.status) .ok, ((cws.flatMap fun c => c.2.2).drop off).take len)

/-- The codewords a partial write leaves merged with the row (R165). -/
def rowMerge (cws : List (Nat × CwClass × List PByte)) (off : Nat) (b : List PByte) : List (Nat × List PByte) :=
  let row := cws.flatMap fun c => c.2.2
  let new := row.take off ++ b ++ row.drop (off + b.length)
  (cws.filter fun c => decide (c.1 * 32 < off + b.length) && decide (off < c.1 * 32 + 32)).map fun c =>
    (c.1, ((new.drop (c.1 * 32)).take 32).map fun x => if anyPoison ((new.drop (c.1 * 32)).take 32) then ⟨0, true⟩ else x)

/-- A row read for the weight channel is there: kept for the event that asked for it, or sent out. -/
def Dev.rowAns (d : Dev) (n : Nat) (e : RowEnt) (st : Status) (b : List PByte) : Dev :=
  if e.own then d.setSlice n { d.slice n with rowGot := (d.slice n).rowGot ++ [(e.row, b, st)] } else d.emit (.memResp n st b)

/-- The status of an answer from a row: BUSY_BANK for a busy bank, else the first failure among the codewords it covers (R28, R194, R335). -/
def rowStatus (busy : Bool) (cws : List (Nat × CwClass × List PByte)) (off len : Nat) : Status :=
  if busy then .busyBank else (rowAnswer cws off len).1

/-- Serve one request of NET from a row that has reached the controller; `act` is the SCLK of its ACT. The merge of a write answers with the failure it met among the codewords it covers in part; whole ones that have gone into WB stay out of it (R165, R335). -/
def Dev.netServe (d : Dev) (n act : Nat) (busy : Bool) (cws : List (Nat × CwClass × List PByte)) (e : NetEnt) : Dev :=
  let off := e.req.addr % 1024
  let s := d.slice n
  let gone := { s with net := s.net.filter fun f => f.seq != e.seq }
  if !e.req.write then (d.setSlice n gone).memReply e.req.src (rowStatus busy cws off e.req.len) (rowAnswer cws off e.req.len).2
  else
    let part (w : Nat) : Bool := !cwWhole off e.req.len w
    match gone.wbPut e.row e.arr e.seq ((rowMerge cws off e.req.data).filter fun p => part p.1 || !e.split) (some act) with
    | some s' => (d.setSlice n s').memReply e.req.src (rowStatus busy (cws.filter fun c => part c.1) off e.req.len) []
    | none => d

/-- A row move reaches the controller, 5 SCLK after its RD, 6 in narrow mode: decoded, corrected or poisoned, and its requests answered (R156, R162, R454). -/
def Dev.slcMove (d : Dev) (n : Nat) (flips : List BitFlip) : Dev :=
  let s := d.slice n
  match s.moves with
  | [] => d
  | m :: rest =>
    if d.ns < m.at' + (if s.mode = .narrow then 6 else 5) then d
    else
      let cws := if m.busy then busyRow else d.rowDecode n m.row flips
      let d := (d.setSlice n { s with moves := rest }).pmcCore n 0x0C 1
      let d := if m.busy then d.violation n m.row else d.rowEvents n m.row cws
      let hit (row seq : Nat) : Bool := row == m.row && decide (seq < m.seq) && !s.writeBefore row seq
      let d := (s.rowQ.filter fun e => hit e.row e.seq).foldl (fun d e =>
        let t := d.slice n
        (d.setSlice n { t with rowQ := t.rowQ.filter fun f => f.seq != e.seq }).rowAns n e (rowStatus m.busy cws 0 1024) (rowAnswer cws 0 1024).2) d
      let d := (s.net.filter fun e => hit e.row e.seq && (!e.req.write || e.part)).foldl (fun d e => d.netServe n (m.at' - 12) m.busy cws e) d
      d.netAdmit n

/-! Refresh (R159 to R161). -/

/-- Interval between REFpb of a bank in SCLK (R159). -/
def Dev.refInterval (d : Dev) (n : Nat) : Nat :=
  let b := d.slcBandNext n
  if (d.slice n).hold4x then 31250 else if b = 0 then 125000 else if b = 1 then 62500 else 31250

/-- When the next refresh of a bank falls due: staggered evenly over the first interval of the schedule (R159). -/
def Dev.refDue (d : Dev) (n b : Nat) : Nat := (Tbl.get none (d.slice n).due b).getD ((d.slice n).refBase + b * 125000 / 192)

/-- A bank's refresh falls due; with eight postponed it waits (R160). -/
def Dev.slcRefDue (d : Dev) (n b : Nat) : Dev :=
  let s := d.slice n
  let debt := Tbl.get 0 s.debt b
  if d.refDue n b ≤ d.ns ∧ debt < 8 ∧ s.srAt = none then
    d.setSlice n { s with debt := Tbl.set 0 s.debt b (debt + 1), due := Tbl.set none s.due b (some (d.refDue n b + d.refInterval n)) }
  else d

/-- Refresh the next 8 rows of a bank (R155, R159). -/
def Slice.refreshed (s : Slice) (ns b : Nat) : Slice :=
  { s with
    debt := Tbl.set 0 s.debt b (Tbl.get 0 s.debt b - 1)
    lastRef := Tbl.set 0 s.lastRef b ns
    refRow := Tbl.set 0 s.refRow b ((Tbl.get 0 s.refRow b + 8) % 2048)
    ready := Tbl.set 0 s.ready b (ns + 60) }

/-- REFpb, when the row slot goes to it: it is counted in W (R155, R157, R163). -/
def Dev.slcRefpb (d : Dev) (n : Nat) : Dev :=
  match d.rowSlot n with
  | (.refresh b, d) =>
    let s := ((d.slice n).tookSlot d.ns).refreshed d.ns b
    (d.setSlice n { s with hist := d.ns :: s.hist.filter fun t => decide (d.ns < t + 32) }).pmcCore n 0x0D 1
  | _ => d

/-- The band in use may have changed from one with refresh interval `old`: due times move up when tREFW shortens, but for a bank that no REFpb has reached; the halt of R199 by band T3 begins or ends, and goes on while HOLD halts starts (R161, R190, R199). -/
def Dev.slcReband (d : Dev) (n old : Nat) : Dev :=
  let s := d.slice n
  let new := d.refInterval n
  let s2 := if new < old then
      { s with due := (List.range 192).foldl (fun t b =>
          let last := Tbl.get 0 s.lastRef b
          Tbl.set none t b (some (if last = 0 then d.refDue n b else min (d.refDue n b) (last + new)))) s.due }
    else s
  if d.slcBandNext n = 3 then d.setSlice n { s2 with haltAt := s.haltAt.orElse fun _ => some d.ns }
  else if d.held then d.setSlice n s2
  else d.setSlice n { s2 with haltAt := none, resume := s.resume || s.haltAt.isSome }

/-- A band or HOLD change reaches the controller (R161). -/
def Dev.slcBandApply (d : Dev) (n : Nat) : Dev :=
  let s := d.slice n
  let s := if s.band = d.bandOf (columnOf n) then s else { s with bandOld := s.band, bandAt := some d.ns, band := d.bandOf (columnOf n) }
  (d.setSlice n { s with hold4x := d.held }).slcReband n (d.refInterval n)

/-! Narrow mode (R171). -/

/-- MRW: the narrow-mode half, or the new repair position of a swap, is written to the next layer; after the last the row path stops (R155; R171, steps 3 and 4; R483, steps 1 and 2). -/
def Dev.slcMrw (d : Dev) (n : Nat) : Dev :=
  match d.rowSlot n with
  | (.mrw, d) =>
    let s := d.slice n
    match s.mrwLeft, s.narrowHalf with
    | l :: rest, some h =>
      d.setSlice n { s with
        lastSlot := some d.ns, mrwLeft := rest, layerMode := Tbl.set 0 s.layerMode l (h + 1)
        mode := if rest = [] then .switching else s.mode }
    | _ :: rest, none =>
      d.setSlice n { s with lastSlot := some d.ns, mrwLeft := rest, swapStep := if rest = [] then .stopped else s.swapStep }
    | _, _ => d
  | _ => d

/-- The switch ends: the row path resumes in narrow mode on the half chosen (R171, steps 5 and 6). -/
def Dev.slcNarrow (d : Dev) (n : Nat) : Dev :=
  let s := d.slice n
  if s.mode = .switching ∧ s.opens = [] ∧ s.moves = [] then
    let h := s.narrowHalf.getD 0
    let bad := s.dead.any fun v => v / 4352 == h
    let d := d.setSlice n { s with stopFree := d.ns + 1000, mode := .narrow, half := h, narrowHalf := none, degraded := s.degraded || bad,
                                    resume := s.resume || !s.bq.isEmpty }
    let d := d.slcErr n SLC_ERR.NARROW
    let d := if bad then d.slcErr n SLC_ERR.DEGRADED else d
    d.journal 0x05 [n, h]
  else d

/-- A write of FORCE_NARROW from 0 to 1 (R176): narrow mode on HALF_SEL through steps 3 to 6 of R171. -/
def Dev.slcForce (d : Dev) (n : Nat) : Dev :=
  let s := d.slice n
  let d := d.setBit SLC_CFG.FORCE_NARROW n 0 true
  if s.mode = .full ∧ s.narrowHalf = none then d.setSlice n (s.askNarrow (d.fld SLC_CFG.HALF_SEL n 0)) else d

/-- Halve every count; an entry at 0 becomes free (R170). -/
def Slice.decayed (s : Slice) : Slice :=
  { s with tracker := (List.range 16).foldl (fun t e =>
      match Tbl.get none t e with
      | some x => Tbl.set none t e (if x.count / 2 = 0 then none else some { x with count := x.count / 2 })
      | none => t) s.tracker }

/-- Decay, every 2^30 SCLK (R170). -/
def Dev.slcDecay (d : Dev) (n : Nat) : Dev :=
  let s := d.slice n
  if s.decayAt + 2 ^ 30 ≤ d.ns then d.setSlice n { s.decayed with decayAt := s.decayAt + 2 ^ 30 } else d

/-! The commands. -/

def execAct (core : CoreId) (s : State) : Host.Outcome State Fault Refusal := s.ev fun d => d.slcAct core
def execRd (core : CoreId) (s : State) : Host.Outcome State Fault Refusal := s.ev fun d => d.slcRd core
def execWr (core : CoreId) (s : State) : Host.Outcome State Fault Refusal := s.ev fun d => (d.slcWr core).netAdmit core
def execRefpb (core : CoreId) (s : State) : Host.Outcome State Fault Refusal := s.ev fun d => d.slcRefpb core
def execMrw (core : CoreId) (s : State) : Host.Outcome State Fault Refusal := s.ev fun d => d.slcMrw core
def execRowMoveComplete (core : CoreId) (flips : List BitFlip) (s : State) : Host.Outcome State Fault Refusal :=
  s.ev fun d => d.slcMove core flips
def execNetRequest (core : CoreId) (req : MemReq) (s : State) : Host.Outcome State Fault Refusal :=
  s.ev fun d => if netFits core req then d.slcNet core req else d
def execRowRequest (core : CoreId) (row : Nat) (s : State) : Host.Outcome State Fault Refusal :=
  s.ev fun d => if row < 393216 then d.slcRow core row false else d
def execRefreshDue (core : CoreId) (layer : Fin 12) (bank : Fin 16) (s : State) : Host.Outcome State Fault Refusal :=
  s.ev fun d => d.slcRefDue core (layer.val * 16 + bank.val)
def execBandApply (core : CoreId) (s : State) : Host.Outcome State Fault Refusal := s.ev fun d => d.slcBandApply core
def execTrackerDecay (core : CoreId) (s : State) : Host.Outcome State Fault Refusal := s.ev fun d => d.slcDecay core
def execNarrowModeSwitch (core : CoreId) (s : State) : Host.Outcome State Fault Refusal := s.ev fun d => d.slcNarrow core

end Sys2Proof.Machine
end

