-- ==== Sys2Proof/Machine/Bsu.lean ====
section
/-! DEFINITION. Bank-side units: broadcast commands, starts, the operations on rows, completion and stalls (R181 to R210); what a slice holds carried out in its order, self-refresh and resets, and the accesses of engines (R164, R173, R174, R195). -/

namespace Sys2Proof.Machine

/-! The fields of a broadcast command (R182). -/

/-- SEG. -/
def bSeg (c : BitVec 256) : Nat := bitsOf c.toNat 8 3
/-- TYPE: FP32 elements. -/
def bFp32 (c : BitVec 256) : Bool := bitOf c.toNat 11
/-- ACCUM. -/
def bAccum (c : BitVec 256) : Bool := bitOf c.toNat 12
/-- MBCAST. -/
def bMbcast (c : BitVec 256) : Bool := bitOf c.toNat 13
/-- SBASE. -/
def bSbase (c : BitVec 256) : Nat := bitsOf c.toNat 16 4
/-- MBASE. -/
def bMbase (c : BitVec 256) : Nat := bitsOf c.toNat 20 4
/-- CWP. -/
def bCwp (c : BitVec 256) : Nat := bitsOf c.toNat 24 4
/-- REGMASK. -/
def bRegmask (c : BitVec 256) : Nat := bitsOf c.toNat 32 16
/-- C0. -/
def bC0 (c : BitVec 256) : Nat := bitsOf c.toNat 128 32
/-- C1. -/
def bC1 (c : BitVec 256) : Nat := bitsOf c.toNat 160 32
/-- TAG. -/
def bTag (c : BitVec 256) : Nat := bitsOf c.toNat 192 32
/-- Elements of a segment. -/
def bSegLen (c : BitVec 256) : Nat := 32 * 2 ^ bSeg c
/-- Elements of a row (R182). -/
def bRowLen (c : BitVec 256) : Nat := if bFp32 c then 256 else 512
/-- Segments of a row (R182). -/
def bSegs (c : BitVec 256) : Nat := bRowLen c / bSegLen c

/-- The reserved bits of a command (R182). -/
def bReserved : Nat :=
  let f (lo w : Nat) : Nat := (2 ^ w - 1) * 2 ^ lo
  f 14 2 + f 28 4 + f 48 16 + f 83 13 + f 108 4 + f 124 4 + f 224 32

/-- A command fails the checks of R185. Of the fields that the operation does not use, only SEG is one of them (log 20). -/
def bBad (c : BitVec 256) : Bool :=
  let op := bOp c
  op == 0 || decide (7 < op) || (c &&& BitVec.ofNat 256 bReserved) != 0 ||
    decide (bRowLen c < bSegLen c) || (op == 4 && bFp32 c) ||
    (bStride c == 0 && decide (1 < bCount c)) || decide (393215 < bRow c (bCount c - 1)) ||
    (op == 4 && !(f32Finite (bC0 c) && (FVal.fin false 0 0).lt (fp32.decode (bC0 c))))

/-! Arrival and report (R185, R196, R201, R202, R209). -/

/-- Report a command to its source: the register path to BSU_CMDST, a descriptor of the queue engine to the engine, the page walker outside the unit (R202, R210). -/
def Dev.bsuReport (d : Dev) (n : Nat) (c : BsuCmd) (st : Status) (done : Nat) : Dev :=
  if c.src = 2 then
    let d := (d.setBit BSU_CMDST.VALID n 0 true).setFld BSU_CMDST.STATUS n 0 st.code
    (d.setFld BSU_CMDST.DONE n 0 done).setFld BSU_CMDST.TAG n 0 (bTag c.cmd)
  else
    match c.owner with
    | some id => d.descReport id n st done
    | none => d.emit (.bsuReport (BitVec.ofNat 8 n).toFin c.src (bTag c.cmd) st done)

/-- Put a command into the queue in its place in the order of arrival. -/
def bqInsert (c : BsuCmd) : List BsuCmd → List BsuCmd
  | [] => [c]
  | x :: t => if c.seq < x.seq then c :: x :: t else x :: bqInsert c t

/-- The place of a command that meets commands of other sources and accesses to its rows in one SCLK: ahead of the oldest of them where it wins both ties, else last (R203). -/
def Dev.arrPlace2 (d : Dev) (n src : Nat) (others rows : List (Nat × Nat)) : Nat × Dev :=
  let s := d.slice n
  let last (d : Dev) : Nat × Dev := (s.seq, d.setSlice n { s with seq := s.seq + 1 })
  match d.tie (arbKey 16 n) (src :: (others.map (·.1)).dedup) with
  | none => last d
  | some (v, d) =>
    match d.tie (arbKey 1 n) (3 :: (rows.map (·.1)).dedup), oldest id ((others ++ rows).map (·.2)) with
    | some (w, d), some k => if v = src ∧ w = 3 then (k, d.setSlice n (s.gap k)) else last d
    | _, _ => last d

/-- A command reaches the controller with room in its queue: checked, then queued, but answered with FENCED_UNIT once entry to self-refresh has begun; in one SCLK R29 orders it against accesses to its rows, and against commands of other sources (R185, R196, R203). -/
def Dev.bsuAccept (d : Dev) (n : Nat) (c : BsuCmd) : Dev :=
  let s := d.slice n
  if s.resetting then d.bsuReport n c .resetAbort 0
  else if s.srAt.isSome || s.srWanted then d.bsuReport n c .fencedUnit 0
  else if bBad c.cmd then (d.bsuErr n BSU_ERR.BAD_CMD (bFirst c.cmd)).bsuReport n c .badDescriptor 0
  else
    let others := (s.bq.filter fun e => e.arr == d.ns && e.src != c.src && e.started.isEmpty).map fun e => (e.src.val, e.seq)
    let rows := ((List.range (bCount c.cmd)).flatMap fun i => s.rivals d.ns (bRow c.cmd i)).filter fun p => p.1 != 3
    let (k, d) :=
      if others = [] then d.arrPlace n (arbKey 1 n) 3 rows
      else if rows = [] then d.arrPlace n (arbKey 16 n) c.src others
      else d.arrPlace2 n c.src others rows
    let s := d.slice n
    d.setSlice n { s with bq := bqInsert { c with seq := k, arr := d.ns } s.bq }

/-- The queue is full (R196). -/
def Slice.bsuFull (s : Slice) : Bool := decide (16 ≤ s.bq.length)

/-- A register-path command is queued or in progress (R210). -/
def Slice.bsuPending (s : Slice) : Bool := s.bq.any (fun c => c.src == 2)

/-- Deliver a command from a source (R196, R209). -/
def Dev.bsuDeliver (d : Dev) (n : Nat) (src : Fin 3) (owner : Option Nat) (cmd : BitVec 256) : Dev :=
  let s := d.slice n
  let c : BsuCmd := ⟨src, owner, cmd, d.ns, 0, [], none, d.ns⟩
  if src = 2 ∧ (s.bsuFull ∨ s.bsuPending) then d.setBit BSU_CMDST.LOST n 0 true
  else if s.bsuFull then d.setSlice n { s with bqHeld := s.bqHeld ++ [c] }
  else d.bsuAccept n c

/-- The router delivers commands it holds while the queue has room (R196). -/
def Dev.bsuRefill (d : Dev) (n : Nat) : Nat → Dev
  | 0 => d
  | fuel + 1 =>
    let s := d.slice n
    match s.bqHeld with
    | c :: t => if s.bsuFull then d else ((d.setSlice n { s with bqHeld := t }).bsuAccept n c).bsuRefill n fuel
    | [] => d

/-- The router delivers what it holds. -/
def Dev.bsuNext (d : Dev) (n : Nat) : Dev := d.bsuRefill n (d.slice n).bqHeld.length

/-! Starts (R187, R188). -/

/-- Start target i of the command numbered seq: the unit's latch takes the operation, which arrives 2 SCLK later; the mode of R190 holds again (R183, R190, R193). -/
def Dev.bsuStartOne (d : Dev) (n seq i : Nat) : Dev :=
  let s := d.slice n
  match s.bq.find? fun c => c.seq == seq with
  | none => d
  | some c =>
    let b := rowBank (bRow c.cmd i)
    let s := s.setUnit b { s.unit b with latch := some ⟨bRow c.cmd i, seq, i, bOp c.cmd, d.ns + 2 + bBusy (bOp c.cmd), false⟩, last := (s.unit b).latch }
    (d.setSlice n { s with resume := false, bq := s.bq.map fun e => if e.seq = seq then { e with started := e.started ++ [i], lastStart := d.ns } else e }).pmcCore n 0x0E 1

/-- Start further ready targets of the command in the same layer, up to `room` of them (R188). -/
def Dev.bsuStartMore (d : Dev) (n seq layer : Nat) : List Nat → Nat → Dev
  | [], _ => d
  | _, 0 => d
  | i :: t, room + 1 =>
    match (d.slice n).bq.find? fun c => c.seq == seq with
    | none => d
    | some c =>
      let row := bRow c.cmd i
      let act := (d.slice n).activeAt (d.ns + 2)
      let fits := bOp c.cmd == 0x07 || (decide (act.length < d.hurdle n) &&
        decide ((act.filter fun b => b / 16 == rowLayer row).length < d.hurdleLayer n))
      if rowLayer row = layer ∧ d.targetReady n c i ∧ fits then (d.bsuStartOne n seq i).bsuStartMore n seq layer t room
      else d.bsuStartMore n seq layer t (room + 1)

/-- BSU_START: the row slot goes to a start, of up to H4 targets of one command in one layer (R187, R188). -/
def Dev.bsuStart (d : Dev) (n : Nat) : Dev :=
  match d.rowSlot n with
  | (.start seq i, d) =>
    let s := d.slice n
    match s.bq.find? fun c => c.seq == seq with
    | none => d
    | some c =>
      let room := d.hurdleLayer n - 1
      let d := (d.setSlice n { s with lastSlot := some d.ns }).bsuStartOne n seq i
      d.bsuStartMore n seq (rowLayer (bRow c.cmd i)) (List.range (bCount c.cmd)) room
  | _ => d

/-! The operations (R183, R184, R198). -/

/-- The words of a row as FP32 codes: BF16 elements are widened exactly (R92). -/
def bElems (fp : Bool) : List Byte → List Nat
  | a :: b :: c :: e :: t =>
    if fp then ofBytes [a, b, c, e] :: bElems fp t else ofBytes [a, b] * 65536 :: ofBytes [c, e] * 65536 :: bElems fp t
  | _ => []

/-- An FP32 code written in TYPE (R92). -/
def bPut (fp : Bool) (x : Nat) : List Byte := if fp then toBytes 4 x else toBytes 2 (bf16.encode (fp32.decode x))

/-- A BF16 element as EXPS writes it: FP32 code of 2^(C0 × (x − m)) rounded to BF16 (R184). -/
def bExp (c0 m x : Nat) : Nat :=
  let bad (v : Nat) : Bool :=
    match fp32.decode v with
    | .nan => true
    | .inf neg => !neg
    | _ => false
  if fp32.decode m = .inf true then 0
  else if f32Finite m && fp32.decode x == .inf true then 0
  else if bad x || bad m then 0x7FC00000
  else bf16.encode (fp32.decode (f32Exp2 false Config.bsuExp2Ulp (f32Mul c0 (f32Sub x m)))) * 65536

/-- Fold a list with its first element as the start. -/
def foldFirst (f : Nat → Nat → Nat) : List Nat → Nat
  | [] => 0
  | x :: t => t.foldl f x

/-- Segment s of a row's elements. -/
def bSegOf (c : BitVec 256) (els : List Nat) (s : Nat) : List Nat := (els.drop (s * bSegLen c)).take (bSegLen c)

/-- Codewords of segment s, first and one past the last. -/
def bSegCws (c : BitVec 256) (s : Nat) : Nat × Nat :=
  let n := bSegLen c / (if bFp32 c then 8 else 16)
  (s * n, (s + 1) * n)

/-- Some codeword of segment s failed. -/
def bSegBad (c : BitVec 256) (bad : List Bool) (s : Nat) : Bool :=
  ((bad.take (bSegCws c s).2).drop (bSegCws c s).1).any id

/-- Put a result with its poison bit into a register. -/
def BankUnit.put (u : BankUnit) (r : Nat) (v : Nat) (p : Bool) : BankUnit :=
  let m := BitVec.ofNat 16 (2 ^ r)
  { u with sv := u.sv.set r (if p then 0 else BitVec.ofNat 32 v), svPoison := if p then u.svPoison ||| m else u.svPoison &&& ~~~m }

/-- The value of a register. -/
def BankUnit.val (u : BankUnit) (r : Nat) : Nat := (u.sv.getD r 0).toNat
/-- Whether a register is poisoned. -/
def BankUnit.poisoned (u : BankUnit) (r : Nat) : Bool := u.svPoison.getLsbD r

/-- What an operation on one row leaves: the unit, the codewords written, whether any output is poisoned, and its failures in order. -/
structure BankOut where
  unit : BankUnit
  cws : List (Nat × List PByte)
  poisonOut : Bool
  fails : List Status
  deriving DecidableEq, Repr, Inhabited

/-- Codewords of a row from its bytes, poisoned where marked. -/
def bRowCws (bytes : List Byte) (bad : List Bool) : List (Nat × List PByte) :=
  (List.range 32).map fun w =>
    (w, if bad.getD w false then poisonBytes 32 else ((bytes.drop (32 * w)).take 32).map fun b => ⟨b, false⟩)

/-- Write the result of segment s: folded into the register under ACCUM; a poisoned segment, or a poisoned register folded into, gives poison (R183, R198). -/
def BankUnit.result (u : BankUnit) (c : BitVec 256) (s v : Nat) (bad : Bool) (fold : Nat → Nat → Nat) : BankUnit :=
  let r := (bSbase c + s) % 16
  if bAccum c then u.put r (fold (u.val r) v) (bad || u.poisoned r) else u.put r v bad

/-- FILL (R183). -/
def bankFill (u : BankUnit) (c : BitVec 256) : BankOut :=
  ⟨u, bRowCws ((List.replicate 256 (toBytes 4 (bC0 c))).flatten) [], false, []⟩

/-- RMAX and RSUM: one result per segment (R183, R184). -/
def bankReduce (f : Nat → Nat → Nat) (u : BankUnit) (c : BitVec 256) (els : List Nat) (bad : List Bool) (fails : List Status) : BankOut :=
  let u' := (List.range (bSegs c)).foldl (fun u s => u.result c s (foldFirst f (bSegOf c els s)) (bSegBad c bad s) f) u
  ⟨u', [], (List.range (bSegs c)).any fun s => u'.poisoned ((bSbase c + s) % 16), fails⟩

/-- The operand of segment s, and whether it is poisoned (R182). -/
def BankUnit.operand (u : BankUnit) (c : BitVec 256) (s : Nat) : Nat × Bool :=
  if bMbcast c then (bC1 c, false) else (u.val ((bMbase c + s) % 16), u.poisoned ((bMbase c + s) % 16))

/-- Codewords poisoned in the output: input failed or the segment's operand is poisoned (R198). -/
def bankBadOut (u : BankUnit) (c : BitVec 256) (bad : List Bool) : List Bool :=
  (List.range 32).map fun w =>
    bad.getD w false || (List.range (bSegs c)).any fun s =>
      (u.operand c s).2 && decide ((bSegCws c s).1 ≤ w) && decide (w < (bSegCws c s).2)

/-- The failures with POISON_READ after them when an operand register is poisoned (R198). -/
def bankOpFails (u : BankUnit) (c : BitVec 256) (fails : List Status) : List Status :=
  if (List.range (bSegs c)).any fun s => (u.operand c s).2 then fails ++ [.poisonRead] else fails

/-- EXPS (R183, R184). -/
def bankExps (u : BankUnit) (c : BitVec 256) (els : List Nat) (bad : List Bool) (fails : List Status) : BankOut :=
  let ys := (List.range (bSegs c)).map fun s => (bSegOf c els s).map fun x => bExp (bC0 c) (u.operand c s).1 x
  let badOut := bankBadOut u c bad
  let u' := (List.range (bSegs c)).foldl
    (fun v s => v.result c s (foldFirst f32Add (ys.getD s [])) (bSegBad c bad s || (u.operand c s).2) f32Add) u
  ⟨u', bRowCws (ys.flatten.flatMap fun y => toBytes 2 (y / 65536)) badOut,
   badOut.any id || (List.range (bSegs c)).any (fun s => u'.poisoned ((bSbase c + s) % 16)), bankOpFails u c fails⟩

/-- SCALE (R183, R184). -/
def bankScale (u : BankUnit) (c : BitVec 256) (els : List Nat) (bad : List Bool) (fails : List Status) : BankOut :=
  let ys := (List.range (bSegs c)).flatMap fun s => (bSegOf c els s).map fun x => f32Mul x (u.operand c s).1
  let badOut := bankBadOut u c bad
  ⟨u, bRowCws (ys.flatMap fun y => bPut (bFp32 c) y) badOut, badOut.any id, bankOpFails u c fails⟩

/-- SVWR: registers 8 × half onward into a codeword; a poisoned register poisons it (R183, R198). -/
def bankSvwr (u : BankUnit) (c : BitVec 256) : BankOut :=
  let half (h : Nat) : List PByte :=
    let rs := (List.range 8).map (· + 8 * h)
    if rs.any u.poisoned then poisonBytes 32 else rs.flatMap fun r => toPBytes 4 (u.val r)
  let p := u.svPoison != 0
  ⟨u, [(2 * bCwp c, half 0), (2 * bCwp c + 1, half 1)], p, if p then [.poisonRead] else []⟩

/-- SVSET (R183). -/
def bankSvset (u : BankUnit) (c : BitVec 256) : BankOut :=
  ⟨(List.range 16).foldl (fun v r => if bitOf (bRegmask c) r then v.put r (bC0 c) false else v) u, [], false, []⟩

/-- The 32 codewords of a row as the unit decodes them (R197). -/
def Dev.bankRow (d : Dev) (n row : Nat) : List (CwClass × List PByte) := (List.range 32).map fun w => d.readCw (rowCw n row w) []

/-- Carry out an operation on its row. -/
def Dev.bankRun (d : Dev) (n row : Nat) (u : BankUnit) (c : BitVec 256) : BankOut :=
  let cws := d.bankRow n row
  let els := bElems (bFp32 c) (cws.flatMap fun p => p.2.map (·.v))
  let bad := cws.map fun p => !p.1.status.isOk
  let fails := (cws.map fun p => p.1.status).filter fun st => !st.isOk
  match bOp c with
  | 0x01 => bankFill u c
  | 0x02 => bankReduce f32Max u c els bad fails
  | 0x03 => bankReduce f32Add u c els bad fails
  | 0x04 => bankExps u c els bad fails
  | 0x05 => bankScale u c els bad fails
  | 0x06 => bankSvwr u c
  | _ => bankSvset u c

/-- Whether an operation reads its row. -/
def bReads (op : Nat) : Bool := decide (2 ≤ op) && decide (op ≤ 5)

/-- Code events of the row read: corrected codewords count in CORR, all go to the logging tables, none to the detector (R197). -/
def Dev.bankEvents (d : Dev) (n row : Nat) : Dev :=
  (List.range 32).foldl (fun e w =>
    let cls := (d.readCw (rowCw n row w) []).1
    let e := e.eccEvent 1 n (rowCw n row w) cls
    match cls with
    | .corr _ => e.count BSU_COUNT.CORR n 0 1
    | _ => e) d

/-- Record the failures of a target: each kind once in BSU_ERR (R198). -/
def Dev.bankFails (d : Dev) (n row : Nat) (fails : List Status) : Dev :=
  fails.dedup.foldl (fun e st =>
    match st with
    | .uncorr => e.bsuErr n BSU_ERR.IN_UNCORR row
    | .addrMismatch => e.bsuErr n BSU_ERR.ADDR_MISMATCH row
    | _ => e.bsuErr n BSU_ERR.IN_POISON row) d

/-- The failure of the lowest failing target stands (R198). -/
def BsuCmd.failed (c : BsuCmd) (target : Nat) (fails : List Status) : BsuCmd :=
  match fails with
  | [] => c
  | st :: _ =>
    match c.fail with
    | some (j, _) => if target < j then { c with fail := some (target, st) } else c
    | none => { c with fail := some (target, st) }

/-- Put what an operation leaves: registers, codewords, flags, failure (R183, R198, R207). -/
def Dev.bankPut (d : Dev) (n b : Nat) (l : OpLatch) (o : BankOut) : Dev :=
  let d := o.cws.foldl (fun e p => e.putCw (rowCw n l.row p.1) p.2) d
  let d := if o.poisonOut then
      d.setBits BSU_BANKFLAG.FLAG n (b / 64) (2 ^ (b % 64)) else d
  let d := (d.bankFails n l.row o.fails).count BSU_COUNT.OPS n 0 1
  let s := d.slice n
  let s := s.setUnit b { o.unit with latch := some { l with done := true } }
  d.setSlice n { s with bq := s.bq.map fun c => if c.seq = l.cmdSeq then c.failed l.target o.fails else c }

/-- The operation latched in the unit of bank b is carried out. -/
def Dev.bankNow (d : Dev) (n b : Nat) : Dev :=
  let s := d.slice n
  match (s.unit b).latch with
  | none => d
  | some l =>
    match if l.done then none else s.bq.find? fun c => c.seq == l.cmdSeq with
    | none => d
    | some c =>
      let o := d.bankRun n l.row (s.unit b) c.cmd
      (if bReads l.op then d.bankEvents n l.row else d).bankPut n b l o

/-- The operation latched in the unit of bank b is `op` and has arrived: it is carried out. -/
def Dev.bankOp (d : Dev) (n b op : Nat) : Dev :=
  match ((d.slice n).unit b).latch with
  | none => d
  | some l => if l.op = op ∧ l.endAt ≤ d.ns + bBusy op then d.bankNow n b else d

/-! Completion, stalls and resets (R199, R201, R202). -/

/-- Every started target of a command has ended its busy window. -/
def Slice.bsuEnded (s : Slice) (c : BsuCmd) (ns : Nat) : Bool :=
  let ended (l : OpLatch) : Bool := l.cmdSeq != c.seq || (l.done && decide (l.endAt ≤ ns))
  s.units.all fun p => p.2.latch.all ended && p.2.last.all ended

/-- Remove a command and the ended operations of its units. -/
def Slice.bsuDrop (s : Slice) (seq : Nat) : Slice :=
  { s with bq := s.bq.filter fun c => c.seq != seq }

/-- BSU_COMPLETE: the oldest command whose targets have all been started and have ended reports (R202). -/
def Dev.bsuComplete (d : Dev) (n : Nat) : Dev :=
  let s := d.slice n
  match s.bq.find? fun c => c.started.length == bCount c.cmd && s.bsuEnded c d.ns with
  | none => d
  | some c =>
    let st := match c.fail with | some (_, st) => st | none => .ok
    ((d.setSlice n (s.bsuDrop c.seq)).bsuReport n c st (bCount c.cmd)).bsuNext n

/-- Since when HOLD or band T3 has halted starts: the beginning of the present halt (R199). -/
def Dev.haltSince (d : Dev) (n : Nat) : Option Nat :=
  let t3 := (d.slice n).haltAt
  if d.held then some (match t3 with | some t => min t d.therm.holdAt | none => d.therm.holdAt) else t3

/-- STALL_LIMIT_EXPIRE: a command that could not start for STALL_LIMIT ms of one halt completes with THERMAL_HOLD (R199). -/
def Dev.bsuStall (d : Dev) (n : Nat) : Dev :=
  let s := d.slice n
  let lim := d.fld BSU_CFG.STALL_LIMIT n 0 * 1000000
  match d.haltSince n with
  | none => d
  | some h =>
    match s.bq.find? fun c => lim != 0 && decide (max (max c.arr c.lastStart) h + lim ≤ d.ns) && s.bsuEnded c d.ns &&
        c.started.length != bCount c.cmd with
    | none => d
    | some c =>
      let d := (d.setSlice n (s.bsuDrop c.seq)).bsuErr n BSU_ERR.STALLED (bFirst c.cmd)
      (d.bsuReport n c .thermalHold c.started.length).bsuNext n

/-- A die reset: every active operation completes, then every command with RESET_ABORT and its targets done (R201). -/
def Dev.bsuAbort (d : Dev) (n : Nat) : Dev :=
  let d := (d.slice n).units.foldl (fun d p => d.bankNow n p.1) d
  let s := d.slice n
  let all := s.bq ++ s.bqHeld
  all.foldl (fun e c => e.bsuReport n c .resetAbort c.started.length) (d.setSlice n { s with bq := [], bqHeld := [] })

/-- The register path: register i takes bytes 8i to 8i + 7; the last delivers the command (R209). -/
def Dev.bsuRegWrite (d : Dev) (n i : Nat) (v : BitVec 64) : Dev :=
  let s := d.slice n
  let ws := s.cmdBytes.set i v
  let d := d.setSlice n { s with cmdBytes := ws }
  if i = 3 then
    d.bsuDeliver n 2 none (BitVec.ofNat 256 (ws.foldr (fun (w : BitVec 64) acc => w.toNat + 2 ^ 64 * acc) 0))
  else d

/-! Carrying out what a slice holds, in its order of arrival, as HALT has it (R164, R411). -/

/-- A piece of pending work: a request of NET or ROW, a WB entry, a row opened for a write, an operation on a target. -/
inductive SlcItem where
  | net (e : NetEnt)
  | row (e : RowEnt)
  | wb (w : WbEnt)
  | open' (o : OpenRow)
  | op (c : BsuCmd) (i : Nat)
  deriving DecidableEq, Repr, Inhabited

/-- Targets of a command that have been started and whose operation has yet to be carried out. -/
def Slice.todo (s : Slice) (c : BsuCmd) : List Nat :=
  (List.range (bCount c.cmd)).filter fun i => (s.unit (rowBank (bRow c.cmd i))).latch.any fun l => l.cmdSeq == c.seq && l.target == i && !l.done

/-- The pending work on the rows that `p` picks, with its place in the order. -/
def Slice.items (s : Slice) (p : Nat → Bool) : List (Nat × SlcItem) :=
  ((s.net.filter fun e => p e.row).map fun e => (e.seq, .net e)) ++ ((s.rowQ.filter fun e => p e.row).map fun e => (e.seq, .row e)) ++
    ((s.wb.filter fun w => p w.row).map fun w => (w.seq, .wb w)) ++
    (s.opens.filterMap fun o => if p o.row then o.write.bind fun w => if w.cws = [] then none else some (w.seq, .open' o) else none) ++
    (s.bq.flatMap fun c => ((s.todo c).filter fun i => p (bRow c.cmd i)).map fun i => (c.seq, .op c i))

/-- Answer a read of `len` bytes at `off` of a row: bytes, status, and the device with the code events of the row move, which takes its slot (R154, R157, R170). -/
def Dev.rowRead (d : Dev) (n row off len : Nat) : List PByte × Status × Dev :=
  let cws := d.rowDecode n row []
  ((rowAnswer cws off len).2, (rowAnswer cws off len).1, (d.rowEvents n row cws).rowBook n row 40)

/-- Write bytes at `off` of a row: the status of what the merge of part codewords met, whose read is a row move of its own before the write's, on the bank held for both (R154, R165, R335). -/
def Dev.rowWrite (d : Dev) (n row off : Nat) (b : List PByte) : Status × Dev :=
  let a := rowAddr n row + off
  let part := d.cwDecode n row [] ((cwsOf a b.length).filterMap fun cw => if 32 * cw < a ∨ a + b.length < 32 * cw + 32 then some (cw % 32) else none)
  let d := if part = [] then d else (d.rowEvents n row (d.rowDecode n row [])).rowBook n row 40
  (part.foldl (fun s c => s.first c.2.1.status) .ok, (d.write a b).rowBook n row 40)

/-- Carry out one piece of pending work. -/
def Dev.slcDo (d : Dev) (n : Nat) (x : SlcItem) : Dev :=
  let s := d.slice n
  match x with
  | .net e =>
    let d := d.setSlice n { s with net := s.net.filter fun f => f.seq != e.seq }
    if e.req.write then
      let (st, d) := d.rowWrite n e.row (e.req.addr % 1024) e.req.data
      d.memReply e.req.src st []
    else
      let (b, st, d) := d.rowRead n e.row (e.req.addr % 1024) e.req.len
      d.memReply e.req.src st b
  | .row e =>
    let (b, st, d) := (d.setSlice n { s with rowQ := s.rowQ.filter fun f => f.seq != e.seq }).rowRead n e.row 0 1024
    d.rowAns n e st b
  | .wb w => ((d.setSlice n { s with wb := s.wb.filter fun v => v.seq != w.seq }).rowBook n w.row 40).wbCommit n w
  | .open' o =>
    let d := d.setSlice n { s with opens := s.opens.map fun p => if p = o then { p with write := p.write.map fun w => { w with cws := [] } } else p }
    (o.write.map fun w => d.wbCommit n w).getD d
  | .op c i => d.bankNow n (rowBank (bRow c.cmd i))

/-- Carry out the pending work on the rows that `p` picks, oldest first. -/
def Dev.slcSettleAux (d : Dev) (n : Nat) (p : Nat → Bool) : Nat → Dev
  | 0 => d
  | fuel + 1 =>
    match oldest (·.1) ((d.slice n).items p) with
    | some x => (d.slcDo n x.2).slcSettleAux n p fuel
    | none => d

/-- Carry out what slice n holds for the rows that `p` picks, in its order of arrival (R164, R195). -/
def Dev.slcSettle (d : Dev) (n : Nat) (p : Nat → Bool) : Dev :=
  d.slcSettleAux n p ((d.slice n).items p).length

/-! Self-refresh and resets (R173, R174, R201). -/

/-- Complete every request the slice and its router hold, and write WB, as HALT has it (R411). -/
def Dev.slcFinish (d : Dev) (n : Nat) : Dev :=
  let s := d.slice n
  let held := s.netHeld.zipIdx.map fun p => { p.1 with seq := s.seq + p.2 }
  let d := (d.setSlice n { s with net := s.net ++ held, netHeld := [], seq := s.seq + held.length }).slcSettle n fun _ => true
  let t := d.slice n
  d.setSlice n { t with opens := [], moves := [] }

/-- A die reset begins: row moves in flight go on and answer their reads, WB stays to be written, other requests are answered with RESET_ABORT, those that the router holds with FENCED_UNIT, ROW is discarded and bank-side work ends (R174, R201). -/
def Dev.slcReset (d : Dev) (n : Nat) : Dev :=
  let s := d.slice n
  let flying (e : NetEnt) : Bool := !e.req.write && s.covered e.row e.seq && !s.writeBefore e.row e.seq
  let d := d.setSlice n { s with net := s.net.filter flying, netHeld := [], rowQ := [], rowGot := [], resetting := true, srWanted := true }
  let d := (s.net.filter fun e => !flying e).foldl (fun d e => d.memReply e.req.src .resetAbort (poisonBytes (if e.req.write then 0 else e.req.len))) d
  let d := s.netHeld.foldl (fun d e => d.memReply e.req.src .fencedUnit (poisonBytes (if e.req.write then 0 else e.req.len))) d
  d.bsuAbort n

/-- Every bank-side operation has ended (R201). -/
def Slice.unitsQuiet (s : Slice) (ns : Nat) : Bool := s.units.all fun p => !s.busyAt p.1 ns

/-- No REFpb is postponed (R173, step 3). -/
def Slice.refreshPaid (s : Slice) : Bool := s.debt.all fun p => decide (p.2 ≤ 0)

/-- The slice holds nothing: every request answered, WB written, no row move in flight, no bank-side command (R173, R201). -/
def Slice.drained (s : Slice) : Bool :=
  s.net.isEmpty && s.netHeld.isEmpty && s.rowQ.isEmpty && s.wb.isEmpty && s.opens.isEmpty && s.moves.isEmpty && s.bq.isEmpty && s.bqHeld.isEmpty

/-- SRE, in a row slot: the slice has finished its requests and written WB, every postponed REFpb has been issued, and it enters self-refresh (R155, R173, R201). -/
def Dev.slcSre (d : Dev) (n : Nat) : Dev :=
  let s := d.slice n
  if s.srWanted ∧ s.drained ∧ s.unitsQuiet d.ns ∧ s.refreshPaid ∧ d.slotOpen n then
    d.setSlice n { s.tookSlot d.ns with debt := [], srAt := some d.ns }
  else d

/-- SRX, in a row slot: after at least tSR the slice leaves self-refresh, issues no ACT for tXS and restarts refresh with nothing postponed; the units' registers read +0 (R155, R173, R181, R190). -/
def Dev.slcSrx (d : Dev) (n : Nat) : Dev :=
  let s := d.slice n
  match s.srAt with
  | some t =>
    if !s.srWanted ∧ t + 1000 ≤ d.ns ∧ !s.slotTaken d.ns then
      d.setSlice n { s.tookSlot d.ns with srAt := none, noActUntil := d.ns + 200, debt := [], units := [], resume := true,
                                          due := (List.range 192).foldl (fun u b => Tbl.set none u b (some (d.ns + b * d.refInterval n / 192))) s.due }
    else d
  | none => d

/-- ROW entries of a core are discarded when its DMA engine drains (R147, R174). -/
def Dev.rowDiscard (d : Dev) (n : Nat) : Dev := d.setSlice n { d.slice n with rowQ := [], rowGot := [] }

/-! Accesses of the block's own engines: each row behind what the slice holds for it, in the next row slot it is left (R154, R157, R164, R195; log 136). -/

/-- Under SB_OFF an access meets a bank within a busy window (R194). -/
def Dev.meetsBusy (d : Dev) (n row : Nat) : Bool := d.bit BSU_CFG.SB_OFF n 0 && (d.slice n).busyAt (rowBank row) d.ns

/-- An engine's access of a row need not wait: nothing of the row waits or moves, no bank-side command has an operation on it to do, its bank's unit is not at work, no refresh of the bank is urgent, and the row path runs (R163, R164, R193, R195). -/
def Dev.rowTurn (d : Dev) (n row : Nat) : Bool :=
  let s := d.slice n
  !(s.net.any fun e => e.row == row) && !(s.rowQ.any fun e => e.row == row) && !(s.wb.any fun w => w.row == row) &&
    !(s.opens.any fun o => o.row == row) && !(s.moves.any fun m => m.row == row) && !s.opBefore row s.seq d.ns &&
    (s.unit (rowBank row)).latch.all (·.done) && decide (Tbl.get 0 s.debt (rowBank row) < 8) &&
    s.mode != .switching && s.swapStep != .stopped && s.srAt.isNone

/-- Read of stack bytes by an engine, row by row: data, status of its first failing codeword. -/
def Dev.stackRows (d : Dev) : Nat → Nat → Nat → List PByte × Status × Dev
  | 0, _, _ => ([], .ok, d)
  | fuel + 1, a, len =>
    if len = 0 then ([], .ok, d)
    else
      let n := stackCore a
      let row := stackRow a
      let k := min len (1024 - a % 1024)
      let (b, st, d) :=
        if d.meetsBusy n row then (poisonBytes k, Status.busyBank, d.violation n row)
        else if d.rowTurn n row then d.rowRead n row (a % 1024) k
        else (poisonBytes k, .poisonRead, { d with waits := d.waits ++ [.turn] })
      let (b', st', d) := d.stackRows fuel (a + k) (len - k)
      (b ++ b', st.first st', d)

/-- Read of stack bytes by an engine. -/
def Dev.stackRead (d : Dev) (a len : Nat) : List PByte × Status × Dev := d.stackRows (len / 1024 + 2) a len

/-- Write of stack bytes by an engine, row by row: the first failure that a merge met (R335); a busy bank under SB_OFF discards its row (R194). -/
def Dev.stackPut (d : Dev) : Nat → Nat → List PByte → Status × Dev
  | 0, _, _ => (.ok, d)
  | _, _, [] => (.ok, d)
  | fuel + 1, a, b =>
    let n := stackCore a
    let row := stackRow a
    let k := 1024 - a % 1024
    let (st, d) :=
      if d.meetsBusy n row then (.ok, d.violation n row)
      else if d.rowTurn n row then d.rowWrite n row (a % 1024) (b.take k)
      else (.ok, { d with waits := d.waits ++ [.turn] })
    let (st', d) := d.stackPut fuel (a + k) (b.drop k)
    (st.first st', d)

/-- Write of stack bytes by an engine. -/
def Dev.stackWrite (d : Dev) (a : Nat) (b : List PByte) : Status × Dev := d.stackPut (b.length / 1024 + 2) a b

/-- A run of the weight channel's own slice as it comes over the row path: each row by a read in ROW; none when one of them has yet to be read (R129, R162). -/
def Dev.rowStream (d : Dev) (n a len : Nat) : List PByte × Status × Dev :=
  let s := d.slice n
  let rows := (List.range ((a % 1024 + len + 1023) / 1024)).map (stackRow a + ·)
  let got := rows.map fun r => s.rowGot.find? fun p => p.1 == r
  if got.all (·.isSome) then
    (((got.flatMap fun g => match g with | some p => p.2.1 | none => []).drop (a % 1024)).take len,
     got.foldl (fun st g => match g with | some p => st.first p.2.2 | none => st) .ok,
     d.setSlice n { s with rowGot := s.rowGot.filter fun p => !rows.contains p.1 })
  else (poisonBytes len, .poisonRead, { d with waits := d.waits ++ (rows.map fun r => Ask.row n r) })

/-- The weight channel asks for a row that is neither there nor on its way. -/
def Dev.rowAsk (d : Dev) (n row : Nat) : Dev :=
  let s := d.slice n
  if (s.rowGot.any fun p => p.1 == row) || (s.rowQ.any fun e => e.own && e.row == row) then d else d.slcRow n row true

/-! The commands. -/

def execSre (core : CoreId) (s : State) : Host.Outcome State Fault Refusal := s.ev fun d => d.slcSre core
def execSrx (core : CoreId) (s : State) : Host.Outcome State Fault Refusal := s.ev fun d => d.slcSrx core

def execBsuCommand (core : CoreId) (source : Fin 3) (cmd : BitVec 256) (s : State) : Host.Outcome State Fault Refusal :=
  s.ev fun d => d.bsuDeliver core source none cmd
def execBsuFill (core : CoreId) (layer : Fin 12) (bank : Fin 16) (s : State) : Host.Outcome State Fault Refusal :=
  s.ev fun d => d.bankOp core (16 * layer.val + bank.val) 0x01
def execBsuRmax (core : CoreId) (layer : Fin 12) (bank : Fin 16) (s : State) : Host.Outcome State Fault Refusal :=
  s.ev fun d => d.bankOp core (16 * layer.val + bank.val) 0x02
def execBsuRsum (core : CoreId) (layer : Fin 12) (bank : Fin 16) (s : State) : Host.Outcome State Fault Refusal :=
  s.ev fun d => d.bankOp core (16 * layer.val + bank.val) 0x03
def execBsuExps (core : CoreId) (layer : Fin 12) (bank : Fin 16) (s : State) : Host.Outcome State Fault Refusal :=
  s.ev fun d => d.bankOp core (16 * layer.val + bank.val) 0x04
def execBsuScale (core : CoreId) (layer : Fin 12) (bank : Fin 16) (s : State) : Host.Outcome State Fault Refusal :=
  s.ev fun d => d.bankOp core (16 * layer.val + bank.val) 0x05
def execBsuSvwr (core : CoreId) (layer : Fin 12) (bank : Fin 16) (s : State) : Host.Outcome State Fault Refusal :=
  s.ev fun d => d.bankOp core (16 * layer.val + bank.val) 0x06
def execBsuSvset (core : CoreId) (layer : Fin 12) (bank : Fin 16) (s : State) : Host.Outcome State Fault Refusal :=
  s.ev fun d => d.bankOp core (16 * layer.val + bank.val) 0x07
def execBsuStart (core : CoreId) (s : State) : Host.Outcome State Fault Refusal := s.ev fun d => d.bsuStart core
def execBsuComplete (core : CoreId) (s : State) : Host.Outcome State Fault Refusal := s.ev fun d => d.bsuComplete core
def execStallLimitExpire (core : CoreId) (s : State) : Host.Outcome State Fault Refusal := s.ev fun d => d.bsuStall core

end Sys2Proof.Machine
end

