-- ==== Sys2Proof/Machine/Gddr.lean ====
section
/-! DEFINITION. Board memory: the channels, their training, the write-combining buffers and accesses (R356 to R376). -/

namespace Sys2Proof.Machine

/-- Base of the GDDR window (R32). -/
def gddrBase : Nat := 0x2000000000

/-- The channels in use (R357). -/
def Dev.gdrChans (d : Dev) : List Nat := (List.range 8).filter fun i => bitOf (d.fld GDR_CFG.CHAN_MASK 0 0) i

/-- Channel of a usable byte (R358). -/
def Dev.gdrChan (d : Dev) (u : Nat) : Nat := d.gdrChans.getD (u / 3840 % d.gdrChans.length) 0
/-- Block within the channel of a usable byte (R358). -/
def Dev.gdrBlk (d : Dev) (u : Nat) : Nat := u / 3840 / d.gdrChans.length
/-- Usable byte at an offset of a block of a channel: the inverse of R358. -/
def Dev.gdrU (d : Dev) (chan blk off : Nat) : Nat :=
  (blk * d.gdrChans.length + d.gdrChans.idxOf chan) * 3840 + off

/-- Where a usable byte lies in its channel (R358). -/
def Dev.gdrData (d : Dev) (u : Nat) : Nat := d.gdrBlk u * 4096 + u % 3840
/-- Where the check bytes of a usable byte's codeword lie in its channel (R358). -/
def Dev.gdrCheck (d : Dev) (u : Nat) : Nat := d.gdrBlk u * 4096 + 3840 + u % 3840 / 256 * 16 + 2 * (u / 32 % 8)
/-- The byte at an address of a channel: data, the check bytes of the block's 120 codewords, and zero in its last 16 (R358). -/
def Dev.gdrRaw (d : Dev) (chan addr : Nat) : Byte :=
  let off := addr % 4096
  if off < 3840 then d.byte (gddrBase + d.gdrU chan (addr / 4096) off)
  else if off < 4080 then
    let key := (gddrBase + d.gdrU chan (addr / 4096) ((off - 3840) / 16 * 256 + 32 * (off % 16 / 2))) / 32
    (hxCheck (d.cwData key) (key % 2 ^ 32) ^^^ Tbl.get 0 d.chk key).extractLsb' (8 * (off % 2)) 8
  else 0

/-- Capacity usable at the configuration in GDR_CFG, in MiB (R356, R358). -/
def Dev.gdrCapacity (d : Dev) : Nat :=
  d.gdrChans.length * (if d.bit GDR_CFG.CLAMSHELL 0 0 then 2 else 1) * (if d.bit GDR_CFG.DENSITY 0 0 then 4096 else 3072) * 15 / 16

/-- A run of usable bytes is backed (R32, R360, R368). -/
def Dev.gdrBacked (d : Dev) (u len : Nat) : Bool := decide (u + len ≤ d.gddr.usableMib * 2 ^ 20)

/-! Training (R360, R361). -/

/-- Channels that CHAN_MASK names and that have devices (R357, R368). -/
def Dev.gdrFitted (d : Dev) : List Nat := d.gdrChans.filter fun c => d.gddr.fitted.getLsbD c

/-- Training begins (R360); with no channel, or no device, there is none (R368). -/
def Dev.gddrTrainBegin (d : Dev) : Dev :=
  { d with gddr := { d.gddr with state := if d.gdrChans = [] ∨ d.gddr.fitted = 0 then .absent else .training, usableMib := 0 } }

/-- Train the channels of CHAN_MASK; `pass` has the bits of the channels that pass. One that has no devices fails, and so does every channel of a mask that R357 does not allow. -/
def Dev.gddrTrain (d : Dev) (pass : Nat) : Dev :=
  let ch := d.gdrChans
  if ch = [] ∨ d.gddr.fitted = 0 then { d with gddr := { d.gddr with state := .absent, usableMib := 0 } }
  else
    let bad := if [1, 2, 4, 8].contains ch.length then ch.filter fun c => !(bitOf pass c && d.gddr.fitted.getLsbD c) else ch
    let d := (List.range 8).foldl (fun e c =>
      (e.setBit GDR_CHAN.TRAINED c 0 (ch.contains c && !bad.contains c)).setBit GDR_CHAN.FAILED c 0 (bad.contains c)) d
    if bad = [] then
      { d with gddr := { d.gddr with state := .ready, usableMib := d.gdrCapacity, failsInRow := [], trainTemp := [],
                                     trainedAt := ch.foldl (fun t c => Tbl.set none t c (some d.ns)) [] } }
    else
      { d with gddr := { d.gddr with state := .disabled, usableMib := 0 } }.gdrErr GDR_ERR.TRAIN_FAIL none

/-! Accesses (R365 to R369). -/

/-- Count and record the code event of a codeword of a channel (R369, R457). -/
def Dev.gdrEvent (d : Dev) (chan cw : Nat) (cls : CwClass) : Dev :=
  let d := d.eccEvent 6 chan cw cls
  let u := 32 * cw - gddrBase
  match cls with
  | .corr _ => d.count GDR_CHAN.CORR chan 0 1
  | .uncorr => (d.count GDR_CHAN.UNCORR chan 0 1).gdrErr GDR_ERR.UNCORR (some u)
  | .addr => d.gdrErr GDR_ERR.ADDR_MISMATCH (some u)
  | _ => d

/-- The buffer of a channel. -/
def Dev.wcbOf (d : Dev) (chan : Nat) : List WcbEnt := Tbl.get [] d.gddr.wcb chan
/-- Replace the buffer of a channel. -/
def Dev.setWcb (d : Dev) (chan : Nat) (l : List WcbEnt) : Dev := { d with gddr := { d.gddr with wcb := Tbl.set [] d.gddr.wcb chan l } }

/-- The bytes an entry holds of codeword w of its block. -/
def WcbEnt.cw (e : WcbEnt) (w : Nat) : List (Option PByte) := (List.range 32).map fun i => Tbl.get none e.bytes (32 * w + i)

/-- Every byte of the 15 sectors is held. -/
def WcbEnt.complete (e : WcbEnt) : Bool := e.bytes.length == 3840

/-- Reads a drain makes: one per codeword held in part, one per check atom of which some codeword is not held whole: its check is read with it, and so are those of codewords not held (R366). -/
def WcbEnt.reads (e : WcbEnt) : Nat :=
  let held (w : Nat) : Nat := ((e.cw w).filter (·.isSome)).length
  let part := ((List.range 120).filter fun w => held w != 0 && held w != 32).length
  let atoms := ((List.range 8).filter fun a =>
    let ws := (List.range 16).filterMap fun i => if 16 * a + i < 120 then some (16 * a + i) else none
    (ws.any fun w => held w != 0) && (ws.any fun w => held w != 32)).length
  part + atoms

/-- Write one codeword of a draining entry: whole, or merged with what memory holds (R366, R369). -/
def Dev.wcbDrainCw (d : Dev) (chan : Nat) (e : WcbEnt) (w : Nat) : Dev :=
  let b := e.cw w
  let key := (gddrBase + d.gdrU chan e.blk (32 * w)) / 32
  if b.all (·.isNone) then d
  else if b.all (·.isSome) then d.putCw key (b.map fun x => x.getD ⟨0, false⟩)
  else
    let (cls, old) := d.readCw key []
    (d.gdrEvent chan key cls).putCw key ((b.zip old).map fun p => p.1.getD p.2)

/-- Drain an entry of a channel's buffer to memory. -/
def Dev.wcbDrainOne (d : Dev) (chan : Nat) (e : WcbEnt) : Dev :=
  let d := (List.range 120).foldl (fun d w => d.wcbDrainCw chan e w) d
  let d := if e.complete then d.count GDR_WCB.FULL 0 0 1 else d.count GDR_WCB.MERGE_READS 0 0 e.reads
  (d.setWcb chan ((d.wcbOf chan).filter fun f => f.blk != e.blk)).pmcDev 0x08 ((e.bytes.length + 63) / 64)

/-- Put bytes into an entry at SCLK `ns`; later bytes replace earlier (R365). -/
def WcbEnt.put (e : WcbEnt) (ns off : Nat) (b : List PByte) : WcbEnt :=
  { e with
    bytes := (b.zipIdx off).foldl (fun t p => Tbl.set none t p.2 (some p.1)) e.bytes
    was := if e.wasAt = ns then e.was else e.bytes
    wasAt := ns }

/-- The byte the buffer holds at a usable offset, if any (R367); `old`: before the writes of this SCLK (R371). -/
def Dev.wcbByte (d : Dev) (old : Bool) (u : Nat) : Option PByte :=
  ((d.wcbOf (d.gdrChan u)).find? fun e => e.blk == d.gdrBlk u).bind fun e =>
    Tbl.get none (if old && e.wasAt == d.ns then e.was else e.bytes) (u % 3840)

/-- Read bytes at a local address of the GDDR window, the buffer's bytes in place of the memory's, with physical errors in the given codewords; a codeword whose bytes the buffer holds is not read (R367, R369). -/
def Dev.gddrReadAt (d : Dev) (old : Bool) (a len : Nat) (flips : List BitFlip) : List PByte × Status × Dev :=
  let held (cw : Nat) : Bool := (List.range 32).all fun i => (d.wcbByte old (32 * cw - gddrBase + i)).isSome
  let cws := (cwsOf a len).map fun cw =>
    let r := d.readCw cw ((flips.filter fun f => f.cw == cw).map fun f => f.bit % 272)
    (cw, if held cw then .clean else r.1, r.2)
  let mem := ((cws.flatMap fun p => p.2.2).drop (a % 32)).take len
  let b := (mem.zipIdx (a - gddrBase)).map fun p => (d.wcbByte old p.2).getD p.1
  (b, cws.foldl (fun s p => s.first p.2.1.status) .ok,
   (cws.foldl (fun e p => e.gdrEvent (d.gdrChan (32 * p.1 - gddrBase)) p.1 p.2.1) d).pmcDev 0x08 ((len + 63) / 64))

/-- Read bytes at a local address of the GDDR window (R367, R369). -/
def Dev.gddrRead (d : Dev) (a len : Nat) (flips : List BitFlip) : List PByte × Status × Dev := d.gddrReadAt false a len flips

/-! The slots of a channel, and its drains (R361, R363, R366). -/

/-- GCLK cycles in 4 ns: 8 at 32 Gb/s, 7, 6 and 5 at the lower rates (R19, R372). -/
def Dev.gclks (d : Dev) : Nat := 8 - d.fld GDR_CFG.RATE 0 0

/-- The first GCLK of this SCLK or after it. -/
def Dev.gclkNow (d : Dev) : Nat := (d.ns * d.gclks + 3) / 4

/-- Channel c issues nothing: it is stopped, or asleep and not woken (R361, R370). -/
def Dev.gdrStopped (d : Dev) (c : Nat) : Bool :=
  decide (d.ns < Tbl.get 0 d.gddr.stopUntil c) || (d.gddr.state == .selfRefresh && !Tbl.get false d.gddr.woken c)

/-- Requests channel c may still issue in this SCLK, one in each GCLK; none while it is stopped (R361, R363). -/
def Dev.gdrSlots (d : Dev) (c : Nat) : Nat :=
  if d.gdrStopped c then 0 else ((d.ns + 1) * d.gclks + 3) / 4 - max d.gclkNow (Tbl.get 0 d.gddr.nextG c)

/-- A request takes the next GCLK of its channel. -/
def Dev.gdrSlot (d : Dev) (c : Nat) : Dev :=
  { d with gddr := { d.gddr with nextG := Tbl.set 0 d.gddr.nextG c (max d.gclkNow (Tbl.get 0 d.gddr.nextG c) + 1) } }

/-- Drains go ahead of READ: the buffer holds 48 entries or more, or a batch of 16 is under way (R363). -/
def Dev.gdrPress (d : Dev) (c : Nat) : Bool :=
  !(d.wcbOf c).isEmpty && (decide (48 ≤ (d.wcbOf c).length) || decide (0 < Tbl.get 0 d.gddr.batch c))

/-- An entry drains in a write slot, one of a batch of 16 where it presses (R363). -/
def Dev.gdrDrain (d : Dev) (c : Nat) (e : WcbEnt) : Dev :=
  let left := Tbl.get 0 d.gddr.batch c
  let left := if left = 0 then (if 48 ≤ (d.wcbOf c).length then 15 else 0) else left - 1
  ({ d with gddr := { d.gddr with batch := Tbl.set 0 d.gddr.batch c left } }.gdrSlot c).wcbDrainOne c e

/-! Reads that wait at a controller (R362, R363, R371). -/

/-- The reads of a controller. -/
def Dev.gdrQueue (d : Dev) (c : Nat) : List GdrReq := Tbl.get [] d.gddr.queue c
/-- Replace the reads of a controller. -/
def Dev.setGdrQueue (d : Dev) (c : Nat) (l : List GdrReq) : Dev := { d with gddr := { d.gddr with queue := Tbl.set [] d.gddr.queue c l } }

/-- The class index of a read (R362). -/
def GdrReq.cls (r : GdrReq) : Nat := if r.crit then 0 else 1

/-- A read covers a sector of a run of usable bytes. -/
def GdrReq.meets (r : GdrReq) (u len : Nat) : Bool :=
  decide (u / 256 ≤ (r.addr - gddrBase + r.len - 1) / 256) && decide ((r.addr - gddrBase) / 256 ≤ (u + len - 1) / 256)

/-- A write to usable bytes arrives: the reads of its sectors that arrived before it take what they read; one of the same SCLK does so where R29 puts it first (R367, R371). -/
def Dev.gdrSnap (d : Dev) (c u len : Nat) : Dev :=
  ((d.gdrQueue c).filter fun r => r.took.isNone && r.meets u len).foldl (fun d r =>
    match if r.arr = d.ns then d.tie (arbKey 17 c) [r.cls, 2] else some (r.cls, d) with
    | some (w, d) =>
      if w = 2 then d
      else
        let (b, st, d) := d.gddrRead r.addr r.len r.flips
        d.setGdrQueue c ((d.gdrQueue c).map fun q => if q = r then { q with took := some (b, st) } else q)
    | none => d) d

/-- A write within one block reaches a controller: merged into the block's entry, or a new one, the oldest draining first when none is free (R365). -/
def Dev.wcbWrite (d : Dev) (chan blk off : Nat) (b : List PByte) : Dev :=
  let d := d.gdrSnap chan (d.gdrU chan blk off) b.length
  let l := d.wcbOf chan
  if l.any fun e => e.blk == blk then d.setWcb chan (l.map fun e => if e.blk = blk then e.put d.ns off b else e)
  else
    let d :=
      match l with
      | e :: _ => if 64 ≤ l.length then d.gdrDrain chan e else d
      | [] => d
    d.setWcb chan (d.wcbOf chan ++ [(⟨blk, d.ns, [], [], d.ns⟩ : WcbEnt).put d.ns off b])

/-- Write usable bytes, block by block (R358, R365). -/
def Dev.gddrPut (d : Dev) : Nat → Nat → List PByte → Dev
  | 0, _, _ => d
  | _, _, [] => d
  | fuel + 1, u, b =>
    let n := 3840 - u % 3840
    (d.wcbWrite (d.gdrChan u) (d.gdrBlk u) (u % 3840) (b.take n)).gddrPut fuel (u + n) (b.drop n)

/-- Write bytes at a local address of the GDDR window. -/
def Dev.gddrWrite (d : Dev) (a : Nat) (b : List PByte) : Dev := d.gddrPut (b.length / 3840 + 2) (a - gddrBase) b

/-- Drain every entry that holds bytes of a range of usable bytes (R366). -/
def Dev.gddrNeed (d : Dev) (u len : Nat) : Dev :=
  d.gdrChans.foldl (fun d c =>
    ((d.wcbOf c).filter fun e => e.bytes.any fun p => decide (u ≤ d.gdrU c e.blk p.1) && decide (d.gdrU c e.blk p.1 < u + len)).foldl
      (fun d e => d.gdrDrain c e) d) d

/-- Drain every buffer (R370). -/
def Dev.gddrDrainAll (d : Dev) : Dev :=
  (List.range 8).foldl (fun d c => (d.wcbOf c).foldl (fun d e => d.wcbDrainOne c e) d) d

/-! The reads of a channel issue (R363, R369, R371). -/

/-- What a channel issues next: CRIT, a pressing drain unless a READ has waited 4 µs, READ; each oldest first (R363). -/
def Dev.gdrPick (d : Dev) (c : Nat) : Option (GdrReq ⊕ WcbEnt) :=
  match (d.gdrQueue c).find? (·.crit), (d.gdrQueue c).head?, d.gdrPress c, (d.wcbOf c).head? with
  | some r, _, _, _ => some (.inl r)
  | none, some r, true, some e => if r.arr + 4000 ≤ d.ns then some (.inl r) else some (.inr e)
  | none, none, true, some e => some (.inr e)
  | none, some r, _, _ => some (.inl r)
  | none, none, _, _ => none

/-- A controller takes reads of a class while it has room: 32 CRIT, 64 READ (R363). -/
def Dev.gdrRoom (d : Dev) (c : Nat) (crit : Bool) : Bool :=
  decide (((d.gdrQueue c).filter fun r => r.crit == crit).length < if crit then 32 else 64)

/-- The link hands over the first read it holds that its controller has room for (R363). -/
def Dev.gdrLink (d : Dev) (c : Nat) : Dev :=
  let l := Tbl.get [] d.gddr.link c
  match l.find? fun r => d.gdrRoom c r.crit with
  | some r =>
    ({ d with gddr := { d.gddr with link := Tbl.set [] d.gddr.link c (l.erase r) } } : Dev).setGdrQueue c (d.gdrQueue c ++ [{ r with arr := d.ns }])
  | none => d

/-- Data of a sector reaches the fill of its line (R217). -/
def Dev.fillGot (d : Dev) (c l s : Nat) (b : List PByte) (st : Status) : Dev :=
  let r := d.region c
  d.setRegion c { r with fills := Tbl.set none r.fills l ((Tbl.get none r.fills l).map fun f =>
    if f.asked.getLsbD s && !f.got.getLsbD s then { f with got := f.got ||| BitVec.ofNat 16 (2 ^ s), data := f.data ++ [(s, b, st)] } else f) }

/-- A read issues: it is checked, and goes to its requester or to the fill it belongs to (R217, R367, R369). -/
def Dev.gdrIssue (d : Dev) (c : Nat) (r : GdrReq) : Dev :=
  let d := (d.setGdrQueue c ((d.gdrQueue c).erase r)).gdrSlot c
  let (b, st, d) := match r.took with | some (b, st) => (b, st, d) | none => d.gddrRead r.addr r.len r.flips
  (match r.own with | some (g, l, s) => d.fillGot g l s b st | none => d.memReply r.src st b).gdrLink c

/-- Issue what this SCLK has slots for (R363). -/
def Dev.gdrServe (d : Dev) (c : Nat) : Nat → Dev
  | 0 => d
  | fuel + 1 =>
    if d.gdrSlots c = 0 then d
    else
      match d.gdrPick c with
      | some (.inl r) => (d.gdrIssue c r).gdrServe c fuel
      | some (.inr e) => (d.gdrDrain c e).gdrServe c fuel
      | none => d

/-- An entry has taken bytes of a read's sectors in this SCLK (R371). -/
def Dev.gdrMet (d : Dev) (c : Nat) (r : GdrReq) : Bool :=
  (d.wcbOf c).any fun e => e.wasAt == d.ns && e.bytes.any fun p => r.meets (d.gdrU c e.blk p.1) 1 && Tbl.get none e.was p.1 != p.2

/-- A read meets a write of the same SCLK to its sectors: where R29 puts it first it takes what was there before (R371). -/
def Dev.gdrFirst (d : Dev) (c : Nat) (r : GdrReq) : GdrReq × Dev :=
  if d.gdrMet c r then
    match d.tie (arbKey 17 c) [r.cls, 2] with
    | some (w, d) =>
      if w = 2 then (r, d)
      else
        let (b, st, d) := d.gddrReadAt true r.addr r.len r.flips
        ({ r with took := some (b, st) }, d)
    | none => (r, d)
  else (r, d)

/-- A read reaches the controller of its channel, or waits at the link while its class has no room; the channel issues what it can (R362, R363). In PARKED it wakes its channel, which takes 1.0 µs (R370). -/
def Dev.gdrArrive (d : Dev) (r : GdrReq) : Dev :=
  let c := d.gdrChan (r.addr - gddrBase)
  let d := if d.gddr.state == .selfRefresh && !Tbl.get false d.gddr.woken c then
      { d with gddr := { d.gddr with woken := Tbl.set false d.gddr.woken c true, stopUntil := Tbl.set 0 d.gddr.stopUntil c (d.ns + 1000) } } else d
  let (r, d) := d.gdrFirst c r
  let l := Tbl.get [] d.gddr.link c
  let d := if d.gdrRoom c r.crit then d.setGdrQueue c (d.gdrQueue c ++ [r]) else { d with gddr := { d.gddr with link := Tbl.set [] d.gddr.link c (l ++ [r]) } }
  d.gdrServe c 2

/-- The class of a request: CRIT for one that came over the CXL port, from its endpoint or numbered by it (R22, R362). -/
def critSrc (src : Nat) : Bool := src == 3 * 512 || decide (65536 ≤ src)

/-- A fill of a sector is asked for at its controller (R217, R362). -/
def Dev.gdrAsk (d : Dev) (c l s : Nat) (crit : Bool) : Dev := d.gdrArrive ⟨4 * c, l * 4096 + 256 * s, 256, crit, [], d.ns, none, some (c, l, s)⟩

/-- A read of a class would issue now at channel c: nothing that goes before it waits (R363). -/
def Dev.gdrTurn (d : Dev) (c : Nat) (crit : Bool) : Bool :=
  !d.gdrStopped c && (if crit then !(d.gdrQueue c).any (·.crit) else (d.gdrQueue c).isEmpty && !d.gdrPress c)

/-- A run of bytes of the GDDR window would be read now (R363). -/
def Dev.gdrTurns (d : Dev) (a len : Nat) (crit : Bool) : Bool :=
  (List.range ((a % 256 + len + 255) / 256)).all fun i => d.gdrTurn (d.gdrChan (a / 256 * 256 + 256 * i - gddrBase)) crit

/-- The reads of a run of bytes take their GCLKs. -/
def Dev.gdrTake (d : Dev) (a len : Nat) : Dev :=
  (List.range ((a % 256 + len + 255) / 256)).foldl (fun d i => d.gdrSlot (d.gdrChan (a / 256 * 256 + 256 * i - gddrBase))) d

/-- What the channels issue in an SCLK in which no command arrives. -/
def Dev.gddrPump (d : Dev) : Dev := (List.range 8).foldl (fun d c => if (d.gdrQueue c).isEmpty && !d.gdrPress c then d else d.gdrServe c 2) d

/-- The data of a line's fill returns: the reads its region waits for issue, and what goes before them (R363). -/
def Dev.gdrFinish (d : Dev) (c l : Nat) : Nat → Dev
  | 0 => d
  | fuel + 1 =>
    match (List.range 8).find? fun k => !d.gdrStopped k && (d.gdrQueue k).any fun r => match r.own with | some (g, m, _) => g == c && m == l | none => false with
    | none => d
    | some k =>
      match d.gdrPick k with
      | some (.inl r) => (d.gdrIssue k r).gdrFinish c l fuel
      | some (.inr e) => (d.gdrDrain k e).gdrFinish c l fuel
      | none => d

/-- BACKGROUND work of a channel may issue: nothing else is ready (R363). -/
def Dev.gdrIdle (d : Dev) (c : Nat) : Bool := d.gdrSlots c != 0 && (d.gdrPick c).isNone

/-- An entry may drain now (R366). An entry that reaches its age takes the writes of that GCLK first (R371). -/
def Dev.wcbMay (d : Dev) (chan : Nat) (e : WcbEnt) (needed : Bool) : Bool :=
  e.complete || decide (e.first + max 1 (d.fld GDR_CFG.WCB_AGE_US 0 0) * 1000 < d.ns) ||
    (decide (48 ≤ (d.wcbOf chan).length) && ((d.wcbOf chan).head?.any fun f => f.blk == e.blk)) || needed

/-- The channel may issue a drain: no read goes ahead of it (R363). -/
def Dev.wcbFree (d : Dev) (chan : Nat) : Bool :=
  d.gdrSlots chan != 0 && match d.gdrPick chan with | some (.inl _) => false | _ => true

/-- WCB_DRAIN: the entry of a block drains if one of the causes of R366 holds and the channel may issue it. -/
def Dev.wcbDrainDo (d : Dev) (chan blk : Nat) (needed : Bool) : Dev :=
  match (d.wcbOf chan).find? fun e => e.blk == blk with
  | some e => if d.wcbMay chan e needed && d.wcbFree chan then d.gdrDrain chan e else d
  | none => d

/-- When the periodic retraining of channel c falls due (R361). -/
def Dev.retrainDue (d : Dev) (c : Nat) : Nat :=
  match Tbl.get none d.gddr.trainedAt c with | some t => t + max 1 (d.fld GDR_CFG.RETRAIN_MS 0 0) * 1000000 | none => 0

/-- The devices of channel c are 5 °C or more from where they last trained (R361). -/
def Dev.retrainMoved (d : Dev) (c : Nat) (temp : Int) : Bool :=
  match Tbl.get none d.gddr.trainTemp c with | some x => decide (5 ≤ (temp - x).natAbs) | none => false

/-- A retraining, BACKGROUND traffic, waits while anything else is ready, until 2 µs after it fell due (R363, R371). -/
def Dev.retrainWaits (d : Dev) (c : Nat) : Bool :=
  !d.gdrStopped c && !(d.gdrPick c).isNone && decide (d.ns < d.retrainDue c + 2000)

/-- A retraining of one channel, due by its period or by temperature or by both at once, stops it: the third failure in a row sets DRIFT and raises a Warning; the channel stays in service (R361, R371). -/
def Dev.gddrRetrainDo (d : Dev) (c : Nat) (temp : Int) (ok : Bool) : Dev :=
  if d.gddr.state ≠ .ready ∨ !d.gdrChans.contains c ∨ !(decide (d.retrainDue c ≤ d.ns) || d.retrainMoved c temp) then d
  else
    let d := d.gdrServe c 2
    if d.retrainWaits c then d
    else
      let d := d.count GDR_CHAN.RETRAINS c 0 1
      let fails := if ok then 0 else Tbl.get 0 d.gddr.failsInRow c + 1
      let d := { d with gddr := { d.gddr with
        failsInRow := Tbl.set 0 d.gddr.failsInRow c (fails % 3)
        trainedAt := Tbl.set none d.gddr.trainedAt c (some d.ns)
        trainTemp := Tbl.set none d.gddr.trainTemp c (some temp)
        stopUntil := Tbl.set 0 d.gddr.stopUntil c (d.ns + 1200) } }
      if fails = 3 then ((d.setBit GDR_CHAN.DRIFT c 0 true).gdrErr GDR_ERR.DRIFT none).event 1 .gddrDrift [c] else d

/-- Refresh of a channel: banks in turn, or all of them at once, which stops the channel for 380 ns (R361). -/
def Dev.gddrRefreshDo (d : Dev) (c : Nat) (all : Bool) : Dev :=
  if !d.gdrChans.contains c then d
  else
    let g := d.gddr
    { d with gddr := { g with
        refreshed := Tbl.set 0 g.refreshed c (Tbl.get 0 g.refreshed c + 1)
        stopUntil := if all then Tbl.set 0 g.stopUntil c (max (Tbl.get 0 g.stopUntil c) (d.ns + 380)) else g.stopUntil } }

/-- A request lies in the backed part of the GDDR window. -/
def Dev.gddrHas (d : Dev) (a len : Nat) : Bool := decide (gddrBase ≤ a) && d.gdrBacked (a - gddrBase) len

/-! The commands. -/

/-- A write of GDR_CFG.RETRY: the channels train again while step 6 has not begun: it neither runs nor has failed (R360). -/
def Dev.gddrRetry (d : Dev) (pass : Nat) : Dev :=
  if d.done = 5 ∧ d.fld STARTER_STATUS.RUNNING 0 0 = 0 ∧ ¬(d.fld STARTER_STATUS.RESULT 0 0 = 3 ∧ d.fld STARTER_STATUS.FAIL_STEP 0 0 = 6) then d.gddrTrain pass else d

def execGddrRetry (_r : Req) (pass : BitVec 8) (s : State) : Host.Outcome State Fault Refusal :=
  s.ev fun d => d.gddrRetry pass.toNat
def execGddrRetrain (at' : ChanTemp) (ok : Bool) (s : State) : Host.Outcome State Fault Refusal :=
  s.ev fun d => d.gddrRetrainDo at'.chan at'.temp ok
def execGddrRefresh (chan : Fin 8) (allBank : Bool) (s : State) : Host.Outcome State Fault Refusal :=
  s.ev fun d => d.gddrRefreshDo chan allBank
/-- A read of the GDDR window reaches its controller, and is issued by class and checked (R362, R363). -/
def execGddrRead (req : MemReq) (crit : Bool) (flips : List BitFlip) (s : State) : Host.Outcome State Fault Refusal :=
  s.ev fun d =>
    if d.gddrHas req.addr req.len then d.gdrArrive ⟨req.src, req.addr, req.len, crit, flips, d.ns, none, none⟩
    else (d.hole req.src req.addr false).emit (.memResp req.src .poisonRead (poisonBytes req.len))
def execGddrWrite (req : MemReq) (s : State) : Host.Outcome State Fault Refusal :=
  s.ev fun d =>
    if d.gddrHas req.addr req.data.length then (d.gddrWrite req.addr req.data).emit (.memResp req.src .ok [])
    else (d.hole req.src req.addr true).emit (.memResp req.src .ok [])
def execWcbDrain (chan : Fin 8) (block : Nat) (needed : Bool) (s : State) : Host.Outcome State Fault Refusal :=
  s.ev fun d => d.wcbDrainDo chan block needed

end Sys2Proof.Machine
end

