-- ==== Sys2Proof/Machine/Windows.lean ====
section
/-! DEFINITION. Fabric windows and the requests the block sends over the port (R325, R327 to R329). -/

namespace Sys2Proof.Machine

/-- Where the local map's kinds of memory begin and end (R32). -/
def scratchBase : Nat := 0x4000000000
/-- One past the scratch window. -/
def scratchEnd : Nat := 0x4080000000
/-- Local stores. -/
def lsBase : Nat := 0x4100000000
/-- One past the local stores. -/
def lsEnd : Nat := 0x4140000000
/-- Batons. -/
def batonBase : Nat := 0x5000000000
/-- One past the batons. -/
def batonEnd : Nat := 0x5000100000
/-- Fabric windows, to the top of the local map. -/
def fabBase : Nat := 0x6000000000
/-- One past the stack. -/
def stackEnd : Nat := 0x1800000000

/-- What a fabric window does with an address (R327). -/
structure WinHit where
  win : Nat
  target : Nat
  host : Bool
  write : Bool
  cache : Bool
  deriving DecidableEq, Repr, Inhabited

/-- Size of window w: codes below 30 act as 30, codes above 52 as 52 (R354). An access uses the windows as they were when its cycle began (R346). -/
def Dev.winSize (d : Dev) (w : Nat) : Nat := 2 ^ max 30 (min 52 (d.begun.fld FAB_WIN_A.LOG2SIZE w 0))

/-- Local base of window w: bits below its size are ignored (R354). -/
def Dev.winBase (d : Dev) (w : Nat) : Nat := d.begun.fld FAB_WIN_A.LBASE w 0 * 2 ^ 30 / d.winSize w * d.winSize w

/-- Window w matches a local address; one whose base lies outside the fabric window region matches none (R327, R354). -/
def Dev.winMatch (d : Dev) (w a : Nat) : Bool :=
  let base := d.winBase w
  d.begun.bit FAB_WIN_A.EN w 0 && decide (fabBase ≤ base) && decide (base ≤ a) && decide (a < base + d.winSize w)

/-- The window that takes a local address: the lowest-numbered that matches (R327). -/
def Dev.window (d : Dev) (a : Nat) : Option WinHit :=
  if a < fabBase then none
  else
    ((List.range 63).find? fun w => d.winMatch w a).map fun w =>
      { win := w
        target := d.begun.fld FAB_WIN_B.TBASE w 0 * 2 ^ 30 + (a - d.winBase w)
        host := d.begun.bit FAB_WIN_A.HOST w 0, write := d.begun.bit FAB_WIN_A.WRITE w 0, cache := d.begun.bit FAB_WIN_A.CACHE w 0 }

/-- A global address whose fabric ID is the device's own, whether or not FID_VALID is set (R34; log 134). -/
def Dev.ownGlobal (d : Dev) (g : Nat) : Bool := g / 2 ^ 52 == d.fld FAB_ID.FID 0 0

/-- The window that maps a local address onto the device itself, with the local address it stands for (R34, R327). -/
def Dev.ownHop (d : Dev) (a : Nat) : Option (WinHit × Nat) :=
  match d.window a with
  | some h => if !h.host && d.ownGlobal h.target then some (h, h.target % 2 ^ 52) else none
  | none => none

/-- The local address at which an access is served: windows onto the device itself are followed; more than 63 of them in a row come back to one already followed, and lead nowhere (R34; log 134). -/
def Dev.ownGo (d : Dev) : Nat → Nat → Nat
  | 0, a => a
  | fuel + 1, a => match d.ownHop a with | some p => d.ownGo fuel p.2 | none => a

/-- The local address at which an access to `a` is served (R34). -/
def Dev.served (d : Dev) (a : Nat) : Nat := d.ownGo 64 a

/-- Some window onto the device itself, on the way to where `a` is served, takes no writes (R327). -/
def Dev.ownRo (d : Dev) : Nat → Nat → Bool
  | 0, _ => false
  | fuel + 1, a => match d.ownHop a with | some p => !p.1.write || d.ownRo fuel p.2 | none => false

/-- A fabric error; FIRST_FID takes the fabric ID of the source when it is the first, for all but WIN_RO (R349). -/
def Dev.fabErr (d : Dev) (bit : Fld) (fid : Option Nat) : Dev :=
  d.raise [FAB_ERR.WIN_RO, FAB_ERR.IN_REFUSED, FAB_ERR.RELAY_CRC, FAB_ERR.RELAY_LATE, FAB_ERR.INBOX_FULL] FAB_ERR.MULTIPLE 0 0 bit
    (match fid with | some f => [(FAB_ERR.FIRST_FID, f)] | none => [])

/-- Issue waiting requests while fewer than 1,024 are outstanding (R329); with the link down nothing leaves the port, and they run into their timeout (R336). -/
def Dev.uioPump (d : Dev) : Dev :=
  let n := (d.uio.filter fun u => u.issued.isSome && u.done.isNone).length
  let new := (d.uio.filter fun u => u.issued.isNone).take (1024 - n)
  let d := { d with uio := d.uio.map fun u : Uio => if new.any fun v => v.tag == u.tag then { u with issued := some d.ns } else u }
  if d.linkOn then new.foldl (fun d u => d.emit (.uio u.tag u.write u.addr u.len u.data)) d else d

/-- Requests that are over leave. -/
def Dev.uioDrop (d : Dev) (p : Uio → Bool) : Dev := Dev.uioPump { d with uio := d.uio.filter fun u => !p u }

/-- Hand over one request of at most 512 B. -/
def Dev.uioPut (d : Dev) (write : Bool) (addr len : Nat) (data : List PByte) (owner : UioOwner) : Dev :=
  { d with uio := d.uio ++ [Uio.mk d.uioTag write addr len data owner none none none], uioTag := d.uioTag + 1 }

/-- Send UIO requests to a global address, 512 B each at most (R314, R327 to R329). -/
def Dev.uioSend (d : Dev) (write : Bool) (addr len : Nat) (data : List PByte) (owner : UioOwner) : Dev :=
  ((List.range ((len + 511) / 512)).foldl (fun d i => d.uioPut write (addr + 512 * i) (min 512 (len - 512 * i)) ((data.drop (512 * i)).take 512) owner) d).uioPump

/-- An access of the event in hand cannot be made yet. -/
def Dev.block (d : Dev) (a : Ask) : Dev := { d with waits := d.waits ++ [a] }

/-- The requests of at most 512 B that a read over the port is made of (R314). -/
def uioPieces (g len : Nat) : List (Nat × Nat) := (List.range ((len + 511) / 512)).map fun i => (g + 512 * i, min 512 (len - 512 * i))

/-- A read over the port by the engine at an endpoint: its data and status once every request of it is over; until then the access waits (R314, R329). -/
def Dev.engRead (d : Dev) (src g len : Nat) : List PByte × Status × Dev :=
  let mine (p : Nat × Nat) (u : Uio) : Bool := u.owner == .eng src && u.addr == p.1 && u.len == p.2 && u.done.isSome
  let us := (uioPieces g len).map fun p => d.uio.find? (mine p)
  if us.all (·.isSome) then
    (us.flatMap fun u => match u with | some x => x.data | none => [],
     us.foldl (fun s u => s.first (match u with | some x => x.done.getD .ok | none => .ok)) .ok,
     { d with uio := d.uio.filter fun u => !us.contains (some u) })
  else (poisonBytes len, .poisonRead, d.block (.uio src g len))

/-- The device may send CXL.cache requests: the link is up with Cache_Enable, and no MAC failure has ended its IDE stream (R325, R331). -/
def Dev.cacheOn (d : Dev) : Bool := d.bit FAB_PORT.CACHE_EN 0 0 && d.fld FAB_PORT.SPEED 0 0 != 0 && d.power != .halt && !d.cfg.ideFailed

/-- Send bytes through a window to another device or the host: discarded with WIN_RO where the window does not allow writes; host memory is written by CXL.cache WrCur, which needs Cache_Enable (R325, R327; log 159). -/
def Dev.winSend (d : Dev) (h : WinHit) (b : List PByte) (owner : UioOwner) : Dev :=
  if !h.write then d.fabErr FAB_ERR.WIN_RO none
  else if h.host then (if d.cacheOn then d.emit (.hostWrite h.target b) else d)
  else d.uioSend true h.target b.length b owner

/-- The home region of a cacheable address (R215). -/
def homeRegion (a : Nat) : Nat :=
  let l := a / 4096
  (l ^^^ (l / 2 ^ 7) ^^^ (l / 2 ^ 14) ^^^ (l / 2 ^ 21) ^^^ (l / 2 ^ 28) ^^^ (l / 2 ^ 35)) % 128

/-- The set of a line (R215). -/
def lineSet (l : Nat) : Nat := l / 128 % 256

/-- A run of bytes is backed board memory or lies in a cacheable window onto another device or the host (R214). -/
def Dev.cacheable (d : Dev) (a len : Nat) : Bool :=
  d.gddrHas a len || (match d.window a with | some h => h.cache && (h.host || !d.ownGlobal h.target) | none => false)

/-- Granule of a scratch address (R212). -/
def scratchGran (a : Nat) : Nat := (a - scratchBase) / 2 ^ 20 % 16
/-- Region of a scratch address (R212). -/
def scratchRegion (a : Nat) : Nat := (a - scratchBase) / 2 ^ 24

/-- A granule of a region is scratch and no change of it is in progress (R212, R213). -/
def Dev.granBacked (d : Dev) (c g : Nat) : Bool :=
  bitOf (d.fld BCR_PART.SCRATCH_MASK c 0) g && !((d.region c).zeroing.getD 0).getLsbD g

/-- Every granule a run of scratch bytes touches is backed (R212). -/
def Dev.scratchBacked (d : Dev) (a len : Nat) : Bool :=
  decide (scratchBase ≤ a) && decide (a + len ≤ scratchEnd) &&
    (List.range ((a % 2 ^ 20 + len + 2 ^ 20 - 1) / 2 ^ 20)).all fun i => d.granBacked (scratchRegion (a + i * 2 ^ 20)) (scratchGran (a + i * 2 ^ 20))

/-- A run of local-store bytes lies in the first 3 MiB of one core's window (R32). -/
def lsBacked (a len : Nat) : Bool :=
  decide (lsBase ≤ a) && decide (a < lsEnd) && decide ((a - lsBase) % 2 ^ 22 + len ≤ 3 * 2 ^ 20)

/-! Endpoints that are reached (R27, R510). -/

/-- The compute endpoints of core n are reached: its domain is ON and it is in service or rejoining. -/
def Dev.lsReach (d : Dev) (n : Nat) : Bool := d.domOn n && (d.fenceState n == 0 || d.fenceState n == 3)
/-- The slice of core n is reached. -/
def Dev.sliceReach (d : Dev) (n : Nat) : Bool := d.domOn (256 + n / 8)
/-- Region c is reached. -/
def Dev.regionReach (d : Dev) (c : Nat) : Bool := d.domOn (290 + c)

/-- A router answers for an endpoint that is not reached (R27). -/
def fencedRead (len : Nat) (d : Dev) : List PByte × Status × Dev := (poisonBytes len, .fencedUnit, d)

/-- A write to this address goes through a window onto another device or the host that allows none (R327). -/
def Dev.roWin (d : Dev) (a : Nat) : Bool := match d.window a with | some h => !h.write && (h.host || !d.ownGlobal h.target) | none => false

end Sys2Proof.Machine
end

