-- ==== Sys2Proof/Machine/Batons.lean ====
section
/-! DEFINITION. Batons: operations, waiters, releases and records (R303 to R309). -/

namespace Sys2Proof.Machine

/-! Ends of commands and descriptors. -/

/-- A unit finishes a tile command with a status (R105). -/
def Dev.cmdDone (d : Dev) (n id : Nat) (st : Status) : Dev :=
  let c := d.core n
  match c.prog with
  | none => d
  | some p =>
    d.setCore n { c with prog := some { p with issued := p.issued.map fun i => if i.cmd.id = id ∧ i.done = none then { i with done := some st } else i } }

/-- Put a value into the post queue of a core, which holds 8; nothing when it is full (R113). -/
def Dev.postPut (d : Dev) (n : Nat) (v : BitVec 32) : Option Dev :=
  let c := d.core n
  if c.postQ.length < 8 then some (d.setCore n { c with postQ := c.postQ ++ [v] }) else none

/-! The unit. -/

/-- VALUE of baton b. -/
def Dev.baton (d : Dev) (b : Nat) : BitVec 32 := Tbl.get 0 d.btnVal b
/-- Set VALUE. -/
def Dev.setBaton (d : Dev) (b : Nat) (v : Nat) : Dev := { d with btnVal := Tbl.set 0 d.btnVal b (BitVec.ofNat 32 v) }
/-- The region that holds baton b (R303). -/
def batonRegion (b : Nat) : Nat := b / 128
/-- Operations waiting at a region. -/
def Dev.bq (d : Dev) (c : Nat) : List BtnOp := Tbl.get [] d.btnQ c
/-- Replace them. -/
def Dev.setBq (d : Dev) (c : Nat) (l : List BtnOp) : Dev := { d with btnQ := Tbl.set [] d.btnQ c l }
/-- Registered waiters of a region. -/
def Dev.bw (d : Dev) (c : Nat) : List BtnOp := Tbl.get [] d.btnW c
/-- Replace them. -/
def Dev.setBw (d : Dev) (c : Nat) (l : List BtnOp) : Dev := { d with btnW := Tbl.set [] d.btnW c l }

/-- A baton error (R312). -/
def Dev.btnErr (d : Dev) (bit : Fld) (b : Nat) : Dev :=
  d.raise [BTN_ERR.BADACC, BTN_ERR.WAIT_FULL, BTN_ERR.UNCORR] BTN_ERR.MULTIPLE 0 0 bit [(BTN_ERR.FIRST_BATON, b)]

/-- Position of column c, its x (R15). -/
def colX (c : Nat) : Nat := 4 * (c / 8 % 4) + c % 8 % 4
/-- Position of column c, its y (R15). -/
def colY (c : Nat) : Nat := 2 * (c / 8 / 4) + c % 8 / 4

/-- The input port of the stop at (x, y) by which X-then-Y routing brings a packet from (x0, y0) (R24, R31). -/
def meshPort (x0 y0 x y : Nat) : Nat := if y0 < y then 3 else if y < y0 then 5 else if x < x0 then 4 else 6

/-- Input port for an operation of core n at the stop of region c: down its own column, then over the base mesh (R24, R31, R305). -/
def corePort (n c : Nat) : Nat :=
  if n % 128 = c then (if n < 128 then 7 else 8) else meshPort (colX (n % 128)) (colY (n % 128)) (colX c) (colY c)

/-- Input port for a request of the I/O die: over the link at the x = 15 stop of the region's row (R24, R305). -/
def ioPort (c : Nat) : Nat := if colX c = 15 then 9 else meshPort 15 (colY c) (colX c) (colY c)

/-- Input port at the stop of region c for a packet of an endpoint: by its own column from a compute die, from another region, or over the link (R22, R24, R31). -/
def srcPort (src c : Nat) : Nat :=
  let s := src % 2048
  let u := s % 32
  let col := if s / 512 = 0 then s / 4 else s % 512 / 32 * 8 + if u < 16 then u % 8 else 0
  if s / 512 = 3 then ioPort c
  else if col = c then (if s / 512 = 1 then 7 else if s / 512 = 2 then 8 else 0)
  else meshPort (colX col) (colY col) (colX c) (colY c)

/-- VALUE satisfies a WAIT or HANDOFF for v (R304). -/
def btnMet (k : BtnKind) (value v : Nat) : Bool :=
  match k with
  | .handoff => value == v % 2 ^ 32
  | _ => decide ((value + 2 ^ 32 - v % 2 ^ 32) % 2 ^ 32 < 2 ^ 31)

/-- An access of a record is answered (R303, R330). -/
def Dev.btnReply (d : Dev) (src : BtnSrc) (st : Status) (data : List PByte) : Dev :=
  match src with
  | .mem s => d.memReply s st data
  | .uio fid => d.emit (.uioResp fid .ok data)
  | _ => d

/-- Acknowledge an operation: a tile program's SET puts the old value in the post queue first, a descriptor ends with RESULT; a SET by a store of the record completes as an ordinary write (R304, R306, R309). -/
def Dev.btnAck (d : Dev) (o : BtnOp) (st : Status) (detail value : Nat) : Dev :=
  match o.src with
  | .desc id => d.descDone id st detail value
  | .mem _ | .uio _ => d.btnReply o.src (if o.kind = .set then .ok else st) []
  | .tile n id =>
    if o.kind = .set then
      match d.postPut n (BitVec.ofNat 32 value) with
      | some d' => d'.cmdDone n id st
      | none => d.setCore n { d.core n with swapAck := some (id, BitVec.ofNat 32 value, st) }
    else d.cmdDone n id st

/-- Count an operation or release (R313). -/
def Dev.btnOps (d : Dev) (c : Nat) : Dev := d.count BTN_REGION.OPS c 0 1

/-- The oldest registration of a region that VALUE satisfies (R305). -/
def Dev.btnSat (d : Dev) (c : Nat) : Option BtnOp := (d.bw c).find? fun o => !d.btnBad.contains o.baton && btnMet o.kind (d.baton o.baton).toNat o.v

/-- Acknowledge a satisfied WAIT or HANDOFF; a HANDOFF increments VALUE (R304). -/
def Dev.btnGrant (d : Dev) (o : BtnOp) : Dev :=
  let d := if o.kind = .handoff then d.setBaton o.baton ((d.baton o.baton).toNat + 1) else d
  d.btnAck o .ok 0 (d.baton o.baton).toNat

/-- BATON_RELEASE: one release (R305). -/
def Dev.btnRelease (d : Dev) (c : Nat) : Dev :=
  match d.btnSat c with
  | some o => ((d.setBw c ((d.bw c).erase o)).btnOps c).btnGrant o
  | none => d

/-- An access meets a baton whose state is uncorrectable (R309, R454). -/
def Dev.btnUncorr (d : Dev) (b : Nat) : Dev :=
  (d.btnErr BTN_ERR.UNCORR b).eccEvent 7 (batonRegion b) ((batonBase + 64 * b) / 32) .uncorr

/-- An operation on a baton whose state is uncorrectable (R309). -/
def Dev.btnBadOp (d : Dev) (o : BtnOp) : Dev :=
  let d := d.btnUncorr o.baton
  match o.kind with
  | .set => (({ d with btnBad := d.btnBad.filter (· != o.baton) }).setBaton o.baton o.v).btnAck o .uncorr 0 0
  | _ => d.btnAck o .uncorr 0 0

/-- The 8 bytes a load of offset 0x00 or 0x08 returns: VALUE and the count of registered waiters (R303). -/
def Dev.btnWord (d : Dev) (b : Nat) : Nat := (d.baton b).toNat + 2 ^ 32 * ((d.bw (batonRegion b)).filter fun o => o.baton == b).length

/-- What a valid load of VALUE returns (R303, R309). -/
def Dev.btnData (d : Dev) (b off size : Nat) : List PByte × Status × Dev :=
  if d.btnBad.contains b then (poisonBytes size, .uncorr, d.btnUncorr b)
  else ((toPBytes 8 (d.btnWord b)).drop (off % 8) |>.take size, .ok, d)

/-- Perform one operation (R304, R306); a store that carries poison leaves the baton's state poison (R322). -/
def Dev.btnPerform (d : Dev) (o : BtnOp) : Dev :=
  let c := batonRegion o.baton
  let old := (d.baton o.baton).toNat
  let d := d.btnOps c
  if o.poison then (if d.btnBad.contains o.baton then d else { d with btnBad := d.btnBad ++ [o.baton] }).btnAck o .ok 0 0
  else if d.btnBad.contains o.baton then d.btnBadOp o
  else
    match o.kind with
    | .add => (d.setBaton o.baton (old + o.v)).btnAck o .ok 0 old
    | .set => (d.setBaton o.baton o.v).btnAck o .ok 0 old
    | _ =>
      if btnMet o.kind old o.v then d.btnGrant o
      else if (d.bw c).length < 64 then d.setBw c (d.bw c ++ [o])
      else (d.btnErr BTN_ERR.WAIT_FULL o.baton).btnAck o .deadline 1 0

/-- The operation taken next: the oldest, ties for one baton by R29 with the input port as index (R305); of one port and baton only the first has been accepted (R30). -/
def Dev.btnNext (d : Dev) (c : Nat) : Option (BtnOp × Dev) :=
  match d.bq c with
  | [] => none
  | h :: _ =>
    let tied := (d.bq c).filter fun o => o.arr == h.arr && o.baton == h.baton
    match d.tie (arbKey 2 h.baton) (tied.map (·.port)).dedup with
    | none => none
    | some (p, d) => (tied.find? fun o => o.port == p).map fun o => (o, d)

/-- An operation leaves the queue; the next one of its input port for its baton, if there is one, is accepted by the arbiter now (R30). -/
def btnLeave (now : Nat) (l : List BtnOp) (o : BtnOp) : List BtnOp :=
  let l := l.erase o
  match l.find? fun x => x.baton == o.baton && x.port == o.port with
  | some x => l.erase x ++ [{ x with arr := now }]
  | none => l

/-- Loads whose turn has come are answered (R303, R305). -/
def Dev.btnLoads (d : Dev) (c : Nat) : Nat → Dev
  | 0 => d
  | fuel + 1 =>
    if (d.btnSat c).isSome then d
    else
      match d.btnNext c with
      | none => d
      | some (o, d1) =>
        if o.kind = .load then
          let d1 := d1.setBq c (btnLeave d1.ns (d1.bq c) o)
          let r := d1.btnData o.baton o.off o.size
          (r.2.2.btnReply o.src r.2.1 r.1).btnLoads c fuel
        else d

/-- An operation of kind k is taken, when it is the next and no release comes first (R305); `bad`: its baton's state is found uncorrectable (R309). -/
def Dev.btnTake (d : Dev) (c : Nat) (k : BtnKind) (bad : Bool) : Dev :=
  if (d.btnSat c).isSome then d
  else
    match d.btnNext c with
    | none => d
    | some (o, d1) =>
      if o.kind = k then
        let d1 := d1.setBq c (btnLeave d1.ns (d1.bq c) o)
        let d1 := if bad && !d1.btnBad.contains o.baton then { d1 with btnBad := d1.btnBad ++ [o.baton] } else d1
        (d1.btnPerform o).btnLoads c (d1.bq c).length
      else d

/-- A WAIT or HANDOFF whose time is up completes with DEADLINE, registered or not yet taken; the release that the unit performs in that cycle stands (R305, R306, R311). -/
def Dev.btnTimeout (d : Dev) (c : Nat) : Dev :=
  let due (o : BtnOp) : Bool := match o.limit with | some t => decide (t ≤ d.ns) | none => false
  match (d.bw c).find? fun o => due o && d.btnSat c != some o with
  | some o => ((d.setBw c ((d.bw c).erase o)).count BTN_REGION.TIMEOUTS c 0 1).btnAck o .deadline 0 0
  | none =>
    match (d.bq c).find? fun o => due o && (o.kind == .wait || o.kind == .handoff) with
    | some o => ((d.setBq c ((d.bq c).erase o)).count BTN_REGION.TIMEOUTS c 0 1).btnAck o .deadline 0 0
    | none => d

/-- The release a region would perform in this cycle stands when its waiter is withdrawn: it is counted, a HANDOFF increments VALUE, and the acknowledgement is discarded (R305, R311, R313). -/
def Dev.btnStands (d : Dev) (c : Nat) (p : BtnSrc → Bool) : Dev :=
  match d.btnSat c with
  | some o =>
    if p o.src then
      let d := d.btnOps c
      if o.kind = .handoff then d.setBaton o.baton ((d.baton o.baton).toNat + 1) else d
    else d
  | none => d

/-- Withdraw the waits of some sources with a status; ADD and SET already sent are still performed (R306). -/
def Dev.btnWithdraw (d : Dev) (p : BtnSrc → Bool) (st : Status) : Dev :=
  (List.range 128).foldl (fun d c =>
    let d := d.btnStands c p
    let w := (d.bw c).filter fun o => p o.src
    let q := (d.bq c).filter fun o => p o.src && (o.kind == .wait || o.kind == .handoff)
    let d := if w = [] then d else d.setBw c ((d.bw c).filter fun o => !p o.src)
    let d := if q = [] then d else d.setBq c ((d.bq c).filter fun o => !(p o.src && (o.kind == .wait || o.kind == .handoff)))
    (w ++ q).foldl (fun d o => d.btnAck o st 0 0) d) d

/-- Send an operation to a baton's unit. -/
def Dev.btnSend (d : Dev) (o : BtnOp) : Dev := d.setBq (batonRegion o.baton) (d.bq (batonRegion o.baton) ++ [o])

/-! Records (R303). -/

/-- An access of a record is a valid one (R303). -/
def btnValid (a size : Nat) (store : Bool) : Bool :=
  (size == 8 && a % 8 == 0) || (size == 4 && a % 4 == 0 && !(store && (a % 64 == 0x04 || a % 64 == 0x0C)))

/-- A load or store of a record by way of the network: an invalid one sets BADACC, one of the other offsets reads zero or does nothing, and any other reaches the baton unit among the operations (R303, R305). -/
def Dev.btnAccess (d : Dev) (src : BtnSrc) (port a size : Nat) (data : Option (List PByte)) : Dev :=
  let b := (a - batonBase) / 64
  let c := batonRegion b
  let none' := if data.isSome then [] else toPBytes size 0
  if !btnValid a size data.isSome then (d.btnErr BTN_ERR.BADACC b).btnReply src .ok none'
  else if 0x10 ≤ a % 64 then d.btnReply src .ok none'
  else
    let d := match data with
      | some x => d.btnSend { kind := if a % 64 = 0 then .set else .add, baton := b, v := ofPBytes (x.take 4), src := src, port := port, arr := d.ns, limit := none,
                              off := a % 64, size := size, poison := anyPoison x }
      | none => d.btnSend { kind := .load, baton := b, v := 0, src := src, port := port, arr := d.ns, limit := none, off := a % 64, size := size }
    d.btnLoads c (d.bq c).length

/-- An access of the block's own engines takes its turn at a baton now: no release is due, nothing reached the unit before it, and of what reached it for the same baton in this cycle R29 puts it first (R305, R311). -/
def Dev.btnTurn (d : Dev) (b port : Nat) : Option Dev :=
  let c := batonRegion b
  let tied := ((d.bq c).filter fun o => o.baton == b).map (·.port)
  if (d.btnSat c).isSome || (d.bq c).any (fun o => decide (o.arr < d.ns)) || tied.contains port then none
  else
    match d.tie (arbKey 2 b) (port :: tied.dedup) with
    | some (p, d) => if p = port then some d else none
    | none => none

/-- Load from a record (R303, R309). -/
def Dev.btnLoad (d : Dev) (src a size : Nat) : List PByte × Status × Dev :=
  let b := (a - batonBase) / 64
  if !btnValid a size false then (toPBytes size 0, .ok, d.btnErr BTN_ERR.BADACC b)
  else if 0x10 ≤ a % 64 then (toPBytes size 0, .ok, d)
  else
    match d.btnTurn b (srcPort src (batonRegion b)) with
    | some d => d.btnData b (a % 64) size
    | none => (poisonBytes size, .poisonRead, d.block .turn)

/-- Store to a record: SET at offset 0x00, ADD at offset 0x08 (R303); poison is stored as such (R322). -/
def Dev.btnStore (d : Dev) (src a : Nat) (data : List PByte) : Status × Dev :=
  let b := (a - batonBase) / 64
  let v := ofPBytes (data.take 4)
  if !btnValid a data.length true then (.ok, d.btnErr BTN_ERR.BADACC b)
  else if 0x10 ≤ a % 64 then (.ok, d)
  else
    match d.btnTurn b (srcPort src (batonRegion b)) with
    | none => (.ok, d.block .turn)
    | some d =>
      let d := d.btnOps (batonRegion b)
      if anyPoison data then (.ok, if d.btnBad.contains b then d else { d with btnBad := d.btnBad ++ [b] })
      else if a % 64 = 0 then
        let d := if d.btnBad.contains b then { d.btnUncorr b with btnBad := d.btnBad.filter (· != b) } else d
        (.ok, d.setBaton b v)
      else if d.btnBad.contains b then (.uncorr, d.btnUncorr b)
      else (.ok, d.setBaton b ((d.baton b).toNat + v))

/-- Loads wait at no unit whose turn it is. -/
def Dev.btnPump (d : Dev) : Dev := (d.btnQ.filter fun p => p.2.any fun o => o.kind == .load).foldl (fun d p => d.btnLoads p.1 p.2.length) d

/-! The commands. -/

def execBatonAdd (c : RegionId) (bad : Bool) (s : State) : Host.Outcome State Fault Refusal := s.ev fun d => d.btnTake c .add bad
def execBatonSet (c : RegionId) (bad : Bool) (s : State) : Host.Outcome State Fault Refusal := s.ev fun d => d.btnTake c .set bad
def execBatonWaitOp (c : RegionId) (bad : Bool) (s : State) : Host.Outcome State Fault Refusal := s.ev fun d => d.btnTake c .wait bad
def execBatonHandoff (c : RegionId) (bad : Bool) (s : State) : Host.Outcome State Fault Refusal := s.ev fun d => d.btnTake c .handoff bad
def execBatonRelease (c : RegionId) (s : State) : Host.Outcome State Fault Refusal := s.ev fun d => d.btnRelease c
def execBatonTimeout (c : RegionId) (s : State) : Host.Outcome State Fault Refusal := s.ev fun d => d.btnTimeout c
def execBatonRecordLoad (src addr size : Nat) (bad : Bool) (s : State) : Host.Outcome State Fault Refusal :=
  s.ev fun d =>
    if batonBase ≤ addr ∧ addr + size ≤ batonEnd then
      let b := (addr - batonBase) / 64
      let d := if bad && !d.btnBad.contains b then { d with btnBad := d.btnBad ++ [b] } else d
      d.btnAccess (.mem src) (srcPort src (batonRegion b)) addr size none
    else d

end Sys2Proof.Machine
end

