-- ==== Sys2Proof/Machine/Regions.lean ====
section
/-! DEFINITION. Cache regions: scratch, the cache with its hints and replacement, the trap table, line operations, reductions and partition changes (R211 to R244). -/

namespace Sys2Proof.Machine

/-! Lines (R217 to R219). -/

/-- Line number i of a region, by 16 × set + way. -/
def Region.line (r : Region) (i : Nat) : Option Line := Tbl.get none r.lines i
/-- Replace a line. -/
def Region.setLine (r : Region) (i : Nat) (v : Option Line) : Region := { r with lines := Tbl.set none r.lines i v }

/-- A line leaves its way, which keeps its place in the order of recency (R219). -/
def Region.dropWay (r : Region) (i : Nat) : Region :=
  { r with lines := Tbl.set none r.lines i none, gone := Tbl.set 0 r.gone i (match r.line i with | some x => x.use | none => Tbl.get 0 r.gone i) }

/-- Where line l is resident (R215). -/
def Region.find (r : Region) (l : Nat) : Option Nat :=
  ((List.range 16).map fun w => lineSet l * 16 + w).find? fun i => (r.line i).any fun x => x.l == l

/-- Replace line l of region c, if resident. -/
def Dev.modLine (d : Dev) (c i : Nat) (f : Line → Line) : Dev :=
  let r := d.region c
  d.setRegion c (r.setLine i ((r.line i).map f))

/-- The cache ways of a region (R212). -/
def Dev.ways (d : Dev) (c : Nat) : List Nat := (List.range 16).filter fun g => !bitOf (d.fld BCR_PART.SCRATCH_MASK c 0) g

/-- The fill of line l in progress (R217). -/
def Region.fill (r : Region) (l : Nat) : Option FillBuf := Tbl.get none r.fills l

/-- A line is pinned: a fill of it is in progress, or a packet of it is in the reduction queue or the miss table (R227). -/
def Region.pinned (r : Region) (l : Nat) : Bool :=
  (r.fill l).isSome || (r.queue.any fun e => e.idx == 1 && e.line == l) || r.waiting.any fun p => p.1 == l && match p.2 with | .red .. => true | _ => false

/-- The lines of a region that are pinned (R237). -/
def Region.pins (r : Region) : List Nat :=
  (((r.fills.filter fun p => p.2.isSome).map (·.1)) ++ (r.queue.map (·.line)) ++ (r.waiting.map (·.1))).eraseDups.filter r.pinned

/-- The hint codes (R142, R218): KEEP 1, NORMAL 0, FIRST_OUT 2, DEAD 3. -/
def hintState (keepOk : Bool) (old : LineState) (write : Bool) (hint : Nat) : LineState :=
  match hint with
  | 1 => if keepOk then .keep else .normal
  | 2 => .firstOut
  | 3 => if write then .firstOut else .dead
  | _ => if old = .keep then .keep else .normal

/-- Fewer than KEEP_MAX lines of the set are KEEP (R218). -/
def Dev.keepOk (d : Dev) (c i : Nat) : Bool :=
  let r := d.region c
  let n := ((List.range 16).filter fun w => (r.line (i / 16 * 16 + w)).any fun x => x.st == .keep).length
  decide (n < min 16 (d.fld BCR_CFG.KEEP_MAX c 0))

/-- Sectors of a line that a run of bytes touches (R215). -/
def sectorsOf (a len : Nat) : BitVec 16 :=
  (List.range 16).foldl (fun m s => if a % 4096 < 256 * (s + 1) ∧ 256 * s < a % 4096 + len then m ||| BitVec.ofNat 16 (2 ^ s) else m) 0

/-- Sectors a run of bytes covers only in part. -/
def sectorsPart (a len : Nat) : BitVec 16 :=
  (List.range 16).foldl (fun m s =>
    if a % 4096 < 256 * (s + 1) ∧ 256 * s < a % 4096 + len ∧ ¬(a % 4096 ≤ 256 * s ∧ 256 * (s + 1) ≤ a % 4096 + len) then m ||| BitVec.ofNat 16 (2 ^ s) else m) 0

/-! The trap table (R221). -/

/-- Record a discarded line: the lowest free entry, else the oldest. -/
def Dev.trapRecord (d : Dev) (c l : Nat) : Dev :=
  let r := d.region c
  let free := (List.range 64).find? fun i => (Tbl.get none r.traps i).isNone
  let old := oldest (fun i => match Tbl.get none r.traps i with | some t => t.at' | none => 0) (List.range 64)
  let i := free.getD (old.getD 0)
  d.setRegion c { r with traps := Tbl.set none r.traps i (some ⟨l, 0, r.stamp⟩), stamp := r.stamp + 1 }

/-- What an access does at the trap table. -/
inductive TrapUse where
  | read | red | write
  deriving DecidableEq, Repr, Inhabited

/-- An access to a line meets the trap table (R221). -/
def Dev.trapHit (d : Dev) (c l : Nat) (u : TrapUse) : Dev :=
  let r := d.region c
  match (List.range 64).find? fun i => (Tbl.get none r.traps i).any fun t => t.line == l with
  | none => d
  | some i =>
    let free := d.setRegion c { r with traps := Tbl.set none r.traps i none }
    match u with
    | .write => free
    | _ =>
      let hit := d.setRegion c { r with traps := Tbl.set none r.traps i ((Tbl.get none r.traps i).map fun t => { t with hits := min 255 (t.hits + 1) }) }
      let d := ((if u = .red then free else hit).count BCR_DEAD.TRAP_HIT c 0 1).bcrErr c BCR_ERR.TRAP_HIT l
      if d.bit BCR_CFG.TRAP_EVT c 0 then d.event 0 .trapHit [c, l] else d

/-! Codewords of the data array (R232). -/

/-- The local address of a codeword key of the data array. -/
def backAddr (cw : Nat) : Nat := if 32 * cw < 2 ^ 53 then 32 * cw else 32 * cw - 2 ^ 53

/-- Count and record what a codeword of the data array was found to be; a corrected one is written back (R232, R243). -/
def Dev.dataEvent (d : Dev) (c : Nat) (p : Nat × CwClass) : Dev :=
  let e := (d.eccEvent 2 c (backAddr p.1 / 32) p.2).scrubCw p.1 p.2
  match p.2 with
  | .corr _ => e.count BCR_ECC.CORR c 0 1
  | .uncorr | .addr => (e.count BCR_ECC.UNCORR c 0 1).bcrErr c BCR_ERR.UNCORR (backAddr p.1 / 4096)
  | _ => e

/-- Read bytes of the data array: corrected codewords are written back, bad ones give poison (R232). -/
def Dev.dataRead (d : Dev) (c key len : Nat) : List PByte × Status × Dev :=
  let (b, cl) := d.read key len
  (b, classStatus cl, cl.foldl (fun e p => e.dataEvent c p) d)

/-- Write bytes of the data array: the status of a merge that met a bad codeword, which is counted as in a read (R232, R243, R335). -/
def Dev.dataWrite (d : Dev) (c key : Nat) (b : List PByte) : Status × Dev :=
  let cl := d.mergeCls key b.length
  (classStatus cl, (cl.foldl (fun e p => e.dataEvent c p) d).write key b)

/-- Clean, valid sectors of a resident line holding a bad codeword are invalidated, to be fetched again (R232). -/
def Dev.refetch (d : Dev) (c i : Nat) (need : BitVec 16) : Dev :=
  match (d.region c).line i with
  | none => d
  | some x =>
    (List.range 16).foldl (fun d s =>
      if need.getLsbD s && x.valid.getLsbD s && !x.dirty.getLsbD s then
        let bad := (d.read (cacheKey (x.l * 4096 + 256 * s)) 256).2.filter fun p => p.2 == .uncorr || p.2 == .addr
        if bad = [] then d
        else
          let d := bad.foldl (fun e p => e.eccEvent 2 c (backAddr p.1 / 32) p.2) d
          (d.count BCR_ECC.REFETCH c 0 1).modLine c i fun x => { x with valid := x.valid &&& ~~~(BitVec.ofNat 16 (2 ^ s)) }
      else d) d

/-! Backing memory (R214, R217). -/

/-- The endpoint of the controller of region c (R22). -/
def endRegion (c : Nat) : Nat := 4 * c

/-- Store bytes at a local address of the block's own memory, past the cache: where a line goes that was cached before its window was turned onto the device itself; a unit that is not reached takes none (R27, R34; log 134). -/
def Dev.ownWrite (d : Dev) (src a : Nat) (b : List PByte) (owner : UioOwner) : Dev :=
  if a + b.length ≤ stackEnd then (if d.sliceReach (stackCore a) then (d.stackWrite a b).2 else d)
  else if d.gddrHas a b.length then d.gddrWrite a b
  else if d.scratchBacked a b.length then (if d.regionReach (scratchRegion a) then (d.dataWrite (scratchRegion a) a b).2 else d)
  else if lsBacked a b.length then (if d.lsReach ((a - lsBase) / 2 ^ 22) then d.lsWrite ((a - lsBase) / 2 ^ 22) ((a - lsBase) % 2 ^ 22) b else d)
  else if batonBase ≤ a ∧ a + b.length ≤ batonEnd then (if d.regionReach (batonRegion ((a - batonBase) / 64)) then (d.btnStore src a b).2 else d)
  else
    match d.window a with
    | some h => d.winSend h b owner
    | none => d.hole src a true

/-- Write bytes of a cacheable line to its backing memory: board memory, or through its window (R217, R228). -/
def Dev.backWrite (d : Dev) (a : Nat) (b : List PByte) (owner : UioOwner) : Dev :=
  if a < scratchBase then d.gddrWrite a b
  else
    match d.window a with
    | none => d.hole (endRegion (homeRegion a)) a true
    | some h =>
      if !h.host && d.ownGlobal h.target then
        (if d.ownRo 64 a then d.fabErr FAB_ERR.WIN_RO none else d.ownWrite (endRegion (homeRegion a)) (d.served a) b owner)
      else d.winSend h b owner

/-! Leaving the cache (R219, R220). -/

/-- Write back the dirty sectors of a line; it stays, clean (R217). -/
def Dev.writeBack (d : Dev) (c i : Nat) (owner : UioOwner) : Dev :=
  match (d.region c).line i with
  | none => d
  | some x =>
    let d := (List.range 16).foldl (fun d s =>
      if x.dirty.getLsbD s then
        let r := d.dataRead c (cacheKey (x.l * 4096 + 256 * s)) 256
        r.2.2.backWrite (x.l * 4096 + 256 * s) r.1 owner
      else d) d
    d.modLine c i fun x => { x with dirty := 0 }

/-- Drop a line without writeback, with its record in the trap table (R220, R221). -/
def Dev.dropLine (d : Dev) (c i : Nat) : Dev :=
  match (d.region c).line i with
  | none => d
  | some x =>
    let d := d.setRegion c ((d.region c).dropWay i)
    if d.bit BCR_CFG.TRAP_EN c 0 && (x.dirty != 0 || (x.st == .dead && d.bit BCR_CFG.TRAP_ALL c 0)) then d.trapRecord c x.l else d

/-- A line leaves the cache as a victim, by FLUSH or in a partition change: a DEAD line is dropped, any other is written back first (R219, R220). -/
def Dev.evict (d : Dev) (c i : Nat) (owner : UioOwner) : Dev :=
  match (d.region c).line i with
  | none => d
  | some x =>
    if x.st = .dead then d.dropLine c i
    else
      let d := d.writeBack c i owner
      d.setRegion c ((d.region c).dropWay i)

/-- Class of a way for R219, lowest first; recency breaks ties within it, for an empty way that of the line that left it. -/
def victimKey (gone : Nat) : Option Line → Nat
  | none => gone
  | some x => (match x.st with | .dead => 1 | .firstOut => 2 | .normal => 3 | .keep => 4) * 2 ^ 64 + x.use

/-- Way i is being given up for a fill, or in a partition change. -/
def Region.leaving (r : Region) (i : Nat) : Bool := r.queue.any fun e => match e.act with | .evict j _ => j == i | _ => false

/-- A way is being made free for line l. -/
def Region.making (r : Region) (l : Nat) : Bool := r.queue.any fun e => match e.act with | .evict _ n => n == some l | _ => false

/-- The way a fill of line l chooses: neither pinned nor filling, nor given up for another fill (R219). -/
def Dev.victim (d : Dev) (c l : Nat) : Option Nat :=
  let r := d.region c
  oldest (fun i => victimKey (Tbl.get 0 r.gone i) (r.line i)) (((d.ways c).map fun w => lineSet l * 16 + w).filter fun i =>
    !r.leaving i && match r.line i with
      | none => true
      | some x => !r.pinned x.l)

/-- Line l takes a way that is free (R217, R219). -/
def Dev.alloc (d : Dev) (c i l : Nat) : Dev :=
  let r := d.region c
  d.setRegion c { r.setLine i (some ⟨l, .normal, 0, 0, r.stamp⟩) with
    stamp := r.stamp + 1, fills := Tbl.set none r.fills l ((r.fill l).map fun f => { f with alloc := true }) }

/-- A way that is empty, for line l, where that is what a fill would choose. -/
def Dev.emptyWay (d : Dev) (c l : Nat) : Option Nat := (d.victim c l).filter fun i => ((d.region c).line i).isNone

/-- An access marks its line: state by hint, recency (R218, R219). -/
def Dev.mark (d : Dev) (c i : Nat) (write : Bool) (hint : Nat) : Dev :=
  let ok := d.keepOk c i
  let r := d.region c
  let d := d.modLine c i fun x => { x with st := hintState ok x.st write hint, use := r.stamp }
  d.setRegion c { d.region c with stamp := r.stamp + 1 }

/-- A read marks its line; a line found DEAD stays DEAD where the read carries DEAD, and is revived at NORMAL else (R218, R220). -/
def Dev.markRead (d : Dev) (c i : Nat) (dead : Bool) (hint : Nat) : Dev := d.mark c i false (if dead && hint != 3 then 0 else hint)

/-- Count a cache access (R239). -/
def Dev.hitMiss (d : Dev) (c : Nat) (hit : Bool) : Dev := d.count (if hit then BCR_ACCESS.HIT else BCR_ACCESS.MISS) c 0 1

/-- The sectors of line l that are valid; none when it is not resident. -/
def Dev.validOf (d : Dev) (c l : Nat) : BitVec 16 :=
  match ((d.region c).find l).bind (d.region c).line with
  | some x => x.valid
  | none => 0

/-- Clean, valid sectors of a line that an access needs and that hold a bad codeword are given up, to be fetched again (R232). -/
def Dev.refetchAt (d : Dev) (c l : Nat) (need : BitVec 16) : Dev :=
  match (d.region c).find l with | some i => d.refetch c i need | none => d

/-! Reductions (R224, R229). -/

/-- One element: stored s, arriving x. -/
def redElem (op s x : Nat) : Nat :=
  match op with
  | 0 => f32Add s x
  | 1 => (s + x) % 2 ^ 32
  | 2 => f32Max s x
  | _ => if sx 32 s < sx 32 x then x else s

/-- The elements of two runs of bytes combined. -/
def redBytes (op : Nat) : List Byte → List Byte → List Byte
  | s0 :: s1 :: s2 :: s3 :: st, x0 :: x1 :: x2 :: x3 :: xt =>
    toBytes 4 (redElem op (ofBytes [s0, s1, s2, s3]) (ofBytes [x0, x1, x2, x3])) ++ redBytes op st xt
  | _, _ => []

/-- Apply a packet within one codeword: a bad target codeword stays poison (R229). -/
def Dev.redCw (d : Dev) (c op cw off : Nat) (b : List PByte) : Status × Dev :=
  let (cls, old) := d.readCw cw []
  let d := d.dataEvent c (cw, cls)
  if anyPoison b then (.poisonRead, d.putCw cw (poisonBytes 32))
  else
    match cls with
    | .clean | .corr _ =>
      let new := redBytes op ((old.drop off).take b.length |>.map (·.v)) (b.map (·.v))
      (.ok, d.putCw cw (old.take off ++ new.map (fun v => ⟨v, false⟩) ++ old.drop (off + b.length)))
    | .poison => (.poisonRead, d)
    | k => (k.status, d.putCw cw (poisonBytes 32))

/-- Apply a packet to the data array: a poisoned packet poisons every codeword it touches (R229). -/
def Dev.redApply (d : Dev) (c op key : Nat) (b : List PByte) : Status × Dev :=
  let bad := anyPoison b
  let (st, d) := (cwsOf key b.length).foldl (fun (p : Status × Dev) cw =>
    let lo := max (32 * cw) key
    let part := (b.drop (lo - key)).take (32 * cw + 32 - lo)
    let (st, d) := p.2.redCw c op cw (lo % 32) (if bad then poisonBytes part.length else part)
    (p.1.first st, d)) (.ok, d)
  let d := d.count BCR_RED.APPLIED c 0 1
  (st, if !bad && !st.isOk then d.bcrErr c BCR_ERR.RED_ERR (backAddr (key / 32) / 4096) else d)

/-! Accesses to a line that is resident with what they need, or that need none; `miss`: it fetched or allocated (R239). -/

/-- Read a resident line (R217, R218, R220). -/
def Dev.hitRead (d : Dev) (c i a len hint : Nat) : List PByte × Status × Dev :=
  let dead := ((d.region c).line i).any fun x => x.st == .dead
  let (b, st, d) := d.dataRead c (cacheKey a) len
  let d := if dead then d.count BCR_DEAD.DEAD_READ c 0 1 else d
  (b, st, d.markRead c i dead hint)

/-- Write a resident line (R217, R218). -/
def Dev.hitWrite (d : Dev) (c i a : Nat) (b : List PByte) (hint : Nat) : Status × Dev :=
  let (st, d) := d.dataWrite c (cacheKey a) b
  let d := d.modLine c i fun x => { x with valid := x.valid ||| sectorsOf a b.length, dirty := x.dirty ||| sectorsOf a b.length }
  (st, d.mark c i true hint)

/-- Reduce into a resident line (R217, R224, R228). -/
def Dev.hitRed (d : Dev) (c i op a : Nat) (b : List PByte) (hint : Nat) : Status × Dev :=
  let (st, d) := d.redApply c op (cacheKey a) b
  let d := d.modLine c i fun x => { x with dirty := x.dirty ||| sectorsOf a b.length }
  (st, d.mark c i true hint)

/-- A packet refused (R216, R229). -/
def Dev.redRefuse (d : Dev) (c : Nat) : Dev := d.count BCR_RED.REFUSED c 0 1

/-- A packet refused by a region that has no cache way (R216). -/
def Dev.redNoWay (d : Dev) (c a : Nat) : Dev := (d.redRefuse c).bcrErr c BCR_ERR.NOWAY_RED (a / 4096)

/-! Line operations (R222, R223). -/

/-- Carry out a line operation on line l, resident at way i; `owner`: whom its writebacks over the port serve. A DEAD line writes back nothing (R220); board memory takes the bytes of CLEAN and FLUSH out of its buffer (R366); SETHINT sets the state whatever it was, KEEP_MAX included (R218). -/
def Dev.lineOpAt (d : Dev) (c l i : Nat) (o : LineOp) (hint : Nat) (owner : UioOwner) : Dev :=
  let dead := ((d.region c).line i).any fun x => x.st == .dead
  let need (d : Dev) : Dev := if l * 4096 < scratchBase then d.gddrNeed (l * 4096 - gddrBase) 4096 else d
  match o with
  | .prefetch => d.markRead c i dead hint
  | .clean => if dead then d else need (d.writeBack c i owner)
  | .flush => need (d.evict c i owner)
  | .invalidate => d.dropLine c i
  | .discard => d.modLine c i fun x => { x with st := .dead }
  | .sethint => d.modLine c i fun x => { x with st := (match hint with | 1 => .keep | 2 => .firstOut | 3 => .dead | _ => .normal) }

/-- A line operation is done (R223). -/
def Dev.opDone (d : Dev) (c l : Nat) (o : LineOp) (own : Option (Nat × Nat)) (st : Status) : Dev :=
  match own with
  | some p => d.descReport p.1 p.2 st 0
  | none => d.emit (.lineDone c l o st)

/-- A line operation has been carried out: it is done, or is done once its writebacks are acknowledged (R223). -/
def Dev.opFinish (d : Dev) (c l : Nat) (o : LineOp) (own : Option (Nat × Nat)) (st : Status) : Dev :=
  if d.uio.any fun u => u.owner == .op c l then d.setRegion c { d.region c with opsOut := (d.region c).opsOut ++ [(l, o, st, own)] }
  else d.opDone c l o own st

/-- A writeback of a line operation is acknowledged; with the last one the operation is done (R223). -/
def Dev.opAck (d : Dev) (c l : Nat) (st : Status) : Dev :=
  let r := d.region c
  let ops := r.opsOut.map fun p => if p.1 = l then (l, p.2.1, p.2.2.1.first st, p.2.2.2) else p
  if d.uio.any fun u => u.owner == .op c l then d.setRegion c { r with opsOut := ops }
  else (ops.filter fun p => p.1 == l).foldl (fun d p => d.opDone c l p.2.1 p.2.2.2 p.2.2.1) (d.setRegion c { r with opsOut := ops.filter fun p => p.1 != l })

/-! Bank accesses (R211, R212, R231). -/

/-- The banks of a run of bytes, one for each 64 B access. -/
def banksOf (a len : Nat) : List Nat := (List.range ((a % 64 + len + 63) / 64)).map fun i => (a / 64 + i) % 32

/-- The banks of some sectors of a line. -/
def sectorBanks (m : BitVec 16) : List Nat := (List.range 16).flatMap fun s => if m.getLsbD s then (List.range 4).map fun i => (4 * s + i) % 32 else []

/-- Something reaches the controller's queue. -/
def Dev.regEnq (d : Dev) (c line idx : Nat) (banks : List Nat) (act : RegAct) : Dev :=
  d.setRegion c { d.region c with queue := (d.region c).queue ++ [⟨d.ns, idx, line, banks, act⟩] }

/-! Fills (R217, R219, R227). -/

/-- Sectors that something which waits needs fetched (R217). -/
def Waiter.need : Waiter → BitVec 16
  | .read q => sectorsOf q.addr q.len
  | .write q => sectorsPart q.addr q.len
  | .red _ _ a b _ => sectorsOf a b.length
  | .op o _ _ => if o = .prefetch then 0xFFFF else 0

/-- Its fills are CRIT (R362). -/
def Waiter.crit : Waiter → Bool
  | .read q | .write q => critSrc q.src
  | .red _ src _ _ _ => critSrc src
  | .op .. => false

/-- Whether it allocates the line it misses: not a read carrying DEAD, nor an operation but PREFETCH (R217, R222). -/
def Waiter.allocates : Waiter → Bool
  | .read q => q.hint != 3
  | .op o _ _ => o == .prefetch
  | _ => true

/-- Something waits at line l of region c. -/
def Dev.lineBusy (d : Dev) (c l : Nat) : Bool := (d.region c).waiting.any fun p => p.1 == l

/-- Sectors that what waits at a line needs. -/
def Region.needAt (r : Region) (l : Nat) : BitVec 16 :=
  (r.engine.filter fun e => e.line == l).foldl (fun m e => m ||| e.need) ((r.waiting.filter fun p => p.1 == l).foldl (fun m p => m ||| p.2.need) 0)

/-- What waits at a line needs a way for it (R217). -/
def Dev.wantsWay (d : Dev) (c l : Nat) : Bool :=
  let r := d.region c
  d.ways c != [] && (r.find l).isNone && ((r.waiting.any fun p => p.1 == l && p.2.allocates) || r.engine.any fun e => e.line == l && e.need != 0)

/-- The data of a fill's sector comes from its window: none is asked for where it leads nowhere, or where the host is not to be reached; poison then (R217, R325, R327). -/
def Dev.fillFar (d : Dev) (c l s : Nat) : Dev :=
  match d.window (l * 4096) with
  | none => (d.hole (endRegion c) (l * 4096 + 256 * s) false).fillGot c l s (poisonBytes 256) .poisonRead
  | some h =>
    if h.host then (if d.cacheOn then d.emit (.hostRead (h.target + 256 * s) 256) else d.fillGot c l s (poisonBytes 256) .poisonRead)
    else if d.ownGlobal h.target then d.fillGot c l s (poisonBytes 256) .poisonRead
    else d.uioSend false (h.target + 256 * s) 256 [] (.line c l)

/-- The sectors that something needs, that are not valid and that no fill has asked for yet, are asked for: at the controller of board memory, or over the port (R217, R362). -/
def Dev.fillAsk (d : Dev) (c l : Nat) (need : BitVec 16) (crit : Bool) : Dev :=
  let r := d.region c
  let f := (r.fill l).getD ⟨0, 0, [], false⟩
  let new := need &&& ~~~f.asked &&& ~~~(d.validOf c l)
  let d := d.setRegion c { r with fills := Tbl.set none r.fills l (some { f with asked := f.asked ||| new }) }
  ((List.range 16).filter fun s => new.getLsbD s).foldl (fun d s => if l * 4096 < scratchBase then d.gdrAsk c l s crit else d.fillFar c l s) d

/-- A fill waits on a fully pinned set (R227). -/
def Dev.fillPark (d : Dev) (c l : Nat) : Dev :=
  (d.setRegion c { d.region c with fillWait := (d.region c).fillWait ++ [(l, d.ns)] }).count BCR_PIN.WAITS c 0 1

/-- A fill of line l chooses its way: an empty one is taken at once, another once the line there has left it, with its dirty sectors read for their writeback; none to be had, the fill waits (R219, R227). -/
def Dev.wayTake (d : Dev) (c l : Nat) : Dev :=
  match d.victim c l with
  | none => d.fillPark c l
  | some i =>
    match (d.region c).line i with
    | none => d.alloc c i l
    | some x => d.regEnq c x.l 3 (if x.st = .dead then [] else sectorBanks x.dirty) (.evict i (some l))

/-- The fill of what waits at line l goes on: its way, then its sectors (R217, R227). -/
def Dev.fillGo (d : Dev) (c l : Nat) (crit : Bool) : Dev :=
  let r := d.region c
  let parked (d : Dev) : Bool := (d.region c).fillWait.any fun p => p.1 == l
  let d := if d.wantsWay c l && !r.making l && !parked d then d.wayTake c l else d
  if parked d then d else d.fillAsk c l ((d.region c).needAt l) crit

/-- Put something behind what waits at its line, whose fill goes on (R217, R226). -/
def Dev.wait (d : Dev) (c l : Nat) (w : Waiter) : Dev :=
  (d.setRegion c { d.region c with waiting := (d.region c).waiting ++ [(l, w)] }).fillGo c l w.crit

/-- The longest wait of a fill on a pinned set, in BCLK (R241). -/
def Dev.pinEnd (d : Dev) (c since : Nat) : Dev :=
  let n := min 0xFFFF ((d.ns - since) * 2)
  if d.fld BCR_PIN.LONGEST c 0 < n then d.setFld BCR_PIN.LONGEST c 0 n else d

/-- Fills that wait on a pinned set go on, oldest first, as soon as a way is to be had (R227, R234). -/
def Dev.fillRetry (d : Dev) (c : Nat) : Dev :=
  (d.region c).fillWait.foldl (fun d p =>
    if (d.victim c p.1).isSome || !d.wantsWay c p.1 then
      let d := d.pinEnd c p.2
      let r := d.region c
      (d.setRegion c { r with fillWait := r.fillWait.erase p }).fillGo c p.1 ((r.waiting.any fun w => w.1 == p.1 && w.2.crit) || r.engine.any fun e => e.line == p.1 && e.crit)
    else d) d

/-- Fills that have every sector they asked for, and a way where they need one, take their turn at the data array (R231). -/
def Dev.fillScan (d : Dev) (c : Nat) : Dev :=
  (d.region c).fills.foldl (fun d p =>
    match p.2 with
    | some f =>
      if f.got = f.asked ∧ !d.wantsWay c p.1 ∧ !((d.region c).queue.any fun e => e.line == p.1 && e.act == .fill) then
        d.regEnq c p.1 2 (if ((d.region c).find p.1).isSome then sectorBanks f.got else []) .fill
      else d
    | none => d) d

/-- The status that some sectors of a fill came with. -/
def FillBuf.status (f : FillBuf) (need : BitVec 16) : Status := f.data.foldl (fun st p => if need.getLsbD p.1 then st.first p.2.2 else st) .ok

/-- Bytes of a line out of a fill's data: of a read that allocates nothing (R217, R220). -/
def FillBuf.bytes (f : FillBuf) (a len : Nat) : List PByte :=
  (((List.range 16).flatMap fun s => match f.data.find? fun p => p.1 == s with | some p => p.2.1 | none => poisonBytes 256).drop (a % 4096)).take len

/-- Data of a fill goes into the sectors of its line that are not valid (R217). -/
def Dev.fillPut (d : Dev) (c i : Nat) (data : List (Nat × List PByte × Status)) : Dev :=
  data.foldl (fun d p =>
    match (d.region c).line i with
    | some x =>
      if x.valid.getLsbD p.1 then d
      else (d.write (cacheKey (x.l * 4096 + 256 * p.1)) p.2.1).modLine c i fun x => { x with valid := x.valid ||| BitVec.ofNat 16 (2 ^ p.1) }
    | none => d) d

/-! What reaches a line takes effect (R217, R226). -/

/-- What waits at a line has what it needs: its sectors, and its way; a line operation waits for a fill in progress (R217, R223). -/
def Dev.covered (d : Dev) (c l : Nat) (f : FillBuf) (w : Waiter) : Bool :=
  match (d.region c).find l with
  | some _ => w.need &&& d.validOf c l == w.need && (match w with | .op .. => f.asked == f.got | _ => true)
  | none =>
    match w with
    | .read q => (d.ways c == [] || q.hint == 3) && w.need &&& f.got == w.need
    | .op o _ _ => o != .prefetch || d.ways c == []
    | _ => d.ways c == []

/-- Carry out what is covered; `f`: the data a fill has brought, `miss`: it fetched or allocated (R216, R217, R239). -/
def Dev.serve (d : Dev) (c l : Nat) (f : FillBuf) (miss : Bool) (w : Waiter) : Dev :=
  let here := (d.region c).find l
  let st := f.status w.need
  match w with
  | .read q =>
    let d := d.trapHit c l .read
    match here with
    | some i =>
      let r := (d.hitMiss c !miss).hitRead c i q.addr q.len q.hint
      r.2.2.memReply q.src (st.first r.2.1) r.1
    | none => (if d.ways c = [] then d else d.hitMiss c false).memReply q.src st (f.bytes q.addr q.len)
  | .write q =>
    let d := d.trapHit c l .write
    match here with
    | some i =>
      let r := (d.hitMiss c !miss).hitWrite c i q.addr q.data q.hint
      r.2.memReply q.src (st.first r.1) []
    | none => (d.backWrite q.addr q.data .none).memReply q.src .ok []
  | .red op src a b hint =>
    match here with
    | some i =>
      let r := (d.trapHit c l .red).hitRed c i op a b hint
      r.2.emit (.redAck src r.1)
    | none => (d.redNoWay c a).emit (.redAck src .badDescriptor)
  | .op o hint own => (match here with | some i => d.lineOpAt c l i o hint (.op c l) | none => d).opFinish c l o own st

/-- What waits at a line is carried out in order, as far as it is covered; the first to need what the fill brought, or its way, has missed (R226, R239). -/
def Dev.serveAll (d : Dev) (c l : Nat) (f : FillBuf) (new : BitVec 16) (way : Bool) : Nat → Dev
  | 0 => d
  | fuel + 1 =>
    match (d.region c).waiting.find? fun p => p.1 == l with
    | none => d
    | some p =>
      let d := d.refetchAt c l p.2.need
      if d.covered c l f p.2 then
        let r := d.region c
        ((d.setRegion c { r with waiting := r.waiting.erase p }).serve c l f (way || new &&& p.2.need != 0) p.2).serveAll c l f (new &&& ~~~p.2.need)
          (way && !p.2.allocates) fuel
      else d

/-- A fill has its data and its bank accesses: the sectors become valid, and what waits at the line is carried out in order; what the fill does not cover goes on waiting (R217, R226, R231). -/
def Dev.fillDo (d : Dev) (c l : Nat) : Dev :=
  match (d.region c).fill l with
  | none => d
  | some f =>
    let left := f.asked &&& ~~~f.got
    let r := d.region c
    let d := d.setRegion c { r with
      fills := Tbl.set none r.fills l (some { f with asked := left, got := 0, data := [], alloc := false })
      engine := r.engine.map fun e => if e.line = l then { e with st := e.st.first (f.status e.need), need := e.need &&& ~~~f.got } else e }
    let d := match (d.region c).find l with | some i => d.fillPut c i f.data | none => d
    let d := d.serveAll c l (if left = 0 then f else { f with asked := f.asked ||| left }) f.got f.alloc ((d.region c).waiting.length + 1)
    if d.lineBusy c l then d.fillGo c l false
    else if left = 0 then d.setRegion c { d.region c with fills := Tbl.set none (d.region c).fills l none }
    else d

/-! Requests at the region (R211, R217, R224). -/

/-- A run of bytes stays within one line. -/
def inLine (a len : Nat) : Bool := decide (0 < len) && decide (a % 4096 + len ≤ 4096)

/-- The bytes an access is of; a line operation is of no bytes. -/
def Waiter.span : Waiter → Nat × Nat
  | .read q => (q.addr, q.len)
  | .write q => (q.addr, q.len)
  | .red _ _ a b _ => (a, b.length)
  | .op .. => (0, 0)

/-- The requester of an access. -/
def Waiter.src : Waiter → Nat
  | .read q | .write q => q.src
  | .red _ src _ _ _ => src
  | .op .. => 0

/-- A request belongs to this region: scratch of its granules, or a cacheable line homed here (R212, R215). -/
def Dev.regionFor (d : Dev) (c a len : Nat) : Bool :=
  if d.scratchBacked a len then scratchRegion a == c else d.cacheable a len && homeRegion a == c

/-- An access to scratch (R212). -/
def Dev.scratchDo (d : Dev) (c : Nat) : Waiter → Dev
  | .read q =>
    let (b, st, d) := d.dataRead c q.addr q.len
    d.memReply q.src st b
  | .write q =>
    let (st, d) := d.dataWrite c q.addr q.data
    d.memReply q.src st []
  | .red op src a b _ =>
    let (st, d) := d.redApply c op a b
    d.emit (.redAck src st)
  | .op .. => d

/-- An access that reaches a hole (R33, R229). -/
def Dev.holeDo (d : Dev) (c : Nat) : Waiter → Dev
  | .read q => (d.hole q.src q.addr false).memReply q.src .poisonRead (poisonBytes q.len)
  | .write q => (d.hole q.src q.addr true).memReply q.src .ok []
  | .red _ src a _ _ => ((d.hole src a true).redRefuse c).emit (.redAck src .badDescriptor)
  | .op .. => d

/-- Packets in the miss table (R225, R237). -/
def Region.missred (r : Region) : Nat := (r.waiting.filter fun p => match p.2 with | .red .. => true | _ => false).length

/-- The set has an empty way for a write of whole sectors, which allocates and fetches nothing; otherwise it waits for its way (R217, R219). -/
def Dev.allocNow (d : Dev) (c l : Nat) (w : Waiter) : Option Nat :=
  match w with
  | .write _ => if w.need = 0 ∧ ((d.region c).find l).isNone ∧ (d.region c).fill l = none ∧ d.ways c ≠ [] then d.emptyWay c l else none
  | _ => none

/-- What reaches a line behind nothing that waits takes effect, where it is covered; else it waits there (R217, R226). -/
def Dev.lineDo (d : Dev) (c l : Nat) (w : Waiter) : Dev :=
  let d := d.refetchAt c l w.need
  let f := ((d.region c).fill l).getD ⟨0, 0, [], false⟩
  if d.lineBusy c l then d.wait c l w
  else if d.covered c l { f with got := f.got &&& 0 } w then d.serve c l ⟨0, 0, [], false⟩ false w
  else
    match d.allocNow c l w with
    | some i => (d.alloc c i l).serve c l ⟨0, 0, [], false⟩ true w
    | none => d.wait c l w

/-- An access whose bank accesses are granted (R212, R217, R224, R230). -/
def Dev.accDo (d : Dev) (c l : Nat) (w : Waiter) : Dev :=
  match w with
  | .op .. => d.lineDo c l w
  | _ =>
    let (a, len) := w.span
    if d.scratchBacked a len && scratchRegion a == c then d.scratchDo c w
    else if d.cacheable a len && homeRegion a == c then d.lineDo c (a / 4096) w
    else d.holeDo c w

/-- The line that was to leave way i leaves it, if it is still the one a fill of line l would choose; else the fill chooses again. In a partition change it leaves unless it is pinned (R213, R219, R234). -/
def Dev.evictDo (d : Dev) (c i : Nat) (new : Option Nat) : Dev :=
  match new with
  | some l =>
    if !d.wantsWay c l then d
    else if d.victim c l = some i then (d.evict c i .none).alloc c i l
    else d.fillGo c l false
  | none => if ((d.region c).line i).any fun x => (d.region c).pinned x.l then d else d.evict c i (.part c)

/-! Scrub (R461, R462). -/

/-- A scrub read of one codeword: its class, and the device with a correction written back (R462). -/
def Dev.scrubOne (d : Dev) (cw : Nat) (flips : List BitFlip) : CwClass × Dev :=
  let r := d.readCw cw (flips.map fun f => f.bit % 272)
  (r.1, match r.1 with | .corr _ => d.putCw cw r.2 | _ => d)

/-- Count a bad or corrected codeword that scrub finds in the data array (R243, R457, R462). -/
def Dev.scrubBcr (d : Dev) (c cw : Nat) (cls : CwClass) : Dev :=
  let d := d.eccEvent 2 c (backAddr cw / 32) cls
  match cls with
  | .corr _ => d.count BCR_ECC.CORR c 0 1
  | .uncorr | .addr => (d.count BCR_ECC.UNCORR c 0 1).bcrErr c BCR_ERR.UNCORR (backAddr cw / 4096)
  | _ => d

/-- The scrub read of a codeword by its key: of scratch, or of a valid sector of a resident line; a clean sector found bad is invalidated, and counted as one that is fetched again (R232, R461, R462; log 171). -/
def Dev.scrubDo (d : Dev) (c cw : Nat) (flips : List BitFlip) : Dev :=
  if 32 * cw < 2 ^ 53 then
    (if d.scratchBacked (32 * cw) 32 then (let r := d.scrubOne cw flips; r.2.scrubBcr c cw r.1) else d)
  else
    let s := backAddr cw % 4096 / 256
    match (d.region c).find (backAddr cw / 4096) with
    | none => d
    | some i =>
      match (d.region c).line i with
      | none => d
      | some x =>
        if !x.valid.getLsbD s then d
        else
          let r := d.scrubOne cw flips
          if (r.1 == .uncorr || r.1 == .addr) && !x.dirty.getLsbD s then
            ((r.2.eccEvent 2 c (backAddr cw / 32) r.1).count BCR_ECC.REFETCH c 0 1).modLine c i fun x => { x with valid := x.valid &&& ~~~(BitVec.ofNat 16 (2 ^ s)) }
          else r.2.scrubBcr c cw r.1

/-! The controller (R231). -/

/-- The bank accesses something needs: a packet one to read and, as number 32, the one the reduction unit writes it back with, one packet a cycle; a line operation those of the dirty sectors it writes back and, as number 33, its start, one a cycle (R223, R225, R231). -/
def Dev.banksFor (d : Dev) (c l : Nat) (w : Waiter) : List Nat :=
  match w with
  | .op o _ _ =>
    33 :: (match ((d.region c).find l).bind (d.region c).line with
      | some x => if x.st != .dead && (o == .clean || o == .flush) then sectorBanks x.dirty else []
      | none => [])
  | .red .. => if d.regionFor c w.span.1 w.span.2 then banksOf w.span.1 w.span.2 ++ [32] else [32]
  | _ => if d.regionFor c w.span.1 w.span.2 then banksOf w.span.1 w.span.2 else []

/-- An earlier request of the queue goes before: of the same line, but that a fill's data stands before nothing and a line leaves its way after what arrives in the same cycle; or of the same source for one of the same banks (R30, R226, R234). -/
def RegEnt.before (x e : RegEnt) : Bool :=
  (x.line == e.line && e.act != .fill && x.act != .fill && (match x.act with | .evict .. => decide (x.arr < e.arr) | _ => true)) ||
    (x.idx == e.idx && x.banks.any e.banks.contains)

/-- Nothing but banks keeps a request: a packet waits behind what waits at its line, and for room in the miss table where it has to go there; a line leaves its way in a later cycle and after what reached it in this one (R226, R234). -/
def Dev.regFree (d : Dev) (c : Nat) (e : RegEnt) : Bool :=
  match e.act with
  | .acc (.red _ _ a b _) => !d.lineBusy c e.line &&
      (decide ((d.region c).missred < 16) || !d.cacheable a b.length || sectorsOf a b.length &&& d.validOf c e.line == sectorsOf a b.length)
  | .evict .. => decide (e.arr < d.ns) && !((d.region c).queue.any fun x => x != e && x.line == e.line && decide (x.arr ≤ e.arr))
  | _ => true

/-- What may be granted an access now: nothing before it, and one of its banks free (R30, R226, R231). `seen`: what stands before it. -/
def Dev.regCands (d : Dev) (c : Nat) (used : List Nat) : List RegEnt → List RegEnt → List RegEnt
  | _, [] => []
  | seen, e :: t =>
    if (seen.any fun x => x.before e) || !d.regFree c e || !(e.banks.isEmpty || (decide (used.length < 24) && e.banks.any fun b => !used.contains b)) then
      d.regCands c used (seen ++ [e]) t
    else e :: d.regCands c used (seen ++ [e]) t

/-- The request granted next: the oldest, ties by R29 with the index of its source (R231). -/
def Dev.regPick (d : Dev) (c : Nat) : Option (RegEnt × Dev) :=
  let cs := d.regCands c (d.region c).used [] (d.region c).queue
  match oldest (·.arr) cs with
  | none => none
  | some h =>
    match d.tie (arbKey 13 c) ((cs.filter fun e => e.arr == h.arr).map (·.idx)).dedup with
    | none => none
    | some (i, d) => (cs.find? fun e => e.arr == h.arr && e.idx == i).map fun e => (e, d)

/-- Carry out what has all its bank accesses. -/
def Dev.regDo (d : Dev) (c : Nat) (e : RegEnt) : Dev :=
  match e.act with
  | .acc w => d.accDo c e.line w
  | .fill => d.fillDo c e.line
  | .evict i new => d.evictDo c i new
  | .scrub cw flips => d.scrubDo c cw flips

/-- A granted request takes what is free of its banks, within 24 accesses a cycle; with the last one it is carried out (R231). -/
def Dev.regGrant (d : Dev) (c : Nat) (e : RegEnt) : Dev :=
  let r := d.region c
  let take := ((e.banks.filter fun b => !r.used.contains b).dedup).take (24 - r.used.length)
  let left := take.foldl (fun l b => l.erase b) e.banks
  if left = [] then (d.setRegion c { r with queue := r.queue.erase e, used := r.used ++ take }).regDo c e
  else d.setRegion c { r with queue := r.queue.map fun x => if x = e then { x with banks := left } else x, used := r.used ++ take }

/-- Grants of one BCLK. -/
def Dev.regRound (d : Dev) (c : Nat) : Nat → Dev
  | 0 => d
  | fuel + 1 =>
    match d.regPick c with
    | none => d
    | some (e, d) => (d.regGrant c e).regRound c fuel

/-- Grants a controller can make before its queue is empty. -/
def Region.turns (r : Region) : Nat := r.queue.foldl (fun n e => n + e.banks.length + 1) 0

/-- The BCLK the controller grants in begins; the zeroing of granules, begun before anything that waits, takes 8 of its accesses (R213, R231). -/
def Dev.regBegin (d : Dev) (c t : Nat) : Dev :=
  let r := d.region c
  if r.cyc < t then d.setRegion c { r with cyc := t, used := if r.zeroAt.isSome then (List.range 8).map fun i => (8 * t + i) % 32 else [] } else d

/-- One BCLK: what has its data back joins the queue, then the grants. -/
def Dev.regCycle (d : Dev) (c t : Nat) : Dev :=
  let d := (d.fillScan c).regBegin c t
  if (d.region c).queue.isEmpty then d else d.regRound c (d.region c).turns

/-- The two BCLK of this nanosecond, then fills that waited for a way (R211, R231, R234). -/
def Dev.regWork (d : Dev) (c : Nat) : Dev := ((d.regCycle c (2 * d.ns)).regCycle c (2 * d.ns + 1)).fillRetry c

/-- Something reaches the controller, which grants what it can. -/
def Dev.regPut (d : Dev) (c line idx : Nat) (banks : List Nat) (act : RegAct) : Dev := (d.regEnq c line idx banks act).regWork c

/-! Reduction packets (R225, R227). -/

/-- Packets in the reduction queue (R237). -/
def Region.redq (r : Region) : Nat := (r.queue.filter fun e => e.idx == 1).length

/-- The region accepts a packet to line l: its queue of 32 and its miss table of 16 have room, and no fill waits on a line of the set (R225, R227). -/
def Region.takesRed (r : Region) (l : Nat) : Bool :=
  decide (r.redq < 32) && decide (r.missred < 16) && !(r.fillWait.any fun p => lineSet p.1 == lineSet l)

/-- A packet reaches the controller: it joins the queue where its sectors are valid, or will be refused or applied in scratch, and the miss table else, behind what reached its line (R225, R226). -/
def Dev.redPut (d : Dev) (c : Nat) (w : Waiter) : Dev :=
  let l := w.span.1 / 4096
  let queued := d.ways c == [] || !d.cacheable w.span.1 w.span.2 || w.need &&& d.validOf c l == w.need || (d.region c).queue.any fun e => e.line == l
  if queued then d.regPut c l 1 (d.banksFor c l w) (.acc w) else (d.wait c l w).regWork c

/-- Packets the network holds are accepted in their order, while there is room (R25, R225). -/
def Dev.heldTake (d : Dev) (c : Nat) : Nat → Dev
  | 0 => d
  | fuel + 1 =>
    match (d.region c).held with
    | [] => d
    | w :: t =>
      if (d.region c).takesRed (w.span.1 / 4096) then ((d.setRegion c { d.region c with held := t }).redPut c w).heldTake c fuel else d

/-! Partition changes (R213). -/

/-- PART_BUSY (R213). -/
def Region.partBusy (r : Region) : Bool := r.zeroing.isSome

/-- Line numbers of way g. -/
def wayLines (g : Nat) : List Nat := (List.range 256).map fun s => 16 * s + g

/-- The granules a change is turning into scratch. -/
def Region.granules (r : Region) : List Nat := (List.range 16).filter fun g => (r.zeroing.getD 0).getLsbD g

/-- A change goes on: every line of the leaving ways that is not pinned leaves, with its writeback reads; once none is left and every writeback is acknowledged, the granules are zeroed from here on (R213). -/
def Dev.partStep (d : Dev) (c : Nat) : Dev :=
  let r := d.region c
  if !r.partBusy || r.zeroAt.isSome then d
  else
    let ls := r.granules.flatMap fun g => (wayLines g).filterMap fun i => (r.line i).map fun x => (i, x)
    if ls = [] then (if d.uio.any fun u => u.owner == .part c then d else d.setRegion c { r with zeroAt := some d.ns })
    else (ls.filter fun p => !r.pinned p.2.l && !r.leaving p.1).foldl (fun d p =>
      d.regEnq c p.2.l 3 (if p.2.st = .dead then [] else sectorBanks p.2.dirty) (.evict p.1 none)) d

/-- PARTITION_CHANGE_DONE: a change goes on, and PART_BUSY clears once its granules are zeroed, which takes 2,048 BCLK each (R213). -/
def Dev.partDone (d : Dev) (c : Nat) : Dev :=
  let d := d.partStep c
  let r := d.region c
  match r.zeroAt with
  | some t =>
    if t + 1024 * r.granules.length ≤ d.ns then
      let d := r.granules.foldl (fun d g => d.zeroSpan (scratchBase + c * 2 ^ 24 + g * 2 ^ 20) (2 ^ 20)) d
      d.setRegion c { d.region c with zeroing := none, zeroAt := none }
    else d
  | none => d

/-! The clock of the regions. -/

/-- A region works while its clock ticks (R231). -/
def Dev.regTick (d : Dev) (c : Nat) : Dev :=
  let d := (d.partStep c).regWork c
  d.heldTake c (d.region c).held.length

/-- Nothing waits at a region. -/
def Region.quiet (r : Region) : Bool :=
  r.queue.isEmpty && r.held.isEmpty && r.waiting.isEmpty && (r.fills.all fun p => p.2.isNone) && r.fillWait.isEmpty && r.opsOut.isEmpty

/-- Every region that something waits at works. -/
def Dev.regPump (d : Dev) : Dev :=
  (d.regions.filter fun p => !(p.2.quiet && !p.2.partBusy)).foldl (fun d p => d.regTick p.1) d

/-- What every unit of the block does at a tick of the clock, commanded or not. -/
def Dev.unitsPump (d : Dev) : Dev := d.slcPump.btnPump.regPump

/-- Everything queued at a region is carried out, oldest first, however many cycles it takes. -/
def Dev.regDrain (d : Dev) (c : Nat) : Nat → Dev
  | 0 => d
  | fuel + 1 =>
    match (d.region c).queue with
    | [] => d
    | e :: t => ((d.setRegion c { d.region c with queue := t }).regDo c e).regDrain c fuel

/-- The data of the fills of line l is in: what board memory owes it issues, with what goes before it (R363). -/
def Dev.fillNear (d : Dev) (c l : Nat) : Dev :=
  d.gdrFinish c l ((List.range 8).map fun k => (d.gdrQueue k).length + (Tbl.get [] d.gddr.link k).length + (d.wcbOf k).length).sum

/-- One pass of completing what a region holds. -/
def Dev.regPass (d : Dev) (c : Nat) : Dev :=
  let d := ((d.region c).fills.foldl (fun d p => d.fillNear c p.1) d).fillScan c
  let d := d.regDrain c (d.region c).queue.length
  (d.fillRetry c).heldTake c (d.region c).held.length

/-- Passes until a region holds nothing more that it can complete by itself. -/
def Dev.regPasses (d : Dev) (c : Nat) : Nat → Dev
  | 0 => d
  | fuel + 1 => if (d.region c).quiet then d else (d.regPass c).regPasses c fuel

/-- A region completes what it holds, as before retention: all but what waits for the port (R233). -/
def Dev.regFinish (d : Dev) (c : Nat) : Dev :=
  let r := d.region c
  d.regPasses c (3 * (r.queue.length + r.held.length + r.waiting.length + r.fills.length) + 3)

/-! Arrivals at a region. -/

/-- A read reaches a region (R217, R230); through a window onto the device itself it is served where that leads (R34); a region that is not reached does not answer it (R27). -/
def Dev.regionRead (d : Dev) (c : Nat) (q : MemReq) : Dev :=
  if !inLine q.addr q.len then d
  else if !d.regionReach c then d.memReply q.src .fencedUnit (poisonBytes q.len)
  else
    let w := Waiter.read { q with addr := d.served q.addr }
    d.regPut c (w.span.1 / 4096) 0 (d.banksFor c 0 w) (.acc w)

/-- A write reaches a region (R217, R230); one through a window that allows none is discarded (R327). -/
def Dev.regionWrite (d : Dev) (c : Nat) (q : MemReq) : Dev :=
  if !inLine q.addr q.len || q.data.length != q.len then d
  else if !d.regionReach c then d.memReply q.src .fencedUnit []
  else if d.ownRo 64 q.addr || d.roWin (d.served q.addr) then (d.fabErr FAB_ERR.WIN_RO none).memReply q.src .ok []
  else
    let w := Waiter.write { q with addr := d.served q.addr }
    d.regPut c (w.span.1 / 4096) 0 (d.banksFor c 0 w) (.acc w)

/-- A packet of 4-byte elements within one aligned 64 B span (R224). -/
def redFits (a : Nat) (b : List PByte) : Bool :=
  a % 4 == 0 && b.length % 4 == 0 && b.length != 0 && decide (a % 64 + b.length ≤ 64)

/-- A reduction packet reaches a region, which takes it or leaves it in the network; one that is not reached discards it, and counts it (R27, R216, R224, R225, R229). -/
def Dev.regionRed (d : Dev) (c : Nat) (op : Fin 4) (src a : Nat) (b : List PByte) (hint : Fin 4) : Dev :=
  if !redFits a b then d
  else if !d.regionReach c then d.count DEV_NETERR.DISCARDED 0 0 1
  else
    let w : Waiter := .red op src (d.served a) b hint
    if (d.region c).held.isEmpty && (d.region c).takesRed (d.served a / 4096) then d.redPut c w
    else d.setRegion c { d.region c with held := (d.region c).held ++ [w] }

/-- Data of a fill that CXL.cache has brought from the host: the 4 KiB of its line (R325, R327). -/
def Dev.fillHost (d : Dev) (c l : Nat) (ext : List PByte) : Dev :=
  match (d.region c).fill l, (d.window (l * 4096)).any (·.host) with
  | some f, true =>
    if ext.length = 4096 then
      ((List.range 16).filter fun s => f.asked.getLsbD s && !f.got.getLsbD s).foldl (fun d s =>
        let b := (ext.drop (256 * s)).take 256
        d.fillGot c l s b (if anyPoison b then .poisonRead else .ok)) d
    else d
  | _, _ => d

/-- CACHE_FILL: the data of a line's fill returns from backing memory and takes its bank accesses; what comes over the port by UIO comes with its completions (R219, R231, R329). -/
def Dev.regionFill (d : Dev) (c l : Nat) (ext : List PByte) : Dev :=
  if ((d.region c).fill l).isNone then d else ((d.fillNear c l).fillHost c l ext).regWork c

/-- A line operation reaches a region, which starts one a BCLK; `ext`: what the host brings for a PREFETCH. One that is not reached discards it, and counts it (R27, R223). -/
def Dev.regionOp (d : Dev) (c l : Nat) (o : LineOp) (hint : Fin 4) (own : Option (Nat × Nat)) (ext : List PByte) : Dev :=
  if homeRegion (l * 4096) != c || !d.cacheable (l * 4096) 4096 then d
  else if !d.regionReach c then
    let d := d.count DEV_NETERR.DISCARDED 0 0 1
    match own with | some p => d.descReport p.1 p.2 .fencedUnit 0 | none => d
  else
    let w := Waiter.op o hint own
    ((d.regPut c l 4 (d.banksFor c l w) (.acc w)).fillHost c l ext).regWork c

/-- A BCR_PART write (R213): refused while a change is in progress; granules leaving scratch complete the accesses that arrived before and join the cache at once with every line invalid, lines of ways leaving the cache leave. -/
def Dev.partWrite (d : Dev) (c : Nat) (mask : BitVec 16) : Dev :=
  let r := d.region c
  let old := BitVec.ofNat 16 (d.fld BCR_PART.SCRATCH_MASK c 0)
  if r.partBusy then d.bcrErr c BCR_ERR.PART_REFUSED 0
  else if old = mask then d
  else
    let d := if old &&& ~~~mask = 0 then d else d.regDrain c r.queue.length
    let d := d.setFld BCR_PART.SCRATCH_MASK c 0 mask.toNat
    (d.setRegion c { d.region c with zeroing := some (mask &&& ~~~old), zeroAt := none }).partStep c

/-- TRAP_CLEAR (R221, R236). -/
def Dev.trapClear (d : Dev) (c : Nat) : Dev := d.setRegion c { d.region c with traps := [] }

/-! Accesses of the block's own engines to a line: made at once where the line has what they need, and otherwise waited for (R217, R226, R227; log 136). -/

/-- Something reached the line before: it waits there, or in the queue, or a fill of it is in progress (R226). -/
def Dev.engBusy (d : Dev) (c l : Nat) : Bool :=
  (d.region c).queue.any (fun e => e.line == l) || d.lineBusy c l || ((d.region c).fill l).isSome || (d.region c).fillWait.any fun p => p.1 == l

/-- An engine's access finds a line brought in for it: what its data came with, and that it has missed. -/
def Dev.engTake (d : Dev) (c l : Nat) : Option Status × Dev :=
  let r := d.region c
  (((r.engine.find? fun e => e.line == l).map (·.st)), d.setRegion c { r with engine := r.engine.filter fun e => e.line != l })

/-- Sectors read in place, where no queue of the memory behind them keeps the engine: from board memory in its turn, or from the host as CXL.cache has brought them (R325, R363). None: they are waited for. -/
def Dev.nearRead (d : Dev) (l : Nat) (need : BitVec 16) (crit : Bool) (ext : List PByte) : Option (List (Nat × List PByte × Status) × Dev) :=
  let ss := (List.range 16).filter fun s => need.getLsbD s
  if l * 4096 < scratchBase then
    if ss.all fun s => d.gdrTurns (l * 4096 + 256 * s) 256 crit then
      some (ss.foldl (fun p s =>
        let r := p.2.gddrRead (l * 4096 + 256 * s) 256 []
        (p.1 ++ [(s, r.1, r.2.1)], r.2.2.gdrTake (l * 4096 + 256 * s) 256)) ([], d))
    else none
  else
    match d.window (l * 4096) with
    | some h =>
      if h.host && ext.length == 4096 && d.cacheOn then
        some (ss.map fun s => let b := (ext.drop (256 * s)).take 256; (s, b, if anyPoison b then Status.poisonRead else .ok),
          ss.foldl (fun d s => d.emit (.hostRead (h.target + 256 * s) 256)) d)
      else none
    | none => none

/-- A line an engine needs sectors of, resident with them: where it lies, what their data came with, whether they were fetched or the line allocated; none when the access waits. -/
def Dev.engLine (d : Dev) (src c l : Nat) (need : BitVec 16) (ext : List PByte) : Option (Nat × Status × Bool) × Dev :=
  if d.engBusy c l then (none, d.block .turn)
  else
    let d := d.refetchAt c l need
    let miss := need &&& ~~~(d.validOf c l)
    match (d.region c).find l, decide (miss = 0) with
    | some i, true =>
      let r := d.engTake c l
      (some (i, r.1.getD .ok, r.1.isSome), r.2)
    | here, _ =>
      match here <|> d.emptyWay c l, d.nearRead l miss (critSrc src) ext with
      | some i, some (data, d) =>
        let d := if here.isSome then d else d.alloc c i l
        (some (i, data.foldl (fun s p => s.first p.2.2) .ok, true), (d.fillPut c i data))
      | _, _ => (none, d.block (.line c l need (critSrc src)))

/-- An engine's read of a line: uncached when the region has no way or a DEAD read misses, else through the line (R216, R217, R218, R220). -/
def Dev.lineRead (d : Dev) (src c a len hint : Nat) (ext : List PByte) : List PByte × Status × Dev :=
  let l := a / 4096
  let need := sectorsOf a len
  if ((d.region c).find l).isNone && (d.ways c == [] || hint == 3) then
    if d.engBusy c l then (poisonBytes len, .poisonRead, d.block .turn)
    else
      let d := d.trapHit c l .read
      let d := if d.ways c = [] then d else d.hitMiss c false
      match d.window a with
      | some h =>
        if !h.host then d.engRead src h.target len
        else
          match d.nearRead l need (critSrc src) ext with
          | some (data, d) => (FillBuf.bytes ⟨0, 0, data, false⟩ a len, FillBuf.status ⟨0, 0, data, false⟩ need, d)
          | none => (poisonBytes len, .poisonRead, if d.cacheOn then d.block .turn else d)
      | none =>
        match d.nearRead l need (critSrc src) ext with
        | some (data, d) => (FillBuf.bytes ⟨0, 0, data, false⟩ a len, FillBuf.status ⟨0, 0, data, false⟩ need, d)
        | none => (poisonBytes len, .poisonRead, d.block .turn)
  else
    match d.engLine src c l need ext with
    | (none, d) => (poisonBytes len, .poisonRead, d)
    | (some (i, st, miss), d) =>
      let (b, st', d) := ((d.trapHit c l .read).hitMiss c !miss).hitRead c i a len hint
      (b, st.first st', d)

/-- An engine's write of a line (R217, R218); in a region without ways it passes to the backing memory (R216). -/
def Dev.lineWrite (d : Dev) (src c a : Nat) (b : List PByte) (hint : Nat) (owner : UioOwner) (ext : List PByte) : Status × Dev :=
  let l := a / 4096
  if ((d.region c).find l).isNone && d.ways c == [] then
    if d.engBusy c l then (.ok, d.block .turn) else (.ok, (d.trapHit c l .write).backWrite a b owner)
  else
    match d.engLine src c l (sectorsPart a b.length) ext with
    | (none, d) => (.ok, d)
    | (some (i, st, miss), d) =>
      let (st', d) := ((d.trapHit c l .write).hitMiss c !miss).hitWrite c i a b hint
      (st.first st', d)

/-- An engine's reduction into a line: taken where the region's reduction unit has room (R216, R217, R224, R228). -/
def Dev.lineRed (d : Dev) (src c op a : Nat) (b : List PByte) (hint : Nat) (ext : List PByte) : Status × Dev :=
  let l := a / 4096
  if d.ways c = [] then (.badDescriptor, d.redNoWay c a)
  else if !(d.region c).takesRed l || !(d.region c).held.isEmpty then (.ok, d.block .turn)
  else
    match d.engLine src c l (sectorsOf a b.length) ext with
    | (none, d) => (.ok, d)
    | (some (i, _, _), d) => (d.trapHit c l .red).hitRed c i op a b hint

/-- Nothing that reached the region before is after this line of scratch (R226). -/
def Dev.scratchTurn (d : Dev) (c a : Nat) : Bool := !(d.region c).queue.any fun e => e.line == a / 4096

/-! Events of the engines (log 136). -/

/-- What an access waits for is asked for: sectors of a line, a way for it with them; data behind the port; a turn comes by itself. -/
def Dev.ask (d : Dev) (a : Ask) : Dev :=
  match a with
  | .turn => d
  | .row n row => d.rowAsk n row
  | .line c l need crit =>
    let d := d.refetchAt c l need
    let r := d.region c
    let e := (r.engine.find? fun e => e.line == l).getD ⟨l, 0, crit, .ok⟩
    ((d.setRegion c { r with engine := r.engine.filter (fun e => e.line != l) ++ [{ e with need := e.need ||| need }] }).fillGo c l crit).regWork c
  | .uio src g len =>
    ((uioPieces g len).filter fun p => !d.uio.any fun u => u.owner == .eng src && u.addr == p.1 && u.len == p.2).foldl
      (fun d p => d.uioPut false p.1 p.2 [] (.eng src)) d |>.uioPump

/-- An event of an engine: carried out whole, or not begun while one of its accesses has to wait; what they wait for is asked for. -/
def Dev.whole (d : Dev) (f : Dev → Dev) : Dev :=
  let t := f { d with waits := [] }
  if t.waits.isEmpty then t else t.waits.eraseDups.foldl Dev.ask { d with waits := [] }

/-! The commands. -/

def execRegionRead (c : RegionId) (req : MemReq) (s : State) : Host.Outcome State Fault Refusal := s.ev fun d => d.regionRead c req
def execRegionWrite (c : RegionId) (req : MemReq) (s : State) : Host.Outcome State Fault Refusal := s.ev fun d => d.regionWrite c req
def execCacheFill (c : RegionId) (line : Nat) (ext : List PByte) (s : State) : Host.Outcome State Fault Refusal := s.ev fun d => d.regionFill c line ext
def execAddFp32 (c : RegionId) (src addr : Nat) (data : List PByte) (hint : Fin 4) (s : State) : Host.Outcome State Fault Refusal :=
  s.ev fun d => d.regionRed c 0 src addr data hint
def execAddInt32 (c : RegionId) (src addr : Nat) (data : List PByte) (hint : Fin 4) (s : State) : Host.Outcome State Fault Refusal :=
  s.ev fun d => d.regionRed c 1 src addr data hint
def execMaxFp32 (c : RegionId) (src addr : Nat) (data : List PByte) (hint : Fin 4) (s : State) : Host.Outcome State Fault Refusal :=
  s.ev fun d => d.regionRed c 2 src addr data hint
def execMaxInt32 (c : RegionId) (src addr : Nat) (data : List PByte) (hint : Fin 4) (s : State) : Host.Outcome State Fault Refusal :=
  s.ev fun d => d.regionRed c 3 src addr data hint
def execPrefetch (c : RegionId) (line : Nat) (hint : Fin 4) (ext : List PByte) (s : State) : Host.Outcome State Fault Refusal :=
  s.ev fun d => d.regionOp c line .prefetch hint none ext
def execClean (c : RegionId) (line : Nat) (s : State) : Host.Outcome State Fault Refusal := s.ev fun d => d.regionOp c line .clean 0 none []
def execFlush (c : RegionId) (line : Nat) (s : State) : Host.Outcome State Fault Refusal := s.ev fun d => d.regionOp c line .flush 0 none []
def execInvalidate (c : RegionId) (line : Nat) (s : State) : Host.Outcome State Fault Refusal := s.ev fun d => d.regionOp c line .invalidate 0 none []
def execDiscard (c : RegionId) (line : Nat) (s : State) : Host.Outcome State Fault Refusal := s.ev fun d => d.regionOp c line .discard 0 none []
def execSethint (c : RegionId) (line : Nat) (hint : Fin 4) (s : State) : Host.Outcome State Fault Refusal := s.ev fun d => d.regionOp c line .sethint hint none []
def execPartitionChangeDone (c : RegionId) (s : State) : Host.Outcome State Fault Refusal := s.ev fun d => d.partDone c

end Sys2Proof.Machine
end

