-- ==== Sys2Proof/Machine/Access.lean ====
section
/-! DEFINITION. Accesses of the block's own engines to local addresses: the address map, holes, fenced endpoints, and the unit that serves each range (R27, R32, R33). -/

namespace Sys2Proof.Machine

/-! Holes (R33). -/

/-- Every byte of a run lies in some window. -/
def Dev.winCovers (d : Dev) : Nat → Nat → Nat → Bool
  | 0, _, _ => false
  | fuel + 1, a, len =>
    if len = 0 then true
    else
      match (List.range 63).find? fun w => d.winMatch w a with
      | none => false
      | some w =>
        let stop := d.winBase w + d.winSize w
        if a + len ≤ stop then true else d.winCovers fuel stop (a + len - stop)

/-- No byte of a run is a hole (R32, R33). -/
def Dev.backed (d : Dev) (a len : Nat) : Bool :=
  decide (a + len ≤ stackEnd) || d.gddrHas a len || d.scratchBacked a len || lsBacked a len ||
    (decide (batonBase ≤ a) && decide (a + len ≤ batonEnd)) || (decide (fabBase ≤ a) && decide (a + len ≤ 2 ^ 52) && d.winCovers 64 a len)

/-! One line at most (4 KiB). An access that cannot be made yet blocks the event it belongs to (log 136). -/

/-- Read at most one line where it is served; of a window over UIO the requests go out, and their data comes with their completions. `ext`: the 4 KiB of the line that CXL.cache has brought, for a line of the host. -/
def Dev.accReadAt (d : Dev) (src a len hint : Nat) (ext : List PByte) : List PByte × Status × Dev :=
  if a + len ≤ stackEnd then
    let n := stackCore a
    if !d.sliceReach n then fencedRead len d
    else if (d.slice n).resetting then fencedRead len d
    else d.stackRead a len
  else if d.scratchBacked a len then
    let c := scratchRegion a
    if !d.regionReach c then fencedRead len d
    else if d.scratchTurn c a then d.dataRead c a len
    else (poisonBytes len, .poisonRead, d.block .turn)
  else if lsBacked a len then
    let n := (a - lsBase) / 2 ^ 22
    if d.lsReach n then d.lsRead n ((a - lsBase) % 2 ^ 22) len else fencedRead len d
  else if batonBase ≤ a ∧ a + len ≤ batonEnd then
    if d.regionReach (batonRegion ((a - batonBase) / 64)) then d.btnLoad src a len else fencedRead len d
  else if d.cacheable a len then
    let c := homeRegion a
    if d.regionReach c then d.lineRead src c a len hint ext else fencedRead len d
  else
    match d.window a with
    | some h =>
      if !h.host then (if d.ownGlobal h.target then (poisonBytes len, .poisonRead, d.hole src a false) else d.engRead src h.target len)
      else if !d.cacheOn then (poisonBytes len, .poisonRead, d)
      else
        let b := (ext.drop (a % 4096)).take len
        if b.length = len then (b, if anyPoison b then .poisonRead else .ok, d.emit (.hostRead h.target len)) else (poisonBytes len, .poisonRead, d.block .turn)
    | none => (poisonBytes len, .poisonRead, d.hole src a false)

/-- Read at most one line; through a window onto the device itself it is served where that leads (R34). -/
def Dev.accRead1 (d : Dev) (src a len hint : Nat) (ext : List PByte) : List PByte × Status × Dev := d.accReadAt src (d.served a) len hint ext

/-- Write at most one line where it is served; the status of a merge that met a bad codeword is its failure (R335). -/
def Dev.accWriteAt (d : Dev) (src a : Nat) (b : List PByte) (hint : Nat) (owner : UioOwner) (ext : List PByte) : Status × Dev :=
  let len := b.length
  if a + len ≤ stackEnd then
    let n := stackCore a
    if !d.sliceReach n then (.fencedUnit, d)
    else if (d.slice n).resetting then (.fencedUnit, d)
    else d.stackWrite a b
  else if d.scratchBacked a len then
    let c := scratchRegion a
    if !d.regionReach c then (.fencedUnit, d)
    else if d.scratchTurn c a then d.dataWrite c a b
    else (.ok, d.block .turn)
  else if lsBacked a len then
    let n := (a - lsBase) / 2 ^ 22
    if d.lsReach n then (classStatus (d.mergeCls a len), d.lsWrite n ((a - lsBase) % 2 ^ 22) b) else (.fencedUnit, d)
  else if batonBase ≤ a ∧ a + len ≤ batonEnd then
    if d.regionReach (batonRegion ((a - batonBase) / 64)) then d.btnStore src a b else (.fencedUnit, d)
  else if d.cacheable a len then
    let c := homeRegion a
    if d.regionReach c then d.lineWrite src c a b hint owner ext else (.fencedUnit, d)
  else
    match d.window a with
    | some h => (.ok, if !h.host && d.ownGlobal h.target then d.hole src a true else d.winSend h b owner)
    | none => (.ok, d.hole src a true)

/-- Write at most one line; a window that takes no writes discards it (R34, R327). -/
def Dev.accWrite1 (d : Dev) (src a : Nat) (b : List PByte) (hint : Nat) (owner : UioOwner) (ext : List PByte) : Status × Dev :=
  if d.ownRo 64 a || d.roWin (d.served a) then (.ok, d.fabErr FAB_ERR.WIN_RO none) else d.accWriteAt src (d.served a) b hint owner ext

/-- A reduction packet where it is served: within one aligned 64 B span (R141, R224, R229). A packet that reaches a hole is recorded as a write is (R33, R39; log 172). -/
def Dev.accRedAt (d : Dev) (src op a : Nat) (b : List PByte) (hint : Nat) (ext : List PByte) : Status × Dev :=
  let len := b.length
  if d.scratchBacked a len then
    let c := scratchRegion a
    if !d.regionReach c then (.fencedUnit, d.count DEV_NETERR.DISCARDED 0 0 1)
    else if d.scratchTurn c a && (d.region c).takesRed (a / 4096) then d.redApply c op a b
    else (.ok, d.block .turn)
  else if d.cacheable a len then
    let c := homeRegion a
    if !d.regionReach c then (.fencedUnit, d.count DEV_NETERR.DISCARDED 0 0 1)
    else d.lineRed src c op a b hint ext
  else
    let d := if d.backed a len then d else d.hole src a true
    (.badDescriptor, if scratchBase ≤ a ∧ a < scratchEnd then d.redRefuse (scratchRegion a) else d.redRefuse (homeRegion a))

/-- A reduction packet (R34, R141). -/
def Dev.accRed1 (d : Dev) (src op a : Nat) (b : List PByte) (hint : Nat) (ext : List PByte) : Status × Dev := d.accRedAt src op (d.served a) b hint ext

/-! Runs of bytes. -/

/-- What the port brought for the line of `a`, where `ext` begins at the line of `a0`. -/
def extLine (ext : List PByte) (a0 a : Nat) : List PByte := (ext.drop ((a / 4096 - a0 / 4096) * 4096)).take 4096

/-- Read a run line by line: the status of the first part that failed stands. -/
def Dev.accReadN (d : Dev) (src a0 hint : Nat) (ext : List PByte) : Nat → Nat → Nat → List PByte × Status × Dev
  | 0, _, _ => ([], .ok, d)
  | fuel + 1, a, len =>
    if len = 0 then ([], .ok, d)
    else
      let n := min len (4096 - a % 4096)
      let (b, st, d) := d.accRead1 src a n hint (extLine ext a0 a)
      let (b', st', d) := d.accReadN src a0 hint ext fuel (a + n) (len - n)
      (b ++ b', st.first st', d)

/-- Read a run of bytes. `ext` holds what lies behind the port, from the 4 KiB line of `a` on. -/
def Dev.accRead (d : Dev) (src a len hint : Nat) (ext : List PByte) : List PByte × Status × Dev :=
  d.accReadN src a hint ext (len / 4096 + 2) a len

/-- What stands for the host's data where the table's row has no operand that could bring it: poison, for a run of a window onto the host that is not cached (log 176); nothing elsewhere. -/
def Dev.noHost (d : Dev) (a len : Nat) : List PByte :=
  if (d.window (d.served a)).any fun h => h.host && !h.cache then poisonBytes (len + 8192) else []

/-- Read a run of bytes for an event whose row brings no data of the host. -/
def Dev.takeRead (d : Dev) (src a len : Nat) : List PByte × Status × Dev := d.accRead src a len 0 (d.noHost a len)

/-- Write a run line by line. -/
def Dev.accWriteN (d : Dev) (src a0 hint : Nat) (owner : UioOwner) (ext : List PByte) : Nat → Nat → List PByte → Status × Dev
  | 0, _, _ => (.ok, d)
  | _, _, [] => (.ok, d)
  | fuel + 1, a, b =>
    let n := 4096 - a % 4096
    let (st, d) := d.accWrite1 src a (b.take n) hint owner (extLine ext a0 a)
    let (st', d) := d.accWriteN src a0 hint owner ext fuel (a + n) (b.drop n)
    (st.first st', d)

/-- Write a run of bytes. -/
def Dev.accWrite (d : Dev) (src a : Nat) (b : List PByte) (hint : Nat) (owner : UioOwner) (ext : List PByte) : Status × Dev :=
  d.accWriteN src a hint owner ext (b.length / 4096 + 2) a b

/-- Send a run as reduction packets in ascending order (R141). -/
def Dev.accRedN (d : Dev) (src op a0 hint : Nat) (ext : List PByte) : Nat → Nat → List PByte → Status × Dev
  | 0, _, _ => (.ok, d)
  | _, _, [] => (.ok, d)
  | fuel + 1, a, b =>
    let n := 64 - a % 64
    let (st, d) := d.accRed1 src op a (b.take n) hint (extLine ext a0 a)
    let (st', d) := d.accRedN src op a0 hint ext fuel (a + n) (b.drop n)
    (st.first st', d)

/-- Reduce a run into memory. -/
def Dev.accRed (d : Dev) (src op a : Nat) (b : List PByte) (hint : Nat) (ext : List PByte) : Status × Dev :=
  d.accRedN src op a hint ext (b.length / 64 + 2) a b

/-- Source endpoints (R22): compute side of core n, queue engine, CXL port, relay engine. -/
def endCore (n : Nat) : Nat := (if n < 128 then 1 else 2) * 512 + n / 8 % 16 * 32 + n % 8
/-- The queue engine's endpoint (R22). -/
def endQueue : Nat := 3 * 512 + 3
/-- The port's endpoint (R22). -/
def endPort : Nat := 3 * 512
/-- The relay engine's endpoint (R22). -/
def endRelay : Nat := 3 * 512 + 1
/-- The management controller's endpoint (R22). -/
def endMgmt : Nat := 3 * 512 + 4
/-- The endpoint of the cluster blocks of cluster k (R22). -/
def endCluster (k : Nat) : Nat := (if k < 16 then 1 else 2) * 512 + k % 16 * 32 + 16

end Sys2Proof.Machine
end

