-- ==== Sys2Proof/Machine/Program.lean ====
section
/-! DEFINITION. Tile programs: command words, fetch and dispatch, faults, completion and retirement (R96 to R107, R123 to R125). -/

namespace Sys2Proof.Machine

/-! Command words (R96 to R102). -/

/-- OPCODE. -/
def wOp (w : Nat) : Nat := bitsOf w 0 8
/-- WGATE. -/
def wGate (w : Nat) : Nat := bitsOf w 8 4
/-- WEN. -/
def wWen (w : Nat) : Bool := bitOf w 12
/-- SGATE. -/
def wSGate (w : Nat) : Nat := bitsOf w 13 4
/-- SEN. -/
def wSen (w : Nat) : Bool := bitOf w 17

/-- Where a command waits for issue, by the requester indices of R104. -/
inductive TQueue where
  | arr | vec | dma | sync
  deriving DecidableEq, Repr, Inhabited

/-- The queue of an opcode (R97); none for a dispatcher command. -/
def opQueue (op : Nat) : Option TQueue :=
  match op with
  | 0x02 | 0x0E | 0x38 => some .sync
  | 0x10 | 0x11 | 0x12 => some .arr
  | 0x20 => some .vec
  | 0x30 => some .dma
  | _ => none

/-- A dispatcher opcode (R97). -/
def opDisp (op : Nat) : Bool := op == 0x01 || op == 0x08 || op == 0x09 || op == 0x0A || op == 0x0C

/-- The operand bits of a word that are reserved: lowest bit and count (R96, R98, R99, R102). -/
def opReserved (op : Nat) : Nat × Nat :=
  match op with
  | 0x08 => (64, 0)
  | 0x09 => (46, 18)
  | 0x0A => (58, 6)
  | 0x0C => (46, 18)
  | 0x0E => (50, 14)
  | 0x10 => (26, 38)
  | 0x11 => (41, 23)
  | 0x12 => (61, 3)
  | 0x20 => (59, 5)
  | 0x30 => (42, 22)
  | 0x38 => (35, 29)
  | _ => (18, 46)

/-- The fault a word meets at dispatch, if any: undefined opcode or reserved field, gates on a dispatcher command, too many descriptors (R97, R102, R123). DESIGN CHOICE (log 174): R123 gives no order where one word breaks several of these; here 0x01 stands before 0x02, and that before 0x09. -/
def wordFault (w : Nat) : Option Nat :=
  let op := wOp w
  let r := opReserved op
  if !(opDisp op || (opQueue op).isSome) then some 0x01
  else if bitsOf w r.1 r.2 ≠ 0 then some 0x01
  else if op = 0x38 ∧ bitsOf w 32 3 > 3 then some 0x01
  else if opDisp op && (wWen w || wSen w) then some 0x02
  else if op = 0x30 ∧ bitsOf w 34 8 > 31 then some 0x09
  else none

/-- The size of the local store (R108). -/
def lsSize : Nat := 0x300000

/-! The running program. -/

/-- Change the running program of core n. -/
def Dev.modProg (d : Dev) (n : Nat) (f : Prog → Prog) : Dev :=
  let c := d.core n
  d.setCore n { c with prog := c.prog.map f }

/-- The head and contents of a queue. -/
def Prog.queue (p : Prog) : TQueue → List TileCmd
  | .arr => p.arrQ
  | .vec => p.vecQ
  | .dma => p.dmaQ
  | .sync => p.syncQ

/-- Replace a queue. -/
def Prog.setQueue (p : Prog) (q : TQueue) (l : List TileCmd) : Prog :=
  match q with
  | .arr => { p with arrQ := l }
  | .vec => { p with vecQ := l }
  | .dma => { p with dmaQ := l }
  | .sync => { p with syncQ := l }

/-- Entries a queue holds (R103). -/
def TQueue.size : TQueue → Nat
  | .arr => 16
  | .vec => 8
  | .dma => 16
  | .sync => 8

/-- Requester index of a queue at a gate (R104). -/
def TQueue.index : TQueue → Nat
  | .arr => 0
  | .vec => 1
  | .dma => 2
  | .sync => 3

/-- The program was stopped by a fence of its core (R122). -/
def Prog.fenced (p : Prog) : Bool := p.faulted == some (.fencedUnit, 0)

/-- The fault of a program (R124): stop fetch and dispatch, discard what has not issued, let what has issued complete, record it. A BATON word that waits is withdrawn (R306). -/
def Dev.progFault (d : Dev) (n : Nat) (st : Status) (detail op pc : Nat) : Dev :=
  match (d.core n).prog with
  | none => d
  | some p =>
    let d := if p.fenced then d else d.coreFault n st detail op pc
    if p.faulted.isSome then d
    else
      let d := d.modProg n fun p => { p with faulted := some (st, detail), loops := [], buf := [], arrQ := [], vecQ := [], dmaQ := [], syncQ := [] }
      let d := d.btnWithdraw (fun o => match o with | .tile c _ => c == n | _ => false) .deadline
      d.modProg n fun p => { p with issued := p.issued.filter fun i => !(wOp i.cmd.word.toNat == 0x38 && i.done == some .deadline) }

/-- Where execution goes on after the word before `pc`: back to the start of a body with repeats left, else on (R102). -/
def loopNext (pc : Nat) : List LoopFrame → Nat × List LoopFrame
  | [] => (pc, [])
  | f :: t => if pc = f.last then (if f.left = 0 then loopNext pc t else (f.first, { f with left := f.left - 1 } :: t)) else (pc, f :: t)

/-- Step past the word at the program's pc. -/
def Prog.advance (p : Prog) : Prog :=
  let r := loopNext (p.pc + 8) p.loops
  { p with pc := r.1, loops := r.2 }

/-- Address register r: address and increment (R102). -/
def Prog.ar (p : Prog) (r : Nat) : Nat × Int := Tbl.get (0, 0) p.ars r

/-- Registers of the operands a VOP's function takes: DST, a, b, c (R99, R100). A field the function does not use names no operand: INCA leaves its register (log 143). -/
def vopRegs (w : Nat) : List (Option Nat) :=
  let f := bitsOf w 18 6
  [some (bitsOf w 27 4), some (bitsOf w 31 4),
   if f ≤ 0x05 ∨ f = 0x0C ∨ f = 0x12 then some (bitsOf w 35 4) else none,
   if f = 0x03 then some (bitsOf w 39 4) else none]

/-- Advance registers by their increments, each once (R99, INCA). -/
def Prog.inca (p : Prog) (rs : List Nat) : Prog :=
  rs.dedup.foldl (fun p r => { p with ars := Tbl.set (0, 0) p.ars r (ux 22 ((p.ar r).1 + (p.ar r).2), (p.ar r).2) }) p

/-- The CCLK in which the dispatcher takes its next word: one a CCLK (R103). -/
def Prog.dispNow (p : Prog) (now : Nat) : Nat := max p.dispAt now

/-- Place a word in its queue with its captured operands, in the CCLK the dispatcher takes it; in an empty queue it is the head from then (R102, R103). -/
def Prog.enqueue (p : Prog) (q : TQueue) (id w now : Nat) : Prog :=
  let vop := wOp w == 0x20
  let regs := if vop then vopRegs w else []
  let cmd : TileCmd := ⟨id, BitVec.ofNat 64 w, p.pc, regs.map fun r => ((r.map fun i => (p.ar i).1).getD 0), p.scaleGran, p.bvalue, now⟩
  let p := { p with dispAt := now + 1 }
  let p := if p.queue q = [] then { p with headAt := Tbl.set 0 p.headAt q.index now } else p
  let p := p.setQueue q (p.queue q ++ [cmd])
  (if vop && bitOf w 44 then p.inca (regs.filterMap fun o => o) else p).advance

/-- The words of one 64 B access from `pc` on, each with whether it is poison (R96, R103). -/
def granWords (pc : Nat) (b : List PByte) : List (Nat × Nat × Bool) :=
  ((List.range 8).map fun i => let x := (b.drop (8 * i)).take 8; (pc / 64 * 64 + 8 * i, ofPBytes x, anyPoison x)).drop (pc % 64 / 8)

/-- The decode buffer has the word at the program's pc at its head: words before it are dropped, and where it does not hold the word one 64 B access fetches the granule (R103). Fetch runs no further ahead (log 145). -/
def Dev.bufFill (d : Dev) (n : Nat) : Dev :=
  match (d.core n).prog with
  | none => d
  | some p =>
    if p.buf.head?.any fun x => x.1 == p.pc then d
    else
      match p.buf.dropWhile fun x => x.1 != p.pc with
      | x :: t => d.modProg n fun p => { p with buf := x :: t }
      | [] =>
        let r := d.lsRead n (p.pc / 64 * 64) 64
        r.2.2.modProg n fun p => { p with buf := granWords p.pc r.1 }

/-- The dispatcher takes a word: counted, and sampled where a wrap has armed a sample (R528, R530). -/
def Dev.dispatched (d : Dev) (n op pc : Nat) : Dev :=
  let d :=
    match (d.core n).sampleArm with
    | none => d
    | some (i, _) =>
      let d := d.setCore n { d.core n with sampleArm := none }
      if d.bit PERF_SAMPLE.VALID n 0 then d
      else (((d.setBit PERF_SAMPLE.VALID n 0 true).setFld PERF_SAMPLE.CNT n 0 i).setFld PERF_SAMPLE.OPCODE n 0 op).setFld PERF_SAMPLE.PC n 0 (bitsOf pc 3 19)
  d.pmcCore n 0x02 1

/-- Dispatch the word at the head of the decode buffer, then `go` on; nothing at a dispatcher command or before a full queue; a bad word faults (R103, R123). DESIGN CHOICE (log 174): OPCODE of CORE_FAULT for a word fetched as poison is the low byte of the poisoned data. -/
def Dev.seqHead (d : Dev) (n : Nat) (go : Dev → Dev) : Dev :=
  match (d.core n).prog with
  | none => d
  | some p =>
    match p.buf with
    | [] => d
    | (_, w, bad) :: _ =>
      if bad then d.progFault n .poisonRead 0x20 (wOp w) p.pc
      else
        match wordFault w with
        | some detail => d.progFault n .badDescriptor detail (wOp w) p.pc
        | none =>
          match opQueue (wOp w) with
          | none => d
          | some q =>
            if (p.queue q).length < q.size then
              let c := d.core n
              go ((d.setCore n { c with prog := some (p.enqueue q c.nextCmd w (p.dispNow (d.cclk n))), nextCmd := c.nextCmd + 1 }).dispatched n (wOp w) p.pc)
            else d

/-- Dispatch the next word of a program that has neither ended nor faulted; an address past the local store faults (R102, R103). DESIGN CHOICE (log 174): where no word exists CORE_FAULT takes OPCODE 0. -/
def Dev.seqWord (d : Dev) (n : Nat) (go : Dev → Dev) : Dev :=
  match (d.core n).prog with
  | none => d
  | some p =>
    if p.ended || p.faulted.isSome then d
    else if p.pc + 8 > lsSize then d.progFault n .badDescriptor 0x04 0 p.pc
    else (d.bufFill n).seqHead n go

/-- Dispatch at most so many words. -/
def Dev.seqFill (n : Nat) : Nat → Dev → Dev
  | 0, d => d
  | fuel + 1, d => d.seqWord n (Dev.seqFill n fuel)

/-- Dispatch as far as it goes. -/
def Dev.dispatch (d : Dev) (n : Nat) : Dev := Dev.seqFill n 64 d

/-- A dispatcher command is taken, when it is the next word; `f` is what it does, and none is a fault with that DETAIL. -/
def Dev.dispCmd (d : Dev) (n op : Nat) (f : Nat → Prog → Prog ⊕ Nat) : Dev :=
  let d := d.dispatch n
  match (d.core n).prog with
  | none => d
  | some p =>
    if p.ended || p.faulted.isSome then d
    else
      match p.buf with
      | [] => d
      | (_, w, _) :: _ =>
        if wOp w = op then
          match f w p with
          | .inl p' => ((d.modProg n fun _ => { p' with dispAt := p.dispNow (d.cclk n) + 1 }).dispatched n op p.pc).dispatch n
          | .inr detail => d.progFault n .badDescriptor detail op p.pc
        else d

/-- END (R105). -/
def dispEnd (_ : Nat) (p : Prog) : Prog ⊕ Nat := .inl { p with ended := true }
/-- SETA (R102). -/
def dispSeta (w : Nat) (p : Prog) : Prog ⊕ Nat :=
  .inl { p with ars := Tbl.set (0, 0) p.ars (bitsOf w 18 4) (bitsOf w 22 22, sx 20 (bitsOf w 44 20)) }.advance
/-- ADDA (R102). -/
def dispAdda (w : Nat) (p : Prog) : Prog ⊕ Nat :=
  let a := p.ar (bitsOf w 18 4)
  .inl { p with ars := Tbl.set (0, 0) p.ars (bitsOf w 18 4) (ux 22 (a.1 + sx 24 (bitsOf w 22 24)), a.2) }.advance
/-- SETP (R102). -/
def dispSetp (w : Nat) (p : Prog) : Prog ⊕ Nat :=
  let v := bitsOf w 26 32
  match bitsOf w 18 8 with
  | 0 => .inl { p with scaleGran := v }.advance
  | 1 => .inl { p with watchdog := v }.advance
  | 2 => .inl { p with bvalue := v }.advance
  | _ => .inr 0x06
/-- LOOP (R102). -/
def dispLoop (w : Nat) (p : Prog) : Prog ⊕ Nat :=
  let body := bitsOf w 34 12
  let first := p.pc + 8
  let last := first + 8 * body
  if body = 0 ∨ p.loops.length ≥ 4 ∨ p.loops.any (fun f => decide (f.last < last)) then .inr 0x03
  else .inl { p with pc := first, loops := ⟨first, last, bitsOf w 18 16⟩ :: p.loops }

/-! Programs start, complete commands and retire (R104 to R106). -/

/-- Start a program: parameters and gates start as R102 and R104 say (R105). -/
def Dev.progStart (d : Dev) (n : Nat) (l : Launch) (rest : List Launch) : Dev :=
  (d.setCore n { d.core n with lq := rest, gates := List.replicate 16 0, prog := some { pc := l.pc, launch := l, ended := false, faulted := none, ars := [], scaleGran := 0, watchdog := 1024, bvalue := 0, loops := [], arrQ := [], vecQ := [], dmaQ := [], syncQ := [], issued := [], quietAt := d.clkLive (clusterOf n), buf := [], headAt := [], dispAt := 0 } }).dispatch n

/-- The program that starts next: the first of the launch queue, when none runs and no fence holds the core (R106, R510). A walker's program runs when its phase does (R258). -/
def Dev.progReady (d : Dev) (n : Nat) : Option (Launch × List Launch) :=
  let c := d.core n
  match c.prog, (if d.fenceState n == 1 || d.fenceState n == 2 then [] else c.lq) with
  | none, l :: t => if l.attn then none else some (l, t)
  | _, _ => none

/-- Start the next program, unless it arrived in this very CCLK: it starts at the end of the cycle, when all that arrived in it stand in their order (R106; log 178). -/
def Dev.progNext (d : Dev) (n : Nat) : Dev :=
  match d.progReady n with
  | some (l, t) => if l.at' = d.cclk n then d else d.progStart n l t
  | none => d

/-- The end of a cycle: programs that arrived in it start on the cores that are free (R106; log 178). -/
def Dev.progPump (d : Dev) : Dev :=
  d.cores.foldl (fun d p => match d.progReady p.1 with | some (l, t) => d.progStart p.1 l t | none => d) d

/-- Two launches that arrived in one CCLK from different sources: the photo-finish rule orders them, the CSR as index 0, the mailbox and a page walker as index 1 (R29, R106, R258). -/
def Launch.ties (l m : Launch) : Bool := m.at' == l.at' && (m.direct || m.attn) != (l.direct || l.attn)

/-- Which of two tied launches goes first: whether the later one, `l`, does. -/
def Dev.lqTie (d : Dev) (n : Nat) (l : Launch) : Bool × Dev :=
  match d.tie (arbKey 15 n) [0, 1] with
  | none => (false, d)
  | some (w, d) => ((w == 1) == (l.direct || l.attn), d)

/-- A program arrives at the launch queue of core n (R106): the launch that finds no place, if one does, and the machine. One that ties with the last that waits there goes before it where the photo-finish rule says so, and takes its place where it was the last one. -/
def Dev.lqPut (d : Dev) (n : Nat) (l : Launch) : Option Launch × Dev :=
  let q := (d.core n).lq
  let full := decide (4 ≤ q.length)
  let put (d : Dev) (q : List Launch) : Dev := (d.setCore n { d.core n with lq := q }).progNext n
  match q.getLast?.filter l.ties with
  | none => if full then (some l, d) else (none, put d (q ++ [l]))
  | some m =>
    let (before, d) := d.lqTie n l
    if before then (if full then (some m, put d (q.dropLast ++ [l])) else (none, put d (q.dropLast ++ [l, m])))
    else if full then (some l, d) else (none, put d (q ++ [l]))

/-- A launch that has found no place: one from the dxlaunch CSR is discarded with LAUNCH_LOST, one from the mailbox stays at its head, which is `kept` for one that had taken a place, and a walker's comes again (R113, R119, R258). -/
def Dev.lqLost (d : Dev) (n : Nat) (l : Launch) (kept : Nat) : Dev :=
  if l.attn then d
  else if l.direct then d.setCore n { d.core n with mboxHead := kept }
  else d.setBit DXMCTL.LAUNCH_LOST n 0 true

/-- A report of core n on the launch with a tag: ignored unless a TILE_LAUNCH of that tag waits for this core (R121). -/
def Dev.coreReport (d : Dev) (tag n : Nat) (st : Status) : Dev :=
  { d with descs := d.descs.map fun x =>
      if dqOp x.body = 0x10 ∧ x.id % 65536 = tag ∧ x.cores.contains n then { x with cores := x.cores.erase n, reports := x.reports ++ [(n, st, 0)] } else x }

/-- Record a dxlaunch program that a fence stopped, or lose the record; a DIRECT one is reported to the queue engine (R122), a walker's is the step's own matter (R271). -/
def Dev.retireFenced (d : Dev) (n : Nat) (l : Launch) : Dev :=
  if l.attn then d
  else if l.direct then d.coreReport l.tag n .fencedUnit
  else
    let c := d.core n
    if c.retQ.length < 4 then d.setCore n { c with retQ := c.retQ ++ [⟨l.tag, .fencedUnit, 0⟩] } else d.setBit DXMCTL.RETIRE_LOST n 0 true

/-- The launch queue of a fenced core retires, in launch order (R122). -/
def Dev.lqFenced (d : Dev) (n : Nat) : Dev :=
  (d.core n).lq.foldl (fun d l => d.retireFenced n l) (d.setCore n { d.core n with lq := [] })

/-- Note that the sequencer issued or completed a command (R107). -/
def Dev.seqActive (d : Dev) (n : Nat) : Dev := let t := d.clkLive (clusterOf n); d.modProg n fun p => { p with quietAt := t }

/-- Add one count to gate g, for a command; past 255 the program faults (R104, R123). -/
def Dev.gateSignal (d : Dev) (n g op pc : Nat) : Dev :=
  let c := d.core n
  if c.prog.isNone then d
  else if c.gates.getD g 0 ≥ 255 then d.progFault n .badDescriptor 0x08 op pc
  else d.setCore n { c with gates := c.gates.set g (c.gates.getD g 0 + 1) }

/-- DETAIL of a command that completed with a status other than OK (R123). -/
def doneDetail (op : Nat) : Nat := if op = 0x38 then 0x41 else 0x40

/-- COMMAND_COMPLETE: an issued command whose unit has finished it completes (R104, R105, R123, R124). -/
def Dev.cmdComplete (d : Dev) (n id : Nat) : Dev :=
  match (d.core n).prog with
  | none => d
  | some p =>
    match p.issued.find? fun i => i.cmd.id == id with
    | none => d
    | some i =>
      match i.done with
      | none => d
      | some st =>
        let w := i.cmd.word.toNat
        let d := (d.modProg n fun p => { p with issued := p.issued.filter fun j => j.cmd.id != id }).seqActive n
        let d :=
          if st ≠ .ok then d.progFault n st (doneDetail (wOp w)) (wOp w) i.cmd.pc
          else if wSen w && p.faulted.isNone then d.gateSignal n (wSGate w) (wOp w) i.cmd.pc
          else d
        d.dispatch n

/-- PROGRAM_RETIRE: the program retires once its queues are empty, its commands have completed and its record has a place; the next one starts. One that a fence stopped takes the launch queue with it (R105, R119, R120, R122). -/
def Dev.progRetire (d : Dev) (n : Nat) : Dev :=
  let c := d.core n
  match c.prog with
  | none => d
  | some p =>
    if (p.ended || p.faulted.isSome) && p.arrQ.isEmpty && p.vecQ.isEmpty && p.dmaQ.isEmpty && p.syncQ.isEmpty && p.issued.isEmpty then
      let f := p.faulted.getD (.ok, 0)
      if p.fenced then ((d.setCore n { c with prog := none, gates := List.replicate 16 0 }).retireFenced n p.launch).lqFenced n
      else if p.launch.direct then ((d.setCore n { c with prog := none, gates := List.replicate 16 0 }).coreReport p.launch.tag n f.1).progNext n
      else if c.retQ.length < 4 then
        (d.setCore n { c with prog := none, gates := List.replicate 16 0, retQ := c.retQ ++ [⟨p.launch.tag, f.1, f.2⟩] }).progNext n
      else d
    else d

/-- WATCHDOG_EXPIRE (R107): the count has reached WATCHDOG × 1,024 CCLK. DESIGN CHOICE (log 174): the faulting word, which R125 does not name, is the head of the first queue that is not empty, in the order ARR, VEC, DMA, SYNC; with none waiting CORE_FAULT takes OPCODE 0 and the address of the next word to dispatch. -/
def Dev.watchdogExpire (d : Dev) (n : Nat) : Dev :=
  match (d.core n).prog with
  | none => d
  | some p =>
    if p.watchdog ≠ 0 ∧ p.faulted = none ∧ !d.held ∧ p.quietAt + p.watchdog * 1024 * 2000 ≤ d.clkLive (clusterOf n) then
      match (p.arrQ ++ p.vecQ ++ p.dmaQ ++ p.syncQ).head? with
      | some c => d.progFault n .deadline 0x30 (wOp c.word.toNat) c.pc
      | none => d.progFault n .deadline 0x30 0 p.pc
    else d

/-- SEQ_ABORT: the running program faults with RESET_ABORT (R123, R126). It names no faulting word: CORE_FAULT takes OPCODE 0 and the address of the next word to dispatch (log 144). -/
def Dev.seqAbort (d : Dev) (n : Nat) : Dev :=
  match (d.core n).prog with
  | some p => if p.faulted = none then d.progFault n .resetAbort 0x50 0 p.pc else d
  | none => d

/-- The CORE_STATUS queue counts and the like (R127). -/
def Dev.queueLens (d : Dev) (n : Nat) : List Nat :=
  match (d.core n).prog with
  | none => [0, 0, 0, 0]
  | some p => [p.arrQ.length, p.vecQ.length, p.dmaQ.length, p.syncQ.length]

/-! The commands. -/

def execEndWord (core : CoreId) (s : State) : Host.Outcome State Fault Refusal := s.ev fun d => d.dispCmd core 0x01 dispEnd
def execSeta (core : CoreId) (s : State) : Host.Outcome State Fault Refusal := s.ev fun d => d.dispCmd core 0x08 dispSeta
def execAdda (core : CoreId) (s : State) : Host.Outcome State Fault Refusal := s.ev fun d => d.dispCmd core 0x09 dispAdda
def execSetp (core : CoreId) (s : State) : Host.Outcome State Fault Refusal := s.ev fun d => d.dispCmd core 0x0A dispSetp
def execLoop (core : CoreId) (s : State) : Host.Outcome State Fault Refusal := s.ev fun d => d.dispCmd core 0x0C dispLoop
def execCommandComplete (core : CoreId) (id : Nat) (s : State) : Host.Outcome State Fault Refusal := s.ev fun d => d.cmdComplete core id
def execProgramRetire (core : CoreId) (s : State) : Host.Outcome State Fault Refusal := s.ev fun d => d.progRetire core
def execWatchdogExpire (core : CoreId) (s : State) : Host.Outcome State Fault Refusal := s.ev fun d => d.watchdogExpire core

end Sys2Proof.Machine
end

