-- ==== Sys2Proof/Machine/Array.lean ====
section
/-! DEFINITION. The matrix array: accepting commands, loading sets, runs, accumulation, draining, partner service and power states (R44 to R76, R86 to R89). -/

namespace Sys2Proof.Machine

/-! Which array serves whom (R63 to R65). -/

/-- The array of core n is disabled by fuse (R5, R63). -/
def Dev.arrDisabled (d : Dev) (n : Nat) : Bool := d.fuse.disabled.contains n
/-- ARR_CFG.TARGET of core n: its commands go to the partner's array (R63, R72). -/
def Dev.arrTarget (d : Dev) (n : Nat) : Bool := d.arrDisabled n || d.bit ARR_CFG.TARGET n 0
/-- The array that takes the commands of core n. -/
def Dev.arrOf (d : Dev) (n : Nat) : Nat := if d.arrTarget n then partnerOf n else n
/-- Array a serves its partner (R64). -/
def Dev.serving (d : Dev) (a : Nat) : Bool := d.arrTarget (partnerOf a)

/-- Change the array of core a. -/
def Dev.modArr (d : Dev) (a : Nat) (f : ArrayUnit → ArrayUnit) : Dev := d.setArr a (f (d.arr a))
/-- Set x of array a. -/
def ArrayUnit.set (u : ArrayUnit) (x : Nat) : WSet := Tbl.get WSet.init u.sets x
/-- Replace set x. -/
def ArrayUnit.setSet (u : ArrayUnit) (x : Nat) (w : WSet) : ArrayUnit := { u with sets := Tbl.set WSet.init u.sets x w }

/-- The set an owner's command uses: while the array serves, each owner's own (R64). -/
def Dev.cmdSet (d : Dev) (a : Nat) (c : ArrCmd) : Nat :=
  if d.serving a then (if c.partner then 1 else 0) else bitsOf c.word.toNat 18 1

/-- The bank a RUN or DRAIN of an owner uses: bank 1 belongs to the partner (R64). -/
def cmdBank (c : ArrCmd) : Nat :=
  let b := if wOp c.word.toNat = 0x11 then bitsOf c.word.toNat 26 1 else bitsOf c.word.toNat 18 1
  if c.partner then 1 else b

/-- First slot and number of slots of a RUN or DRAIN (R45, R98). -/
def cmdSlots (c : ArrCmd) : Nat × Nat :=
  let w := c.word.toNat
  if wOp w = 0x11 then (bitsOf w 27 7, bitsOf w 19 7 + 1) else (bitsOf w 19 7, bitsOf w 26 7 + 1)

/-- A RUN writes a slot that a DRAIN has still to read (R60). -/
def drainLeft (x y : ArrCmd) : Bool :=
  cmdBank x == cmdBank y && decide ((cmdSlots x).1 + x.pos < (cmdSlots y).1 + (cmdSlots y).2) && decide ((cmdSlots y).1 < (cmdSlots x).1 + (cmdSlots x).2)

/-! Accepting commands (R45, R67, R70, R73). -/

/-- What the array answers to a command. -/
inductive ArrAns where
  | waits | taken | badCmd | unavailable
  deriving DecidableEq, Repr, Inhabited

/-- A word breaks a constraint of R45 or R86. -/
def arrBadWord (w : Nat) : Bool :=
  match wOp w with
  | 0x11 => decide (bitsOf w 27 7 + bitsOf w 19 7 + 1 > 128)
  | 0x12 => decide (bitsOf w 19 7 + bitsOf w 26 7 + 1 > 128) || bitsOf w 34 3 == 7
  | _ => false

/-- A word names accumulator bank 1. -/
def arrBank1 (w : Nat) : Bool :=
  match wOp w with
  | 0x11 => bitOf w 26
  | 0x12 => bitOf w 18
  | _ => false

/-- What array a answers to a word of core n. -/
def Dev.arrAnswer (d : Dev) (n a w : Nat) : ArrAns :=
  let u := d.arr a
  if (u.cmds.filter fun c => c.core.val == n).length ≥ 8 then .waits
  else if !d.domOn a || (n != a && !d.inService a) then .unavailable
  else if arrBadWord w || (d.serving a && arrBank1 w) then .badCmd
  else if u.power = .sleep then .waits
  else .taken

/-- A command of core n reaches the array of its TARGET: refused commands set BAD_CMD or UNAVAILABLE, a sleeping array begins to wake (R65, R67, R70). -/
def Dev.arrAccept (d : Dev) (n : CoreId) (c : TileCmd) : ArrAns × Dev :=
  if (d.arr n).targetTo.isSome then (.waits, d)
  else
    let a := d.arrOf n
    let ans := d.arrAnswer n a c.word.toNat
    (ans,
     match ans with
     | .taken => d.modArr a fun u => { u with power := .run, lastUse := d.clkSum (clusterOf a), cmds := u.cmds ++ [⟨n.val != a, n, c.id, c.word, c.scaleGran, false, 0, d.ns⟩] }
     | .badCmd => d.arrErr n ARR_ERR.BAD_CMD
     | .unavailable => d.arrErr n ARR_ERR.UNAVAILABLE
     | .waits =>
       let u := d.arr a
       if u.power = .sleep ∧ u.wakeAt = none then d.setArr a { u with wakeAt := some (d.ns + 1000) } else d)

/-- The array was active now; its clocks run (R67). -/
def Dev.arrUsed (d : Dev) (a : Nat) : Dev :=
  let t := d.clkSum (clusterOf a)
  d.modArr a fun u => { u with lastUse := t, power := if u.power = .idle then .run else u.power }

/-- A command leaves the array, complete. -/
def Dev.arrDone (d : Dev) (a : Nat) (c : ArrCmd) : Dev :=
  ((d.modArr a fun u => { u with cmds := u.cmds.filter fun x => !(x.core == c.core && x.id == c.id) }).cmdDone c.core c.id .ok).arrUsed a

/-- The request of an owner for the load port, the run order or the drain port: where `granted` notes its last grant (R30). -/
def ArrCmd.ask (c : ArrCmd) : Nat := 4 * (wOp c.word.toNat - 0x10) + if c.partner then 1 else 0

/-- Mark a command granted. -/
def Dev.arrActive (d : Dev) (a : Nat) (c : ArrCmd) : Dev :=
  d.modArr a fun u => { u with
    cmds := u.cmds.map fun x => if x.core = c.core ∧ x.id = c.id then { x with active := true } else x
    granted := if c.active then u.granted else Tbl.set 0 u.granted c.ask d.ns }

/-- When a command's request arrived: when the array accepted it, or the owner's last command for the same resource was granted, whichever is later; a requester has one request outstanding (R30; log 138). -/
def ArrayUnit.asked (u : ArrayUnit) (c : ArrCmd) : Nat := max c.at' (Tbl.get 0 u.granted c.ask)

/-- Commands of one owner accepted before c. -/
def ArrayUnit.before (u : ArrayUnit) (c : ArrCmd) : List ArrCmd :=
  (u.cmds.takeWhile fun x => !(x.core == c.core && x.id == c.id)).filter fun x => x.partner == c.partner

/-- The first command of an owner with an opcode that has not been granted. -/
def ArrayUnit.first (u : ArrayUnit) (partner : Bool) (op : Nat) : Option ArrCmd :=
  u.cmds.find? fun c => c.partner == partner && wOp c.word.toNat == op && !c.active

/-- Grant a port to one owner's command: a LOAD or DRAIN that holds it keeps it; else the one that arrived first among the ready ones, and the photo-finish rule between two of one arrival, the array's own core 0 and the partner 1 (R29, R53, R64, R71). A LOAD has arrived no sooner than it was ready, `since` (R53). -/
def Dev.arrGrant (d : Dev) (a kind op : Nat) (ready : ArrCmd → Bool) (since : ArrCmd → Nat := fun _ => 0) : Option (ArrCmd × Dev) :=
  let u := d.arr a
  match u.cmds.find? fun c => wOp c.word.toNat == op && c.active && op != 0x11 with
  | some c => some (c, d)
  | none =>
    let own := (u.first false op).filter ready
    let par := (u.first true op).filter ready
    let early (x y : Option ArrCmd) : Bool := x.any fun c => y.all fun e => decide (max (since c) (u.asked c) ≤ max (since e) (u.asked e))
    match d.tie (arbKey kind a) ((if early own par then [0] else []) ++ (if early par own then [1] else [])) with
    | none => none
    | some (i, d) => (if i = 0 then own else par).map fun c => (c, d)

/-! Runs in flight (R44, R49, R50, R54, R140). -/

/-- The run of a command, while it is in flight. -/
def ArrayUnit.run (u : ArrayUnit) (c : ArrCmd) : Option ArrRun := u.runs.find? fun r => r.cmd.core == c.core && r.cmd.id == c.id

/-- Change the run of a command. -/
def Dev.modRun (d : Dev) (a : Nat) (c : ArrCmd) (f : ArrRun → ArrRun) : Dev :=
  d.modArr a fun u => { u with runs := u.runs.map fun r => if r.cmd.core == c.core && r.cmd.id == c.id then f r else r }

/-- Vectors of a run: M. -/
def ArrRun.m (r : ArrRun) : Nat := (cmdSlots r.cmd).2

/-- The vector and the plane row k works on in a cycle: its input register, plane counter and, with the run's set, its set tag (R44, R49). -/
def ArrRun.rowAt (r : ArrRun) (c k : Nat) : Option (Nat × Nat) :=
  if r.t0 + k ≤ c ∧ c - r.t0 - k < r.p * r.m then some ((c - r.t0 - k) / r.p, r.p - 1 - (c - r.t0 - k) % r.p) else none

/-- The vector whose element k the skew stage places in word c of a run, with its strobe bit set; none: the strobe is clear (R49, R140). -/
def skewVec (p m c k : Nat) : Option Nat := if k ≤ c ∧ (c - k) % p = 0 ∧ (c - k) / p < m then some ((c - k) / p) else none

/-- The vector of a run that row k loads in a cycle. -/
def ArrRun.loads (r : ArrRun) (c k : Nat) : Option Nat := if r.t0 ≤ c then skewVec r.p r.m (c - r.t0) k else none

/-- Byte k of the input word of a cycle, the streams of the runs in flight combined; none: its strobe bit is clear (R49, R140). -/
def ArrayUnit.inByte (u : ArrayUnit) (c k : Nat) : Option Nat :=
  u.runs.findSome? fun r => (r.loads c k).bind fun i => (r.vecs[i]?).map fun v => bitsOf v.bytes.toNat (8 * k) 8

/-- The input word of a cycle carries an element of vector m of a run (R69). -/
def ArrRun.carried (r : ArrRun) (c m : Nat) : Bool := (List.range 128).any fun k => r.loads c k == some m

/-- The weight set of a run. -/
def ArrayUnit.runSet (u : ArrayUnit) (r : ArrRun) : WSet := r.snap.getD (u.set r.set)

/-- Vectors of a run that its row 0 has taken up to a cycle. -/
def ArrRun.need (r : ArrRun) (c : Nat) : Nat := if c < r.t0 then 0 else min r.m ((c - r.t0) / r.p + 1)

/-- Groups of its set that vector 0 of a run has reached up to a cycle. -/
def ArrRun.needGroups (r : ArrRun) (c : Nat) : Nat := if c < r.t0 then 0 else min 4 ((c - r.t0) / 32 + 1)

/-- The array reaches a cycle without a stall: every run has the vectors and the groups it needs by then (R54). -/
def ArrayUnit.reaches (u : ArrayUnit) (c : Nat) : Bool :=
  u.runs.all fun r => decide (r.need c ≤ r.vecs.length) && decide (r.needGroups c ≤ (u.runSet r).groups)

/-- The array has reached a cycle. -/
def Dev.arrAt (d : Dev) (a c : Nat) : Dev := d.modArr a fun u => { u with cyc := max u.cyc c }

/-! Loading (R52 to R54, R69). -/

/-- The converted tile that serves a LOAD, with groups that have come over. -/
def Dev.loadTile (d : Dev) (c : ArrCmd) : Option Tile :=
  (d.dma c.core).tiles.find? fun t => t.loadId == c.id && decide (0 < t.emitted)

/-- Parity of each row of a plane transfer: bit r of 32 (R69). -/
def planeParity (p : BitVec 8192) : BitVec 32 :=
  BitVec.ofNat 32 (((List.range 32).filter fun r => parityOf ((p.extractLsb' (256 * r) 256).toNat) 256).foldl (fun s r => s + 2 ^ r) 0)
where
  /-- Parity of the low bits of a number. -/
  parityOf (x : Nat) : Nat → Bool
    | 0 => false
    | i + 1 => xor (bitOf x i) (parityOf x i)

/-- Write group g of a set from a tile: planes and their parity, scale bytes, poison (R52, R69). -/
def WSet.writeGroup (w : WSet) (t : Tile) (g : Nat) : WSet :=
  let w := (List.range t.p).foldl (fun w p =>
    let v := Tbl.get 0 t.planes (8 * g + p)
    { w with planes := Tbl.set 0 w.planes (8 * g + p) v, parity := Tbl.set 0 w.parity (8 * g + p) (planeParity v) }) w
  let w := if t.wmx then
      (List.range 256).foldl (fun w n => { w with scales := Tbl.set 0 w.scales (256 * g + n) (Tbl.get 0 t.scales (256 * g + n)) }) w
    else w
  { w with groups := g + 1, poison := w.poison || t.poison.contains g }

/-- Earlier runs of the owner on set x have released group g (R54). -/
def Dev.released (d : Dev) (a : Nat) (c : ArrCmd) (x g : Nat) : Bool :=
  let u := d.arr a
  (u.before c).all fun r =>
    !(wOp r.word.toNat == 0x11 && d.cmdSet a r == x) ||
      (u.run r).any fun q => decide (g < q.released)

/-- LOAD: the next group of the LOAD that holds the port is written; in HOLD only a LOAD in progress goes on (R52 to R54, R68). DESIGN CHOICE (log 167): a LOAD that has the port but has written no group yet is not in progress, and does not begin in HOLD. -/
def Dev.arrLoad (d : Dev) (a : Nat) : Dev :=
  match d.arrGrant a 4 0x10 (fun c => (d.loadTile c).isSome) fun c => ((d.loadTile c).map fun t => t.at').getD 0 with
  | none => d
  | some (c, d1) =>
    match d1.loadTile c with
    | none => d1
    | some t =>
      let x := d1.cmdSet a c
      let g := c.pos
      if d.held && g == 0 then d
      else if !d1.released a c x g then d1.arrActive a c
      else if g ≥ t.emitted then d1
      else
        let d1 := d1.arrActive a c
        let u := d1.arr a
        let old := u.set x
        let u := if g = 0 then { u with runs := u.runs.map fun q => if q.set = x ∧ q.snap = none then { q with snap := some old } else q } else u
        let w0 : WSet := if g = 0 then { old with p := t.p, wmx := t.wmx, groups := 0, loaded := false, poison := false } else old
        let w := w0.writeGroup t g
        let w := if g = 3 then { w with loaded := true } else w
        let d1 := ((d1.setArr a (u.setSet x w)).modArr a fun u => { u with cmds := u.cmds.map fun y => if y.core = c.core ∧ y.id = c.id then { y with pos := g + 1 } else y }).arrUsed a
        if g = 3 then
          let e := d1.dma c.core
          let d1 := d1.setDma c.core { e with
            tiles := e.tiles.filter fun q => q.loadId != c.id
            held := e.held.map fun h => if h.id = t.desc then { h with taken := h.taken + 1 } else h }
          d1.arrDone a c
        else d1

/-! Accumulator entries (R56 to R59). -/

/-- An entry taken apart (R56). -/
structure AccE where
  mant : Int
  exp : Nat
  empty : Bool
  sat : Bool
  nan : Bool
  poison : Bool
  mx : Bool
  deriving DecidableEq, Repr, Inhabited

/-- The entry a word holds. -/
def AccE.dec (w : BitVec 64) : AccE :=
  let v := w.toNat
  ⟨sx 48 v, bitsOf v 48 10, bitOf v 58, bitOf v 59, bitOf v 60, bitOf v 61, bitOf v 62⟩

/-- The word of an entry. -/
def AccE.enc (e : AccE) : BitVec 64 :=
  let b (x : Bool) (i : Nat) : Nat := if x then 2 ^ i else 0
  BitVec.ofNat 64 (ux 48 e.mant + e.exp % 1024 * 2 ^ 48 + b e.empty 58 + b e.sat 59 + b e.nan 60 + b e.poison 61 + b e.mx 62)

/-- Shift right with rounding to nearest, ties to even (R58). -/
def rneShiftI (z : Int) (k : Nat) : Int := if z < 0 then -(rneShift z.natAbs k : Nat) else (rneShift z.natAbs k : Nat)

/-- An integer-mode term into an EMPTY or integer slot, and whether it saturated (R57). -/
def AccE.addInt (e : AccE) (t : Int) : AccE × Bool :=
  let z := if e.empty then t else e.mant + t
  let sat := decide (z < -2 ^ 47) || decide (2 ^ 47 - 1 < z)
  ({ e with mant := max (-2 ^ 47) (min (2 ^ 47 - 1) z), exp := 0, empty := false, mx := false, sat := e.sat || sat }, sat)

/-- An MX term (T, e) into an EMPTY or MX slot: the entry, renormalisations, whether EXP overflowed (R58). -/
def AccE.addMx (s : AccE) (t : Int) (e : Nat) : AccE × Nat × Bool :=
  let s1 : AccE :=
    if s.empty then { s with exp := e, mant := t * 2 ^ 16, empty := false, mx := true }
    else if e ≤ s.exp then { s with mant := s.mant + rneShiftI (t * 2 ^ 16) (s.exp - e) }
    else { s with mant := rneShiftI s.mant (e - s.exp) + t * 2 ^ 16, exp := e }
  let re := decide (s1.mant.natAbs ≥ 2 ^ 47)
  let s2 := if re then { s1 with mant := rneShiftI s1.mant 1, exp := s1.exp + 1 } else s1
  if s2.exp > 1023 then
    ({ s2 with exp := 1023, mant := (if s2.mant < 0 then -1 else if s2.mant = 0 then 0 else 1) * (2 ^ 47 - 1), sat := true }, if re then 1 else 0, true)
  else (s2, if re then 1 else 0, false)

/-- Halve until |MANT| < 2^47, counting (R56). -/
def AccE.shrink : Nat → AccE → Nat → AccE × Nat
  | 0, s, k => (s, k)
  | fuel + 1, s, k =>
    if s.mant.natAbs ≥ 2 ^ 47 then AccE.shrink fuel { s with mant := rneShiftI s.mant 1, exp := s.exp + 1 } (k + 1) else (s, k)

/-- An integer slot becomes an MX slot of the same value, and how many renormalisations that took (R56). -/
def AccE.toMx (s : AccE) : AccE × Nat := AccE.shrink 20 { s with exp := 254, mant := s.mant * 2 ^ 16, mx := true } 0

/-- An MX term into any slot (R56, R58). -/
def AccE.term (s : AccE) (t : Int) (e : Nat) : AccE × Nat × Bool :=
  let (s, k) := if !s.empty && !s.mx then s.toMx else (s, 0)
  let (s, r, o) := s.addMx t e
  (s, k + r, o)

/-! One vector at the foot (R46 to R48, R55). -/

/-- The plane-p sum of segment g for column n (R46). -/
def planeSum (w : WSet) (acts : List Int) (g p n : Nat) : Int :=
  let v := (Tbl.get 0 w.planes (8 * g + p)).toNat
  ((List.range 32).map fun r => if bitOf v (256 * r + n) then acts.getD (32 * g + r) 0 else 0).sum

/-- The plane combiner: MSB first, the sign plane negated (R47). -/
def segment (w : WSet) (acts : List Int) (g n : Nat) : Int :=
  (List.range w.p).foldl (fun t i => if i = 0 then -planeSum w acts g (w.p - 1) n else 2 * t + planeSum w acts g (w.p - 1 - i) n) 0

/-- What adding a vector did to one entry: the entry, renormalisations, SAT and NAN events. -/
structure Added where
  e : AccE
  renorm : Nat
  sat : Bool
  nan : Bool
  deriving DecidableEq, Repr, Inhabited

/-- The terms of one vector into the entry of column n (R55, R56, R59). -/
def addVector (w : WSet) (word : Nat) (v : InVec) (acts : List Int) (n : Nat) (poison : Bool) (e : AccE) : Added :=
  let acc := bitOf word 34
  let shift := if bitOf word 36 then 8 else 0
  let amx := bitOf word 37
  let e : AccE := if acc then e else ⟨0, 0, true, false, false, false, false⟩
  let e := { e with poison := e.poison || poison }
  let ts := (List.range 4).map fun g => segment w acts g n
  if !w.wmx && !amx then
    let t := ts.sum
    if !e.empty && e.mx then
      let (e, r, o) := e.addMx t (254 + shift)
      ⟨e, r, o, false⟩
    else
      let (e, o) := e.addInt (t * 2 ^ shift)
      ⟨e, 0, o, false⟩
  else
    (List.range 4).foldl (fun (a : Added) g =>
      let xw := if w.wmx then (Tbl.get 0 w.scales (256 * g + n)).toNat else 127
      let xa := if amx then bitsOf v.scale.toNat (8 * g) 8 else 127
      if xw = 255 ∨ xa = 255 then { a with e := { a.e with nan := true }, nan := true }
      else
        let (e, r, o) := a.e.term (ts.getD g 0) (xw + xa + shift)
        ⟨e, a.renorm + r, a.sat || o, a.nan⟩) ⟨e, 0, false, false⟩

/-! Runs (R49 to R54, R60, R64, R68). -/

/-- The input stream of a run. -/
def runStag (c : ArrCmd) : Nat := bitsOf c.word.toNat 38 3

/-- The pc of the tile word of an array command. -/
def Dev.cmdPc (d : Dev) (c : ArrCmd) : Nat :=
  match (d.core c.core).prog with
  | some p => ((p.issued.find? fun i => i.cmd.id == c.id).map fun i => i.cmd.pc).getD 0
  | none => 0

/-- An array error of an owner at a slot it names; SAT and NAN fault its program where ARR_CFG.FAULT_ON_SAT asks for it (R72, R74, R123). -/
def Dev.arrEvent (d : Dev) (c : ArrCmd) (bit : Fld) (slot : Nat) (detail : Option Nat) : Dev :=
  let d := d.arrErrAt c.core bit slot (if c.partner then 0 else cmdBank c)
  match detail with
  | some k => if d.bit ARR_CFG.FAULT_ON_SAT c.core 0 then d.progFault c.core .uncorr k (wOp c.word.toNat) (d.cmdPc c) else d
  | none => d

/-- Take the next vector of a run's input stream, if one has arrived; the words that carry a poisoned element of it are poisoned (R53, R69, R139). FIRST_SLOT then takes that vector's slot (log 139). -/
def Dev.pullVec (d : Dev) (a : Nat) (c : ArrCmd) : Dev :=
  match (d.arr a).run c with
  | none => d
  | some r =>
    let e := d.dma c.core
    match Tbl.get [] e.inputs (runStag c) with
    | [] => d
    | v :: t =>
      if r.vecs.length ≥ r.m then d
      else
        let d := (d.setDma c.core { e with inputs := Tbl.set [] e.inputs (runStag c) t }).modRun a c fun r => { r with vecs := r.vecs ++ [v] }
        if v.poisonRows = [] then d
        else
          (d.modArr a fun u => { u with badWords := u.badWords ++ v.poisonRows.map fun k => r.t0 + r.vecs.length * r.p + k }).arrEvent c ARR_ERR.IN_POISON
            ((cmdSlots c).1 + r.vecs.length) none

/-- Take the vectors that the runs in flight need up to a cycle, as far as they have arrived. -/
def Dev.pullTo (d : Dev) (a c : Nat) : Dev :=
  (d.arr a).runs.foldl (fun d r => (List.range (r.need c - r.vecs.length)).foldl (fun d _ => d.pullVec a r.cmd) d) d

/-- The next vector of a run is accepted, if its last word has arrived and the array reaches it: its INPUT descriptor counts it (R132, R145). -/
def Dev.acceptVec (d : Dev) (a : Nat) (c : ArrCmd) : Dev :=
  match (d.arr a).run c with
  | none => d
  | some r =>
    let t := r.t0 + r.accepted * r.p + 127
    if r.accepted ≥ r.m then d
    else
      let d := d.pullTo a t
      match ((d.arr a).run c).bind fun r => r.vecs[r.accepted]? with
      | none => d
      | some v =>
        if !(d.arr a).reaches t then d
        else
          let e := d.dma c.core
          ((d.setDma c.core { e with held := e.held.map fun h => if h.id = v.desc then { h with taken := h.taken + 1 } else h }).modRun a c fun r => { r with accepted := r.accepted + 1 }).arrAt a t

/-- The array accepts every input word that has arrived and that it can take (R54, R132). -/
def Dev.arrAccepts (d : Dev) (a : Nat) : Dev :=
  (d.arr a).runs.foldl (fun d r => (List.range r.m).foldl (fun d _ => d.acceptVec a r.cmd) d) d

/-- A run may start, as far as its command goes: no HOLD, group 0 of its set written, its first vector here, no earlier DRAIN of its owner still to read its slots (R54, R60, R68). -/
def Dev.runReady (d : Dev) (a : Nat) (c : ArrCmd) : Bool :=
  let u := d.arr a
  let x := d.cmdSet a c
  !d.held && d.inService c.core && decide (0 < (u.set x).groups) &&
    (u.before c).all (fun b =>
      !(wOp b.word.toNat == 0x10 && d.cmdSet a b == x && b.pos == 0) && !(wOp b.word.toNat == 0x12 && drainLeft b c)) &&
    !(Tbl.get [] (d.dma c.core).inputs (runStag c)).isEmpty

/-- The first cycle R50 lets the next run start in, not before now: P × M after the previous run's t0. -/
def Dev.runCycle (d : Dev) (a : Nat) : Nat :=
  let u := d.arr a
  u.runs.foldl (fun t r => max t (r.t0 + r.p * r.m)) (max u.cyc (d.clkSum (clusterOf a) / 1000))

/-- RUN_START: a run starts, in the first cycle that the runs before it leave (R50, R54). -/
def Dev.runStart (d : Dev) (a : Nat) : Dev :=
  let t := d.runCycle a
  let d := d.pullTo a t
  if !(d.arr a).reaches t then d
  else
    match d.arrGrant a 5 0x11 (d.runReady a) with
    | none => d
    | some (c, d1) =>
      let x := d1.cmdSet a c
      let p := ((d1.arr a).set x).p
      let d1 := (d1.arrActive a c).modArr a fun u => { u with runs := u.runs ++ [⟨{ c with active := true }, x, p, t, none, [], 0, 0, 0, false⟩], cyc := t }
      (d1.pullVec a c).arrUsed a

/-- Every cycle still to come is one later: the array held its state for a cycle (R54). -/
def ArrayUnit.stalled (u : ArrayUnit) : ArrayUnit :=
  { u with runs := u.runs.map fun r => { r with t0 := r.t0 + 1 }, cyc := u.cyc + 1, badWords := u.badWords.map (· + 1) }

/-- The first cycle in which a run lacks a group of its set, and the first in which it lacks an input word; none: it lacks none (R54). -/
def ArrayUnit.lacks (u : ArrayUnit) (r : ArrRun) : Option Nat × Option Nat :=
  let g := (u.runSet r).groups
  (if g < 4 then some (r.t0 + 32 * g) else none, if r.vecs.length < r.m then some (r.t0 + r.vecs.length * r.p) else none)

/-- The run that stops the array, up to a cycle, and whether it is for a group: the first cycle that lacks something decides. DESIGN CHOICE (log 138): a cycle that lacks both counts as one without its group. -/
def ArrayUnit.stuck (u : ArrayUnit) (t : Nat) : Option (ArrRun × Bool) :=
  let l := (u.runs.flatMap fun r => ((u.lacks r).1.map fun c => (c, r, true)).toList) ++ u.runs.flatMap fun r => ((u.lacks r).2.map fun c => (c, r, false)).toList
  (oldest (fun x => x.1) (l.filter fun x => decide (x.1 ≤ t))).map fun x => x.2

/-- ARRAY_STALL: the array cannot reach the present ACLK cycle, since a group is not loaded or an input word has not come: one cycle is stalled and counted (R54, R76). -/
def Dev.arrStall (d : Dev) (a : Nat) : Dev :=
  let t := d.clkSum (clusterOf a) / 1000
  let d := d.pullTo a t
  match (d.arr a).stuck t with
  | some (r, true) => ((d.count ARR_STALL.LOAD_STALL a 0 1).pmcCore r.cmd.core 0x04 1).modArr a ArrayUnit.stalled
  | some (r, false) => ((d.count ARR_STALL.INPUT_STALL a 0 1).pmcCore r.cmd.core 0x05 1).modArr a ArrayUnit.stalled
  | none => d

/-- Key of an accumulator entry. -/
def accKey (bank slot n : Nat) : Nat := (128 * bank + slot) * 256 + n
/-- An entry. -/
def ArrayUnit.entry (u : ArrayUnit) (bank slot n : Nat) : BitVec 64 := Tbl.get accEmpty u.acc (accKey bank slot n)
/-- Replace an entry. -/
def ArrayUnit.setEntry (u : ArrayUnit) (bank slot n : Nat) (v : BitVec 64) : ArrayUnit := { u with acc := Tbl.set accEmpty u.acc (accKey bank slot n) v }
/-- Every slot of a bank becomes EMPTY. -/
def ArrayUnit.clearBank (u : ArrayUnit) (bank : Nat) : ArrayUnit := { u with acc := u.acc.filter fun p => p.1 / 2 ^ 15 != bank }

/-- Set POISON in every column of a slot. -/
def ArrayUnit.poisonSlot (u : ArrayUnit) (bank slot : Nat) : ArrayUnit :=
  (List.range 256).foldl (fun u n => u.setEntry bank slot n (AccE.enc { AccE.dec (u.entry bank slot n) with poison := true })) u

/-- The parity stored for group g does not match the set's planes (R69). -/
def WSet.parityBad (w : WSet) (g : Nat) : Bool :=
  (List.range w.p).any fun p => Tbl.get 0 w.parity (8 * g + p) != planeParity (Tbl.get 0 w.planes (8 * g + p))

/-- The cycle in which a run releases its next group (R54). -/
def ArrRun.releaseAt (r : ArrRun) : Nat := r.t0 + r.p * r.m + 32 * r.released + 31

/-- The run whose next release comes first. -/
def ArrayUnit.releasing (u : ArrayUnit) : Option ArrRun := oldest ArrRun.releaseAt (u.runs.filter fun r => decide (r.released < 4))

/-- GROUP_RELEASE: the run whose turn it is releases its next group, whose parity is checked (R54, R69). A mismatch concerns every slot of the run; FIRST_SLOT takes the first of them (log 139). -/
def Dev.groupRelease (d : Dev) (a : Nat) (parityErr : Bool) : Dev :=
  match (d.arr a).releasing with
  | none => d
  | some r =>
    let d := d.pullTo a r.releaseAt
    let u := d.arr a
    if !u.reaches r.releaseAt then d
    else
      let bad := parityErr || (u.runSet r).parityBad r.released
      let d := (((d.modRun a r.cmd fun r => { r with released := r.released + 1, poison := r.poison || bad }).arrAt a r.releaseAt)).arrUsed a
      if bad then
        let d := d.modArr a fun u => (List.range r.written).foldl (fun u i => u.poisonSlot (cmdBank r.cmd) ((cmdSlots r.cmd).1 + i)) u
        d.arrEvent r.cmd ARR_ERR.WPARITY (cmdSlots r.cmd).1 none
      else d

/-- Give bank 1 and set 1 back, EMPTY and unloaded (R65, R66). -/
def ArrayUnit.giveBack (u : ArrayUnit) : ArrayUnit := { (u.clearBank 1).setSet 1 WSet.init with wipe := false }

/-- The cycle in which the next vector of a run is written to its slot (R51). -/
def ArrRun.writeAt (r : ArrRun) : Nat := r.t0 + (r.written + 1) * r.p + 132

/-- The elements of a vector of a run as the rows loaded them, signed or unsigned (R48, R49). -/
def ArrayUnit.acts (u : ArrayUnit) (r : ArrRun) (m : Nat) : List Int :=
  (List.range 128).map fun k =>
    let b := (u.inByte (r.t0 + m * r.p + k) k).getD 0
    if bitOf r.cmd.word.toNat 35 then sx 8 b else (b : Int)

/-- A vector of a run is poisoned: by parity, by its set, or by a poisoned word that carries one of its elements (R69). -/
def ArrayUnit.vecPoison (u : ArrayUnit) (r : ArrRun) (m : Nat) : Bool := r.poison || (u.runSet r).poison || u.badWords.any fun c => r.carried c m

/-- A run ends: it leaves the array; what a fence has asked to give back is given back after the partner's last (R51, R66). -/
def ArrayUnit.endRun (u : ArrayUnit) (c : ArrCmd) : ArrayUnit :=
  let rs := u.runs.filter fun r => !(r.cmd.core == c.core && r.cmd.id == c.id)
  let u := { u with runs := rs, badWords := if rs = [] then [] else u.badWords }
  if u.wipe && !(rs.any fun r => r.cmd.partner) then u.giveBack else u

/-- ACCUMULATOR_WRITE: the results of the next vector enter its slot; the last of a run ends it (R51, R55 to R59). -/
def Dev.accWriteVec (d : Dev) (a : Nat) : Dev :=
  match (d.arr a).runs with
  | [] => d
  | r0 :: _ =>
    let d := d.pullTo a r0.writeAt
    let u := d.arr a
    match u.run r0.cmd with
    | none => d
    | some r =>
      match r.vecs[r.written]? with
      | none => d
      | some v =>
        if !u.reaches r.writeAt || (r.written + 1 == r.m && decide (r.released < 4)) then d
        else
          let w := u.runSet r
          let bank := cmdBank r.cmd
          let slot := (cmdSlots r.cmd).1 + r.written
          let acts := u.acts r r.written
          let poison := u.vecPoison r r.written
          let (u, re, sat, nan) := (List.range 256).foldl (fun (p : ArrayUnit × Nat × Bool × Bool) n =>
            let x := addVector w r.cmd.word.toNat v acts n poison (AccE.dec (p.1.entry bank slot n))
            (p.1.setEntry bank slot n x.e.enc, p.2.1 + x.renorm, p.2.2.1 || x.sat, p.2.2.2 || x.nan)) (u, 0, false, false)
          let d := ((d.setArr a u).modRun a r.cmd fun r => { r with written := r.written + 1 }).arrAt a r.writeAt
          let d := d.count ARR_RENORM.COUNT a 0 re
          let d := if sat then d.arrEvent r.cmd ARR_ERR.SAT slot (some 0x21) else d
          let d := if nan then d.arrEvent r.cmd ARR_ERR.NAN slot (some 0x22) else d
          let d := d.arrUsed a
          if r.written + 1 = r.m then
            (((d.arrAccepts a).arrDone a r.cmd).pmcCore r.cmd.core 0x03 (w.p * r.m)).modArr a fun u => u.endRun r.cmd
          else d

/-! Draining (R60, R86 to R89, R98). -/

/-- Element bytes of an output format (R98). -/
def ofmtBytes (f : Nat) : Nat :=
  match f with
  | 0 | 5 => 4
  | 1 | 2 => 2
  | 6 => 8
  | _ => 1

/-- The format of an OFMT code. -/
def ofmtFmt (f : Nat) : Fmt :=
  match f with
  | 0 => fp32
  | 1 => bf16
  | 2 => fp16
  | 3 => e4m3
  | _ => e5m2

/-- Write a value in an output format (R87, R90). -/
def ofmtEnc (f : Nat) (v : FVal) : Nat := if f = 5 then v.toIntSat 32 else (ofmtFmt f).encode v

/-- The value of an entry that is neither EMPTY nor flagged (R87). -/
def AccE.value (e : AccE) (fexp : Int) : FVal :=
  FVal.ofInt e.mant (if e.mx then (e.exp : Int) - 270 + fexp else fexp) false

/-- Convert an entry whose flags allow it, with its column scale (R87, R88). DESIGN CHOICE (log 168): "y would be infinite" for a scale that is NaN, infinite or zero means that y rounds to an infinity in OFMT 0 to 2, never in FP8 or INT32; and a slot with MANT 0 under a scale of −0 drains as the product, −0. -/
def AccE.convert (e : AccE) (f : Nat) (fexp : Int) (s : Option Nat) : Nat :=
  let sv := s.map fp32.decode
  let odd := sv.any fun x => x.special || (match x with | .fin _ m _ => m == 0 | _ => false)
  if e.nan then ofmtEnc f .nan
  else if e.sat then
    if odd then ofmtEnc f .nan
    else
      let neg := xor (decide (e.mant < 0)) (match sv with | some x => x.isNeg | none => false)
      ofmtEnc f (.inf neg)
  else if e.empty then ofmtEnc f (.fin false 0 0)
  else
    let y := e.value fexp
    match sv with
    | none => ofmtEnc f y
    | some x =>
      if odd then
        if f < 3 ∧ ((ofmtFmt f).decode ((ofmtFmt f).encode y)).special then ofmtEnc f .nan else ofmtEnc f (y.mul x)
      else if e.mant = 0 then ofmtEnc f (.fin false 0 0)
      else ofmtEnc f (y.mul x)

/-- The bytes of one drained element (R88). -/
def drainElem (w : BitVec 64) (f : Nat) (fexp : Int) (s : Option (Option Nat)) : List PByte :=
  let e := AccE.dec w
  let n := ofmtBytes f
  if e.poison then poisonBytes n
  else if f = 6 then toPBytes 8 w.toNat
  else
    match s with
    | some none => poisonBytes n
    | some (some x) => toPBytes n (e.convert f fexp (some x))
    | none => toPBytes n (e.convert f fexp none)

/-- A slot is ready for a DRAIN: every earlier run of the owner that writes it has written it (R60). -/
def Dev.drainReady (d : Dev) (a : Nat) (c : ArrCmd) : Bool :=
  let u := d.arr a
  let slot := (cmdSlots c).1 + c.pos
  (u.before c).all fun b =>
    !(wOp b.word.toNat == 0x11 && cmdBank b == cmdBank c && decide ((cmdSlots b).1 ≤ slot) && decide (slot < (cmdSlots b).1 + (cmdSlots b).2)) ||
      (u.run b).any fun r => decide (slot < (cmdSlots b).1 + r.written)

/-- A parity error on the column link of core n's column (R486). -/
def Dev.colLink (d : Dev) (n : Nat) : Dev := d.count LNK_COLUMN.COLLINK (n % 128) 0 1

/-- Read one slot and write it out; a served partner's slot whose transfer the column link has spoilt is poisoned (R60, R69, R87, R98, R486). -/
def Dev.drainSlot (d : Dev) (a : Nat) (c : ArrCmd) (bad : List Nat) : Dev :=
  let w := c.word.toNat
  let f := bitsOf w 34 3
  let bank := cmdBank c
  let slot := (cmdSlots c).1 + c.pos
  let (sb, _, d) := if bitOf w 44 && f != 6 then d.lsRead c.core (c.scaleGran * 64) 1024 else ([], .ok, d)
  let u := d.arr a
  let out := (List.range 256).flatMap fun n =>
    let s : Option (Option Nat) :=
      if bitOf w 44 && f != 6 then
        let b := (sb.drop (4 * n)).take 4
        some (if anyPoison b then none else some (ofPBytes b))
      else none
    drainElem (u.entry bank slot n) f (sx 7 (bitsOf w 37 7)) s
  let spoilt := c.partner && bad.contains c.pos
  let d := if spoilt then d.colLink c.core else d
  let out := if spoilt then poisonBytes out.length else out
  let d := d.lsWrite c.core (bitsOf w 45 16 * 64 + c.pos * 256 * ofmtBytes f) out
  let d := if bitOf w 33 then d.modArr a fun u => (List.range 256).foldl (fun u n => u.setEntry bank slot n accEmpty) u else d
  d.modArr a fun u => { u with cmds := u.cmds.map fun x => if x.core = c.core ∧ x.id = c.id then { x with active := true, pos := c.pos + 1 } else x }

/-- Drain slot after slot of one command while they are ready. -/
def Dev.drainOn (a : Nat) (bad : List Nat) : Nat → Dev → ArrCmd → Dev
  | 0, d, _ => d
  | fuel + 1, d, c =>
    if c.pos ≥ (cmdSlots c).2 then d.arrDone a c
    else if d.drainReady a c then Dev.drainOn a bad fuel (d.drainSlot a c bad) { c with pos := c.pos + 1 }
    else d

/-- DRAIN: the DRAIN that holds the port reads every slot that is ready, and completes after the last (R60, R64). -/
def Dev.arrDrain (d : Dev) (a : Nat) (bad : List Nat) : Dev :=
  match d.arrGrant a 6 0x12 (d.drainReady a) with
  | none => d
  | some (c, d1) => (Dev.drainOn a bad 130 (d1.arrActive a c) c).arrUsed a

/-- The highest local-store byte address a DRAIN word reaches, plus 1; format RAW ignores COLSCALE (R87, R98, R102). -/
def drainEnd (w scaleGran : Nat) : Nat :=
  max (bitsOf w 45 16 * 64 + (bitsOf w 26 7 + 1) * 256 * ofmtBytes (bitsOf w 34 3)) (if bitOf w 44 ∧ bitsOf w 34 3 ≠ 6 then scaleGran * 64 + 1024 else 0)

/-! TARGET (R63, R65, R72). -/

/-- A write of ARR_CFG.TARGET (R65): ignored for a disabled array; to the partner it is refused with CFG_CONFLICT where the partner's array cannot serve. -/
def Dev.targetWrite (d : Dev) (n : Nat) (v : Bool) : Dev :=
  let set (d : Dev) (t : Option Bool) : Dev := (d.modArr n fun u => { u with targetTo := t }).setBit ARR_CFG.TARGET_PENDING n 0 t.isSome
  if d.arrDisabled n then d
  else if v = d.bit ARR_CFG.TARGET n 0 then set d none
  else if v && (d.arrDisabled (partnerOf n) || d.bit ARR_CFG.TARGET (partnerOf n) 0) then d.arrErr n ARR_ERR.CFG_CONFLICT
  else set d (some v)

/-- TARGET_CHANGE: an accepted write takes effect once the core's commands have completed and the partner has freed bank 1 (R65). -/
def Dev.targetChange (d : Dev) (n : Nat) : Dev :=
  let q := partnerOf n
  match (d.arr n).targetTo with
  | none => d
  | some v =>
    let mine := fun (a : Nat) => (d.arr a).cmds.any fun c => c.core.val == n
    if mine n || mine q then d
    else if v && ((d.arr q).cmds.any (fun c => arrBank1 c.word.toNat) || d.arrTarget q) then d
    else
      let d := d.modArr q ArrayUnit.giveBack
      let d := d.modArr n fun u => { u with acc := [], sets := [], targetTo := none }
      (d.setBit ARR_CFG.TARGET n 0 v).setBit ARR_CFG.TARGET_PENDING n 0 false

/-- The owner of commands is fenced or reset: the runs it has started complete, its other commands are discarded, a served owner's bank 1 and set 1 are given back (R66, R71). -/
def Dev.arrOwnerStop (d : Dev) (n : Nat) : Dev :=
  let a := d.arrOf n
  let gone := (d.arr a).cmds.filter fun c => c.core.val == n && ((d.arr a).run c).isNone
  let d := d.modArr a fun u =>
    let u := { u with cmds := u.cmds.filter fun c => c.core.val != n || (u.run c).isSome }
    if a = n then u else if u.runs.any fun r => r.cmd.core.val == n then { u with wipe := true } else u.giveBack
  gone.foldl (fun d c => d.cmdDone n c.id .ok) d

/-- A run whose streams have been discarded still completes: the vectors that never came and the groups that were never loaded count as poisoned (R66, R147; log 140). -/
def ArrayUnit.fill (u : ArrayUnit) (r : ArrRun) : ArrayUnit :=
  let k := r.vecs.length
  let w := u.set r.set
  let u := if r.snap = none ∧ w.groups < 4 then u.setSet r.set { w with groups := 4, poison := true } else u
  { u with
    runs := u.runs.map fun q => if q.cmd.core == r.cmd.core && q.cmd.id == r.cmd.id then { q with vecs := q.vecs ++ List.replicate (r.m - k) default } else q
    badWords := u.badWords ++ (List.range (r.m - k)).flatMap fun i => (List.range 128).map fun j => r.t0 + (k + i) * r.p + j }

/-- The started runs of core n can complete without its streams (R66, R147). -/
def Dev.arrOwnerFill (d : Dev) (n : Nat) : Dev :=
  d.modArr (d.arrOf n) fun u => (u.runs.filter fun r => r.cmd.core.val == n).foldl ArrayUnit.fill u

/-! Power states (R67). -/

/-- ARRAY_IDLE: 16 ACLK after the last activity, with no run in flight, the clocks are gated (R67). -/
def Dev.arrIdle (d : Dev) (a : Nat) : Dev :=
  let u := d.arr a
  if u.power = .run ∧ u.runs = [] ∧ u.lastUse + 16000 ≤ d.clkSum (clusterOf a) then d.setArr a { u with power := .idle } else d

/-- ARRAY_SLEEP: with STATE_REQ set and every command complete the array sleeps and loses its accumulators; one that was woken first idles again (R67). -/
def Dev.arrSleep (d : Dev) (a : Nat) : Dev :=
  let u := d.arr a
  if d.bit ARR_CFG.STATE_REQ a 0 && u.cmds.isEmpty && (u.power = .idle || (u.power = .run && !u.woken)) then
    d.setArr a { u with power := .sleep, acc := [], woken := false, wakeAt := none }
  else d

/-- The wake ends: 1 µs after a command arrived (R67). -/
def Dev.arrWoken (d : Dev) (a : Nat) : Dev :=
  let u := d.arr a
  match u.wakeAt with
  | some t => if t ≤ d.ns ∧ u.power = .sleep then d.setArr a { u with power := .run, woken := true, wakeAt := none, lastUse := d.clkSum (clusterOf a) } else d
  | none => d

/-! The commands. -/

def execLoad (a : CoreId) (s : State) : Host.Outcome State Fault Refusal := s.ev fun d => d.arrLoad a
def execRunStart (a : CoreId) (s : State) : Host.Outcome State Fault Refusal := s.ev fun d => d.runStart a
def execArrayStall (a : CoreId) (s : State) : Host.Outcome State Fault Refusal := s.ev fun d => d.arrStall a
def execGroupRelease (a : CoreId) (parityErr : Bool) (s : State) : Host.Outcome State Fault Refusal := s.ev fun d => d.groupRelease a parityErr
def execAccumulatorWrite (a : CoreId) (s : State) : Host.Outcome State Fault Refusal := s.ev fun d => d.accWriteVec a
def execDrain (a : SlotDrain) (s : State) : Host.Outcome State Fault Refusal := s.ev fun d => d.arrDrain a.array a.badSlots
def execTargetChange (core : CoreId) (s : State) : Host.Outcome State Fault Refusal := s.ev fun d => d.targetChange core
def execArrayIdle (a : CoreId) (s : State) : Host.Outcome State Fault Refusal := s.ev fun d => d.arrIdle a
def execArraySleep (a : CoreId) (s : State) : Host.Outcome State Fault Refusal := s.ev fun d => d.arrSleep a

end Sys2Proof.Machine
end

