-- ==== Sys2Proof/Machine/CheckUnits.lean ====
section
/-! DEFINITION. Check-value units: claims, folding and streams (R464 to R467). -/

namespace Sys2Proof.Machine

/-- A stream being checked: register, next sequence number, granules folded. -/
structure ChkStream where
  poly64 : Bool
  fold : Nat
  reg : BitVec 64
  seq : BitVec 64
  seen : List Nat
  deriving DecidableEq, Repr, Inhabited

/-- Enter the bytes of a stream that lie in one granule, folding first where the granule is new (R465). -/
def ChkStream.part (s : ChkStream) (addr : Nat) (b : List Byte) : ChkStream :=
  let g := addr / 4096
  let s :=
    if s.seen.contains g then s
    else
      let s := { s with seen := g :: s.seen }
      match s.fold with
      | 1 => { s with reg := crcFeed s.poly64 s.reg (toBytes 8 (g * 4096)) }
      | 2 => { s with reg := crcFeed s.poly64 s.reg (toBytes 8 s.seq.toNat), seq := s.seq + 1 }
      | _ => s
  { s with reg := crcFeed s.poly64 s.reg b }

/-- Enter a run of bytes from a local address on, granule by granule. -/
def ChkStream.feedN : Nat → ChkStream → Nat → List Byte → ChkStream
  | 0, s, _, _ => s
  | _, s, _, [] => s
  | fuel + 1, s, a, b =>
    let n := 4096 - a % 4096
    ChkStream.feedN fuel (s.part a (b.take n)) (a + n) (b.drop n)

/-- Enter a run of bytes. -/
def ChkStream.feed (s : ChkStream) (a : Nat) (b : List PByte) : ChkStream := s.feedN (b.length / 4096 + 2) a (b.map (·.v))

/-- The stream of unit u, from its registers. -/
def Dev.chkStream (d : Dev) (u : Nat) : ChkStream :=
  { poly64 := d.bit CHK_CFG.POLY u 0, fold := d.fld CHK_CFG.FOLD u 0, reg := BitVec.ofNat 64 (d.fld CHK_VAL.VAL u 0), seq := BitVec.ofNat 64 (d.fld CHK_SEQ.SEQ u 0), seen := Tbl.get [] d.chkSeen u }

/-- Unit u takes bytes of its stream. -/
def Dev.chkFeed (d : Dev) (u a : Nat) (b : List PByte) : Dev :=
  let s := (d.chkStream u).feed a b
  let d := if u < 32 then d.pmcCluster u 0x0A ((b.length + 63) / 64) else d
  let d := (d.setFld CHK_VAL.VAL u 0 s.reg.toNat).setFld CHK_SEQ.SEQ u 0 s.seq.toNat
  { d with chkSeen := Tbl.set [] d.chkSeen u s.seen }

/-- Claim unit u: with CONTINUE = 0 its register starts anew, else a write of VAL in the cycle of the claim is ignored (R466, R467, R470). -/
def Dev.chkTake (d : Dev) (u claimer : Nat) : Dev :=
  let d := (d.setBit CHK_CFG.CLAIMED u 0 true).setFld CHK_CFG.CLAIMER u 0 claimer
  let d :=
    if d.bit CHK_CFG.CONTINUE u 0 then
      match Tbl.get none d.chkWas u with
      | some (t, v) => if t = d.ns then d.setFld CHK_VAL.VAL u 0 v else d
      | none => d
    else d.setFld CHK_VAL.VAL u 0 (crcInit (d.bit CHK_CFG.POLY u 0)).toNat
  { d with chkSeen := Tbl.set [] d.chkSeen u [], chkWhen := Tbl.set none d.chkWhen u (some d.ns) }

/-- A write of VAL is about to be made: what it held stays known for a claim of the same cycle (R470). -/
def Dev.chkWrite (d : Dev) (u : Nat) : Dev :=
  if (Tbl.get none d.chkWas u).any fun p => p.1 == d.ns then d
  else { d with chkWas := Tbl.set none d.chkWas u (some (d.ns, d.fld CHK_VAL.VAL u 0)) }

/-- Unit u was claimed in this cycle and has taken nothing yet. -/
def Dev.chkFresh (d : Dev) (u : Nat) : Bool := d.bit CHK_CFG.CLAIMED u 0 && Tbl.get none d.chkWhen u == some d.ns && (Tbl.get [] d.chkSeen u).isEmpty

/-- The register path claims a free unit whose CHK_SNOOP.EN is set, and lets go of it when EN is cleared (R466, R478). -/
def Dev.chkSnoopSettle (d : Dev) (u : Nat) : Dev :=
  let en := d.bit CHK_SNOOP.EN u 0
  let cl := d.bit CHK_CFG.CLAIMED u 0
  if en && !cl then d.chkTake u 8
  else if !en && cl && d.fld CHK_CFG.CLAIMER u 0 == 8 then (d.setBit CHK_CFG.CLAIMED u 0 false).setFld CHK_CFG.CLAIMER u 0 0
  else d

/-- CHK_SNOOP.EN is written 1: where a DMA claim has the unit since this cycle, R29 decides, with index 8 for the register path and j for core 8k + j; else the unit settles (R470). -/
def Dev.chkSnoopOn (d : Dev) (u : Nat) : Dev :=
  let j := d.fld CHK_CFG.CLAIMER u 0
  if d.bit CHK_SNOOP.EN u 0 && d.chkFresh u && decide (j < 8) && decide (u < 32) then
    match d.tie (arbKey 14 u) [j, 8] with
    | some (w, d) =>
      let d := { d with chkWhen := Tbl.set none d.chkWhen u none }
      if w = 8 then
        let e := d.dma (8 * u + j)
        (d.setDma (8 * u + j) { e with held := e.held.map fun x => { x with chk := false } }).chkTake u 8
      else d
    | none => d
  else d.chkSnoopSettle u

/-- Release unit u. -/
def Dev.chkDrop (d : Dev) (u : Nat) : Dev := ((d.setBit CHK_CFG.CLAIMED u 0 false).setFld CHK_CFG.CLAIMER u 0 0).chkSnoopSettle u

/-- The registers of unit u and the stream it checks are as after reset. -/
def Dev.chkReset (d : Dev) (u : Nat) : Dev :=
  { [CHK_CFG.reg, CHK_VAL.reg, CHK_SEQ.reg, CHK_SNOOP.reg].foldl (fun d r => d.clrReg r u 0) d with chkSeen := Tbl.set [] d.chkSeen u [] }

/-- A port value: a write packet of an address in the window passes the port that unit u snoops (R466, R478). -/
def Dev.chkPort (d : Dev) (u port dir addr : Nat) (b : List PByte) : Dev :=
  let lg := max 20 (min 52 (d.fld CHK_SNOOP.LOG2SIZE u 0))
  if d.bit CHK_SNOOP.EN u 0 && d.bit CHK_CFG.CLAIMED u 0 && d.fld CHK_CFG.CLAIMER u 0 == 8 && d.fld CHK_SNOOP.PORT u 0 == port && d.fld CHK_SNOOP.DIR u 0 == dir &&
      addr / 2 ^ lg == d.fld CHK_SNOOP.BASE u 0 * 2 ^ 20 / 2 ^ lg then d.chkFeed u addr b
  else d

end Sys2Proof.Machine
end

