-- ==== Sys2Proof/Machine/Dma.lean ====
section
/-! DEFINITION. The core DMA engine: descriptors, checks, conversion, copies and reductions (R129 to R151). -/

namespace Sys2Proof.Machine

/-! Descriptor fields (R133). -/

/-- Bits of a descriptor from byte `b`, bit `lo`. -/
def dsc (x : DmaDesc) (b lo w : Nat) : Nat := bitsOf x.body.toNat (8 * b + lo) w
/-- KIND. -/
def dKind (x : DmaDesc) : Nat := dsc x 0 0 8
/-- SFMT. -/
def dSfmt (x : DmaDesc) : Nat := dsc x 1 0 8
/-- TARGET. -/
def dTarget (x : DmaDesc) : Nat := dsc x 2 0 2
/-- HALF. -/
def dHalf (x : DmaDesc) : Nat := dsc x 2 2 2
/-- REDOP. -/
def dRedop (x : DmaDesc) : Nat := dsc x 2 4 3
/-- STAG. -/
def dStag (x : DmaDesc) : Nat := dsc x 3 0 3
/-- IDX_EN. -/
def dIdxEn (x : DmaDesc) : Bool := dsc x 3 3 1 == 1
/-- CHK_EN. -/
def dChkEn (x : DmaDesc) : Bool := dsc x 3 4 1 == 1
/-- CHK_SIDE. -/
def dChkSide (x : DmaDesc) : Bool := dsc x 3 5 1 == 1
/-- SHINT: 0 NORMAL, 1 KEEP, 2 FIRST_OUT, 3 DEAD. -/
def dShint (x : DmaDesc) : Nat := dsc x 4 0 2
/-- DHINT. -/
def dDhint (x : DmaDesc) : Nat := dsc x 4 2 2
/-- SRC. -/
def dSrc (x : DmaDesc) : Nat := dsc x 8 0 52
/-- DST. -/
def dDst (x : DmaDesc) : Nat := dsc x 16 0 52
/-- LEN. -/
def dLen (x : DmaDesc) : Nat := dsc x 24 0 24
/-- COUNT. -/
def dCount (x : DmaDesc) : Nat := dsc x 28 0 24
/-- SSTRIDE. -/
def dSstride (x : DmaDesc) : Int := sx 53 (dsc x 32 0 53)
/-- DSTRIDE. -/
def dDstride (x : DmaDesc) : Int := sx 53 (dsc x 40 0 53)
/-- IDX. -/
def dIdx (x : DmaDesc) : Nat := dsc x 48 0 22

/-! Formats (R134, R136). -/

/-- Array P and WMX of a WEIGHT format (R134). -/
def wgtPw (f : Nat) : Option (Nat × Bool) :=
  if 0x02 ≤ f ∧ f ≤ 0x08 then some (f, false)
  else
    match f with
    | 0x09 => some (8, false)
    | 0x0A => some (2, false)
    | 0x0B => some (5, true)
    | 0x0C => some (7, true)
    | 0x0D | 0x0E | 0x18 | 0x19 | 0x1A | 0x1B | 0x1C => some (8, true)
    | _ => none

/-- Element bits, whether scale bytes follow each group (R136). -/
def wgtBits (f : Nat) : Nat × Bool :=
  match f with
  | 0x09 => (8, false)
  | 0x0B => (4, true)
  | 0x0C | 0x0D => (6, true)
  | 0x0E => (8, true)
  | 0x18 | 0x19 => (8, false)
  | 0x1A | 0x1B => (16, false)
  | 0x1C => (32, false)
  | n => (n, false)

/-- Group bytes of a format (R136). -/
def groupBytes (f : Nat) : Nat := 1024 * (wgtBits f).1 + if (wgtBits f).2 then 256 else 0
/-- Tile bytes of a format (R136). -/
def tileBytes (f : Nat) : Nat := if f = 0x0A then 6656 else 4 * groupBytes f

/-- INPUT unit bytes (R134). -/
def inputBytes (f : Nat) : Nat :=
  match f with
  | 0x0E => 132
  | 0x10 => 256
  | 0x11 => 260
  | 0x1A | 0x1B => 256
  | 0x1C => 512
  | _ => 128

/-- The TARGET and HALF an INPUT format allows (R134). -/
def inputOk (f t h : Nat) : Bool :=
  match f with
  | 0x08 | 0x09 | 0x0E => t == 0 && h == 0
  | 0x10 | 0x11 => t == 0 && (h == 1 || h == 2)
  | 0x18 | 0x19 => t == 1 && h == 0
  | 0x1A | 0x1B | 0x1C => (t == 1 && h == 0) || (t == 2 && (h == 1 || h == 2))
  | _ => false

/-- SFMT is one of R134. -/
def sfmtOk (f : Nat) : Bool := f == 0 || (decide (0x02 ≤ f) && decide (f ≤ 0x0E)) || f == 0x10 || f == 0x11 || (decide (0x18 ≤ f) && decide (f ≤ 0x1D))

/-- Bytes of one unit at its source. -/
def unitBytes (x : DmaDesc) : Nat :=
  match dKind x with
  | 2 => tileBytes (dSfmt x)
  | 3 => inputBytes (dSfmt x)
  | _ => dLen x

/-! Checks (R135). -/

/-- Reserved bytes and bits, and the fields a KIND does not use, are zero; every field has a value its KIND allows (R133 to R135). -/
def dmaFieldsOk (x : DmaDesc) : Bool :=
  let z (b lo w : Nat) : Bool := dsc x b lo w == 0
  z 2 7 1 && z 3 6 2 && z 4 4 4 && z 5 0 24 && z 14 4 12 && z 22 4 12 && z 27 0 8 && z 31 0 8 && z 38 5 11 && z 46 5 11 && z 50 6 10 && z 52 0 88 &&
    decide (1 ≤ dCount x) && decide (dIdx x % 4 = 0) &&
    match dKind x with
    | 1 => sfmtOk (dSfmt x) && z 2 0 7 && z 3 0 3 && decide (1 ≤ dLen x)
    | 2 => (wgtPw (dSfmt x)).isSome && z 2 0 7 && z 3 5 1 && z 4 2 2 && z 16 0 64 && z 24 0 32 && z 40 0 64
    | 3 => inputOk (dSfmt x) (dTarget x) (dHalf x) && z 2 4 3 && z 3 5 1 && z 4 2 2 && z 16 0 64 && z 24 0 32 && z 40 0 64
    | 4 => ((dSfmt x == 0x1C && (dRedop x == 0 || dRedop x == 2)) || (dSfmt x == 0x1D && (dRedop x == 1 || dRedop x == 3))) &&
        z 2 0 4 && z 3 0 3 && z 3 5 1 && decide (1 ≤ dLen x)
    | _ => false

/-- A REDUCE keeps to whole elements (R135). -/
def dmaAligned (x : DmaDesc) : Bool :=
  dKind x != 4 || (dLen x % 4 == 0 && dSrc x % 4 == 0 && dDst x % 4 == 0 && dSstride x % 4 == 0 && dDstride x % 4 == 0)

/-- Entry u of the index table, with the status of its read (R133). -/
def Dev.dmaIndex (d : Dev) (n : Nat) (x : DmaDesc) (u : Nat) : Nat × Status × Dev :=
  if dIdxEn x then
    let (b, st, d) := d.lsRead n (dIdx x + 4 * u) 4
    (ofPBytes b, st, d)
  else (u, .ok, d)

/-- A signed address as a local address; outside the local map it is a hole. -/
def locAddr (z : Int) : Nat := if z < 0 then 2 ^ 52 else z.toNat

/-- Source of unit u, given its index (R133). -/
def unitSrc (x : DmaDesc) (j : Nat) : Nat := locAddr (dSrc x + j * dSstride x)
/-- Destination of unit u (R133). -/
def unitDst (x : DmaDesc) (u : Nat) : Nat := locAddr (dDst x + u * dDstride x)

/-- A range lies in the core's own local-store window or in an open dxuwin window with the access it needs (R115, R135). -/
def Dev.userMay (d : Dev) (n a len : Nat) (write : Bool) : Bool :=
  (decide (lsAddr n 0 ≤ a) && decide (a + len ≤ lsAddr (n + 1) 0)) ||
    (List.range 4).any fun i =>
      let lg := max 20 (min 52 (d.fld DXUWIN.LOG2SIZE n i))
      d.bit DXUWIN.EN n i && (!write || d.bit DXUWIN.WRITE n i) &&
        a / 2 ^ lg == d.fld DXUWIN.BASE n i * 2 ^ 20 / 2 ^ lg && (a + len - 1) / 2 ^ lg == d.fld DXUWIN.BASE n i * 2 ^ 20 / 2 ^ lg

/-- A reduction may go there: base scratch or a cached range (R141). -/
def Dev.redDest (d : Dev) (a len : Nat) : Bool := d.scratchBacked a len || d.cacheable a len

/-- The checks of R135, in its order: the status and error bit of the first that fails. -/
def Dev.dmaCheck (d : Dev) (n : Nat) (x : DmaDesc) : Option (Status × Fld) × Dev :=
  if !dmaFieldsOk x || !dmaAligned x then (some (.badDescriptor, DMA_ERR.BAD_DESC), d)
  else if dIdxEn x && decide (dIdx x + 4 * dCount x > lsSize) then (some (.badDescriptor, DMA_ERR.BAD_DESC), d)
  else
    let (tst, d) := if dIdxEn x then (let r := d.lsRead n (dIdx x) (4 * dCount x); (r.2.1, r.2.2)) else (.ok, d)
    if tst ≠ .ok then (some (tst, DMA_ERR.DATA_ERR), d)
    else
      let wr := dKind x == 1 || dKind x == 4
      let us := List.range (dCount x)
      let src := fun u => unitSrc x (d.dmaIndex n x u).1
      let len := unitBytes x
      if us.any fun u => !d.backed (src u) len || (wr && !d.backed (unitDst x u) len) || (dKind x == 4 && !d.redDest (unitDst x u) len) then
        (some (.badDescriptor, DMA_ERR.BAD_DESC), d)
      else if x.user && us.any fun u => !d.userMay n (src u) len false || (wr && !d.userMay n (unitDst x u) len true) then
        (some (.permission, DMA_ERR.PERM), d)
      else (none, d)

/-! Descriptors held (R130, R131). -/

/-- Change the held descriptor with a number. -/
def Dev.modDesc (d : Dev) (n id : Nat) (f : DmaDesc → DmaDesc) : Dev :=
  let e := d.dma n
  d.setDma n { e with held := e.held.map fun x => if x.id = id then f x else x }

/-- The held descriptor with a number. -/
def Dev.dmaDesc (d : Dev) (n id : Nat) : Option DmaDesc := (d.dma n).held.find? fun x => x.id == id

/-- Descriptors held and not complete (R130). -/
def Dma.count (e : Dma) : Nat := (e.held.filter fun x => !x.written).length

/-- COPY and REDUCE descriptors take free general channels in order, general 0 first (R131). -/
def Dma.assign (e : Dma) : Dma :=
  (List.range 2).foldl (fun e _ =>
    let busy (c : Fin 2) : Bool := e.held.any fun x => x.stage == .onChannel c
    match e.held.find? fun x => x.stage == .waiting with
    | none => e
    | some x =>
      let go (c : Fin 2) : Dma := { e with held := e.held.map fun y => if y.id = x.id then { y with stage := .onChannel c } else y }
      if !busy 0 then go 0 else if !busy 1 then go 1 else e) e

/-- A descriptor ends with a status: its first error stands. -/
def Dev.dmaFinish (d : Dev) (n id : Nat) (st : Status) : Dev :=
  let d := d.modDesc n id fun x => { x with stage := .finished, status := x.status.first st }
  d.setDma n (d.dma n).assign

/-- A data error of a descriptor: DATA_ERR, with MULTIPLE where another stood, and its status where no error came before it (R146, R150; log 141). -/
def Dev.dmaData (d : Dev) (n id : Nat) (st : Status) : Dev :=
  match d.dmaDesc n id with
  | none => d
  | some x =>
    if st = .ok then d
    else (d.modDesc n id fun x => { x with status := x.status.first st, dataErr := true }).dmaErr n DMA_ERR.DATA_ERR x.gran st

/-- Read one descriptor into the engine (R130, R131). -/
def Dev.dmaTake (d : Dev) (n cmdId gran : Nat) (user : Bool) : Dev :=
  let (b, st, d) := d.lsRead n (64 * gran) 64
  let e := d.dma n
  let x : DmaDesc := ⟨e.nextId, cmdId, gran, BitVec.ofNat 512 (ofPBytes b), .waiting, false, 0, .ok, 0, false, false, user, false, none⟩
  let k := dKind x
  let stage : DescStage := if st ≠ .ok then .finished else if k = 1 ∨ k = 4 then .waiting else if k = 2 ∨ k = 3 then .stream else .finished
  let d := d.setDma n { e with nextId := e.nextId + 1, held := e.held ++ [{ x with stage := stage, status := if st ≠ .ok then st else if stage = .finished then .badDescriptor else .ok }] }
  let d := if st ≠ .ok then d.dmaErr n DMA_ERR.DATA_ERR gran st else if stage = .finished then d.dmaErr n DMA_ERR.BAD_DESC gran .badDescriptor else d
  d.setDma n (d.dma n).assign

/-- A DMA word issues, once the engine has room for all its descriptors (R130). -/
def Dev.dmaAccept (d : Dev) (n : Nat) (c : TileCmd) (user : Bool) : Option Dev :=
  let w := c.word.toNat
  let k := bitsOf w 34 8 + 1
  if (d.dma n).count + k ≤ 32 then
    some ((List.range k).foldl (fun d i => d.dmaTake n c.id (bitsOf w 18 16 + i) user) d)
  else none

/-- Make a descriptor's checks, once; whether it goes on. -/
def Dev.dmaStart (d : Dev) (n : Nat) (x : DmaDesc) : Bool × Dev :=
  if x.checked then (true, d)
  else
    match d.dmaCheck n x with
    | (some (st, bit), d) => (false, (d.dmaErr n bit x.gran st).dmaFinish n x.id st)
    | (none, d) => (true, d.modDesc n x.id fun x => { x with checked := true })

/-- A descriptor with CHK_EN waits for its claim (R143). -/
def dmaClaimed (x : DmaDesc) : Bool := !dChkEn x || x.chk

/-- The first descriptor of a stream. -/
def Dma.head (e : Dma) (kind stag : Nat) : Option DmaDesc :=
  e.held.find? fun x => x.stage == .stream && dKind x == kind && dStag x == stag && decide (x.unit < max 1 (dCount x))

/-- The engine of core n issues accesses: the core's fence has not stopped it (R147). -/
def Dev.dmaLive (d : Dev) (n : Nat) : Bool := d.fenceState n != 1

/-! Data behind the port. -/

/-- How many bytes of `ext` a run takes: whole lines, where it lies in host memory, which CXL.cache reads (R325). -/
def Dev.extLen (d : Dev) (a len : Nat) : Nat := if (d.window (d.served a)).any (·.host) then 4096 * ((a % 4096 + len + 4095) / 4096) else 0

/-! General channels (R141, R144, R146). -/

/-- One unit of a COPY or REDUCE. -/
def Dev.dmaUnit (n : Nat) (x : DmaDesc) (d : Dev) (ext : List PByte) (u : Nat) : Dev × List PByte :=
  let k := clusterOf n
  let (j, ist, d) := d.dmaIndex n x u
  let a := unitSrc x j
  let len := dLen x
  let m := d.extLen a len
  let (b, st, d) := if ist ≠ .ok then (poisonBytes len, ist, d) else d.accRead (endCore n) a len (dShint x) (ext.take m)
  let ext := ext.drop m
  let d := d.dmaData n x.id st
  let d := if dChkEn x && !dChkSide x then d.chkFeed k a b else d
  let d := d.pmcCore n 0x0A ((len + 63) / 64)
  let dst := unitDst x u
  let m := d.extLen dst len
  if dKind x = 4 then
    let (st, d) := d.accRed (endCore n) (dRedop x) dst b (dDhint x) (ext.take m)
    (d.dmaData n x.id st, ext.drop m)
  else
    let (st, d) := d.accWrite (endCore n) dst b (dDhint x) (.dma n x.id) (ext.take m)
    let d := d.dmaData n x.id st
    (if dChkEn x && dChkSide x then d.chkFeed k dst b else d, ext.drop m)

/-- All units of a COPY or REDUCE, in order. -/
def Dev.dmaUnits (d : Dev) (n : Nat) (x : DmaDesc) (ext : List PByte) : Dev :=
  ((List.range (dCount x)).foldl (fun (p : Dev × List PByte) u => Dev.dmaUnit n x p.1 p.2 u) (d, ext)).1

/-- Every COPY and REDUCE descriptor read before a given one has started: its checks are made, and its check-value unit is claimed where it has one (R135, R143, R144). -/
def Dma.startable (e : Dma) (x : DmaDesc) : Bool :=
  (e.held.takeWhile fun y => y.id != x.id).all fun y => match y.stage with | .onChannel _ => y.checked && dmaClaimed y | _ => true

/-- DMA_COPY and DMA_REDUCE: the descriptor on a general channel moves all its units; the two channels' descriptors start in the order read (R131, R141, R144). -/
def Dev.dmaGeneral (d : Dev) (n kind : Nat) (c : Fin 2) (ext : List PByte) : Dev :=
  match if d.dmaLive n then (d.dma n).held.find? fun x => x.stage == .onChannel c && dKind x == kind else none with
  | none => d
  | some x =>
    let (go, d) := if (d.dma n).startable x then d.dmaStart n x else (false, d)
    if !go || !dmaClaimed x then d
    else d.whole fun d => (d.dmaUnits n x ext).dmaFinish n x.id .ok

/-! Weights into planes (R136 to R138). -/

/-- `w` bits of a byte run from a bit offset within it. -/
def bitsAt (b : Array PByte) (off bit w : Nat) : Nat :=
  let o := off + bit / 8
  bitsOf (ofBytes ((List.range 5).map fun i => (b.getD (o + i) ⟨0, false⟩).v)) (bit % 8) w

/-- Byte run positions hold poison. -/
def poisonAt (b : Array PByte) (off len : Nat) : Bool := (List.range len).any fun i => (b.getD (off + i) ⟨0, false⟩).p

/-- The code of element (k, n) of a tile that is not TERN5 (R136). -/
def tileCode (f : Nat) (b : Array PByte) (k n : Nat) : Nat :=
  let w := (wgtBits f).1
  bitsAt b (k / 32 * groupBytes f + k % 32 * 32 * w) (w * n) w

/-- The scale byte stored for a group and column (R136). -/
def tileScale (f : Nat) (b : Array PByte) (g n : Nat) : Nat := (b.getD (g * groupBytes f + 1024 * (wgtBits f).1 + n) ⟨0, false⟩).v.toNat

/-- The value of a floating-point source element. -/
def srcVal (f c : Nat) : FVal :=
  match f with
  | 0x18 => e4m3.decode c
  | 0x19 => e5m2.decode c
  | 0x1A => fp16.decode c
  | 0x1B => bf16.decode c
  | _ => fp32.decode c

/-- The formats the converter requantises. -/
def requant (f : Nat) : Bool := f == 0x0D || (decide (0x18 ≤ f) && decide (f ≤ 0x1C))

/-- The block of 32 rows of one column in a group, quantised to MXINT8 (R82, R137). -/
def tileBlock (f : Nat) (b : Array PByte) (g n : Nat) : MxBlock :=
  MxFmt.mxint8.quantise ((List.range 32).map fun r =>
    let c := tileCode f b (32 * g + r) n
    if f = 0x0D then
      let x := tileScale f b g n
      if x = 255 then .nan else (mxfp6e3m2 c).mul (.fin false 1 ((x : Int) - 127))
    else srcVal f c)

/-- The integers of a group, column by column, and its scale bytes (R78, R80, R137). -/
def tileGroup (f : Nat) (b : Array PByte) (g : Nat) : Array (Array Int) × Array Nat × Nat × Nat :=
  if requant f then
    let bl := (List.range 256).map fun n => tileBlock f b g n
    ((bl.map fun q => q.els.toArray).toArray, (bl.map (·.x)).toArray, (bl.filter (·.nanBlock)).length, (bl.map (·.clamps)).sum)
  else
    let el (k n : Nat) : Int :=
      if f = 0x0A then tern5Digit (b.getD (26 * n + k / 5) ⟨0, false⟩).v.toNat (k % 5)
      else
        let c := tileCode f b k n
        match f with
        | 0x0B => mxfp4Int c
        | 0x0C => mxfp6Int c
        | _ => sx (wgtBits f).1 c
    (((List.range 256).map fun n => ((List.range 32).map fun r => el (32 * g + r) n).toArray).toArray,
     (if (wgtBits f).2 then (List.range 256).map fun n => tileScale f b g n else []).toArray, 0, 0)

/-- Plane p of a group of integers (R52, R79, R137). -/
def planeOf (cols : Array (Array Int)) (p : Nat) : BitVec 8192 :=
  BitVec.ofNat 8192 ((List.range 8192).foldl (fun s i => if bitOf (ux 8 ((cols.getD (i % 256) #[]).getD (i / 256) 0)) p then s + 2 ^ i else s) 0)

/-- Groups whose transfers are poisoned by their source bytes (R80, R146), and whether a TERN5 byte is no code. -/
def tilePoison (f : Nat) (b : Array PByte) : List Nat × Bool :=
  if f = 0x0A then
    let odd (i : Nat) : Bool := decide ((b.getD i ⟨0, false⟩).v.toNat ≥ 243)
    ((List.range 4).filter fun g => (List.range 256).any fun n => (List.range 26).any fun i =>
        (poisonAt b (26 * n + i) 1 || odd (26 * n + i)) && decide (5 * i ≤ 32 * g + 31) && decide (32 * g ≤ 5 * i + 4),
     (List.range 6656).any odd)
  else ((List.range 4).filter fun g => poisonAt b (g * groupBytes f) (groupBytes f), false)

/-- The LOADs of core n, in issue order (R132). -/
def Dev.coreLoads (d : Dev) (n op : Nat) : List ArrCmd :=
  ((d.arr (d.arrOf n)).cmds.filter fun c => c.core.val == n && wOp c.word.toNat == op)

/-- The source bytes of a tile: of the core's own slice over the row path, else as any engine's (R129, R142, R162). -/
def Dev.tileRead (d : Dev) (n a len hint : Nat) (ext : List PByte) : List PByte × Status × Dev :=
  if a + len ≤ stackEnd ∧ stackCore a = n ∧ stackCore (a + len - 1) = n ∧ d.sliceReach n ∧ !(d.slice n).resetting then d.rowStream n a len
  else d.accRead (endCore n) a len hint ext

/-- The weight channel converts the tile of LOAD c from the next unit of its descriptor x (R136 to R138). -/
def Dev.weightTile (d : Dev) (n : Nat) (c : ArrCmd) (x : DmaDesc) (ext : List PByte) : Dev :=
  let (j, ist, d) := d.dmaIndex n x x.unit
  let w := c.word.toNat
  let f := dSfmt x
  let a := unitSrc x j
  let (b, st, d) := if ist ≠ .ok then (poisonBytes (tileBytes f), ist, d) else d.tileRead n a (tileBytes f) (dShint x) ext
  let d := d.dmaData n x.id st
  let d := if dChkEn x then d.chkFeed (clusterOf n) a b else d
  let arr := b.toArray
  let (bad, t5) := tilePoison f arr
  let d := if t5 then (d.modDesc n x.id fun x => { x with status := x.status.first .badDescriptor }).dmaErr n DMA_ERR.TERN5_CODE x.gran .badDescriptor else d
  let lp := bitsOf w 19 3 + 1
  let lw := bitOf w 22
  let (p, mx) := (wgtPw f).getD (1, false)
  let same := p == lp && mx == lw
  let gs := (List.range 4).map fun g => tileGroup f arr g
  let d := (d.count DMA_CONV.NAN_BLOCK n 0 (gs.map fun q => q.2.2.1).sum).count DMA_CONV.CLAMP n 0 (gs.map fun q => q.2.2.2).sum
  let d := d.pmcCore n 0x11 (gs.map fun q => q.2.2.2).sum
  let d := if a + tileBytes f ≤ stackEnd ∧ stackCore a = n then d.pmcCore n 0x0B ((a % 1024 + tileBytes f + 1023) / 1024) else d
  let t : Tile :=
    if same then
      { stream := dStag x, desc := x.id, loadId := c.id, p := p, wmx := mx, poison := bad, emitted := 0, at' := 0, last := decide (x.unit + 1 = dCount x)
        planes := (List.range 4).foldl (fun t g => (List.range p).foldl (fun t q => Tbl.set 0 t (8 * g + q) (planeOf (gs.getD g (#[], #[], 0, 0)).1 q)) t) []
        scales := if mx then (List.range 1024).foldl (fun t i => Tbl.set 0 t i (BitVec.ofNat 8 ((gs.getD (i / 256) (#[], #[], 0, 0)).2.1.getD (i % 256) 0))) [] else [] }
    else { stream := dStag x, desc := x.id, loadId := c.id, p := lp, wmx := lw, poison := [0, 1, 2, 3], emitted := 0, at' := 0, last := decide (x.unit + 1 = dCount x), planes := [], scales := [] }
  let d := if same then d else (d.modDesc n x.id fun x => { x with status := x.status.first .badDescriptor }).dmaErr n DMA_ERR.FMT_MISMATCH x.gran .badDescriptor
  let d := d.modDesc n x.id fun x => { x with unit := x.unit + 1 }
  let e := d.dma n
  d.setDma n { e with tiles := e.tiles ++ [t] }

/-- DMA_WEIGHT: the weight channel reads and converts the tile of the next LOAD that has none (R132, R136 to R138). -/
def Dev.dmaWeight (d : Dev) (n : Nat) (ext : List PByte) : Dev :=
  let e := d.dma n
  let loads := (d.coreLoads n 0x10).take 2
  match loads.find? fun c => !(e.tiles.any fun t => t.loadId == c.id) with
  | none => d
  | some c =>
    let w := c.word.toNat
    match if e.tiles.length < 2 && d.dmaLive n then e.head 2 (bitsOf w 23 3) else none with
    | none => d
    | some x =>
      let (go, d) := d.dmaStart n x
      if !go || !dmaClaimed x then d
      else d.whole fun d => d.weightTile n c x ext

/-- TILE_EMIT: the next group of the oldest tile not all emitted leaves for the load port; one that the column link spoils on its way to the partner's array is poisoned (R69, R137, R486). -/
def Dev.tileEmit (d : Dev) (n : Nat) (bad : Bool) : Dev :=
  let e := d.dma n
  match e.tiles.find? fun t => decide (t.emitted < 4) with
  | none => d
  | some t =>
    let spoilt := bad && d.arrOf n != n
    let d := if spoilt then d.colLink n else d
    let poison := if spoilt then t.emitted :: t.poison else t.poison
    d.setDma n { e with tiles := e.tiles.map fun q => if q.loadId = t.loadId then { q with emitted := q.emitted + 1, poison := poison, at' := if q.emitted = 0 then d.ns else q.at' } else q }

/-! Activations (R132, R139). -/

/-- The 16-bit or 8-bit integer whose half goes to the array (R85, R139). -/
def halfByte (half : Nat) (z : Int) : Nat := if half = 1 then ux 8 (z / 256) else ux 8 z

/-- A vector's bytes, scale word, poisoned rows, NaN blocks and clamps (R139). A poisoned stored scale byte poisons the 32 rows of its group, a poisoned element its own row (R146; log 173). -/
def convVec (f target half : Nat) (b : Array PByte) : BitVec 1024 × BitVec 32 × List Nat × Nat × Nat :=
  let w := match f with | 0x10 | 0x11 | 0x1A | 0x1B => 16 | 0x1C => 32 | _ => 8
  let code (k : Nat) : Nat := bitsAt b (k * w / 8) 0 w
  let bad (k : Nat) : Bool := poisonAt b (k * w / 8) (w / 8)
  let pack (l : List Nat) : BitVec 1024 := BitVec.ofNat 1024 (ofBytes (l.map (BitVec.ofNat 8 ·)))
  if target = 0 then
    let els := (List.range 128).map fun k => if w = 16 then halfByte half (sx 16 (code k)) else code k
    let scaled := f == 0x0E || f == 0x11
    let base := 128 * w / 8
    let scale := if scaled then BitVec.ofNat 32 (bitsAt b base 0 32) else 0x7F7F7F7F
    (pack els, scale, (List.range 128).filter fun k => bad k || (scaled && poisonAt b (base + k / 32) 1), 0, 0)
  else
    let q : MxFmt := if target = 1 then .mxint8 else .mxint16
    let bl := (List.range 4).map fun g => q.quantise ((List.range 32).map fun r => srcVal f (code (32 * g + r)))
    let els := bl.flatMap fun x => x.els.map fun z => if target = 1 then ux 8 z else halfByte half z
    (pack els, BitVec.ofNat 32 (ofBytes (bl.map fun x => BitVec.ofNat 8 x.x)), (List.range 128).filter bad, (bl.filter (·.nanBlock)).length, (bl.map (·.clamps)).sum)

/-- The stream whose vector the input channel reads next: RUNs in issue order, each until its vectors are there (R132). -/
def inputNext (inputs : Tbl (List InVec)) (taken : ArrCmd → Nat) : List ArrCmd → Tbl Nat → Option Nat
  | [], _ => none
  | c :: t, need =>
    let s := runStag c
    let need := Tbl.set 0 need s (Tbl.get 0 need s + ((cmdSlots c).2 - taken c))
    if (Tbl.get [] inputs s).length < Tbl.get 0 need s then some s else inputNext inputs taken t need

/-- Vectors a RUN of core n has taken so far. -/
def Dev.vecsTaken (d : Dev) (n : Nat) (c : ArrCmd) : Nat :=
  (((d.arr (d.arrOf n)).run c).map fun r => r.vecs.length).getD 0

/-- The input channel converts the next vector of stream s from the next unit of its descriptor x; the words of the rows in `bad` the column link spoils on their way to the partner's array (R69, R139, R486). -/
def Dev.inputVec (d : Dev) (n s : Nat) (x : DmaDesc) (ext : List PByte) (bad : List (Fin 128)) : Dev :=
  let (j, ist, d) := d.dmaIndex n x x.unit
  let len := unitBytes x
  let a := unitSrc x j
  let (b, st, d) := if ist ≠ .ok then (poisonBytes len, ist, d) else d.accRead (endCore n) a len (dShint x) ext
  let d := d.dmaData n x.id st
  let d := if dChkEn x then d.chkFeed (clusterOf n) a b else d
  let (bytes, scale, rows, nb, cl) := convVec (dSfmt x) (dTarget x) (dHalf x) b.toArray
  let d := (d.count DMA_CONV.NAN_BLOCK n 0 nb).count DMA_CONV.CLAMP n 0 cl
  let d := d.pmcCore n 0x11 cl
  let d := d.modDesc n x.id fun x => { x with unit := x.unit + 1 }
  let spoilt := if d.arrOf n = n then [] else (bad.map (·.val)).dedup
  let d := if spoilt = [] then d else d.count LNK_COLUMN.COLLINK (n % 128) 0 spoilt.length
  let e := d.dma n
  d.setDma n { e with inputs := Tbl.set [] e.inputs s (Tbl.get [] e.inputs s ++ [⟨bytes, scale, (rows ++ spoilt).dedup, x.id⟩]) }

/-- DMA_INPUT: the input channel converts the next vector, at most 256 ahead (R132, R139). -/
def Dev.dmaInput (d : Dev) (n : Nat) (ext : List PByte) (bad : List (Fin 128)) : Dev :=
  let e := d.dma n
  if (e.inputs.map fun p => p.2.length).sum ≥ 256 ∨ !d.dmaLive n then d
  else
    match inputNext e.inputs (d.vecsTaken n) (d.coreLoads n 0x11) [] with
    | none => d
    | some s =>
      match e.head 3 s with
      | none => d
      | some x =>
        let (go, d) := d.dmaStart n x
        if !go || !dmaClaimed x then d
        else d.whole fun d => d.inputVec n s x ext bad

/-! Completion (R145). -/

/-- A descriptor has reached its completion point (R145). -/
def descReady (x : DmaDesc) : Bool :=
  !x.written && (x.stage == .finished || (x.stage == .stream && x.checked && x.unit == dCount x && x.taken == dCount x))

/-- The word whose descriptors are all complete completes with the first status that is not OK (R145). -/
def Dev.dmaWordDone (d : Dev) (n cmdId : Nat) : Dev :=
  let e := d.dma n
  let mine := e.held.filter fun x => x.cmdId == cmdId
  if mine.all (·.written) then
    (d.setDma n { e with held := e.held.filter fun x => x.cmdId != cmdId }).cmdDone n cmdId (mine.foldl (fun s x => s.first x.status) .ok)
  else d

/-- DESCRIPTOR_COMPLETE: with every write acknowledged, or every vector accepted by the array, the engine releases what the descriptor holds and writes DONE; not once a fence has begun (R143, R145, R147). -/
def Dev.descComplete (d : Dev) (n id : Nat) : Dev :=
  let d := if (d.dmaDesc n id).any (fun x => dKind x == 3) then d.arrAccepts (d.arrOf n) else d
  match d.dmaDesc n id with
  | none => d
  | some x =>
    if !descReady x || !d.dmaLive n || d.uio.any (fun u => u.owner == .dma n id) then d
    else
      let d := if x.chk then d.chkDrop (clusterOf n) else d
      let d := d.lsWrite n (64 * x.gran + 63) (toPBytes 1 (0x80 + x.status.code))
      let d := d.modDesc n id fun x => { x with stage := .finished, chk := false, written := true }
      let d := (d.setDma n (d.dma n).assign).pmcCore n 0x09 1
      d.dmaWordDone n x.cmdId

/-- The descriptors of a core whose turn has come and that wait for the check-value unit of its cluster (R143, R149). -/
def Dma.chkWaiting (e : Dma) : List DmaDesc :=
  e.held.filter fun x => dChkEn x && !x.chk && !x.written &&
    match x.stage with
    | .onChannel _ => true
    | .stream => (e.head (dKind x) (dStag x)).any fun y => y.id == x.id
    | _ => false

/-- The claims of the descriptors of cluster k that wait for its unit have arrived by now (R29, R143; log 142). -/
def Dev.chkArrive (d : Dev) (k : Nat) : Dev :=
  ((List.range 8).map (8 * k + ·)).foldl (fun d n =>
    if d.dmaLive n then (d.dma n).chkWaiting.foldl (fun d x => d.modDesc n x.id fun x => { x with chkAt := some (x.chkAt.getD d.ns) }) d else d) d

/-- When the first claim of an engine arrived; none where it has none. -/
def Dma.claimAt (e : Dma) : Option Nat := (oldest id (e.chkWaiting.filterMap (·.chkAt)))

/-- The engines of cluster k, by their number in it, whose claims arrived first. -/
def Dev.chkFirst (d : Dev) (k : Nat) : List Nat :=
  let js := (List.range 8).filter fun j => d.dmaLive (8 * k + j) && (d.dma (8 * k + j)).claimAt.isSome
  let at' (j : Nat) : Nat := (d.dma (8 * k + j)).claimAt.getD 0
  match oldest at' js with
  | none => []
  | some h => js.filter fun j => at' j == at' h

/-- The descriptor of an engine whose claim arrived first. -/
def Dma.claimant (e : Dma) : Option DmaDesc := e.chkWaiting.find? fun x => x.chkAt == e.claimAt

/-- CHK_CLAIM: a descriptor with CHK_EN whose turn it is claims its cluster's unit. While the unit is held the claims wait; free, it goes to the engine whose claim arrived first, and between engines whose claims arrived together the photo-finish rule decides, with requester index j for core 8k + j; a claim that meets CHK_SNOOP.EN being written 1 in its cycle meets it with index 8 (R29, R143, R466, R470; log 142). -/
def Dev.chkClaim (d : Dev) (n id : Nat) : Dev :=
  let k := clusterOf n
  if !((d.dma n).chkWaiting.any fun x => x.id == id) || !d.dmaLive n then d
  else
    let d := d.chkArrive k
    let met := d.chkFresh k && d.fld CHK_CFG.CLAIMER k 0 == 8 && (d.chkFirst k).all fun j => (d.dma (8 * k + j)).claimAt == some d.ns
    if !met && (d.bit CHK_CFG.CLAIMED k 0 || d.bit CHK_SNOOP.EN k 0) then d
    else
      match d.tie (arbKey 14 k) (d.chkFirst k ++ if met then [8] else []) with
      | none => d
      | some (j, d) =>
        let d := if met then { d with chkWhen := Tbl.set none d.chkWhen k none } else d
        match if j = 8 then none else (d.dma (8 * k + j)).claimant with
        | none => d
        | some x => (d.chkTake k j).modDesc (8 * k + j) x.id fun x => { x with chk := true }

/-- A fence or reset of the core: every held descriptor ends with a status and no DONE, streams and tiles are discarded (R147). -/
def Dev.dmaStop (d : Dev) (n : Nat) (st : Status) : Dev :=
  let e := d.dma n
  let d := if e.held.any (·.chk) then d.chkDrop (clusterOf n) else d
  let ids := (e.held.map (·.cmdId)).dedup
  let d := d.setDma n { Dma.init with nextId := e.nextId }
  ids.foldl (fun d i => d.cmdDone n i st) d

/-! The commands. -/

def execDmaCopy (core : CoreId) (chan : Fin 2) (ext : List PByte) (s : State) : Host.Outcome State Fault Refusal := s.ev fun d => d.dmaGeneral core 1 chan ext
def execDmaReduce (core : CoreId) (chan : Fin 2) (ext : List PByte) (s : State) : Host.Outcome State Fault Refusal := s.ev fun d => d.dmaGeneral core 4 chan ext
def execDmaWeight (core : CoreId) (ext : List PByte) (s : State) : Host.Outcome State Fault Refusal := s.ev fun d => d.dmaWeight core ext
def execDmaInput (core : CoreId) (ext : InputFetch) (s : State) : Host.Outcome State Fault Refusal := s.ev fun d => d.dmaInput core ext.data ext.badRows
def execTileEmit (core : TileCross) (s : State) : Host.Outcome State Fault Refusal := s.ev fun d => d.tileEmit core.core core.bad
def execDescriptorComplete (core : CoreId) (id : Nat) (s : State) : Host.Outcome State Fault Refusal := s.ev fun d => d.descComplete core id
def execChkClaim (core : CoreId) (id : Nat) (s : State) : Host.Outcome State Fault Refusal := s.ev fun d => d.chkClaim core id

end Sys2Proof.Machine
end

