-- ==== Sys2Proof/Machine/Vector.lean ====
section
/-! DEFINITION. The vector unit: operand checks and the functions of VOP (R90, R91, R99 to R101). -/

namespace Sys2Proof.Machine

/-! The VOP word (R99). -/

/-- VFN. -/
def vFn (w : Nat) : Nat := bitsOf w 18 6
/-- TYPE. -/
def vTy (w : Nat) : Nat := bitsOf w 24 3
/-- Destination TYPE of a CVT. -/
def vDty (w : Nat) : Nat := bitsOf w 39 3
/-- MXINT16 selected in an MXQ. -/
def vMx16 (w : Nat) : Bool := bitOf w 39
/-- BCAST. -/
def vBcast (w : Nat) : Bool := bitOf w 43
/-- LEN. -/
def vLen (w : Nat) : Nat := bitsOf w 45 14 + 1

/-- Element bytes of a TYPE. -/
def tyBytes (t : Nat) : Nat :=
  match t with
  | 0 | 5 => 4
  | 1 | 2 | 6 => 2
  | _ => 1

/-- A TYPE is a floating-point type. -/
def tyFp (t : Nat) : Bool := decide (t ≤ 4)

/-- The format of a floating-point TYPE. -/
def tyFmt (t : Nat) : Fmt :=
  match t with
  | 0 => fp32
  | 1 => bf16
  | 2 => fp16
  | 3 => e4m3
  | _ => e5m2

/-- The types a function accepts (R100). -/
def vTypeOk (w : Nat) : Bool :=
  let t := vTy w
  let arith := t == 0 || t == 1 || t == 2 || t == 5 || t == 6 || t == 7
  match vFn w with
  | 0x00 | 0x01 | 0x02 | 0x04 | 0x05 => arith
  | 0x03 | 0x12 => decide (t ≤ 2)
  | 0x06 | 0x07 | 0x08 | 0x09 | 0x0A | 0x0C => t == 0
  | 0x0B | 0x18 => true
  | 0x10 | 0x11 => decide (t ≤ 2) || t == 5
  | _ => false

/-- A horizontal function writes one element (R100). -/
def vHoriz (w : Nat) : Bool := vFn w == 0x10 || vFn w == 0x11 || vFn w == 0x12

/-- Ranges of the sources: address, bytes, element bytes. -/
def vSources (c : TileCmd) : List (Nat × Nat × Nat) :=
  let w := c.word.toNat
  let sz := tyBytes (vTy w)
  let f := vFn w
  let all (i : Nat) : Nat × Nat × Nat := (c.ops.getD i 0, vLen w * sz, sz)
  [all 1] ++ (if f ≤ 0x05 ∨ f = 0x12 then [if vBcast w then (c.ops.getD 2 0, sz, sz) else all 2] else []) ++ (if f = 0x03 then [all 3] else [])

/-- Ranges of the destinations: address, bytes, element bytes. -/
def vDests (c : TileCmd) : List (Nat × Nat × Nat) :=
  let w := c.word.toNat
  let d := c.ops.getD 0 0
  match vFn w with
  | 0x0B => let s := tyBytes (vDty w); [(d, vLen w * s, s)]
  | 0x0C => let s := if vMx16 w then 2 else 1; [(d, vLen w * s, s), (c.ops.getD 2 0, vLen w / 32, 1)]
  | 0x10 | 0x11 | 0x12 => [(d, 4, 4)]
  | _ => let s := tyBytes (vTy w); [(d, vLen w * s, s)]

/-- The checks made when a VOP issues: the DETAIL of its fault, if any (R101, R123). -/
def vopFault (c : TileCmd) : Option Nat :=
  let w := c.word.toNat
  if !vTypeOk w then some 0x05
  else
    let src := vSources c
    let dst := vDests c
    if (src ++ dst).any fun r => r.1 % r.2.2 != 0 || decide (r.1 + r.2.1 > lsSize) then some 0x04
    else if vFn w = 0x0C ∧ vLen w % 32 ≠ 0 then some 0x05
    else if dst.any fun x => src.any fun y => decide (x.1 < y.1 + y.2.1) && decide (y.1 < x.1 + x.2.1) && !(x.1 == y.1 && x.2.1 == y.2.1) then some 0x05
    else none

/-! Elements. -/

/-- An element: its code, and whether it is poisoned. -/
structure VEl where
  v : Nat
  p : Bool
  deriving DecidableEq, Repr, Inhabited

/-- Take `n` elements of `sz` bytes off a run of bytes. -/
def vElems : Nat → Nat → List PByte → List VEl
  | 0, _, _ => []
  | n + 1, sz, b => ⟨ofPBytes (b.take sz), anyPoison (b.take sz)⟩ :: vElems n sz (b.drop sz)

/-- Read a source: LEN elements, a single one repeated. -/
def Dev.vRead (d : Dev) (n len : Nat) (r : Nat × Nat × Nat) : List VEl × Dev :=
  let (b, _, d) := d.lsRead n r.1 r.2.1
  let k := r.2.1 / r.2.2
  let e := vElems k r.2.2 b
  (if k = len then e else List.replicate len (e.headD ⟨0, false⟩), d)

/-- Read a further source, if the function takes it; else the first one's elements stand in. -/
def Dev.vArg (d : Dev) (n len : Nat) (r : Option (Nat × Nat × Nat)) (a : List VEl) : List VEl × Dev :=
  match r with
  | some r => d.vRead n len r
  | none => (a, d)

/-- The bytes of result elements. -/
def vBytes (sz : Nat) (l : List VEl) : List PByte := l.flatMap fun e => if e.p then poisonBytes sz else toPBytes sz e.v

/-- A floating-point code widened to FP32 (R91). -/
def widen (t c : Nat) : Nat := fp32.encode ((tyFmt t).decode c)

/-- Whether a value is a zero. -/
def FVal.isZero : FVal → Bool
  | .fin _ m _ => m == 0
  | _ => false

/-- The larger (or smaller) of two values; of zeros of unlike sign the open one (R90). -/
def vMaxMin (min : Bool) (a b : FVal) : FVal :=
  if a.isZero && b.isZero && a.isNeg != b.isNeg then .fin (Config.zeroPick (BitVec.ofNat 32 (fp32.encode a)) (BitVec.ofNat 32 (fp32.encode b))) 0 0
  else if min then a.fmin b else a.fmax b

/-- One element of a function of up to three operands (R90, R100). -/
def vElem (f t a b c : Nat) : Nat :=
  if tyFp t then
    let g := tyFmt t
    let x := g.decode a
    let y := g.decode b
    match f with
    | 0x00 => g.encode (x.add y)
    | 0x01 => g.encode (x.add y.neg)
    | 0x02 => g.encode (x.mul y)
    | 0x03 => g.encode ((x.mul y).add (g.decode c))
    | 0x04 => g.encode (vMaxMin false x y)
    | 0x05 => g.encode (vMaxMin true x y)
    | 0x06 => f32Exp2 true Config.exp2Ulp a
    | 0x07 => f32Exp Config.expUlp a
    | 0x08 => f32Rcp Config.rcpUlp Config.rcpOpen a
    | 0x09 => f32Rsqrt Config.rsqrtUlp Config.rsqrtOpen a
    | _ => f32Silu Config.siluUlp Config.siluOpen a
  else
    let w := 8 * tyBytes t
    let x := sx w a
    let y := sx w b
    match f with
    | 0x00 => ux w (x + y)
    | 0x01 => ux w (x - y)
    | 0x02 => ux w (x * y)
    | 0x04 => ux w (max x y)
    | _ => ux w (min x y)

/-- The value of an element of any TYPE. -/
def tyVal (t c : Nat) : FVal := if tyFp t then (tyFmt t).decode c else FVal.ofInt (sx (8 * tyBytes t) c) 0 false

/-- CVT of one element (R90). -/
def vConvert (from' to' c : Nat) : Nat := if tyFp to' then (tyFmt to').encode (tyVal from' c) else (tyVal from' c).toIntSat (8 * tyBytes to')

/-- Three operand lists combined. -/
def vZip (f t : Nat) : List VEl → List VEl → List VEl → List VEl
  | a :: as, b :: bs, c :: cs => ⟨vElem f t a.v b.v c.v, a.p || b.p || c.p⟩ :: vZip f t as bs cs
  | _, _, _ => []

/-- Combine pairs (2i, 2i + 1) (R91). -/
def vPairs (op : Nat → Nat → Nat) : List (Option Nat) → List (Option Nat)
  | some a :: some b :: t => some (op a b) :: vPairs op t
  | some a :: none :: t => some a :: vPairs op t
  | none :: b :: t => b :: vPairs op t
  | l => l

/-- Combine pairwise down to one. -/
def vTree (op : Nat → Nat → Nat) : Nat → List (Option Nat) → Option Nat
  | 0, l => l.headD none
  | k + 1, l => vTree op k (vPairs op l)

/-- A horizontal function: 64 lanes in ascending order, then pairwise (R91, R100). DESIGN CHOICE (log 169): a lane starts from its first element, not from +0, which differs for −0 where LEN is 64 or more. -/
def vReduce (op : Nat → Nat → Nat) (empty : Option Nat) (l : List Nat) : Nat :=
  let lane (i : Nat) : Option Nat :=
    match (l.zipIdx.filter fun p => p.2 % 64 == i).map (·.1) with
    | [] => empty
    | a :: t => some (t.foldl op a)
  (vTree op 6 ((List.range 64).map lane)).getD 0

/-- Sum of two FP32 codes or INT32 words. -/
def vSum (t a b : Nat) : Nat := if t = 5 then (a + b) % 2 ^ 32 else f32Add a b
/-- Maximum of two FP32 codes or INT32 words. -/
def vMax2 (t a b : Nat) : Nat := if t = 5 then ux 32 (max (sx 32 a) (sx 32 b)) else fp32.encode (vMaxMin false (fp32.decode a) (fp32.decode b))

/-- The result of a horizontal function. -/
def vHorizontal (f t : Nat) (a b : List Nat) : Nat :=
  let w (x : Nat) : Nat := if t = 5 then x else widen t x
  match f with
  | 0x10 => vReduce (vSum t) (some 0) (a.map w)
  | 0x11 => vReduce (vMax2 t) none (a.map w)
  | _ => vReduce (vSum t) (some 0) (List.zipWith (fun x y => f32Mul (w x) (w y)) a b)

/-- MXQ: blocks of 32 elements quantised: elements and scale bytes (R82, R100). -/
def vQuant (mx16 : Bool) : Nat → List VEl → List VEl × List VEl
  | 0, _ => ([], [])
  | n + 1, l =>
    let blk := l.take 32
    let p := blk.any (·.p)
    let q := (if mx16 then MxFmt.mxint16 else MxFmt.mxint8).quantise (blk.map fun e => fp32.decode e.v)
    let r := vQuant mx16 n (l.drop 32)
    (q.els.map (fun z => ⟨ux (if mx16 then 16 else 8) z, p⟩) ++ r.1, ⟨q.x, p⟩ :: r.2)

/-- Carry out a VOP that has issued. -/
def Dev.vopRun (d : Dev) (n : Nat) (c : TileCmd) : Dev :=
  let w := c.word.toNat
  let f := vFn w
  let t := vTy w
  let len := vLen w
  let src := vSources c
  let (a, d) := d.vRead n len (src.getD 0 (0, 0, 1))
  let (b, d) := d.vArg n len src[1]? a
  let (x, d) := d.vArg n len src[2]? a
  let dst := c.ops.getD 0 0
  if vHoriz w then
    let p := a.any (·.p) || b.any (·.p)
    d.lsWrite n dst (vBytes 4 [⟨vHorizontal f t (a.map (·.v)) (b.map (·.v)), p⟩])
  else
    match f with
    | 0x0B => d.lsWrite n dst (vBytes (tyBytes (vDty w)) (a.map fun e => ⟨vConvert t (vDty w) e.v, e.p⟩))
    | 0x0C =>
      let q := vQuant (vMx16 w) (len / 32) a
      (d.lsWrite n dst (vBytes (if vMx16 w then 2 else 1) q.1)).lsWrite n (c.ops.getD 2 0) (vBytes 1 q.2)
    | 0x18 => d.lsWrite n dst (vBytes (tyBytes t) a)
    | _ => d.lsWrite n dst (vBytes (tyBytes t) (vZip f t a b x))

/-- A VOP of function f is the oldest that has issued and not finished: it is carried out (R99, R103). -/
def Dev.vop (d : Dev) (n f : Nat) : Dev :=
  match (d.core n).prog with
  | none => d
  | some p =>
    match p.issued.find? fun i => wOp i.cmd.word.toNat == 0x20 && i.done.isNone with
    | none => d
    | some i => if vFn i.cmd.word.toNat = f then (d.vopRun n i.cmd).cmdDone n i.cmd.id .ok else d

/-! The commands. -/

def execVopAdd (core : CoreId) (s : State) : Host.Outcome State Fault Refusal := s.ev fun d => d.vop core 0x00
def execVopSub (core : CoreId) (s : State) : Host.Outcome State Fault Refusal := s.ev fun d => d.vop core 0x01
def execVopMul (core : CoreId) (s : State) : Host.Outcome State Fault Refusal := s.ev fun d => d.vop core 0x02
def execVopFma (core : CoreId) (s : State) : Host.Outcome State Fault Refusal := s.ev fun d => d.vop core 0x03
def execVopMax (core : CoreId) (s : State) : Host.Outcome State Fault Refusal := s.ev fun d => d.vop core 0x04
def execVopMin (core : CoreId) (s : State) : Host.Outcome State Fault Refusal := s.ev fun d => d.vop core 0x05
def execVopExp2 (core : CoreId) (s : State) : Host.Outcome State Fault Refusal := s.ev fun d => d.vop core 0x06
def execVopExp (core : CoreId) (s : State) : Host.Outcome State Fault Refusal := s.ev fun d => d.vop core 0x07
def execVopRcp (core : CoreId) (s : State) : Host.Outcome State Fault Refusal := s.ev fun d => d.vop core 0x08
def execVopRsqrt (core : CoreId) (s : State) : Host.Outcome State Fault Refusal := s.ev fun d => d.vop core 0x09
def execVopSilu (core : CoreId) (s : State) : Host.Outcome State Fault Refusal := s.ev fun d => d.vop core 0x0A
def execVopCvt (core : CoreId) (s : State) : Host.Outcome State Fault Refusal := s.ev fun d => d.vop core 0x0B
def execVopMxq (core : CoreId) (s : State) : Host.Outcome State Fault Refusal := s.ev fun d => d.vop core 0x0C
def execVopHsum (core : CoreId) (s : State) : Host.Outcome State Fault Refusal := s.ev fun d => d.vop core 0x10
def execVopHmax (core : CoreId) (s : State) : Host.Outcome State Fault Refusal := s.ev fun d => d.vop core 0x11
def execVopHdot (core : CoreId) (s : State) : Host.Outcome State Fault Refusal := s.ev fun d => d.vop core 0x12
def execVopCopy (core : CoreId) (s : State) : Host.Outcome State Fault Refusal := s.ev fun d => d.vop core 0x18

end Sys2Proof.Machine
end

