-- ==== Sys2Proof/Machine/Issue.lean ====
section
/-! DEFINITION. Issue: queue heads and gates, and the tile words that issue to a unit (R97, R102 to R104, R130, R304). -/

namespace Sys2Proof.Machine

/-- The operation of a BATON word's BOP (R102, R304). -/
def bopKind (b : Nat) : BtnKind :=
  match b with
  | 0 => .add
  | 1 => .wait
  | 2 => .set
  | _ => .handoff

/-- A SYNC command is outstanding (R103). -/
def Prog.syncBusy (p : Prog) : Bool := p.issued.any fun i => opQueue (wOp i.cmd.word.toNat) == some .sync

/-- The unit of queue q accepts its head now (R67, R70, R102, R103, R130). -/
def Dev.unitReady (d : Dev) (n : CoreId) (p : Prog) (q : TQueue) (c : TileCmd) : Bool :=
  let w := c.word.toNat
  match q with
  | .arr => (d.arr n).targetTo.isNone && d.arrAnswer n (d.arrOf n) w != .waits
  | .vec => true
  | .dma => decide ((d.dma n).count + bitsOf w 34 8 + 1 ≤ 32)
  | .sync => !p.syncBusy && (wOp w != 0x0E || decide ((d.core n).postQ.length < 8))

/-- The head of a queue that could issue if its gate lets it. -/
def Dev.headReady (d : Dev) (n : CoreId) (p : Prog) (q : TQueue) : Option TileCmd :=
  match p.queue q with
  | [] => none
  | c :: _ => if d.unitReady n p q c then some c else none

/-- The queues in index order (R104). -/
def allQueues : List TQueue := [.arr, .vec, .dma, .sync]

/-- Up to k winners among the queues that contend for a gate: the one that has been a head longest, and the photo-finish rule among those of one CCLK (R29, R104). -/
def Dev.gateWinners (key : Nat) (since : Nat → Nat) : Nat → Dev → List Nat → List Nat × Dev
  | 0, d, _ => ([], d)
  | k + 1, d, l =>
    match d.tie key (l.filter fun i => l.all fun j => decide (since i ≤ since j)) with
    | none => ([], d)
    | some (x, d) =>
      let r := Dev.gateWinners key since k d (l.filter (· != x))
      (x :: r.1, r.2)

/-- The heads that issue in one CCLK, in queue order (R103, R104). -/
def Dev.issueGrants (d : Dev) (n : CoreId) (p : Prog) : List (TQueue × TileCmd) × Dev :=
  let heads := allQueues.filterMap fun q => (d.headReady n p q).map fun c => (q, c)
  let waits (g : Nat) : List Nat := (heads.filter fun h => wWen h.2.word.toNat && wGate h.2.word.toNat == g).map fun h => h.1.index
  let (ok, d) := (List.range 16).foldl (fun (r : List (Nat × Nat) × Dev) g =>
    let w := waits g
    let k := (d.core n).gates.getD g 0
    if w.length ≤ k then (r.1 ++ w.map fun i => (g, i), r.2)
    else
      let x := Dev.gateWinners (arbKey 3 (n * 16 + g)) (Tbl.get 0 p.headAt) k r.2 w
      (r.1 ++ x.1.map fun i => (g, i), x.2)) ([], d)
  (heads.filter fun h => !wWen h.2.word.toNat || ok.contains (wGate h.2.word.toNat, h.1.index), d)

/-- A BATON word issues: its operation goes to the baton's unit, or is answered for a region that is not reached (R27, R304). -/
def Dev.batonIssue (d : Dev) (n : Nat) (c : TileCmd) : Dev :=
  let w := c.word.toNat
  let b := bitsOf w 18 14
  let r := batonRegion b
  if d.regionReach r then
    d.btnSend { kind := bopKind (bitsOf w 32 3), baton := b, v := c.bvalue, src := .tile n c.id, port := corePort n r, arr := d.ns, limit := none }
  else d.cmdDone n c.id .fencedUnit

/-- A granted command leaves its queue, whose next command is the head from now, or from the CCLK of its own dispatch, takes a count of its wait gate and resets the watchdog (R103, R104, R107). -/
def Dev.issueTake (d : Dev) (n : Nat) (q : TQueue) (c : TileCmd) : Dev :=
  let w := c.word.toNat
  let t := d.cclk n
  let d := d.modProg n fun p =>
    let rest := (p.queue q).filter fun x => x.id != c.id
    { p.setQueue q rest with headAt := Tbl.set 0 p.headAt q.index (max t ((rest.head?.map fun x => x.at').getD 0)) }
  let k := d.core n
  let d := if wWen w then d.setCore n { k with gates := k.gates.set (wGate w) (k.gates.getD (wGate w) 0 - 1) } else d
  d.seqActive n

/-- The command has issued and is outstanding (R103). -/
def Dev.issuePut (d : Dev) (n : Nat) (c : TileCmd) : Dev := d.modProg n fun p => { p with issued := p.issued ++ [⟨c, none⟩] }

/-- One granted command issues to its unit (R97, R103, R123). -/
def Dev.issueOne (d : Dev) (n : CoreId) (q : TQueue) (c : TileCmd) : Dev :=
  let w := c.word.toNat
  let op := wOp w
  let user := ((d.core n).prog.map fun p => p.launch.user).getD false
  let d := d.issueTake n q c
  match q with
  | .arr =>
    if op = 0x12 ∧ drainEnd w c.scaleGran > lsSize then d.progFault n .badDescriptor 0x04 op c.pc
    else
      match d.arrAccept n c with
      | (.taken, d) => d.issuePut n c
      | (.badCmd, d) => d.progFault n .badDescriptor 0x07 op c.pc
      | (.unavailable, d) => d.progFault n .fencedUnit 0x10 op c.pc
      | (.waits, d) => d
  | .vec =>
    match vopFault c with
    | some detail => d.progFault n .badDescriptor detail op c.pc
    | none => d.issuePut n c
  | .dma =>
    if 64 * (bitsOf w 18 16 + bitsOf w 34 8 + 1) > lsSize then d.progFault n .badDescriptor 0x04 op c.pc
    else (((d.issuePut n c).dmaAccept n c user).getD d)
  | .sync =>
    let d := d.issuePut n c
    match op with
    | 0x38 => d.batonIssue n c
    | 0x0E => (((d.postPut n (BitVec.ofNat 32 (bitsOf w 18 32))).getD d).cmdDone n c.id .ok).cmdComplete n c.id
    | _ => (d.cmdDone n c.id .ok).cmdComplete n c.id

/-- A sleeping array begins to wake when a command whose gate is open waits for it; one it refuses takes its answer when it issues (R67, R70). -/
def Dev.wakeHeads (d : Dev) (n : CoreId) : Dev :=
  match (d.core n).prog with
  | none => d
  | some p =>
    match p.arrQ with
    | [] => d
    | c :: _ =>
      let w := c.word.toNat
      if (d.arr (d.arrOf n)).power = .sleep ∧ (!wWen w || decide (0 < (d.core n).gates.getD (wGate w) 0)) ∧ d.arrAnswer n (d.arrOf n) w = .waits then (d.arrAccept n c).2 else d

/-- COMMAND_ISSUE: every head that its unit and gate let go issues (R103, R104); `only` keeps to one kind of command. -/
def Dev.issue (d : Dev) (n : CoreId) (only : TQueue → Nat → Bool) : Dev :=
  let d := (d.dispatch n).wakeHeads n
  match (d.core n).prog with
  | none => d
  | some p =>
    let (g, d1) := d.issueGrants n p
    let g := g.filter fun h => only h.1 h.2.word.toNat
    if g = [] then d else (g.foldl (fun d h => d.issueOne n h.1 h.2) d1).dispatch n

/-- ARRAY_WAKE: the wake ends and the array accepts what waited (R67). -/
def Dev.arrayWake (d : Dev) (a : CoreId) : Dev :=
  let ready := (d.arr a).wakeAt.any fun t => decide (t ≤ d.ns)
  if !ready then d
  else
    let d := d.arrWoken a
    [a, (⟨partnerOf a, by unfold partnerOf; omega⟩ : CoreId)].foldl (fun d (n : CoreId) => if d.arrOf n = a.val then d.issue n fun q _ => q == .arr else d) d

/-! The commands. -/

def execCommandIssue (core : CoreId) (s : State) : Host.Outcome State Fault Refusal := s.ev fun d => d.issue core fun _ _ => true
def execRun (core : CoreId) (s : State) : Host.Outcome State Fault Refusal := s.ev fun d => d.issue core fun q w => q == .arr && wOp w == 0x11
def execNop (core : CoreId) (s : State) : Host.Outcome State Fault Refusal := s.ev fun d => d.issue core fun _ w => wOp w == 0x02
def execPost (core : CoreId) (s : State) : Host.Outcome State Fault Refusal := s.ev fun d => d.issue core fun _ w => wOp w == 0x0E
def execDma (core : CoreId) (s : State) : Host.Outcome State Fault Refusal := s.ev fun d => d.issue core fun q _ => q == .dma
def execBatonWordSignal (core : CoreId) (s : State) : Host.Outcome State Fault Refusal := s.ev fun d => d.issue core fun _ w => wOp w == 0x38 && bitsOf w 32 3 == 0
def execBatonWordWait (core : CoreId) (s : State) : Host.Outcome State Fault Refusal := s.ev fun d => d.issue core fun _ w => wOp w == 0x38 && bitsOf w 32 3 == 1
def execBatonWordSwap (core : CoreId) (s : State) : Host.Outcome State Fault Refusal := s.ev fun d => d.issue core fun _ w => wOp w == 0x38 && bitsOf w 32 3 == 2
def execBatonWordHandoff (core : CoreId) (s : State) : Host.Outcome State Fault Refusal := s.ev fun d => d.issue core fun _ w => wOp w == 0x38 && bitsOf w 32 3 == 3
def execArrayWake (a : CoreId) (s : State) : Host.Outcome State Fault Refusal := s.ev fun d => d.arrayWake a

end Sys2Proof.Machine
end

