-- ==== Sys2Proof/Machine/Launch.lean ====
section
/-! DEFINITION. Launches and the control processor's own state: mailbox, launch CSRs, interrupts, traps, image copy, halts and stops (R106, R111 to R122, R126, R127). -/

namespace Sys2Proof.Machine

/-! Traps and interrupts (R111, R113, R116). -/

/-- Change the processor of core n. -/
def Dev.modCp (d : Dev) (n : Nat) (f : Cp → Cp) : Dev := d.setCore n { d.core n with cp := f (d.core n).cp }

/-- The `time` CSR: 10 ns units of the device time base (R113), counted from the model's start (log 146). -/
def Dev.time (d : Dev) : Nat := d.ns / 10

/-- Entries the mailbox holds (R117). -/
def Core.mboxCount (c : Core) : Nat := (c.mboxTail + 16 - c.mboxHead) % 16

/-- The entry at the mailbox head. -/
def Core.mboxTop (c : Core) : Option (BitVec 256) := if c.mboxCount = 0 then none else some (Tbl.get 0 c.mbox (c.mboxHead % 8))

/-- TAG of an entry (R117). -/
def mbTag (e : BitVec 256) : Nat := bitsOf e.toNat 0 16
/-- DIRECT of an entry. -/
def mbDirect (e : BitVec 256) : Bool := bitOf e.toNat 32
/-- USER of an entry. -/
def mbUser (e : BitVec 256) : Bool := bitOf e.toNat 33
/-- ENTRY of an entry. -/
def mbEntry (e : BitVec 256) : Nat := bitsOf e.toNat 64 64

/-- The entry at the head is one that hardware takes (R119). -/
def Dev.mboxHw (d : Dev) (n : Nat) : Bool := d.bit DXMCTL.DIRECT_EN n 0 && ((d.core n).mboxTop.map mbDirect).getD false

/-- The interrupts pending: the machine timer and the device's of R116. -/
def Dev.mip (d : Dev) (n : Nat) : Nat :=
  let c := d.core n
  let b (x : Bool) (i : Nat) : Nat := if x then 2 ^ i else 0
  b (decide (c.timecmp.toNat ≤ d.time)) 7 + b (c.mboxTop.isSome && !d.mboxHw n) 16 + b (!c.retQ.isEmpty) 17 + b (!c.postQ.isEmpty) 18 +
    b (d.bit CORE_FAULT.VALID n 0) 19 + b (d.fld LS_ECC.UNCORR n 0 != 0 || arrErrBits.any fun f => d.bit f n 0) 20 +
    b ((List.range 6).any fun i => bitOf (d.fld PERF_OVF.OVF n 0) i && d.bit PERF_CTL.IRQ n i) 21 + b d.held 22

/-- A trap to machine mode: saved pc, cause, value and interrupt-enable stack; the pc at mtvec (RISC-V privileged architecture; log 30). -/
def Cp.trap (p : Cp) (irq : Bool) (cause tval : Nat) : Cp :=
  let ms := p.mstatus.toNat
  let base := p.mtvec.toNat / 4 * 4
  let rest := ms - bitsOf ms 3 1 * 2 ^ 3 - bitsOf ms 7 1 * 2 ^ 7 - bitsOf ms 11 2 * 2 ^ 11
  { p with
    mepc := p.pc
    mcause := BitVec.ofNat 64 ((if irq then 2 ^ 63 else 0) + cause)
    mtval := BitVec.ofNat 64 tval
    mstatus := BitVec.ofNat 64 (rest + bitsOf ms 3 1 * 2 ^ 7 + (if p.user then 0 else 3) * 2 ^ 11)
    user := false
    wfi := false
    trapFault := !irq
    pc := BitVec.ofNat 64 (if irq && p.mtvec.toNat % 4 == 1 then base + 4 * cause else base) }

/-- An exception in the control processor of core n. What mtval holds after an illegal instruction or a breakpoint is open (log 30). -/
def Dev.cpTrap (d : Dev) (n cause tval : Nat) : Dev :=
  let (v, d) := if cause = 2 ∨ cause = 3 then (let (v, d) := d.free; (v.toNat, d)) else (tval, d)
  d.modCp n fun p => p.trap false cause v

/-- A processor halt: CP_STATE 3, CORE_FAULT with UNCORRECTABLE and DETAIL 0x70 (R111, R125). The spec does not say what OPCODE and PC then hold (log 31). -/
def Dev.cpHalt (d : Dev) (n : Nat) : Dev :=
  let (a, d) := d.free
  let (b, d) := d.free
  (d.modCp n fun p => { p with st := .halted }).coreFault n .uncorr 0x70 (a.toNat % 256) (b.toNat % 2 ^ 22)

/-- A CSR access by user mode that lacks its permission: an illegal-instruction exception (R113). -/
def Dev.csrUser (d : Dev) (n : Nat) (user : Bool) (perm : Fld) (f : Dev → Dev) : Dev := if user && !d.bit perm n 0 then d.cpTrap n 2 0 else f d

/-! The launch CSRs (R113, R120, R121). -/

/-- A dxlaunch write: a program enters the launch queue, or is lost; a DIRECT entry that it sends back in their tie is the mailbox's head again (R106, R113). -/
def Dev.dxLaunch (d : Dev) (n : Nat) (user : Bool) (v : Word) : Dev :=
  match d.lqPut n ⟨bitsOf v.toNat 3 19 * 8, bitsOf v.toNat 32 16, user, false, d.cclk n, false⟩ with
  | (some l, e) => e.lqLost n l (((d.core n).mboxHead + 15) % 16)
  | (none, d) => d

/-- A dxgate write adds its signed value, clamped to 0–255 (R113). -/
def Dev.dxGate (d : Dev) (n g : Nat) (v : Word) : Dev :=
  let c := d.core n
  d.setCore n { c with gates := c.gates.set g (max 0 (min 255 ((c.gates.getD g 0 : Int) + v.toInt))).toNat }

/-- A dxretire read pops one record; VALID = 0 when there is none (R120). -/
def Dev.dxRetire (d : Dev) (n : Nat) : Nat × Dev :=
  let c := d.core n
  match c.retQ with
  | [] => (0, d)
  | r :: t => (r.tag + r.status.code * 2 ^ 16 + r.detail * 2 ^ 24 + 2 ^ 63, d.setCore n { c with retQ := t })

/-- A dxpost read pops one value; the place it frees takes the old VALUE of a SET that waited for one (R113, R304). -/
def Dev.dxPost (d : Dev) (n : Nat) : Nat × Dev :=
  let c := d.core n
  match c.postQ with
  | [] => (0, d)
  | v :: t =>
    let d := d.setCore n { c with postQ := t }
    (v.toNat + 2 ^ 63,
     match c.swapAck with
     | none => d
     | some (id, x, st) =>
       let d := d.setCore n { d.core n with swapAck := none }
       ((d.postPut n x).getD d).cmdDone n id st)

/-- A dxdone write reports a launch (R113, R121). -/
def Dev.dxDone (d : Dev) (n : Nat) (v : Word) : Dev := d.coreReport (bitsOf v.toNat 0 16) n (Status.ofCode (bitsOf v.toNat 16 8))

/-- A dxlhead write (R113, R119). -/
def Dev.dxLhead (d : Dev) (n : Nat) (v : Word) : Dev := d.setCore n { d.core n with mboxHead := bitsOf v.toNat 0 4 }

/-! Partitions (R509). -/

/-- Partition p holds cluster k (R525). -/
def Dev.partHas (d : Dev) (p k : Nat) : Bool := bitOf (d.fld RST_PART.CLUSTERS p 0) k

/-- The cores a reset covers (R513): scope and target. -/
def Dev.scopeCores (d : Dev) (scope target : Nat) : List Nat :=
  match scope with
  | 0 => [target]
  | 1 => (List.range 8).map (· + 8 * target)
  | 2 => (List.range 256).filter fun n => d.partHas target (n / 8)
  | _ => (List.range 128).map (· + 128 * target)

/-- A reset in progress covers core n. -/
def Dev.rstCovers (d : Dev) (n : Nat) : Bool := match d.rst with | some r => (d.scopeCores r.scope r.target).contains n | none => false

/-! The mailbox (R117, R119, R122). -/

/-- The status with which the requests of a core out of service end: RESET_ABORT while a reset covers it (R122, R147). -/
def Dev.fenceStatus (d : Dev) (n : Nat) : Status := if d.rstCovers n then .resetAbort else .fencedUnit

/-- MAILBOX_DELIVER: the oldest entry held for a core enters its mailbox; one that arrives while the core is fenced is reported with FENCED_UNIT, or with RESET_ABORT while a reset covers the core; one for a rejoining core waits (R117, R122, R517). -/
def Dev.mboxDeliver (d : Dev) (n : Nat) : Dev :=
  let c := d.core n
  match c.mboxHeld with
  | [] => d
  | e :: t =>
    if d.fenceState n = 3 then d
    else if d.fenceState n ≠ 0 then
      (d.setCore n { c with mboxHeld := t, mboxHead := (c.mboxHead + 1) % 16, mboxTail := (c.mboxTail + 1) % 16 }).coreReport (mbTag e) n (d.fenceStatus n)
    else if c.mboxCount < 8 then
      d.setCore n { c with mboxHeld := t, mbox := Tbl.set 0 c.mbox (c.mboxTail % 8) e, mboxTail := (c.mboxTail + 1) % 16 }
    else d

/-- DIRECT_LAUNCH: hardware takes a DIRECT entry at the head into the launch queue, once that has room (R106, R119). -/
def Dev.directTake (d : Dev) (n : Nat) : Dev :=
  let c := d.core n
  match c.mboxTop with
  | none => d
  | some e =>
    if d.mboxHw n then
      match (d.setCore n { c with mboxHead := (c.mboxHead + 1) % 16 }).lqPut n ⟨bitsOf (mbEntry e) 3 19 * 8, mbTag e, mbUser e, true, d.cclk n, false⟩ with
      | (some l, e) => e.lqLost n l c.mboxHead
      | (none, d) => d
    else d

/-! Stops (R122). -/

/-- The mailbox of a core stops: each entry it holds is reported, and leaves it (R122). -/
def Dev.mboxStop (d : Dev) (n : Nat) (st : Status) : Dev :=
  let c := d.core n
  let es := (List.range c.mboxCount).map fun i => Tbl.get 0 c.mbox ((c.mboxHead + i) % 8)
  es.foldl (fun d e => d.coreReport (mbTag e) n st) (d.setCore n { c with mboxHead := c.mboxTail, swapAck := none })

/-- A program that a fence stops: as on a fault it keeps its issued commands alone, the SYNC command apart; it retires when they have completed (R122, R124). -/
def Prog.stop (p : Prog) : Prog :=
  { p with faulted := some (.fencedUnit, 0), loops := [], buf := [], arrQ := [], vecQ := [], dmaQ := [], syncQ := []
           issued := p.issued.filter fun i => opQueue (wOp i.cmd.word.toNat) != some .sync }

/-- The sequencer of a fenced core stops: the running program as on a fault, and with none running the launch queue retires (R122). -/
def Dev.seqFenced (d : Dev) (n : Nat) : Dev :=
  match (d.core n).prog with
  | none => d.lqFenced n
  | some _ => (d.modProg n Prog.stop).progRetire n

/-- The sequencer of a core under reset is cleared: DIRECT programs are reported, the others leave no record (R122). -/
def Dev.seqReset (d : Dev) (n : Nat) (st : Status) : Dev :=
  let c := d.core n
  let ps := (match c.prog with | some p => [p.launch] | none => []) ++ c.lq
  (ps.filter fun l => l.direct).foldl (fun d l => d.coreReport l.tag n st)
    (d.setCore n { c with prog := none, gates := List.replicate 16 0, lq := [], retQ := [] })

/-- The sequencer and the mailbox of a core stop, by a fence or a reset; its baton operations are withdrawn (R122, R306). -/
def Dev.seqStop (d : Dev) (n : Nat) (st : Status) : Dev :=
  let d := (d.btnWithdraw (fun o => match o with | .tile m _ => m == n | _ => false) st).mboxStop n st
  if st = .fencedUnit then d.seqFenced n else d.seqReset n st

/-! Starting the processor (R126, R127). -/

/-- Start at 0 in machine mode (R126). -/
def Dev.cpRun (d : Dev) (n : Nat) : Dev := d.modCp n fun _ => { Cp.init with st := .running }

/-- A write of CORE_CTL by a requester: only the management controller's counts (R126). -/
def Dev.coreCtl (d : Dev) (r : Req) (n : Nat) (v : Word) : Dev :=
  if r ≠ .mgmt then d
  else
    let was := d.bit CORE_CTL.CP_RUN n 0
    let w := v.toNat
    let d := ((d.setBit CORE_CTL.CP_RUN n 0 (bitOf w 0)).setBit CORE_CTL.LOAD_IMAGE n 0 (bitOf w 1)).setFld CORE_CTL.IMG_GRAN n 0 (bitsOf w 16 16)
    let d := if bitOf w 2 then d.seqAbort n else d
    if bitOf w 0 && !was then
      (if bitOf w 1 then (let t := d.clkSum (clusterOf n); d.modCp n fun _ => { Cp.init with st := .copying, copyAt := t }) else d.cpRun n)
    else if !bitOf w 0 then d.modCp n fun _ => Cp.init
    else d

/-- A write of CORE_CTL; before STARTER step 9 its CP_RUN is ignored (R126, R504). -/
def Dev.coreCtlWrite (d : Dev) (r : Req) (n : Nat) (v : Word) : Dev :=
  d.coreCtl r n (if 9 ≤ d.done then v else (v &&& ~~~1#64) ||| (if d.bit CORE_CTL.CP_RUN n 0 then 1 else 0))

/-- Copy codeword i of an image half that lies at `src`; `r.1` says whether a codeword so far was bad (R126). -/
def copyCw (n dd src : Nat) (r : Bool × Dev) (i : Nat) : Bool × Dev :=
  let x := if src + 32 * i + 32 ≤ lsSize then r.2.lsRead n (src + 32 * i) 32 else (poisonBytes 32, .poisonRead, r.2)
  (r.1 || x.2.1 != .ok, x.2.2.write (storeKey n dd (32 * i)) x.1)

/-- Copy 64 KiB of the image into a store; whether a codeword was bad (R126). -/
@[irreducible] def Dev.copyHalf (d : Dev) (n dd src : Nat) : Bool × Dev := (List.range 2048).foldl (copyCw n dd src) (false, d)

/-- IMAGE_COPY_DONE: after 2,048 CCLK the image is in the stores; a poisoned codeword leaves the processor in reset (R126). What OPCODE and PC of CORE_FAULT then hold is open (log 31). -/
def Dev.imageDone (d : Dev) (n : Nat) : Dev :=
  let p := (d.core n).cp
  if p.st = .copying ∧ p.copyAt + 2048 * 2000 ≤ d.clkSum (clusterOf n) then
    let src := 64 * d.fld CORE_CTL.IMG_GRAN n 0
    let x := d.copyHalf n 0 src
    let y := x.2.copyHalf n 1 (src + 65536)
    if x.1 || y.1 then
      let (a, d) := y.2.free
      let (b, d) := d.free
      (d.modCp n fun _ => Cp.init).coreFault n .poisonRead 0x60 (a.toNat % 256) (b.toNat % 2 ^ 22)
    else y.2.cpRun n
  else d

/-- An instruction fetch reads the I-store half word at an address; none where it faults (R111, R112). -/
def Dev.cpFetch2 (d : Dev) (n a : Nat) (user : Bool) : Option Nat × Dev :=
  if a + 2 > 0x10000 ∨ (user && decide (a < 0x8000)) then (none, d)
  else
    let (b, cl) := d.read (storeKey n 0 a) 2
    let d := cl.foldl (fun e p => (e.scrubCw p.1 p.2).lsEcc n 1 p.1 (a / 32 * 32) p.2) d
    (if anyPoison b then none else some (ofPBytes b), d)

/-! The local store's banks (R108 to R110). -/

/-- The bank of a local-store address (R108). -/
def lsBank (a : Nat) : Nat := bitsOf a 6 5

/-- LS_ACCESS: requests reach their ports and the bank grants the oldest by the CCLK of arrival, ties by R29 with the port as index; a port has at most one request at a bank, and each LS_ACCESS is a CCLK of its bank (R30, R109, R110). -/
def Dev.lsGrant (d : Dev) (n bank : Nat) (reqs : List LsReq) : Dev :=
  let c := d.core n
  let valid (q : LsReq) : Bool := decide (q.addr + q.len ≤ lsSize) && decide (q.addr % 64 + q.len ≤ 64) && decide (1 ≤ q.len) && lsBank q.addr == bank
  let busy (p : Fin 10) : Bool := c.lsQ.any fun x => x.2.port == p && lsBank x.2.addr == bank
  let first (q : LsReq) : Bool := (reqs.find? fun r => valid r && r.port == q.port) == some q
  let now := (c.lsQ.filter fun x => lsBank x.2.addr == bank).foldl (fun t x => max t (x.1 + 1)) (d.cclk n)
  let d := d.setCore n { c with lsQ := c.lsQ ++ (reqs.filter fun q => valid q && first q && !busy q.port).dedup.map fun q => (now, q) }
  let mine := (d.core n).lsQ.filter fun x => lsBank x.2.addr == bank
  match oldest (fun x => x.1) mine with
  | none => d
  | some h =>
    let tied := mine.filter fun x => x.1 == h.1
    let d := d.pmcCore n 0x07 (mine.length - 1)
    match d.tie (arbKey 7 (n * 32 + bank)) (tied.map fun x => x.2.port.val).dedup with
    | none => d
    | some (p, d) =>
      match tied.find? fun x => x.2.port.val == p with
      | none => d
      | some (t, q) =>
        let d := d.setCore n { d.core n with lsQ := (d.core n).lsQ.erase (t, q) }
        if q.write then (d.lsWrite n q.addr (q.data.take q.len)).emit (.memResp (endCore n) .ok [])
        else
          let r := d.lsRead n q.addr q.len
          r.2.2.emit (.memResp (endCore n) r.2.1 r.1)

/-! Device accesses (R112, R115). -/

/-- A user access lies in an open dxuwin window (R115). -/
def Dev.winMay (d : Dev) (n a len : Nat) (write : Bool) : Bool :=
  (List.range 4).any fun i =>
    let lg := max 20 (min 52 (d.fld DXUWIN.LOG2SIZE n i))
    d.bit DXUWIN.EN n i && (!write || d.bit DXUWIN.WRITE n i) &&
      a / 2 ^ lg == d.fld DXUWIN.BASE n i * 2 ^ 20 / 2 ^ lg && (a + len - 1) / 2 ^ lg == d.fld DXUWIN.BASE n i * 2 ^ 20 / 2 ^ lg

/-- A load or store of the processor to a device local address: the value loaded, or none where it traps (R112, R115). -/
def Dev.cpDev (d : Dev) (n : Nat) (user store : Bool) (a size v : Nat) (ext : List PByte) : Option Nat × Dev :=
  let va := 2 ^ 52 + a
  if a % size ≠ 0 then (none, d.cpTrap n (if store then 6 else 4) va)
  else if user && !d.winMay n a size store then (none, d.cpTrap n (if store then 7 else 5) va)
  else if store then (some 0, (d.accWrite (endCore n) a (toPBytes size v) 0 (.cp n) ext).2)
  else
    let r := d.accRead (endCore n) a size 0 ext
    if anyPoison r.1 then (none, r.2.2.cpTrap n 5 va) else (some (ofPBytes r.1), r.2.2)

/-! The commands. -/

def execDxlaunchWrite (core : CoreId) (user : Bool) (value : Word) (s : State) : Host.Outcome State Fault Refusal :=
  s.ev fun d => d.csrUser core user DXMCTL.USER_SEQ fun d => d.dxLaunch core user value
def execDxgateWrite (core : CoreId) (user : Bool) (gate : Fin 16) (value : Word) (s : State) : Host.Outcome State Fault Refusal :=
  s.ev fun d => d.csrUser core user DXMCTL.USER_GATES fun d => d.dxGate core gate value
def execDxretireRead (core : CoreId) (s : State) : Host.Outcome State Fault Refusal :=
  s.ev fun d => let r := d.dxRetire core; r.2.emit (.regRead (.cp core) (BitVec.ofNat 64 r.1))
def execDxpostRead (core : CoreId) (user : Bool) (s : State) : Host.Outcome State Fault Refusal :=
  s.ev fun d => d.csrUser core user DXMCTL.USER_POST fun d => let r := d.dxPost core; r.2.emit (.regRead (.cp core) (BitVec.ofNat 64 r.1))
def execDxdoneWrite (core : CoreId) (user : Bool) (value : Word) (s : State) : Host.Outcome State Fault Refusal :=
  s.ev fun d => if user then d.cpTrap core 2 0 else d.dxDone core value
def execDxlheadWrite (core : CoreId) (user : Bool) (value : Word) (s : State) : Host.Outcome State Fault Refusal :=
  s.ev fun d => if user then d.cpTrap core 2 0 else d.dxLhead core value
def execMachineTimer (core : CoreId) (s : State) : Host.Outcome State Fault Refusal :=
  s.ev fun d => if bitOf (d.mip core) 7 && (d.core core).cp.mie.getLsbD 7 then d.modCp core fun p => { p with wfi := false } else d
def execMailboxDeliver (core : CoreId) (s : State) : Host.Outcome State Fault Refusal := s.ev fun d => d.mboxDeliver core
def execDirectLaunch (core : CoreId) (s : State) : Host.Outcome State Fault Refusal := s.ev fun d => d.directTake core
def execCpStart (r : Req) (core : CoreId) (value : Word) (s : State) : Host.Outcome State Fault Refusal := s.ev fun d => d.coreCtlWrite r core value
def execImageCopyDone (core : CoreId) (s : State) : Host.Outcome State Fault Refusal := s.ev fun d => d.imageDone core
def execSeqAbort (r : Req) (core : CoreId) (s : State) : Host.Outcome State Fault Refusal := s.ev fun d => if r = .mgmt then d.seqAbort core else d
def execCpDeviceAccess (core : CoreId) (user store : Bool) (addr : BitVec 52) (size : Nat) (value : Word) (ext : List PByte) (s : State) : Host.Outcome State Fault Refusal :=
  s.ev fun d =>
    if size = 1 ∨ size = 2 ∨ size = 4 ∨ size = 8 then
      d.whole fun d =>
        match d.cpDev core user store addr.toNat size value.toNat ext with
        | (some v, d) => if store then d else d.emit (.regRead (.cp core) (BitVec.ofNat 64 v))
        | (none, d) => d
    else d
def execLsAccess (core : CoreId) (bank : Fin 32) (reqs : List LsReq) (s : State) : Host.Outcome State Fault Refusal := s.ev fun d => d.lsGrant core bank reqs

end Sys2Proof.Machine
end

