-- ==== Sys2Proof/Machine/Fence.lean ====
section
/-! DEFINITION. Fencing a core, its return to service, and what a reset of a core clears (R66, R122, R147, R510 to R513). -/

namespace Sys2Proof.Machine

/-! Arrays (R66). -/

/-- The core that serves its partner stops: the partner's commands end, UNAVAILABLE is set and its program faults with FENCED_UNIT; bank 1 and set 1 are given back (R66, R123). -/
def Dev.arrServerStop (d : Dev) (a : Nat) : Dev :=
  let p := partnerOf a
  let cs := (d.arr a).cmds.filter fun c => c.partner
  let d := d.modArr a fun u => { u with cmds := u.cmds.filter fun c => !c.partner, runs := u.runs.filter fun r => !r.cmd.partner }
  let d := if d.serving a then d.modArr a ArrayUnit.giveBack else d
  match cs with
  | [] => d
  | c :: _ =>
    let pc := d.cmdPc c
    let d := cs.foldl (fun d c => d.cmdDone p c.id .ok) (d.arrErr p ARR_ERR.UNAVAILABLE)
    d.progFault p .fencedUnit 0x10 (wOp c.word.toNat) pc

/-- The running attention step loses a core that holds pages of it (R271, R272). -/
def Dev.attnLose (d : Dev) (n : Nat) (st : Status) : Dev :=
  { d with attn := d.attn.map fun a => if a.pages.any fun p => p.core == n then { a with lost := a.lost ++ [(n, st)] } else a }

/-! Fencing (R510 to R512). -/

/-- FENCING begins: reports, array service and batons stop, the DMA engine issues nothing more; the processor's clocks stop (R510). A reset that covers the core reports with RESET_ABORT (R122, R147; DEDUCED). -/
def Dev.fenceBegin (d : Dev) (n : Nat) (auto : Bool) : Dev :=
  let d := ((d.setBit RST_FENCE.FENCE n 0 true).setFld RST_FENCE.STATE n 0 1).setBit RST_FENCE.AUTO n 0 auto
  let d := d.count RST_FENCE.FENCES n 0 1
  let st := d.fenceStatus n
  let d := (((d.attnLose n st).seqStop n st).arrOwnerStop n).arrServerStop n
  let d := d.setCore n { d.core n with fenceAt := d.ns }
  d.modCp n fun p => { p with stopped := true }

/-- FENCE is written 1, or hardware fences the core (R510, R511). -/
def Dev.fenceSet (d : Dev) (n : Nat) (auto : Bool) : Dev :=
  match d.fenceState n with
  | 0 => d.fenceBegin n auto
  | 3 => (d.setBit RST_FENCE.FENCE n 0 true).setBit RST_FENCE.AUTO n 0 auto
  | _ => d

/-- A request that core n issued to the host, by its DMA engine, its processor or its other units, waits for its response (R510). -/
def Dev.dmaWaits (d : Dev) (n : Nat) : Bool := d.uio.any fun u => match u.owner with | .dma m _ | .cp m => m == n | .eng e => e == endCore n && u.done.isNone | _ => false

/-- A write of RST_PART of partition p: CLUSTERS takes a set of clusters, unless it puts a cluster in two partitions, clusters k and k + 16 in different ones or one of them in none, or adds or removes a cluster with a core that is not QUIESCED (R509; DEDUCED). -/
def Dev.partMay (d : Dev) (p clusters : Nat) : Bool :=
  let has (q k : Nat) : Bool := if q = p then bitOf clusters k else bitOf (d.fld RST_PART.CLUSTERS q 0) k
  let twice := (List.range 32).any fun k => bitOf clusters k && (List.range 8).any fun q => q != p && has q k
  let split := (List.range 16).any fun k => (List.range 8).any fun q => has q k != has q (k + 16)
  let moved := (List.range 32).any fun k => (bitOf clusters k != bitOf (d.fld RST_PART.CLUSTERS p 0) k) && (List.range 8).any fun j => d.fenceState (8 * k + j) != 2
  !twice && !split && !moved

/-- PARTITION_WRITE: RST_PART takes a set of clusters, or PART_REFUSED is set; a write refused in this cycle is judged again where a fence completes in it (R509, R517). -/
def Dev.partSet (d : Dev) (p clusters : Nat) : Dev :=
  if d.partMay p clusters then d.setFld RST_PART.CLUSTERS p 0 clusters
  else { d.setBit RST_STATUS.PART_REFUSED 0 0 true with cyc := { d.cyc with parts := d.cyc.parts ++ [(p, clusters, d.bit RST_STATUS.PART_REFUSED 0 0)] } }

/-- The writes of RST_PART refused in this cycle are judged after the fence that completes in it (R517). -/
def Dev.partAgain (d : Dev) : Dev :=
  match d.cyc.parts with
  | (p, clusters, was) :: _ =>
    if p < 8 ∧ d.partMay p clusters then
      let d := (d.setFld RST_PART.CLUSTERS p 0 clusters).setBit RST_STATUS.PART_REFUSED 0 0 was
      { d with cyc := { d.cyc with parts := [] } }
    else d
  | [] => d

/-- CORE_QUIESCED: every request the core issued has its response, or 5 µs have passed; the engine then completes what it holds and discards its streams (R147, R510). -/
def Dev.quiesced (d : Dev) (n : Nat) : Dev :=
  if d.fenceState n = 1 ∧ (!d.dmaWaits n ∨ (d.core n).fenceAt + 5000 ≤ d.ns) then
    ((((d.dmaStop n (d.fenceStatus n)).arrOwnerFill n).rowDiscard n).setFld RST_FENCE.STATE n 0 2).partAgain
  else d

/-- FENCE is written 0 (R511, R512); `step9` for the writes of STARTER step 9. -/
def Dev.fenceClear (d : Dev) (n : Nat) (step9 : Bool) : Dev :=
  if !d.bit RST_FENCE.FENCE n 0 then d
  else if d.fenceState n = 2 ∧ d.domOn n ∧ !d.rstCovers n ∧ (step9 ∨ 9 ≤ d.done) then
    let d := ((d.setBit RST_FENCE.FENCE n 0 false).setFld RST_FENCE.STATE n 0 3).modCp n fun p => { p with stopped := false }
    d.setCore n { d.core n with fenceAt := d.ns }
  else d.setBit RST_STATUS.FENCE_REFUSED 0 0 true

/-- A reset starts in the cycle of a write of FENCE = 0 for a core it covers: the reset is first and the write refused (R517). -/
def Dev.fenceUndo (d : Dev) (n : Nat) : Dev :=
  if d.fenceState n = 3 ∧ (d.core n).fenceAt = d.ns then
    let d := ((d.setBit RST_FENCE.FENCE n 0 true).setFld RST_FENCE.STATE n 0 2).modCp n fun p => { p with stopped := true }
    d.setBit RST_STATUS.FENCE_REFUSED 0 0 true
  else d

/-- Every input of the router of core n has switched: a HEAD has come in on it since REJOINING began, or 32 NCLK have passed without one (R19, R512). -/
def Dev.switched (d : Dev) (n : Nat) : Bool :=
  let at' := (d.core n).fenceAt
  decide (at' + 15 ≤ d.ns) || (List.range 22).all fun p => decide (at' < Tbl.get 0 (Tbl.get Router.init d.noc (n / 8)).headAt p)

/-- REJOIN_COMPLETE: every input of the router has switched and the core is in service; a FENCE written meanwhile takes effect (R511, R512, R517). -/
def Dev.rejoined (d : Dev) (n : Nat) : Dev :=
  if d.fenceState n = 3 ∧ d.switched n then
    let d := d.setFld RST_FENCE.STATE n 0 0
    if d.bit RST_FENCE.FENCE n 0 then d.fenceBegin n (d.bit RST_FENCE.AUTO n 0) else d
  else d

/-! Halts (R111, R510). -/

/-- The processor halts; is reported to the management controller as faulted, and with AUTO_FENCE the core is fenced (R111, R125, R510). -/
def Dev.cpHalted (d : Dev) (n : Nat) : Dev :=
  let d := d.cpHalt n
  let d := d.emit (.coreFaulted n)
  if d.bit RST_FENCE.AUTO_FENCE n 0 then d.fenceSet n true else d

/-- CP_HALT: the fetch of a trap handler faults (R111). -/
def Dev.cpHaltEv (d : Dev) (n : Nat) : Dev :=
  let p := (d.core n).cp
  if p.st = .running ∧ p.trapFault ∧ !p.stopped then
    match d.cpFetch2 n p.pc.toNat p.user with
    | (none, d) => d.cpHalted n
    | (some _, _) => d
  else d

/-! What a core reset clears (R513, R527). -/

/-- The core reset takes effect: processor, sequencer, queues, launch queue, mailbox, dxmctl, array, ARR_CFG, DMA engine and counters; the local store, CORE_FAULT and error registers stay. -/
def Dev.coreClear (d : Dev) (n : Nat) : Dev :=
  let d := (d.attnLose n .resetAbort).seqStop n .resetAbort
  let d := d.dmaStop n .resetAbort
  let d := (((d.arrOwnerStop n).arrOwnerFill n).arrServerStop n).rowDiscard n
  let c := d.core n
  let d := d.setCore n { Core.init with nextCmd := c.nextCmd, fenceAt := c.fenceAt, lsQ := c.lsQ, mboxHeld := c.mboxHeld, dma := c.dma }
  let d := d.setBit CORE_CTL.CP_RUN n 0 false
  let d := (List.range 4).foldl (fun d i => d.clrReg DXUWIN.reg n i) (d.clrReg DXMCTL.reg n 0)
  let d := d.clrReg ARR_CFG.reg n 0
  let d := (List.range 6).foldl (fun d i => (d.pmcSettle n i).clrReg PERF_CNT.reg n i) (d.clrReg PERF_CYCLE.reg n 0)
  { d with cycBase := Tbl.set 0 d.cycBase n (d.clkSum (clusterOf n)), uio := d.uio.filter fun u => u.owner != .eng (endCore n) }

/-! The commands. -/

def execCoreFence (_r : Req) (core : CoreId) (s : State) : Host.Outcome State Fault Refusal := s.ev fun d => d.fenceSet core false
def execCoreQuiesced (core : CoreId) (s : State) : Host.Outcome State Fault Refusal := s.ev fun d => d.quiesced core
def execCoreRejoin (_r : Req) (core : CoreId) (s : State) : Host.Outcome State Fault Refusal := s.ev fun d => d.fenceClear core false
def execRejoinComplete (core : CoreId) (s : State) : Host.Outcome State Fault Refusal := s.ev fun d => d.rejoined core
def execCpHalt (core : CoreId) (s : State) : Host.Outcome State Fault Refusal := s.ev fun d => d.cpHaltEv core

end Sys2Proof.Machine
end

