-- ==== Sys2Proof/Machine/Rings.lean ====
section
/-! DEFINITION. Rings: doorbell reads, fetching and starting descriptors, the opcodes of the queue engine but KV_MAP, ATTN_STEP and RELAY_STEP, completions and messages (R280 to R302, R307 to R311, R468, R469). -/

namespace Sys2Proof.Machine

/-! Doorbells (R289 to R292). -/

/-- What a slot says of submission ring i (R289, R311). -/
def Dev.tailSeen (d : Dev) (i tail : Nat) : Dev :=
  let r := d.ring i
  if !r.on then d
  else
    let n := idxDiff tail r.sqHead
    let d := d.modRing i fun r => { r with sqTail := tail }
    if d.sqLen i < n then
      let d := d.setBit RING_STATUS.OVERRUN i 0 true
      if r.state = .running then d.modRing i fun r => { r with state := .stopped } else d
    else
      let last := idxDiff ((r.avail.getLast?.map (·.1)).getD r.sqHead) r.sqHead
      if last < n then d.modRing i fun r => { r with avail := r.avail ++ [(tail, d.ns)] } else d

/-- What a slot says of completion ring i (R289, R292). -/
def Dev.headSeen (d : Dev) (i head : Nat) : Dev :=
  let r := d.ring i
  if r.inUse && decide (idxDiff r.cqTail head ≤ d.cqLen i) then d.modRing i fun r => { r with cqHead := head } else d

/-- The device reads a doorbell slot of ring pair i; one that came poisoned says nothing (R322; log 176). -/
def Dev.slotSeen (d : Dev) (i : Nat) (slot : Option Word) : Dev :=
  match slot with
  | some w => (d.tailSeen i (bitsOf w.toNat 0 32)).headSeen i (bitsOf w.toNat 32 32)
  | none => d

/-- The slot at a byte offset of a line that CXL.cache has brought; none where it came poisoned (R289, R322). -/
def slotOf (data : List PByte) (off : Nat) : Option Word :=
  let b := (data.drop off).take 8
  if anyPoison b then none else some (BitVec.ofNat 64 (ofPBytes b))

/-- DOORBELL_READ: a line of the watch table arrives, and every slot in it is read; a snoop met meanwhile causes one further read (R290). -/
def Dev.doorbellRead (d : Dev) (line : Nat) (data : List PByte) : Dev :=
  match Tbl.get none d.watch line with
  | none => d
  | some w =>
    if !w.reading || data.length != 64 || !d.linkOn then d
    else
      let d := { d with watch := Tbl.set none d.watch line (some ⟨w.again, false⟩) }
      let d := if w.again then (d.pmcDev 0x04 1).emit (.hostRead (64 * line) 64) else d
      let users := (d.rings.filter fun p => d.slotLine p.1 == line && (d.watches p.1 || d.polls p.1) && (p.2.on || p.2.inUse)).map (·.1)
      users.foldl (fun d i => d.slotSeen i (slotOf data (d.fld DB_ADDR.ADDR i 0 % 8 * 8))) d

/-- DOORBELL_SNOOP: the host takes a watched line away; it is read again, while CXL.cache is enabled (R290, R325). -/
def Dev.doorbellSnoop (d : Dev) (line : Nat) : Dev :=
  match Tbl.get none d.watch line with
  | none => d
  | some w =>
    if w.reading then { d with watch := Tbl.set none d.watch line (some ⟨true, true⟩) }
    else if !d.cacheOn then { d with watch := Tbl.set none d.watch line (some ⟨false, false⟩) }
    else ({ d.pmcDev 0x04 1 with watch := Tbl.set none d.watch line (some ⟨true, false⟩) }).emit (.hostRead (64 * line) 64)

/-- DOORBELL_POLL: the polling read that is due returns; one that meets a re-read of its line is served by that (R291). -/
def Dev.doorbellPoll (d : Dev) (i : Nat) (slot : Option Word) : Dev :=
  let r := d.ring i
  if d.linkOn && (r.on || r.inUse) && d.polls i && decide (r.pollAt ≤ d.ns) then
    let d := d.modRing i fun r => { r with pollAt := d.ns + d.pollNs i }
    if (Tbl.get none d.watch (d.slotLine i)).any (·.reading) then d else d.slotSeen i slot
  else d

/-! Fetch (R280, R294). -/

/-- Address of entry x of a ring of `len` entries of `size` bytes. -/
def ringAddr (base len size x : Nat) : Nat := base * 4096 + x % len * size

/-- DESCRIPTOR_FETCH: the ring's next available descriptor is read once (R294). -/
def Dev.descFetch (d : Dev) (i : Nat) (ext : List PByte) : Dev :=
  let r := d.ring i
  match r.avail with
  | [] => d
  | (upto, age) :: rest =>
    if r.state ≠ .running ∨ !d.linkOn ∨ d.power ≠ .run then d
    else d.whole fun d =>
      let a := ringAddr (d.fld SQ_BASE.BASE i 0) (d.sqLen i) 64 r.sqHead
      let (b, _, d) := if d.bit SQ_BASE.LOCAL i 0 then d.accRead endQueue a 64 0 ext else ((ext ++ poisonBytes 64).take 64, .ok, d)
      let next := (r.sqHead + 1) % 2 ^ 32
      d.modRing i fun r => { r with
        sqHead := next
        avail := if next = upto then rest else r.avail
        fetched := r.fetched ++ [⟨r.sqHead, BitVec.ofNat 512 (ofPBytes b), anyPoison b, age⟩] }

/-! Checks at start (R294 to R297, R300). -/

/-- The bits an opcode lays out, header included (R293, R296, R337, R468); none for an undefined opcode. -/
def dqUsed (op : Nat) : Option Nat :=
  let f (byte lo w : Nat) : Nat := (2 ^ w - 1) * 2 ^ (8 * byte + lo)
  let h := f 0 0 8 + f 1 0 2 + f 4 0 32
  match op with
  | 0x01 => some (h + f 8 0 6 + f 16 0 128 + f 32 0 40)
  | 0x02 => some (h + f 8 0 6 + f 9 0 3 + f 10 0 3 + f 16 0 128 + f 32 0 40)
  | 0x10 => some (h + f 8 0 2 + f 12 0 32 + f 16 0 128 + f 32 0 256)
  | 0x20 => some (h + f 8 0 1 + f 12 0 32 + f 16 0 64)
  | 0x21 => some (h + f 8 0 1 + f 12 0 32 + f 16 0 64 + f 24 0 32)
  | 0x30 => some (h + f 8 0 3 + f 9 0 2 + f 16 0 52 + f 24 0 40)
  | 0x38 => some (h + f 8 0 2 + f 16 0 52 + f 24 0 52 + f 32 0 32)
  | 0x40 => some (h + f 8 0 5 + f 16 0 52 + f 24 0 40 + f 32 0 192 + f 56 0 52)
  | 0x50 => some (h + f 8 0 4 + f 9 0 2 + f 16 0 52)
  | 0x51 => some (h + f 8 0 4 + f 9 0 8 + f 10 0 16 + f 12 0 8 + f 13 0 2 + f 16 0 22 + f 24 0 52 + f 32 0 52 + f 40 0 52)
  | 0x60 => some (h + f 8 0 192 + f 32 0 256)
  | 0x70 => some (h + f 8 0 3 + f 9 0 4 + f 10 0 9 + f 12 0 16 + f 14 0 16 + f 16 0 52 + f 24 0 52 + f 32 0 52 + f 40 0 52 + f 48 0 52 + f 56 0 32 + f 60 0 8 + f 61 0 14 + f 61 15 1)
  | 0x7E => some h
  | 0x7F => some (h + f 8 0 1)
  | _ => none

/-- Source and destination sizes of a COPY or COPY_CONVERT (R297). -/
def copyLens (b : BitVec 512) : Nat × Nat :=
  let n := dq b 32 0 40
  if dqOp b = 0x01 then (n, n) else (n * tyBytes (dq b 9 0 3), n * tyBytes (dq b 10 0 3))

/-- Two runs of bytes overlap. -/
def overlaps (a n b m : Nat) : Bool := decide (a < b + m) && decide (b < a + n)

/-- The cores or slices of a 256-bit set at byte 32. -/
def dqSet (b : BitVec 512) : List Nat := (List.range 256).filter fun n => dq b 32 n 1 == 1

/-- The fabric ID an operand names is another device's (R308). -/
def Dev.remoteFid (d : Dev) (g : Nat) : Bool := g / 2 ^ 52 != d.fld FAB_ID.FID 0 0

/-- Detail of an operand out of range or misaligned, or 0 (R296, R297, R300, R308, R337, R468). -/
def Dev.dqOperands (d : Dev) (b : BitVec 512) : Nat :=
  let bad (x : Bool) : Nat := if x then 0x03 else 0
  match dqOp b with
  | 0x01 | 0x02 =>
    let (n, m) := copyLens b
    let sh := dq b 8 0 1
    let dh := dq b 8 1 1
    bad (n == 0 || (sh == 0 && decide (2 ^ 52 ≤ dq b 16 0 64)) || (dh == 0 && decide (2 ^ 52 ≤ dq b 24 0 64)) ||
      (sh == dh && overlaps (dq b 16 0 64) n (dq b 24 0 64) m))
  | 0x10 => bad (dqSet b).isEmpty
  | 0x60 => bad (dqSet b).isEmpty
  | 0x20 => bad (dq b 16 0 6 != 0)
  | 0x21 => if dq b 16 0 6 ≠ 0 then 0x03 else if d.remoteFid (dq b 16 0 64) then 0x05 else 0
  | 0x30 =>
    let op := dq b 8 0 3
    bad (decide (5 < op) || dq b 24 0 40 == 0 || ((op == 3 || op == 4) && (dq b 16 0 12 != 0 || dq b 24 0 12 != 0)))
  | 0x38 => bad (dq b 16 0 2 != 0 || dq b 24 0 2 != 0 || dq b 32 0 2 != 0 || dq b 32 0 32 == 0)
  | 0x40 =>
    if dq b 8 0 1 = 0 ∧ (dq b 36 0 32 ≠ 0 ∨ dq b 44 0 32 ≠ 0) then 0x02
    else bad (dq b 8 1 2 == 3 || dq b 24 0 40 == 0 || dq b 56 0 4 != 0)
  | 0x50 => bad (dq b 9 0 2 == 0 && dq b 16 0 6 != 0)
  | 0x51 => bad (dq b 40 0 6 != 0)
  | 0x70 =>
    let c := dq b 10 0 9
    let dl := dq b 14 0 16
    bad (dq b 8 0 2 == 3 || c == 0 || decide (256 < c) || dq b 12 0 16 == 0 || (dl != 0 && (decide (dl < 5) || decide (500 < dl))))
  | _ => 0

/-- The STARTER step an opcode needs (R295). -/
def dqStep (op : Nat) : Nat :=
  match op with
  | 0x10 | 0x50 | 0x51 | 0x60 => 9
  | 0x70 => 10
  | _ => 8

/-- An opcode that R295 marks privileged, or TILE_LAUNCH with USER = 0. -/
def dqPriv (b : BitVec 512) : Bool :=
  let op := dqOp b
  op == 0x50 || op == 0x60 || op == 0x70 || (op == 0x10 && dq b 8 1 1 == 0)

/-- The clusters an opcode drives (R294, R509). -/
def dqClusters (b : BitVec 512) : List Nat :=
  match dqOp b with
  | 0x10 | 0x60 => ((dqSet b).map (· / 8)).dedup
  | 0x50 | 0x51 => List.range 32
  | _ => []

/-- The local ranges an opcode reaches (R294). Those of ATTN_STEP need its slot and are tested there (R256). -/
def dqRanges (b : BitVec 512) : List (Nat × Nat) :=
  match dqOp b with
  | 0x01 | 0x02 => (if dq b 8 0 1 = 0 then [(dq b 16 0 64, (copyLens b).1)] else []) ++ (if dq b 8 1 1 = 0 then [(dq b 24 0 64, (copyLens b).2)] else [])
  | 0x10 => if dq b 12 0 32 = 0 then [] else [(dq b 24 0 64, dq b 12 0 32)]
  | 0x30 => [(dq b 16 0 52, dq b 24 0 40)]
  | 0x38 => [(dq b 16 0 52, dq b 32 0 32), (dq b 24 0 52, dq b 32 0 32)]
  | 0x40 => (dq b 16 0 52, dq b 24 0 40) :: (if dq b 56 0 52 = 0 then [] else [(dq b 56 0 52, 16)])
  | 0x50 => if dq b 9 0 2 = 0 then [(dq b 16 0 52, 64)] else []
  | 0x70 => [(dq b 16 0 52, 64)]
  | _ => []

/-- A baton operand outside the records of its device (R308). -/
def dqBatonHole (b : BitVec 512) : Bool :=
  let a := dq b 16 0 52
  (dqOp b == 0x20 || dqOp b == 0x21) && !(decide (batonBase ≤ a) && decide (a < batonEnd))

/-- Every byte of a range is cacheable (R214, R222). -/
def Dev.allCacheable (d : Dev) (a len : Nat) : Bool :=
  (List.range ((a % 4096 + len + 4095) / 4096)).all fun i => d.cacheable (d.served ((a / 4096 + i) * 4096)) 4096

/-- A reduction may go to every byte of a range: base scratch or cached (R141). -/
def Dev.redRange (d : Dev) (a len : Nat) : Bool := d.redDest a len || d.allCacheable a len

/-- The relay plan at a local address, and how its read went (R338). -/
def Dev.planAt (d : Dev) (a : Nat) : BitVec 512 × Status × Dev :=
  let (b, st, d) := d.takeRead endRelay a 64
  (BitVec.ofNat 512 (ofPBytes b), st, d)

/-- A plan breaks R339 for a RELAY_STEP. -/
def Dev.planBad (d : Dev) (b p : BitVec 512) : Bool :=
  let nchild := dq p 4 0 5
  let tailIdx := dq p 5 0 8
  let pvalid := dq p 2 15 1
  let self := dq p 0 0 12
  self != d.fld FAB_ID.FID 0 0 || dq p 6 0 1 == pvalid || ((dq p 6 1 1 == 1) != (tailIdx == 0xFF)) ||
    (decide (nchild ≤ tailIdx) && tailIdx != 0xFE && tailIdx != 0xFF) || decide (18 < nchild) ||
    ((List.range nchild).any fun i => dq p (12 + 2 * i) 0 12 == self) || (dq b 8 2 1 == 1 && dq p 6 0 1 == 0) ||
    !d.scratchBacked (dq b 40 0 52) (520 * dq b 10 0 9)

/-- The local ranges a RELAY_STEP reaches beside its plan, by what the plan makes of it: the hidden state and, at the anchor and the tail leg, the new key and value of a DOWN; the finished output of an UP (R33, R337, R338). -/
def relayRanges (b p : BitVec 512) : List (Nat × Nat) :=
  if dq b 8 0 2 = 0 then
    (dq b 24 0 52, 64 * dq b 12 0 16) ::
      (if dq p 6 1 1 = 1 ∨ (dq p 6 0 1 = 1 ∧ dq p 5 0 8 ≠ 0xFE) then [(dq b 32 0 52, 256 * (dq b 9 0 4 + 1))] else [])
  else if dq b 8 2 1 = 1 then [(dq b 48 0 52, 512 * dq b 10 0 9)]
  else []

/-- The checks of R294 in their order: the status and DETAIL a descriptor of ring i fails with. -/
def Dev.dqCheck (d : Dev) (i : Nat) (b : BitVec 512) : Option (Status × Nat) × Dev :=
  let op := dqOp b
  match dqUsed op with
  | none => (some (.badDescriptor, 0x01), d)
  | some m =>
    let k := d.dqOperands b
    let p := d.fld RING_CFG.PARTITION i 0
    if b &&& ~~~(BitVec.ofNat 512 m) ≠ 0 then (some (.badDescriptor, 0x02), d)
    else if k ≠ 0 then (some (.badDescriptor, k), d)
    else if dqPriv b && !d.bit RING_CFG.PRIV i 0 then (some (.permission, 0x08), d)
    else if (dqClusters b).any fun c => !d.partHas p c then (some (.permission, 0x09), d)
    else if d.done < dqStep op then (some (.falseStart, dqStep op), d)
    else if dqBatonHole b || (dqRanges b).any fun r => !d.backed r.1 r.2 then (some (.badDescriptor, 0x04), d)
    else if op = 0x30 ∧ !d.allCacheable (dq b 16 0 52) (dq b 24 0 40) then (some (.badDescriptor, 0x03), d)
    else if op = 0x38 ∧ !d.redRange (dq b 24 0 52) (dq b 32 0 32) then (some (.badDescriptor, 0x03), d)
    else if op = 0x70 then
      let (plan, st, d) := d.planAt (dq b 16 0 52)
      if st ≠ .ok then (some (st, 0), d)
      else if d.planBad b plan then (some (.badDescriptor, 0x03), d)
      else if (relayRanges b plan).any fun r => !d.backed r.1 r.2 then (some (.badDescriptor, 0x04), d)
      else (none, d)
    else (none, d)

/-! Start (R294). -/

/-- A descriptor of ring i blocks the ones after it (R294, R310). -/
def Dev.ringBlocked (d : Dev) (i : Nat) : Bool :=
  (d.inflight i).any fun x => x.fin.isNone && (dqOp x.body == 0x21 || dqOp x.body == 0x7F)

/-- Ring i may start its next fetched descriptor (R294, R301). -/
def Dev.ringReady (d : Dev) (i : Nat) : Bool :=
  let r := d.ring i
  r.state == .running && !r.fetched.isEmpty && decide ((d.inflight i).length ≤ d.fld RING_CFG.DEPTH i 0) && !d.ringBlocked i && !d.cqFull (d.cqOf i)

/-- A number for the next descriptor whose low 16 bits no outstanding one has: its launch tag (R117). -/
def Dev.nextDesc (d : Dev) : Nat :=
  (((List.range 1025).map (· + d.descSeq)).find? fun k => !(d.descs.any fun x : Desc => x.id % 65536 == k % 65536)).getD d.descSeq

/-- Age of the next descriptor ring i may start. -/
def Dev.ringAge (d : Dev) (i : Nat) : Nat := ((d.ring i).fetched.head?.map (·.age)).getD 0

/-- The ring that starts a descriptor next: the one whose descriptor became available first, ties by R29 (R294). -/
def Dev.ringPick (d : Dev) : Option (Nat × Dev) :=
  let rs := (d.rings.map (·.1)).filter d.ringReady
  match oldest d.ringAge rs with
  | none => none
  | some h => d.tie (arbKey 8 0) (rs.filter fun i => d.ringAge i == d.ringAge h)

/-- A fetched descriptor of ring i enters the engine, the `rest` stay fetched (R294). -/
def Dev.descPlace (d : Dev) (i : Nat) (f : Fetched) (body : BitVec 512) (rest : List Fetched) : Dev :=
  { (d.modRing i fun r => { r with fetched := rest }).pmcDev 0x02 1 with
    descSeq := d.nextDesc + 1, descs := d.descs ++ [Desc.mk d.nextDesc i f.idx body d.nextDesc d.ns false [] [] none] }

/-- DESCRIPTOR_START: the queue engine starts one descriptor (R294). -/
def Dev.descStart (d : Dev) : Dev :=
  if 1024 ≤ d.descs.length ∨ d.power ≠ .run ∨ d.bit LNK_STATUS.D2D_FATAL 0 0 then d
  else d.whole fun d =>
    match d.ringPick with
    | none => d
    | some (i, d) =>
      match (d.ring i).fetched with
      | [] => d
      | f :: rest =>
        if f.poison then
          let (v, d) := d.free
          (d.descPlace i f (BitVec.ofNat 512 (bitsOf v.toNat 0 32 * 2 ^ 32)) rest).descDone d.nextDesc .poisonRead 0 0
        else
          match (d.descPlace i f f.body rest).dqCheck i f.body with
          | (some (st, k), e) => e.descDone d.nextDesc st k 0
          | (none, e) => if dqOp f.body = 0x7E then e.descDone d.nextDesc .ok 0 0 else e

/-! Ends of descriptors whose requests take time. -/

/-- The first failure among what a descriptor's requests reported. -/
def Desc.status (x : Desc) : Status := x.reports.foldl (fun s r => s.first r.2.1) .ok

/-- A descriptor whose work has been sent out ends once its requests over the port are answered. -/
def Dev.descTry (d : Dev) (id : Nat) : Dev :=
  match d.flight id with
  | none => d
  | some x => if x.sent && !(d.uio.any fun u => u.owner == .desc id) then d.descDone id x.status 0 0 else d

/-- A request of a descriptor failed. -/
def Dev.descFail (d : Dev) (id : Nat) (st : Status) : Dev := if st = .ok then d else d.modFlight id fun x => { x with reports := x.reports ++ [(0, st, 0)] }

/-- The work of a descriptor goes out: its first failure so far, then its end once nothing is outstanding. -/
def Dev.descSent (d : Dev) (id : Nat) (st : Status) : Dev := ((d.descFail id st).modFlight id fun x => { x with sent := true }).descTry id

/-- A started descriptor with an opcode, whose work has not gone out. -/
def Dev.qop (d : Dev) (id op : Nat) (f : Desc → Dev) : Dev :=
  match d.flight id with
  | some x => if dqOp x.body = op ∧ !x.sent ∧ x.fin = none then f x else d
  | none => d

/-! Data movement (R297). -/

/-- Read a range in host memory or at a local address; the bytes left over of what the port brought. -/
def Dev.dqRead (d : Dev) (host : Bool) (a n hint : Nat) (ext : List PByte) : List PByte × Status × Dev × List PByte :=
  if host then ((ext ++ poisonBytes (n - ext.length)).take n, if anyPoison (ext.take n) || decide (ext.length < n) then .poisonRead else .ok, d.emit (.hostRead a n), ext.drop n)
  else
    let m := d.extLen a n
    let (b, st, d) := d.accRead endQueue a n hint (ext.take m)
    (b, st, d, ext.drop m)

/-- Write a range in host memory or at a local address. -/
def Dev.dqWrite (d : Dev) (host : Bool) (id a hint : Nat) (b : List PByte) (ext : List PByte) : Status × Dev :=
  if host then (.ok, d.emit (.hostWrite a b)) else d.accWrite endQueue a b hint (.desc id) ext

/-- The converted elements of a COPY_CONVERT: a poisoned element gives a poisoned one (R297). -/
def convElems (sf df n : Nat) (b : List PByte) : List PByte :=
  vBytes (tyBytes df) ((vElems n (tyBytes sf) b).map fun e => if e.p then e else ⟨vConvert sf df e.v, false⟩)

/-- COPY and COPY_CONVERT (R297). -/
def Dev.dqCopy (d : Dev) (id op : Nat) (ext : List PByte) : Dev :=
  d.qop id op fun x => d.whole fun d =>
    let b := x.body
    let (n, _) := copyLens b
    let (bs, st, d, ext) := d.dqRead (dq b 8 0 1 == 1) (dq b 16 0 64) n (dq b 8 2 2) ext
    let out := if op = 0x02 then convElems (dq b 9 0 3) (dq b 10 0 3) (dq b 32 0 40) bs else bs
    let (st', d) := d.dqWrite (dq b 8 1 1 == 1) id (dq b 24 0 64) (dq b 8 4 2) out ext
    d.descSent id (st.first st')

/-- REDUCE_INTO (R297). -/
def Dev.dqReduce (d : Dev) (id : Nat) (ext : List PByte) : Dev :=
  d.qop id 0x38 fun x => d.whole fun d =>
    let b := x.body
    let (bs, st, d, ext) := d.dqRead false (dq b 16 0 52) (dq b 32 0 32) 0 ext
    let (st', d) := d.accRed endQueue (dq b 8 0 2) (dq b 24 0 52) bs 0 ext
    d.descSent id (st.first st')

/-! Launches (R117, R297). -/

/-- The mailbox entry of a TILE_LAUNCH (R117). -/
def launchEntry (x : Desc) (part : Nat) : BitVec 256 :=
  BitVec.ofNat 256 (x.id % 65536 + (x.ring % 2 ^ 12 + part * 2 ^ 12) * 2 ^ 16 + dq x.body 8 0 2 * 2 ^ 32 + (dqSet x.body).length * 2 ^ 48 +
    dq x.body 16 0 64 * 2 ^ 64 + dq x.body 24 0 64 * 2 ^ 128 + dq x.body 12 0 32 * 2 ^ 192)

/-- TILE_LAUNCH: one entry to the mailbox of every core of the set, in descriptor order (R117). -/
def Dev.dqLaunch (d : Dev) (id : Nat) : Dev :=
  d.qop id 0x10 fun x =>
    if d.descs.any fun y : Desc => decide (y.seq < x.seq) && dqOp y.body == 0x10 && !y.sent && y.fin.isNone then d
    else
      let cs := dqSet x.body
      let e := launchEntry x (d.fld RING_CFG.PARTITION x.ring 0)
      let d := d.modFlight id fun y => { y with sent := true, cores := cs }
      cs.foldl (fun d n => d.setCore n { d.core n with mboxHeld := (d.core n).mboxHeld ++ [e] }) d

/-- LAUNCH_REPORT: the launch with a tag holds a report from every core of its set (R121, R295). -/
def Dev.launchEnd (d : Dev) (tag : Nat) : Dev :=
  match d.descs.find? fun x : Desc => x.id % 65536 == tag && dqOp x.body == 0x10 && x.sent && x.fin.isNone with
  | some x =>
    if x.cores = [] then
      match x.worst with
      | some (n, st) => d.descDone x.id st 0 n
      | none => d.descDone x.id .ok 0 0
    else d
  | none => d

/-! Batons (R304, R307, R308). -/

/-- Every earlier descriptor of the ring has completed (R307). -/
def Dev.ringQuietBefore (d : Dev) (x : Desc) : Bool := (d.inflight x.ring).all fun y => decide (x.seq ≤ y.seq) || y.fin.isSome

/-- Send a baton operation of a descriptor: to its unit, or as a store to a remote record (R304, R308). -/
def Dev.dqBaton (d : Dev) (id op bop : Nat) (kind : BtnKind) : Dev :=
  d.qop id op fun x =>
    let b := x.body
    let g := dq b 16 0 64
    let v := dq b 12 0 32
    let t := dq b 24 0 32
    if dq b 8 0 1 ≠ bop ∨ (op = 0x20 ∧ !d.ringQuietBefore x) then d
    else
      let d := d.modFlight id fun y => { y with sent := true }
      if d.remoteFid g then d.uioSend true (if kind = .add then g + 8 else g) 4 (toPBytes 4 v) (.desc id)
      else
        let k := (g % 2 ^ 52 - batonBase) / 64
        let c := batonRegion k
        if d.regionReach c then d.btnSend { kind := kind, baton := k, v := v, src := .desc id, port := ioPort c, arr := d.ns, limit := if op = 0x21 ∧ t ≠ 0 then some (d.ns + 1000 * t) else none }
        else d.descDone id .fencedUnit 0 0

/-! Line operations (R222, R223). -/

/-- The operation a code names (R222). -/
def lineOpOf (n : Nat) : LineOp :=
  match n with
  | 0 => .prefetch
  | 1 => .clean
  | 2 => .flush
  | 3 => .invalidate
  | 4 => .discard
  | _ => .sethint

/-- The lines that a range of bytes touches. -/
def linesOf (a n : Nat) : List Nat := (List.range ((a % 4096 + n + 4095) / 4096)).map (a / 4096 + ·)

/-- One line operation of a CACHE_RANGE goes to the home region of its line, where it is served, and reports to the descriptor; one whose line a window no longer takes to cacheable memory reports BAD_DESCRIPTOR (R34, R222, R223). -/
def Dev.cacheLine (d : Dev) (id : Nat) (o : LineOp) (hint : Fin 4) (l : Nat) (ext : List PByte) : Dev :=
  let k := d.served (l * 4096) / 4096
  if d.cacheable (k * 4096) 4096 then d.regionOp (homeRegion (k * 4096)) k o hint (some (id, l)) ext
  else d.descReport id l .badDescriptor 0

/-- CACHE_RANGE: a line operation for each line of the range; the descriptor ends with the last of their reports. `ext`: the 4 KiB of each line that lies in host memory, in order (R222, R223). -/
def Dev.dqCache (d : Dev) (id : Nat) (ext : List PByte) : Dev :=
  d.qop id 0x30 fun x =>
    let ls := linesOf (dq x.body 16 0 52) (dq x.body 24 0 40)
    let d := d.modFlight id fun y => { y with sent := true, cores := ls }
    (ls.foldl (fun (p : Dev × List PByte) l =>
      let m := p.1.extLen (l * 4096) 4096
      (p.1.cacheLine id (lineOpOf (dq x.body 8 0 3)) (Fin.ofNat 4 (dq x.body 9 0 2)) l (p.2.take m), p.2.drop m)) (d, ext)).1

/-! Check values (R468, R469). -/

/-- CHK_RUN on the lowest-numbered free I/O unit; none free, it waits (R469). -/
def Dev.dqChk (d : Dev) (id : Nat) (ext : List PByte) : Dev :=
  d.qop id 0x40 fun x => d.whole fun d =>
    let on := (List.range 4).filter fun u => d.domOn (443 + u)
    if on = [] then (d.modFlight id fun y => { y with sent := true }).descDone id .fencedUnit 0 0
    else if on.all fun u => d.bit CHK_CFG.CLAIMED (32 + u) 0 then d
    else
      let b := x.body
      let poly := dq b 8 0 1 == 1
      let a := dq b 16 0 52
      let (bs, st, d, ext) := d.dqRead false a (dq b 24 0 40) 0 ext
      let s : ChkStream := ⟨poly, dq b 8 1 2, if dq b 8 4 1 = 1 then BitVec.ofNat 64 (dq b 32 0 64) else crcInit poly, BitVec.ofNat 64 (dq b 48 0 64), []⟩
      let r := (s.feed a bs).reg
      let res := (crcFinal poly r).toNat
      let d := if dq b 56 0 52 = 0 then d else (d.accWrite endQueue (dq b 56 0 52) (toPBytes 8 res ++ toPBytes 8 r.toNat) 0 .none ext).2
      let d := d.modFlight id fun y => { y with sent := true }
      d.descDone id (if st ≠ .ok then st else if dq b 8 3 1 = 1 ∧ res ≠ dq b 40 0 64 then .crcMismatch else .ok) 0 (res % 2 ^ 32)

/-! Broadcasts (R297). -/

/-- BSU_BROADCAST: the command goes to every slice of the set; one whose slice is not reached reports FENCED_UNIT (R27, R202). -/
def Dev.dqBroadcast (d : Dev) (id : Nat) : Dev :=
  d.qop id 0x60 fun x =>
    let cs := dqSet x.body
    let cmd := BitVec.ofNat 256 (dq x.body 8 0 192 + id % 2 ^ 32 * 2 ^ 192)
    let d := d.modFlight id fun y => { y with sent := true, cores := cs }
    cs.foldl (fun d n => if d.sliceReach n then d.bsuDeliver n 1 (some id) cmd else d.descReport id n .fencedUnit 0) d

/-! FENCE (R310). -/

/-- FENCE completes once every earlier descriptor of its ring, and with PARTITION every one any ring of the partition started before it, has posted. -/
def Dev.dqFence (d : Dev) (id : Nat) : Dev :=
  d.qop id 0x7F fun x =>
    let part := d.fld RING_CFG.PARTITION x.ring 0
    let waits := d.descs.any fun y : Desc => decide (y.seq < x.seq) &&
      (y.ring == x.ring || (dq x.body 8 0 1 == 1 && d.fld RING_CFG.PARTITION y.ring 0 == part))
    if waits then d else d.descDone id .ok 0 0

/-! Completions (R298, R301, R302). -/

/-- The ready record of completion ring j that is written next: the oldest, ties by R29 with the submission ring as index (R301). -/
def Dev.cplPick (d : Dev) (j : Nat) : Option (Cpl × Dev) :=
  let r := d.ring j
  match r.ready with
  | [] => none
  | h :: _ =>
    if d.cqLen j ≤ idxDiff r.cqTail r.cqHead then none
    else
      let tied := r.ready.filter fun c => c.at' == h.at'
      match d.tie (arbKey 9 j) (tied.map (·.ring)).dedup with
      | none => none
      | some (i, d) => (tied.find? fun c => c.ring == i).map fun c => (c, d)

/-- The 16 bytes of a record as they go into completion ring j, PHASE and all (R298). -/
def Dev.cplBytes (d : Dev) (j : Nat) (c : Cpl) : List PByte :=
  toPBytes 16 (c.body.toNat + (1 - (d.ring j).cqTail / d.cqLen j % 2) * 2 ^ 80)

/-- Address of the next entry of completion ring j. -/
def Dev.cplAddr (d : Dev) (j : Nat) : Nat := ringAddr (d.fld CQ_BASE.BASE j 0) (d.cqLen j) 16 (d.ring j).cqTail

/-- A record leaves those that are ready, and its descriptor the engine. -/
def Dev.cplLeave (d : Dev) (j : Nat) (c : Cpl) : Dev :=
  Dev.modRing { d with descs := d.descs.filter fun y : Desc => y.id != c.id } j fun r => { r with ready := r.ready.erase c }

/-- A record has been written into completion ring j (R301, R302). -/
def Dev.cplWritten (d : Dev) (j : Nat) (c : Cpl) : Dev :=
  (d.pmcDev 0x03 1).modRing j fun r => { r with
    cqTail := (r.cqTail + 1) % 2 ^ 32, since := r.since + 1, urgent := r.urgent || c.now
    firstAt := if r.firstAt.isSome then r.firstAt else some d.ns }

/-- A write into completion ring j has failed: its submission rings stop (R301). -/
def Dev.cplRefused (d : Dev) (j : Nat) : Dev :=
  let d := d.setBit RING_STATUS.WRITE_FAIL j 0 true
  (d.rings.map (·.1)).foldl (fun d k => if d.cqOf k = j ∧ (d.ring k).state = .running then d.modRing k fun r => { r with state := .stopped } else d) d

/-- COMPLETION_POST: the next ready record of a completion ring goes into a free entry; the host or target may refuse it (R301). -/
def Dev.cplPost (d : Dev) (j : Nat) (accepted : Bool) : Dev :=
  d.whole fun d =>
  match d.cplPick j with
  | none => d
  | some (c, d) =>
    let a := d.cplAddr j
    let b := d.cplBytes j c
    if d.bit CQ_BASE.LOCAL j 0 then
      let w := d.accWrite endQueue a b 0 .none []
      let e := w.2.cplLeave j c
      ((if w.1 == .ok && d.backed a 16 then e.cplWritten j c else e.cplRefused j).ringSettle c.ring).cqRelease j
    else if accepted then ((((d.emit (.hostWrite a b)).cplLeave j c).cplWritten j c).ringSettle c.ring).cqRelease j
    else (((d.cplLeave j c).cplRefused j).ringSettle c.ring).cqRelease j

/-- MSIX_SEND: a completion ring's message is due (R302). -/
def Dev.cplMessage (d : Dev) (j : Nat) : Dev :=
  let r := d.ring j
  let us := min 1000 (d.fld IRQ_CFG.COAL_US j 0)
  let late := match r.firstAt with | some t => decide (t + 1000 * us ≤ d.ns) | none => false
  if d.bit IRQ_CFG.IRQ_EN j 0 && r.since != 0 && (r.urgent || decide (max 1 (d.fld IRQ_CFG.COAL_COUNT j 0) ≤ r.since) || late) then
    (d.modRing j fun r => { r with since := 0, firstAt := none, urgent := false }).msixFire (d.fld IRQ_CFG.VECTOR j 0)
  else d

/-- MSIX_UNMASK: software clears a vector's mask bit (R317). -/
def Dev.msixUnmask (d : Dev) (v : Nat) : Dev := (d.setRaw (msixCtl v) (d.rawWord (msixCtl v) ||| BitVec.ofNat 64 (2 ^ 32))).msixRelease v

/-! Configuration writes (R282, R292). -/

/-- A RING_CFG write: the fields a state locks are left, the rest taken, then ENABLE where the write reaches it (R282, R283, R292). -/
def Dev.ringCfgWrite (d : Dev) (i : Nat) (v : Nat) (en : Bool) : Dev :=
  let r := d.ring i
  let put (locked : Bool) (d : Dev) (f : Fld) : Dev :=
    let x := bitsOf v f.lo f.w
    if d.fld f i 0 = x then d else if locked then d.setBit RING_STATUS.CFG_IGNORED i 0 true else d.setFld f i 0 x
  let d := [RING_CFG.SQ_LOG2, RING_CFG.CQ_SEL, RING_CFG.PARTITION, RING_CFG.PRIV, RING_CFG.DEPTH].foldl (put r.on) d
  let d := [RING_CFG.CQ_LOG2, RING_CFG.WATCH, RING_CFG.POLL_US].foldl (put (r.on || r.inUse)) d
  if !en then d else if bitOf v 0 then d.ringEnable i else d.ringDisable i

/-- A write of CQ_BASE or DB_ADDR of ring pair i, ignored while completion ring i is in use (R292). Where the doorbell slot of a watching ring that is out of DISABLED moves, its old line is needed no longer and the new one enters the table (R290). -/
def Dev.ringBaseWrite (d : Dev) (i : Nat) (fs : List Fld) (v : Nat) : Dev :=
  if (d.ring i).inUse then d.setBit RING_STATUS.CFG_IGNORED i 0 true
  else
    let l := d.slotLine i
    let d := fs.foldl (fun d f => d.setFld f i 0 (bitsOf v f.lo f.w)) d
    if d.slotLine i = l then d
    else
      let d := d.watchDrop l
      if (d.ring i).on && d.watches i then d.slotRead i else d

/-- Every descriptor of ring i in flight that has not ended ends with a status, and its baton waits are withdrawn (R306, R514). -/
def Dev.ringAbort (d : Dev) (i : Nat) (st : Status) : Dev :=
  let ids := ((d.inflight i).filter fun x => x.fin.isNone).map (·.id)
  let d := d.btnWithdraw (fun o => match o with | .desc k => ids.contains k | _ => false) st
  ids.foldl (fun d k => d.descDone k st 0 0) d

/-! The commands. -/

def execRingEnable (_r : Req) (ring : RingId) (s : State) : Host.Outcome State Fault Refusal := s.ev fun d => d.ringEnable ring
def execRingDisable (_r : Req) (ring : RingId) (s : State) : Host.Outcome State Fault Refusal := s.ev fun d => d.ringDisable ring
def execDoorbellSnoop (line : Nat) (s : State) : Host.Outcome State Fault Refusal := s.ev fun d => d.doorbellSnoop line
def execDescriptorFetch (ring : RingId) (ext : List PByte) (s : State) : Host.Outcome State Fault Refusal := s.ev fun d => d.descFetch ring ext
def execDescriptorStart (s : State) : Host.Outcome State Fault Refusal := s.ev fun d => d.descStart
def execCopy (id : Nat) (ext : List PByte) (s : State) : Host.Outcome State Fault Refusal := s.ev fun d => d.dqCopy id 0x01 ext
def execCopyConvert (id : Nat) (ext : List PByte) (s : State) : Host.Outcome State Fault Refusal := s.ev fun d => d.dqCopy id 0x02 ext
def execTileLaunch (id : Nat) (s : State) : Host.Outcome State Fault Refusal := s.ev fun d => d.dqLaunch id
def execLaunchReport (tag : Nat) (s : State) : Host.Outcome State Fault Refusal := s.ev fun d => d.launchEnd tag
def execBatonSignalAdd (id : Nat) (s : State) : Host.Outcome State Fault Refusal := s.ev fun d => d.dqBaton id 0x20 0 .add
def execBatonSignalSet (id : Nat) (s : State) : Host.Outcome State Fault Refusal := s.ev fun d => d.dqBaton id 0x20 1 .set
def execBatonWait (id : Nat) (s : State) : Host.Outcome State Fault Refusal := s.ev fun d => d.dqBaton id 0x21 0 .wait
def execBatonWaitHandoff (id : Nat) (s : State) : Host.Outcome State Fault Refusal := s.ev fun d => d.dqBaton id 0x21 1 .handoff
def execCacheRange (id : Nat) (ext : List PByte) (s : State) : Host.Outcome State Fault Refusal := s.ev fun d => d.dqCache id ext
def execReduceInto (id : Nat) (ext : List PByte) (s : State) : Host.Outcome State Fault Refusal := s.ev fun d => d.dqReduce id ext
def execChkRun (id : Nat) (ext : List PByte) (s : State) : Host.Outcome State Fault Refusal := s.ev fun d => d.dqChk id ext
def execBsuBroadcast (id : Nat) (s : State) : Host.Outcome State Fault Refusal := s.ev fun d => d.dqBroadcast id
def execQueueNop (id : Nat) (s : State) : Host.Outcome State Fault Refusal := s.ev fun d => d.qop id 0x7E fun _ => d.descDone id .ok 0 0
def execFence (id : Nat) (s : State) : Host.Outcome State Fault Refusal := s.ev fun d => d.dqFence id
def execCompletionPost (cq : RingId) (accepted : Bool) (s : State) : Host.Outcome State Fault Refusal := s.ev fun d => d.cplPost cq accepted
def execMsixSend (cq : RingId) (s : State) : Host.Outcome State Fault Refusal := s.ev fun d => d.cplMessage cq
def execMsixUnmask (vector : Fin 2048) (s : State) : Host.Outcome State Fault Refusal := s.ev fun d => d.msixUnmask vector

end Sys2Proof.Machine
end

