-- ==== Sys2Proof/Machine/Attention.lean ====
section
/-! DEFINITION. Page walkers and the attention step: contexts, look-aside buffers, the five phases of a step (R245 to R279). -/

namespace Sys2Proof.Machine

/-! Context descriptors (R248, R249). -/

/-- `w` bits of a context descriptor from bit `lo` of a byte. -/
def Ctx.f (c : Ctx) (byte lo w : Nat) : Nat := dq c.body byte lo w
/-- KVH. -/
def Ctx.kvh (c : Ctx) : Nat := c.f 21 0 4 + 1
/-- G. -/
def Ctx.g (c : Ctx) : Nat := c.f 21 4 4 + 1
/-- C0, an FP32 code. -/
def Ctx.c0 (c : Ctx) : Nat := c.f 24 0 32
/-- STRETCH_BASE. -/
def Ctx.base (c : Ctx) : Nat := c.f 8 0 22
/-- LS_WORK. -/
def Ctx.work (c : Ctx) : Nat := c.f 44 0 22
/-- SA. -/
def Ctx.sa (c : Ctx) : Nat := c.f 32 0 19
/-- TAIL. -/
def Ctx.tail (c : Ctx) : Bool := c.f 22 1 1 == 1

/-- The bits R248 lays out. -/
def ctxUsed : Nat :=
  let f (byte w : Nat) : Nat := (2 ^ w - 1) * 2 ^ (8 * byte)
  f 0 52 + f 8 22 + f 12 21 + f 16 21 + f 20 8 + f 21 8 + f 22 2 + f 24 32 + f 28 32 + f 32 19 + f 36 19 + f 40 8 + f 41 8 + f 44 22

/-- A context descriptor is refused (R249). -/
def Dev.ctxBad (d : Dev) (b : BitVec 512) : Bool :=
  let c : Ctx := ⟨b, 0, 0⟩
  let max := c.f 16 0 21
  let margin := fp32.decode (c.f 28 0 32)
  b &&& ~~~(BitVec.ofNat 512 ctxUsed) != 0 || c.f 0 0 6 != 0 || !d.backed (c.f 0 0 52) ((c.f 20 0 8 + 1) * c.kvh * 8) ||
    decide (1048576 < max) || decide (max < c.f 12 0 21) || decide (4194304 < c.base + max) ||
    !(f32Finite c.c0 && (FVal.fin false 0 0).lt (fp32.decode c.c0)) || margin == .nan || margin.lt (.fin false 0 0) ||
    c.sa % 192 != 0 || decide (393216 < c.sa + c.f 36 0 19) || c.work % 65536 != 0 || decide (0x2C0000 < c.work)

/-! Slots and look-aside entries (R247, R253). -/

/-- Slot s of walker k. -/
def Dev.ctx (d : Dev) (k s : Nat) : Option Ctx := Tbl.get none d.ctxs (16 * k + s)
/-- Replace slot s of walker k. -/
def Dev.setCtx (d : Dev) (k s : Nat) (c : Option Ctx) : Dev := { d with ctxs := Tbl.set none d.ctxs (16 * k + s) c }

/-- Discard look-aside entries of walker k that satisfy a test. -/
def Dev.labDrop (d : Dev) (k : Nat) (p : LabEnt → Bool) : Dev :=
  { d with lab := d.lab.filter fun e => !(e.1 / 512 == k && e.2.any p) }

/-- Discard a slot's entries in every walker. -/
def Dev.labDropSlot (d : Dev) (s : Nat) : Dev := (List.range 32).foldl (fun d k => d.labDrop k fun e => e.slot == s) d

/-- A page-walker error; the FIRST fields take the first (R276). -/
def Dev.pgwErr (d : Dev) (k : Nat) (bit : Fld) (s l g v : Nat) : Dev :=
  d.raise [PGW_ERR.PTE_INVALID, PGW_ERR.PTE_MISPLACED, PGW_ERR.DIR_INVALID, PGW_ERR.PT_POISON, PGW_ERR.APPEND_REFUSED] PGW_ERR.MULTIPLE k 0 bit
    [(PGW_ERR.FIRST_V, v), (PGW_ERR.FIRST_HEAD, g), (PGW_ERR.FIRST_LAYER, l), (PGW_ERR.FIRST_SLOT, s)]

/-- What a lookup finds: the frame's address, or the status of its failure. -/
inductive Found where
  | frame (a : Nat)
  | bad (st : Status)
  deriving DecidableEq, Repr, Inhabited

/-- Key of a way of the set of a page in walker k (R253). -/
def labKey (k l g v w : Nat) : Nat := 512 * k + 8 * ((v + 8 * g + l) % 64) + w

/-- Keep a walk's result: a free way, else the least recently used of the set (R253). -/
def Dev.labFill (d : Dev) (k s l g v a : Nat) : Dev :=
  let ways := (List.range 8).map (labKey k l g v)
  match oldest (fun w => match Tbl.get none d.lab w with | some e => e.use + 1 | none => 0) ways with
  | some w => { d with lab := Tbl.set none d.lab w (some ⟨s, l, g, v, a, d.labStamp⟩), labStamp := d.labStamp + 1 }
  | none => d

/-- Walk the tables: the directory entry, then the leaf entry (R250, R251, R253, R276). -/
def Dev.walk (d : Dev) (k s : Nat) (c : Ctx) (l g v : Nat) : Found × Dev :=
  let (b, st, d) := d.takeRead (endCluster k) (c.f 0 0 52 + (l * c.kvh + g) * 8) 8
  let e := ofPBytes b
  if st ≠ .ok then (.bad st, d.pgwErr k PGW_ERR.PT_POISON s l g v)
  else if !bitOf e 0 then (.bad .badDescriptor, d.pgwErr k PGW_ERR.DIR_INVALID s l g v)
  else if bitsOf e 52 12 < v then (.bad .badDescriptor, d.pgwErr k PGW_ERR.PTE_INVALID s l g v)
  else
    let (b, st, d) := d.takeRead (endCluster k) (bitsOf e 6 46 * 64 + 8 * v) 8
    let x := ofPBytes b
    if st ≠ .ok then (.bad st, d.pgwErr k PGW_ERR.PT_POISON s l g v)
    else if !bitOf x 0 then (.bad .badDescriptor, d.pgwErr k PGW_ERR.PTE_INVALID s l g v)
    else (.frame (bitsOf x 4 21 * 65536), d)

/-- A lookup by walker k: its look-aside buffer, else a walk, kept when it ends well (R253, R277). -/
def Dev.lookup (d : Dev) (k s : Nat) (c : Ctx) (l g v : Nat) : Found × Dev :=
  let en := d.bit PGW_CFG.LAB_EN k 0
  let hit := if en then ((List.range 8).map (labKey k l g v)).find? fun w => (Tbl.get none d.lab w).any fun e => e.slot == s && e.layer == l && e.head == g && e.v == v else none
  match hit with
  | some w =>
    let d := (d.count PGW_COUNT.LAB_HIT k 0 1).pmcCluster k 0x07 1
    (match Tbl.get none d.lab w with | some e => .frame e.frame | none => .bad .badDescriptor,
     { d with lab := Tbl.set none d.lab w ((Tbl.get none d.lab w).map fun e => { e with use := d.labStamp }), labStamp := d.labStamp + 1 })
  | none =>
    match (((d.count PGW_COUNT.LAB_MISS k 0 1).pmcCluster k 0x07 1).pmcCluster k 0x08 1).walk k s c l g v with
    | (.frame a, d) => (.frame a, if en then d.labFill k s l g v a else d)
    | r => r

/-- The core in whose slice the frame of a page must lie (R252). -/
def Ctx.owner (c : Ctx) (l g v : Nat) : Nat := (v + c.f 40 0 8 * g + c.f 41 0 8 * l) % 256

/-- A lookup of a page with the placement check (R252, R253). -/
def Dev.page (d : Dev) (s : Nat) (c : Ctx) (l g v : Nat) : Found × Dev :=
  let n := c.owner l g v
  match d.lookup (clusterOf n) s c l g v with
  | (.frame a, d) => if stackCore a = n ∧ a < stackEnd then (.frame a, d) else (.bad .badDescriptor, d.pgwErr (clusterOf n) PGW_ERR.PTE_MISPLACED s l g v)
  | r => r

/-! KV_MAP (R247, R249, R297). -/

/-- A KV_MAP of a kind: none of its flags, RELEASE, or INVAL alone. It waits while an earlier or running step uses its slot (R247, R273). -/
def Dev.kvOp (d : Dev) (id flags : Nat) (f : Nat → Desc → Dev) : Dev :=
  d.qop id 0x50 fun x =>
    let s := dq x.body 8 0 4
    let uses := (d.attn.any fun a => dq a.body 8 0 4 == s) || d.descs.any fun y : Desc =>
      decide (y.seq < x.seq) && (dqOp y.body == 0x51 || dqOp y.body == 0x50) && dq y.body 8 0 4 == s && y.fin.isNone
    if (if dq x.body 9 0 1 = 1 then 1 else dq x.body 9 0 2) ≠ flags || uses then d else f s x

/-- KV_MAP with neither flag: every walker loads the slot, or none does (R247, R249). -/
def Dev.kvLoad (d : Dev) (id : Nat) (ext : List PByte) : Dev :=
  d.kvOp id 0 fun s x => d.whole fun d =>
    let (b, st, d) := d.accRead endQueue (dq x.body 16 0 52) 64 0 ext
    let body := BitVec.ofNat 512 (ofPBytes b)
    if st ≠ .ok then d.descDone id st 0 0
    else if d.ctxBad body then d.descDone id .badDescriptor 0 0
    else ((List.range 32).foldl (fun d k => d.setCtx k s (some ⟨body, dq body 12 0 21, 0⟩)) (d.labDropSlot s)).descDone id .ok 0 0

/-- KV_MAP with RELEASE empties the slot; its look-aside entries stay (R247, R297). -/
def Dev.kvRelease (d : Dev) (id : Nat) : Dev :=
  d.kvOp id 1 fun s _ => ((List.range 32).foldl (fun d k => d.setCtx k s none) d).descDone id .ok 0 0

/-- KV_MAP with INVAL alone discards the slot's look-aside entries. -/
def Dev.kvInval (d : Dev) (id : Nat) : Dev := d.kvOp id 2 fun s _ => (d.labDropSlot s).descDone id .ok 0 0

/-! The step's shape (R246, R255, R262, R268). -/

/-- `w` bits of the operands of a step. -/
def Attn.f (a : Attn) (byte lo w : Nat) : Nat := dq a.body byte lo w
/-- SLOT. -/
def Attn.slot (a : Attn) : Nat := a.f 8 0 4
/-- LAYER. -/
def Attn.layer (a : Attn) : Nat := a.f 9 0 8
/-- The selected KV heads, ascending. -/
def Attn.heads (a : Attn) : List Nat := (List.range 16).filter fun g => bitOf (a.f 10 0 16) g
/-- NQ. -/
def Attn.nq (a : Attn) : Nat := a.f 12 0 8 + 1
/-- OFORM. -/
def Attn.form1 (a : Attn) : Bool := a.f 13 0 1 == 1
/-- Columns of one head. -/
def Attn.cg (a : Attn) : Nat := a.nq * a.ctx.g
/-- Columns of the step. -/
def Attn.cols (a : Attn) : Nat := a.heads.length * a.cg
/-- PARTIAL. -/
def Attn.partial' (a : Attn) : Nat := a.f 40 0 52
/-- Pages of one head that any core holds at most. -/
def Attn.perCore (a : Attn) : Nat := ((a.n + 255) / 256 + 255) / 256
/-- Score rows of a page. -/
def Attn.w (a : Attn) : Nat := (a.cg + 1) / 2
/-- Score rows of the step. -/
def Attn.rows (a : Attn) : Nat := a.heads.length * a.perCore * a.w
/-- How far a summary row lies from its score row (R262). -/
def Attn.sumOff (a : Attn) : Nat := 192 * ((a.rows + 191) / 192)
/-- Rank of a head among the selected ones. -/
def Attn.rank (a : Attn) (g : Nat) : Nat := (a.heads.takeWhile (· != g)).length
/-- The step's column of query q and query head j of KV head g (R255). -/
def Attn.col (a : Attn) (g c : Nat) : Nat := if a.form1 then c else a.rank g * a.cg + c
/-- Valid tokens of page v (R246). -/
def Attn.nv (a : Attn) (v : Nat) : Nat := min 256 (a.n - 256 * v)

/-- The pages of a step, in ascending core number and page order (R252, R271). -/
def Attn.allPages (a : Attn) : List AttnPage :=
  let l := a.heads.flatMap fun g => (List.range ((a.n + 255) / 256)).map fun v =>
    (⟨a.ctx.owner a.layer g v, g, v, a.rank g * a.perCore + v / 256, 0, [], false, false⟩ : AttnPage)
  (List.range 256).flatMap fun n => l.filter fun p => p.core == n

/-- Addresses of m[c], s[c] and o of one column's elements (R268). -/
def Attn.mAt (a : Attn) (c : Nat) : Nat := a.partial' + 4 * c
/-- s[c]. -/
def Attn.sAt (a : Attn) (c : Nat) : Nat := a.partial' + 4 * (a.cols + c)
/-- o. -/
def Attn.oAt (a : Attn) (c dd : Nat) : Nat := a.partial' + 8 * a.cols + if a.form1 then 4 * (dd * a.cols + c) else 512 * c + 4 * dd

/-- A step is refused: status and DETAIL (R256). -/
def Dev.attnBad (d : Dev) (a : Attn) : Option Nat :=
  let c := a.ctx
  let hs := a.heads
  if c.f 20 0 8 < a.layer || hs == [] || hs.any (fun g => decide (c.kvh ≤ g)) ||
      (if a.form1 then hs.length != 1 || decide (256 < a.cg) else decide (128 < hs.length * a.cg)) ||
      decide (c.f 36 0 19 < 384 * ((a.rows + 191) / 192)) || !d.scratchBacked a.partial' (520 * a.cols) then some 0
  else if !d.backed (a.f 24 0 52) (a.nq * c.kvh * c.g * 512) || (a.f 13 1 1 == 1 && !d.backed (a.f 32 0 52) (256 * c.kvh)) then some 0x04
  else if a.f 13 1 1 == 1 && (!c.tail || a.nq != 1 || a.layer != c.next || a.f 16 0 22 != c.base + c.len || c.len == c.f 16 0 21) then some 0
  else none

/-- Change the running step. -/
def Dev.modAttn (d : Dev) (f : Attn → Attn) : Dev := { d with attn := d.attn.map f }

/-- A failure of the step: the first stands; the columns of some heads are poisoned (R271). -/
def Dev.attnFail (d : Dev) (st : Status) (heads : List Nat) : Dev := d.modAttn fun a => { a with st := a.st.first st, badHeads := (a.badHeads ++ heads).dedup }

/-- A page whose core has been lost since the last phase, or is out of service, leaves the step with its head (R271, R273). -/
def Dev.pageLost (d : Dev) (p : AttnPage) : Option Status :=
  if p.out then none
  else
    match ((d.attn.map fun a => a.lost).getD []).find? fun x => x.1 == p.core with
    | some x => some x.2
    | none => if d.fenceState p.core ≠ 0 then some .fencedUnit else none

/-- The pages of lost cores leave the step, in page order (R271). -/
def Dev.attnLost (d : Dev) : Dev :=
  match d.attn with
  | none => d
  | some a =>
    let d1 := a.pages.foldl (fun e p => match d.pageLost p with | some st => e.attnFail st [p.head] | none => e) d
    d1.modAttn fun b => { b with pages := b.pages.map fun p => { p with out := p.out || (d.pageLost p).isSome } }

/-- The cores on which the step has pages to work on. -/
def Dev.attnCores (d : Dev) (a : Attn) : List Nat := ((a.pages.filter fun p => !p.out && !p.skip && (d.pageLost p).isNone).map (·.core)).dedup

/-- The walkers' programs of a phase enter the launch queues of their cores, where there is a place (R106, R258). -/
def Dev.attnEnter (d : Dev) : Dev :=
  match d.attn with
  | none => d
  | some a =>
    (d.attnCores a).foldl (fun d n =>
      if (d.core n).lq.any fun l => l.attn then d else (d.lqPut n ⟨0, 0, false, true, d.cclk n, true⟩).2) d

/-- Every core with pages has come to the step's program: no program runs ahead of it (R258). -/
def Dev.attnCoresFree (d : Dev) (a : Attn) : Bool :=
  (d.attnCores a).all fun n => (d.core n).prog.isNone && ((d.core n).lq.head?.any fun l => l.attn)

/-- The walkers' programs end: they leave the launch queues, gates are 0, and what waited starts (R104, R105, R258). -/
def Dev.attnLeave (d : Dev) (a : Attn) : Dev :=
  ((a.pages.map (·.core)).dedup).foldl (fun d n =>
    if (d.core n).lq.any fun l => l.attn then
      (d.setCore n { d.core n with lq := (d.core n).lq.filter fun l => !l.attn, gates := List.replicate 16 0 }).progNext n
    else d) d

/-- ATTN_STEP: one step runs at a time, in the order they started; the partial takes its initial values (R255 to R257). -/
def Dev.attnStart (d : Dev) (id : Nat) : Dev :=
  d.qop id 0x51 fun x => d.whole fun d =>
    let s := dq x.body 8 0 4
    let before := d.descs.any fun y : Desc => decide (y.seq < x.seq) && y.fin.isNone && (dqOp y.body == 0x51 || (dqOp y.body == 0x50 && dq y.body 8 0 4 == s))
    if d.attn.isSome || before then d
    else
      match d.ctx 0 s with
      | none => d.descDone id .badDescriptor 0 0
      | some c =>
        if (List.range 32).any fun k => (d.ctx k s).isNone then d.descDone id .badDescriptor 0 0
        else
          let app := dq x.body 13 1 1 == 1
          let n := if app || decide (dq x.body 9 0 8 < c.next) then c.len + 1 else c.len
          let a : Attn := ⟨id, x.body, c, n, if app then 1 else 2, [], .ok, [], [], none, []⟩
          match d.attnBad a with
          | some k => d.descDone id .badDescriptor k 0
          | none =>
            let a := { a with pages := a.allPages }
            let init := (List.replicate a.cols (toPBytes 4 0xFF800000)).flatten ++ toPBytes (4 * a.cols) 0 ++ toPBytes (512 * a.cols) 0
            let d := (d.modFlight id fun y => { y with sent := true }).accWrite endQueue a.partial' init 0 .none []
            if app then { d.2 with attn := some a } else Dev.attnEnter { d.2 with attn := some a }

/-! Appending (R259). -/

/-- The frames of the last page, head by head; one that is not mapped is recorded (R259). -/
def Dev.appendFrames (d : Dev) (a : Attn) : List (Option Nat) × Dev :=
  let v := a.ctx.len / 256
  (List.range a.ctx.kvh).foldl (fun (p : List (Option Nat) × Dev) g =>
    match p.2.page a.slot a.ctx a.layer g v with
    | (.frame f, d) => (p.1 ++ [some f], d)
    | (.bad _, d) => (p.1 ++ [none], d.pgwErr (clusterOf (a.ctx.owner a.layer g v)) PGW_ERR.APPEND_REFUSED a.slot a.layer g v)) ([], d)

/-- A frame is missing: nothing is appended, the partial is poisoned, and the step is at its end (R259). -/
def Dev.appendRefuse (d : Dev) (a : Attn) : Dev :=
  let d := (d.accWrite endQueue a.partial' (poisonBytes (520 * a.cols)) 0 .none []).2
  (d.attnFail .badDescriptor []).modAttn fun b => { b with phase := 7, pages := [] }

/-- A context after one more layer's keys and values (R259). -/
def Ctx.appended (x : Ctx) : Ctx := if x.next + 1 > x.f 20 0 8 then { x with len := x.len + 1, next := 0 } else { x with next := x.next + 1 }

/-- The new keys and values go into their frames, every walker's context moves on, and phase 2 begins (R258, R259). -/
def Dev.appendStore (d : Dev) (a : Attn) (fs : List (Option Nat)) (ext : List PByte) : Dev :=
  let c := a.ctx
  let v := c.len / 256
  let (b, st, d) := d.accRead (endCluster 0) (a.f 32 0 52) (256 * c.kvh) 0 ext
  let d := d.attnFail st []
  let i := c.len % 256
  let d := (List.range c.kvh).foldl (fun d g =>
    match fs.getD g none with
    | none => d
    | some f =>
      let src := endCluster (clusterOf (c.owner a.layer g v))
      let d := (d.accWrite src (f + 128 * i) ((b.drop (256 * g)).take 128) 0 .none []).2
      (d.accWrite src (f + 32768 + 128 * i) ((b.drop (256 * g + 128)).take 128) 0 .none []).2) d
  let d := (List.range 32).foldl (fun d k => d.setCtx k a.slot ((d.ctx k a.slot).map Ctx.appended)) d
  (d.modAttn fun b => { b with phase := 2 }).attnEnter

/-- APPEND: phase 1 (R259). -/
def Dev.attnAppend (d : Dev) (ext : List PByte) : Dev :=
  match d.attn with
  | none => d
  | some a =>
    if a.phase ≠ 1 then d
    else d.whole fun d =>
      let (fs, d) := d.appendFrames a
      if fs.any Option.isNone then d.appendRefuse a else d.appendStore a fs ext

/-! Array work of a page (R258, R260, R266). -/

/-- A vector or a tile column: four blocks of 32 values, quantised (R82). -/
def mxBlocks (v : List FVal) : List MxBlock := (List.range 4).map fun g => MxFmt.mxint8.quantise ((v.drop (32 * g)).take 32)

/-- A tile column of zeros. -/
def mxZero : List MxBlock := mxBlocks (List.replicate 128 (.fin false 0 0))

/-- Count the conversions of tiles and vectors like those of any descriptor (R82, R83, R151). -/
def Dev.convCount (d : Dev) (n : Nat) (l : List (List MxBlock)) : Dev :=
  let b := l.flatten
  let cl := (b.map (·.clamps)).sum
  ((d.count DMA_CONV.NAN_BLOCK n 0 (b.filter (·.nanBlock)).length).count DMA_CONV.CLAMP n 0 cl).pmcCore n 0x11 cl

/-- Add the terms of one vector and one column to an entry, counting renormalisations (R55, R58, R59). -/
def mxDot (w x : List MxBlock) (e : AccE × Nat) : AccE × Nat :=
  (List.zip w x).foldl (fun e p =>
    if p.1.x = 255 ∨ p.2.x = 255 then ({ e.1 with nan := true }, e.2)
    else
      let r := e.1.term ((List.zipWith (· * ·) p.1.els p.2.els).sum) (p.1.x + p.2.x)
      (r.1, e.2 + r.2.1)) e

/-- The vectors of a run that a poisoned input word carries an element of, given the poisoned elements (vector, row) (R69, R140). -/
def skewBad (p m : Nat) (els : List (Nat × Nat)) : List Nat :=
  (List.range m).filter fun v => els.any fun e => decide (p * v ≤ p * e.1 + e.2) && decide (p * e.1 + e.2 < p * v + 128)

/-- What the runs of a step did to the array of core n: renormalisations, and errors with the slot of the first (R57 to R59, R69, R74, R75). -/
def Dev.stepErrs (d : Dev) (n renorm : Nat) (sat nan poison : Option Nat) : Dev :=
  let ev (d : Dev) (bit : Fld) (s : Option Nat) : Dev := match s with | some k => d.arrErrAt n bit k 0 | none => d
  ev (ev (ev (d.count ARR_RENORM.COUNT (d.arrOf n) 0 renorm) ARR_ERR.IN_POISON poison) ARR_ERR.SAT sat) ARR_ERR.NAN nan

/-- A step's tile is loaded over a weight set of the array: a served owner's own set, else a set that the spec does not name (R64, R258; log 149). -/
def Dev.attnTile (d : Dev) (n : Nat) (cols : List (List MxBlock)) (bad : Bool) : Dev :=
  let a := d.arrOf n
  let (v, d) := d.free
  let x := if d.serving a then (if a = n then 0 else 1) else v.toNat % 2
  let grp (g : Nat) : Array (Array Int) := (cols.map fun b => (b.getD g default).els.toArray).toArray
  let t : Tile :=
    { stream := 7, desc := 0, loadId := 0, p := 8, wmx := true, poison := if bad then [0, 1, 2, 3] else [], emitted := 4, at' := 0, last := true
      planes := (List.range 32).foldl (fun t i => Tbl.set 0 t i (planeOf (grp (i / 8)) (i % 8))) []
      scales := (List.range 1024).foldl (fun t i => Tbl.set 0 t i (BitVec.ofNat 8 ((cols.getD (i % 256) []).getD (i / 256) default).x)) [] }
  (d.modArr a fun u => u.setSet x { (List.range 4).foldl (fun w g => w.writeGroup t g) { WSet.init with p := 8, wmx := true } with loaded := true }).arrUsed a

/-- An EMPTY entry. -/
def accE0 : AccE := ⟨0, 0, true, false, false, false, false⟩

/-- Keys or values of a frame as tokens of 128 elements; those at or beyond n_v are zero (R245, R246). -/
def frameEls (fmt1 : Bool) (nv : Nat) (b : Array PByte) : Array (List FVal) :=
  ((List.range 256).map fun t =>
    if t < nv then (List.range 128).map fun e => (if fmt1 then e5m2 else e4m3).decode (b.getD (128 * t + e) ⟨0, false⟩).v.toNat
    else List.replicate 128 (.fin false 0 0)).toArray

/-- Some byte of valid tokens from `t` on, 128 at most, is poisoned. -/
def framePoison (nv t : Nat) (b : Array PByte) : Bool := poisonAt b (128 * t) (128 * (min 128 (nv - t)))

/-- The bank of its array that a core names bank 0 (R64). -/
def Dev.attnBank (d : Dev) (n : Nat) : Nat := if d.arrTarget n then 1 else 0

/-- The array whose bank a core's programs use ends a phase with its slots drained and cleared (R260, R267). -/
def Dev.attnClear (d : Dev) (n : Nat) (slots : List Nat) : Dev :=
  let bank := d.attnBank n
  d.modArr (d.arrOf n) fun u => { u with acc := u.acc.filter fun p => !(p.1 / 2 ^ 15 == bank && slots.contains (p.1 / 256 % 128)) }

/-- Write a run of codewords to a slice. -/
def Dev.rowPut (d : Dev) (n row off : Nat) (b : List PByte) : Dev := (d.accWrite (endCluster (clusterOf n)) (rowAddr n row + off) b 0 .none []).2

/-- The query vectors of a page, one per pair, with their poisoned elements (R260). -/
def Dev.pageQueries (d : Dev) (a : Attn) (p : AttnPage) (ext : List PByte) : List (List MxBlock × List Nat) × Status × Dev :=
  let c := a.ctx
  (List.range a.cg).foldl (fun (r : List (List MxBlock × List Nat) × Status × Dev) cg =>
    let h := p.head * c.g + cg % c.g
    let qa := a.f 24 0 52 + (cg / c.g * c.kvh * c.g + h) * 512
    let (qb, st, d) := r.2.2.accRead (endCore p.core) qa 512 0 (ext.drop ((qa / 4096 - a.f 24 0 52 / 4096) * 4096))
    let els := vElems 128 4 qb
    (r.1 ++ [(mxBlocks (els.map fun e => fp32.decode e.v), (List.range 128).filter fun k => (els.getD k default).p)], r.2.1.first st, d)) ([], .ok, d)

/-- The scores of one page: for each pair 256 BF16 codes with their poison (R260, R261). A poisoned key poisons the tile, a poisoned query element the pairs whose words it shares (R69). -/
def Dev.pageScores (d : Dev) (a : Attn) (p : AttnPage) (ext : List PByte) : List (List (Nat × Bool)) × Status × Dev :=
  let c := a.ctx
  let (kb, st, d) := d.takeRead (endCore p.core) p.frame 32768
  let kb := kb.toArray
  let nv := a.nv p.v
  let cols := ((frameEls (c.f 22 0 1 == 1) nv kb).map fun t => mxBlocks t).toList
  let bad := framePoison nv 0 kb || framePoison nv 128 kb
  let (qs, st', d) := d.pageQueries a p ext
  let spoilt (run : Nat) : List Nat :=
    let m := min 128 (a.cg - 128 * run)
    skewBad 8 m ((List.range m).flatMap fun i => (qs.getD (128 * run + i) ([], [])).2.map fun k => (i, k))
  let sp := (spoilt 0) ++ (spoilt 1).map (· + 128)
  let es := qs.map fun q => cols.map fun w => mxDot w q.1 (accE0, 0)
  let first (f : AccE → Bool) : Option Nat := ((List.range a.cg).find? fun i => (es.getD i []).any fun e => f e.1).map (· % 128)
  let d := (d.convCount p.core (cols ++ qs.map (·.1))).stepErrs p.core ((es.map fun l => (l.map (·.2)).sum).sum) (first (·.sat)) (first (·.nan)) (sp.head?.map (· % 128))
  let out := (List.range a.cg).map fun cg => (List.range 256).map fun t =>
    if nv ≤ t ∨ c.base + 256 * p.v + t > a.f 16 0 22 + cg / c.g then (0xFF80, false)
    else if bad || sp.contains cg then (0, true)
    else (((es.getD cg []).getD t (accE0, 0)).1.convert 1 (-12) none, false)
  (out, (if bad then st else .ok).first st', d.attnTile p.core cols bad)

/-- BF16 codes with poison as bytes. -/
def bfBytes (l : List (Nat × Bool)) : List PByte := l.flatMap fun x => if x.2 then poisonBytes 2 else toPBytes 2 x.1

/-- The maximum of a pair's scores, widened to FP32, with its poison (R261). -/
def pairMax (l : List (Nat × Bool)) : Nat × Bool :=
  if l.any (·.2) then (0, true) else (foldFirst f32Max (l.map fun x => x.1 * 65536), false)

/-- Write a page's scores to the work area and to its score rows (R260, R262). -/
def Dev.putScores (d : Dev) (a : Attn) (p : AttnPage) (sc : List (List (Nat × Bool))) : Dev :=
  let d := (List.range sc.length).foldl (fun d cg => d.lsWrite p.core (a.ctx.work + 512 * cg) (bfBytes (sc.getD cg []))) d
  (List.range a.w).foldl (fun d r =>
    let second := if 2 * r + 1 < a.cg then sc.getD (2 * r + 1) [] else List.replicate 256 (0xFF80, false)
    d.rowPut p.core (a.ctx.sa + p.i * a.w + r) 0 (bfBytes (sc.getD (2 * r) []) ++ bfBytes second)) d

/-- The array that runs a core's work refuses its commands: it is OFF, or its partner's core is out of service (R66, R70, R258). -/
def Dev.arrGone (d : Dev) (n : Nat) : Bool := let a := d.arrOf n; !d.domOn a || (n != a && !d.inService a)

/-- What keeps a page's work off its array: its core is lost, or the array refuses it (R258, R271). -/
def Dev.pageStops (d : Dev) (p : AttnPage) : Option Status :=
  (d.pageLost p).orElse fun _ => if !p.out && d.arrGone p.core then some .fencedUnit else none

/-- A page leaves the step with its head; an array that refuses it sets UNAVAILABLE (R70, R271). -/
def Dev.pageStop (d : Dev) (p : AttnPage) (st : Status) : Dev :=
  (if (d.pageLost p).isNone then d.arrErr p.core ARR_ERR.UNAVAILABLE else d).attnFail st [p.head]

/-- One page of phase 2: out of the step when its core is lost or it is not mapped, else scored and drained (R260 to R262, R271). -/
def Dev.scorePage (a : Attn) (ext : List PByte) (r : List AttnPage × Dev) (p : AttnPage) : List AttnPage × Dev :=
  let (ps, d) := r
  if p.out then (ps ++ [p], d)
  else
    match d.pageStops p with
    | some st => (ps ++ [{ p with out := true }], d.pageStop p st)
    | none =>
    match d.page a.slot a.ctx a.layer p.head p.v with
    | (.bad st, d) => (ps ++ [{ p with out := true }], d.attnFail st [p.head])
    | (.frame f, d) =>
      let p := { p with frame := f }
      let (sc, st, d) := d.pageScores a p ext
      let d := (d.putScores a p sc).attnFail st []
      (ps ++ [{ p with maxima := sc.map pairMax }], d.attnClear p.core (List.range (min 128 a.cg)))

/-- SCORE: phase 2 (R260 to R262). -/
def Dev.attnScore (d : Dev) (ext : List PByte) : Dev :=
  let d := d.attnEnter
  match d.attn with
  | none => d
  | some a =>
    if a.phase ≠ 2 ∨ d.held ∨ !d.attnCoresFree a then d
    else d.whole fun d =>
      let (ps, d) := a.pages.foldl (Dev.scorePage a ext) ([], d)
      (d.modAttn fun b => { b with pages := ps, phase := 3 }).attnLeave a

/-! Reductions into the partial (R229, R263, R267). -/

/-- Reduce FP32 values, with their poison, into consecutive elements of the partial. -/
def Dev.attnRed (d : Dev) (src op addr : Nat) (v : List (Nat × Bool)) : Dev :=
  (d.accRed src op addr (v.flatMap fun x => if x.2 then poisonBytes 4 else toPBytes 4 x.1) 0 []).2

/-- The larger of two maxima with their poison. -/
def maxPair (x y : Nat × Bool) : Nat × Bool := if x.2 || y.2 then (0, true) else (f32Max x.1 y.1, false)

/-- Every walker reduces its largest page maximum of each column into m (R263). -/
def Dev.maxReduce (d : Dev) (a : Attn) : Dev :=
  (List.range 32).foldl (fun d k =>
    a.heads.foldl (fun d g =>
      (List.range a.cg).foldl (fun d cg =>
        let ms := (a.pages.filter fun p => !p.out && p.head == g && clusterOf p.core == k).map fun p => p.maxima.getD cg (0, true)
        match ms with
        | [] => d
        | m :: t => d.attnRed (endCluster k) 2 (a.mAt (a.col g cg)) [t.foldl maxPair m]) d) d) d

/-- ATTN_MAX: phase 3: each walker's largest page maximum of every column goes into m (R263). -/
def Dev.attnMaxRun (d : Dev) : Dev :=
  let d := d.attnLost
  match d.attn with
  | none => d
  | some a =>
    if a.phase ≠ 3 then d
    else d.whole fun d =>
      let (b, _, d) := (d.maxReduce a).accRead endQueue a.partial' (4 * a.cols) 0 []
      d.modAttn fun x => { x with phase := 4, mref := (vElems a.cols 4 b).map fun e => (e.v, e.p) }

/-! The normalise pass (R264, R265). -/

/-- The three commands of R264 for one slice. -/
def normCmds (a : Attn) : List (BitVec 256) :=
  let c (op first extra : Nat) : BitVec 256 := BitVec.ofNat 256 (op + extra + first * 2 ^ 64 + (a.rows - 1) * 2 ^ 96 + 1 * 2 ^ 112)
  [c 0x02 a.ctx.sa (3 * 2 ^ 8), c 0x04 a.ctx.sa (3 * 2 ^ 8 + 2 * 2 ^ 16 + a.ctx.c0 * 2 ^ 128), c 0x06 (a.ctx.sa + a.sumOff) 0]

/-- A page is left out of phase 5 (R265). -/
def Dev.pageSkips (d : Dev) (a : Attn) (p : AttnPage) : Bool :=
  let ninf : Nat := 0xFF800000
  let full := p.maxima.all fun m => m == (ninf, false)
  let margin := (fp32.decode (a.ctx.f 28 0 32)).neg
  let below := (List.range a.cg).all fun cg =>
    let m := p.maxima.getD cg (0, true)
    let r := a.mref.getD (a.col p.head cg) (0, true)
    !m.2 && !r.2 && (fp32.decode (f32Mul a.ctx.c0 (f32Sub m.1 r.1))).lt margin
  full || (d.bit PGW_CFG.SKIP_EN (clusterOf p.core) 0 && below)

/-- The walkers count and mark the pages they skip; phase 4 goes on until `wait` reports have come (R257, R265). -/
def Dev.normMark (d : Dev) (a : Attn) (wait : Nat) : Dev :=
  let d' := a.pages.foldl (fun d p => if !p.out && d.pageSkips a p then (d.count PGW_PAGES.SKIPPED (clusterOf p.core) 0 1).pmcCluster (clusterOf p.core) 0x09 1 else d) d
  d'.modAttn fun b => { b with pages := a.pages.map fun p => if p.out then p else { p with skip := d'.pageSkips a p }, wait := some wait }

/-- The three commands of a slice are sent to it (R264). -/
def Dev.normSend (d : Dev) (a : Attn) (n : Nat) : Dev :=
  (normCmds a).foldl (fun d c => if d.sliceReach n then d.bsuDeliver n 0 (some a.id) c else d.descReport a.id n .fencedUnit 0) d

/-- NORMALISE: phase 4: the walkers issue their commands and mark skipped pages (R264, R265). A core lost by now is one of this phase's failures, which are taken when it ends (R271). -/
def Dev.attnNormalise (d : Dev) : Dev :=
  match d.attn with
  | none => d
  | some a =>
    if a.phase ≠ 4 ∨ a.wait.isSome then d
    else
      let cores := ((a.pages.filter fun p => !p.out && (d.pageLost p).isNone).map (·.core)).dedup
      let d := (d.normMark a (3 * cores.length)).modFlight a.id fun x => { x with reports := [] }
      cores.foldl (fun d n => d.normSend a n) d

/-! The output pass (R266, R267). -/

/-- A summary value of a pair: its maximum or its sum, with poison (R264). -/
def Dev.summary (d : Dev) (a : Attn) (p : AttnPage) (cg : Nat) (sum : Bool) : (Nat × Bool) × Status × Dev :=
  let row := a.ctx.sa + p.i * a.w + cg / 2 + a.sumOff
  let (b, st, d) := d.takeRead (endCluster (clusterOf p.core)) (rowAddr p.core row + 4 * (cg % 2) + (if sum then 8 else 0)) 4
  ((ofPBytes b, anyPoison b), st, d)

/-- The probabilities of a pair: 256 BF16 codes with poison. -/
def Dev.probs (d : Dev) (a : Attn) (p : AttnPage) (cg : Nat) : List (Nat × Bool) × Status × Dev :=
  let (b, st, d) := d.takeRead (endCore p.core) (rowAddr p.core (a.ctx.sa + p.i * a.w + cg / 2) + 512 * (cg % 2)) 512
  ((vElems 256 2 b).map fun e => (e.v, e.p), st, d)

/-- FP32 product of a probability and the page factor. -/
def yTimes (f : Nat × Bool) (y : Nat × Bool) : Nat × Bool := if f.2 || y.2 then (0, true) else (f32Mul (y.1 * 65536) f.1, false)

/-- What a core has so far in phase 5: entries by 256 × slot + column, renormalisations, poisoned slots, whether by an input word, local sums, the step's columns and the slots it has used. -/
structure CoreOut where
  acc : Tbl AccE
  renorm : Nat
  bad : List Nat
  inBad : List Nat
  sums : Tbl (Nat × Bool)
  touched : List Nat
  slots : List Nat
  deriving DecidableEq, Repr, Inhabited

/-- Nothing yet. -/
def CoreOut.init : CoreOut := ⟨[], 0, [], [], [], [], []⟩

/-- One run of the output pass: its vectors, by slot, against the columns of a tile (R55, R58, R266). A slot not used before starts from what the bank holds. -/
def CoreOut.run (o : CoreOut) (entry : Nat → Nat → AccE) (tile : List (List MxBlock)) (vecs : List (Nat × List MxBlock)) : CoreOut :=
  vecs.foldl (fun o v =>
    let new := !o.slots.contains v.1
    let es := (List.range 256).map fun n =>
      let k := 256 * v.1 + n
      mxDot (tile.getD n mxZero) v.2 (if new then entry v.1 n else Tbl.get accE0 o.acc k, 0)
    { o with
      acc := (List.range 256).foldl (fun t n => Tbl.set accE0 t (256 * v.1 + n) (es.getD n (accE0, 0)).1) o.acc
      renorm := o.renorm + (es.map (·.2)).sum
      slots := if new then o.slots ++ [v.1] else o.slots }) o

/-- Slots become poisoned. -/
def CoreOut.spoil (o : CoreOut) (l : List Nat) : CoreOut := { o with bad := (o.bad ++ l).dedup }

/-- The page factor of a pair (R266). -/
def pageFactor (a : Attn) (m r : Nat × Bool) : Nat × Bool :=
  if m.2 || r.2 then (0, true)
  else if m.1 = 0xFF800000 then (0, false)
  else (f32Exp2 true Config.exp2Ulp (f32Mul a.ctx.c0 (f32Sub m.1 r.1)), false)

/-- The factors, local sums and weighted probabilities of a page's pairs (R266). -/
def Dev.pageFactors (d : Dev) (a : Attn) (p : AttnPage) (o : CoreOut) : List (List (Nat × Bool)) × CoreOut × Status × Dev :=
  (List.range a.cg).foldl (fun (r : List (List (Nat × Bool)) × CoreOut × Status × Dev) cg =>
    let (fs, o, st, d) := r
    let (m, s1, d) := d.summary a p cg false
    let (s, s2, d) := d.summary a p cg true
    let c := a.col p.head cg
    let f := pageFactor a m (a.mref.getD c (0, true))
    let x := if f.2 || s.2 then (0, true) else (f32Mul f.1 s.1, false)
    let old := Tbl.get (0, false) o.sums c
    let o := { o with sums := Tbl.set (0, false) o.sums c (if old.2 || x.2 then (0, true) else (f32Add old.1 x.1, false)), touched := if o.touched.contains c then o.touched else o.touched ++ [c] }
    let (ys, s3, d) := d.probs a p cg
    (fs ++ [ys.map (yTimes f)], o, ((st.first s1).first s2).first s3, d)) ([], o, .ok, d)

/-- One half of a page: the tile, the vectors with their slots, and whether the tile and which input elements are poisoned (R266). -/
def pageHalf (a : Attn) (p : AttnPage) (vb : Array PByte) (vals : Array (List FVal)) (ys : Array (List (Nat × Bool))) (h : Nat) :
    List (List MxBlock) × List (Nat × List MxBlock) × Bool × List (Nat × Nat) :=
  let nv := a.nv p.v
  let prob (cg : Nat) : List (Nat × Bool) := ((ys.getD cg []).drop (128 * h)).take 128
  let pb := (List.range a.cg).map fun cg => mxBlocks ((prob cg).map fun y => fp32.decode y.1)
  let vcols := (List.range 128).map fun e => mxBlocks ((List.range 128).map fun k => (vals.getD (128 * h + k) []).getD e (.fin false 0 0))
  let vBad := (List.range (min 128 (nv - 128 * h))).flatMap fun k => ((List.range 128).filter fun e => poisonAt vb (128 * (128 * h + k) + e) 1).map fun e => (e, k)
  let pBad := (List.range a.cg).flatMap fun cg => ((List.range 128).filter fun k => ((prob cg).getD k (0, false)).2).map fun k => (cg, k)
  if a.form1 then (pb, vcols.zipIdx.map fun x => (x.2, x.1), !pBad.isEmpty, vBad)
  else (vcols, pb.zipIdx.map fun x => (a.col p.head x.2, x.1), !vBad.isEmpty, pBad)

/-- One page of the output pass on its core (R266). A poisoned tile poisons every slot of the run, a poisoned input element those whose words it shares (R69). -/
def Dev.pageOut (d : Dev) (a : Attn) (p : AttnPage) (o : CoreOut) : CoreOut × Status × Dev :=
  let nv := a.nv p.v
  let (vb, st, d) := d.takeRead (endCore p.core) (p.frame + 32768) 32768
  let vb := vb.toArray
  let vals := frameEls (a.ctx.f 22 0 1 == 1) nv vb
  let vst := if framePoison nv 0 vb || framePoison nv 128 vb then st else .ok
  let (ys, o, st, d) := d.pageFactors a p o
  let ys := ys.toArray
  let u := d.arr (d.arrOf p.core)
  let entry (s n : Nat) : AccE := AccE.dec (u.entry (d.attnBank p.core) s n)
  let (o, d) := (if 128 < nv then [0, 1] else [0]).foldl (fun (r : CoreOut × Dev) h =>
    let (tile, vecs, tileBad, els) := pageHalf a p vb vals ys h
    let slots := vecs.map (·.1)
    let hit := (skewBad 8 slots.length els).map fun i => slots.getD i 0
    let o := ((r.1.run entry tile vecs).spoil (if tileBad then slots else [])).spoil hit
    ({ o with inBad := o.inBad ++ hit }, ((r.2.convCount p.core (tile ++ vecs.map (·.2))).attnTile p.core (tile ++ List.replicate (256 - tile.length) mxZero) tileBad))) (o, d)
  (o, vst.first st, d)

/-- The drained FP32 value of an entry; POISON that the bank held before stays (R56, R267). -/
def CoreOut.val (o : CoreOut) (s n : Nat) : Nat × Bool :=
  let e := Tbl.get accE0 o.acc (256 * s + n)
  if o.bad.contains s || e.poison then (0, true) else (e.convert 0 (-12) none, false)

/-- Drain a core's slots to its work area, all 256 elements of each, and reduce them and its local sums into the partial (R267). -/
def Dev.coreReduce (d : Dev) (a : Attn) (n : Nat) (o : CoreOut) : Dev :=
  let bytes (l : List (Nat × Bool)) : List PByte := l.flatMap fun x => if x.2 then poisonBytes 4 else toPBytes 4 x.1
  let first (f : AccE → Bool) : Option Nat := o.slots.find? fun s => (List.range 256).any fun c => f (Tbl.get accE0 o.acc (256 * s + c))
  let d := d.stepErrs n o.renorm (first (·.sat)) (first (·.nan)) o.inBad.head?
  let d := o.slots.foldl (fun d s =>
    let row := (List.range 256).map fun c => o.val s c
    let d := d.lsWrite n (a.ctx.work + 1024 * s) (bytes row)
    if a.form1 then d.attnRed (endCore n) 0 (a.oAt 0 s) (row.take a.cols) else d.attnRed (endCore n) 0 (a.oAt s 0) (row.take 128)) d
  let d := o.touched.foldl (fun d c => d.attnRed (endCluster (clusterOf n)) 0 (a.sAt c) [Tbl.get (0, false) o.sums c]) d
  d.attnClear n o.slots

/-- Take one of a list, in an order nobody fixes (R26, R93). -/
def Dev.shuffle (d : Dev) : Nat → List Nat → List Nat × Dev
  | 0, l => (l, d)
  | _, [] => ([], d)
  | fuel + 1, l =>
    let (v, d) := d.free
    match l[v.toNat % l.length]? with
    | none => (l, d)
    | some x =>
      let (t, d) := d.shuffle fuel (l.erase x)
      (x :: t, d)

/-- Poison every column of the failed heads in the partial (R271). -/
def Dev.attnPoison (d : Dev) (a : Attn) : Dev :=
  a.badHeads.foldl (fun d g =>
    (List.range a.cg).foldl (fun d cg =>
      let c := a.col g cg
      let d := (d.attnRed endQueue 2 (a.mAt c) [(0, true)]).attnRed endQueue 0 (a.sAt c) [(0, true)]
      if a.form1 then (List.range 128).foldl (fun d e => d.attnRed endQueue 0 (a.oAt c e) [(0, true)]) d
      else d.attnRed endQueue 0 (a.oAt c 0) (List.replicate 128 (0, true))) d) d

/-- A bank-side failure that the rows' own poison does not carry (R199, R201, R271). -/
def bsuStops (st : Status) : Bool := st == .thermalHold || st == .resetAbort || st == .fencedUnit || st == .badDescriptor

/-- The failures of phase 4, in ascending core number: pages whose core was lost, and bank-side commands that failed (R199, R271). -/
def Dev.attnFails (d : Dev) (a : Attn) (reps : List (Nat × Status × Nat)) : Dev :=
  let d1 := (List.range 256).foldl (fun e n =>
    let mine := a.pages.filter fun p => p.core == n
    let e := mine.foldl (fun e p => match d.pageLost p with | some st => e.attnFail st [p.head] | none => e) e
    (reps.filter fun r => r.1 == n && r.2.1 != .ok).foldl (fun e r => e.attnFail r.2.1 (if bsuStops r.2.1 then mine.map (·.head) else [])) e) d
  d1.modAttn fun b => { b with pages := b.pages.map fun p => { p with out := p.out || (d.pageLost p).isSome } }

/-- Every bank-side command of phase 4 has ended (R257). -/
def Dev.normEnded (d : Dev) (a : Attn) : Bool := a.phase == 4 && a.wait.any fun k => decide (k ≤ (((d.flight a.id).map (·.reports)).getD []).length)

/-- Phase 4 ends with its failures, and phase 5 begins: the walkers' programs enter the launch queues (R257, R258, R271). -/
def Dev.attnTurn (d : Dev) : Dev :=
  match d.attn with
  | none => d
  | some a =>
    if d.normEnded a then ((d.attnFails a (((d.flight a.id).map (·.reports)).getD [])).modAttn fun b => { b with phase := 5 }).attnEnter else d

/-- The pages of one core of the output pass, in their order; those of a core that is lost, or whose array refuses it, leave the step instead (R266, R271). -/
def Dev.outCore (a : Attn) (r : Tbl CoreOut × Dev) (n : Nat) : Tbl CoreOut × Dev :=
  let (o, d) := (a.pages.filter fun p => p.core == n && !p.out && !p.skip).foldl (fun (q : CoreOut × Dev) p =>
    match q.2.pageStops p with
    | some st => (q.1, q.2.pageStop p st)
    | none =>
      let (o, st, d) := q.2.pageOut a p q.1
      (o, (d.attnFail st []).count PGW_PAGES.DONE (clusterOf n) 0 1)) (CoreOut.init, r.2)
  (Tbl.set CoreOut.init r.1 n o, d)

/-- Phase 5 ends: the columns that failed are poisoned, and the walkers' programs end (R257, R271). -/
def Dev.outEnd (d : Dev) (a : Attn) : Dev :=
  match d.attn with
  | some b => ((d.attnPoison b).modAttn fun b => { b with phase := 6 }).attnLeave a
  | none => d

/-- OUTPUT: phase 5, once every bank-side command has ended (R257, R266, R267). The reductions of different cores meet in an order nobody fixes (R93). -/
def Dev.attnOutput (d : Dev) : Dev :=
  let d := d.attnTurn.attnEnter
  match d.attn with
  | none => d
  | some a =>
    if a.phase ≠ 5 ∨ d.held ∨ !d.attnCoresFree a then d
    else d.whole fun d =>
      let cores := (List.range 256).filter fun n => a.pages.any fun p => p.core == n && !p.out && !p.skip
      let (outs, d) := cores.foldl (Dev.outCore a) ([], d)
      let (order, d) := d.shuffle 256 cores
      (order.foldl (fun d n => d.coreReduce a n (Tbl.get CoreOut.init outs n)) d).outEnd a

/-- ATTN_STEP_COMPLETE: the step ends after its last phase, after a refused append, or after a die reset, which first poisons its partial (R257, R259, R271, R272). -/
def Dev.attnEnd (d : Dev) : Dev :=
  match d.attn with
  | some a =>
    if a.phase = 6 ∨ a.phase = 7 then ({ d with attn := none }).descDone a.id a.st 0 0
    else if a.phase = 8 then d.whole fun d => ({ (d.accWrite endQueue a.partial' (poisonBytes (520 * a.cols)) 0 .none []).2 with attn := none }).descDone a.id .resetAbort 0 0
    else d
  | none => d

/-- A die reset empties the walkers of that die; a step in progress is at its end: its partial is then poisoned (R272). -/
def Dev.attnReset (d : Dev) (upper : Bool) : Dev :=
  let ks := (List.range 16).map fun k => if upper then k + 16 else k
  let d := ks.foldl (fun d k => (List.range 16).foldl (fun d s => d.setCtx k s none) (d.labDrop k fun _ => true)) d
  match d.attn with
  | some a => (d.modAttn fun b => { b with phase := 8 }).attnLeave a
  | none => d

/-! The commands. -/

def execKvMap (id : Nat) (ext : List PByte) (s : State) : Host.Outcome State Fault Refusal := s.ev fun d => d.kvLoad id ext
def execKvMapRelease (id : Nat) (s : State) : Host.Outcome State Fault Refusal := s.ev fun d => d.kvRelease id
def execKvMapInval (id : Nat) (s : State) : Host.Outcome State Fault Refusal := s.ev fun d => d.kvInval id
def execAttnStep (id : Nat) (s : State) : Host.Outcome State Fault Refusal := s.ev fun d => d.attnStart id
def execAppend (ext : List PByte) (s : State) : Host.Outcome State Fault Refusal := s.ev fun d => d.attnAppend ext
def execScore (ext : List PByte) (s : State) : Host.Outcome State Fault Refusal := s.ev fun d => d.attnScore ext
def execAttnMax (s : State) : Host.Outcome State Fault Refusal := s.ev fun d => d.attnMaxRun
def execNormalise (s : State) : Host.Outcome State Fault Refusal := s.ev fun d => d.attnNormalise
def execOutput (s : State) : Host.Outcome State Fault Refusal := s.ev fun d => d.attnOutput
def execAttnStepComplete (s : State) : Host.Outcome State Fault Refusal := s.ev fun d => d.attnEnd
def execPageWalk (k : ClusterId) (slot : Fin 16) (layer head v : Nat) (s : State) : Host.Outcome State Fault Refusal :=
  s.ev fun d =>
    match d.ctx k slot with
    | some c => if layer ≤ c.f 20 0 8 ∧ head < c.kvh then d.whole fun d => (d.lookup k slot c layer head v).2 else d
    | none => d
def execLabInv (_r : Req) (k : ClusterId) (s : State) : Host.Outcome State Fault Refusal := s.ev fun d => d.labDrop k fun _ => true

end Sys2Proof.Machine
end

