-- ==== Sys2Proof/Machine/Relay.lean ====
section
/-! DEFINITION. The relay engine: chunks and the inbox, DOWN and UP, merges, deadlines (R337 to R346). -/

namespace Sys2Proof.Machine

/-! Plans and runs (R337 to R339). -/

/-- `w` bits of a run's descriptor. -/
def RelayRun.f (r : RelayRun) (byte lo w : Nat) : Nat := dq r.body byte lo w
/-- `w` bits of its plan. -/
def RelayRun.p (r : RelayRun) (byte lo w : Nat) : Nat := dq r.plan byte lo w
/-- SELF. -/
def RelayRun.self (r : RelayRun) : Nat := r.p 0 0 12
/-- PARENT. -/
def RelayRun.parent (r : RelayRun) : Nat := r.p 2 0 12
/-- The device is the anchor. -/
def RelayRun.anchor (r : RelayRun) : Bool := r.p 6 0 1 == 1
/-- Fabric IDs of the children, in forwarding order. -/
def RelayRun.children (r : RelayRun) : List Nat := (List.range (r.p 4 0 5)).map fun i => r.p (12 + 2 * i) 0 12
/-- TAILIDX. -/
def RelayRun.tailIdx (r : RelayRun) : Nat := r.p 5 0 8
/-- RTAG. -/
def RelayRun.rtag (r : RelayRun) : Nat := r.p 8 0 32
/-- STEP. -/
def RelayRun.step (r : RelayRun) : Nat := r.f 56 0 32
/-- LAYER. -/
def RelayRun.layer (r : RelayRun) : Nat := r.f 60 0 8
/-- C. -/
def RelayRun.cols (r : RelayRun) : Nat := r.f 10 0 9
/-- HADDR. -/
def RelayRun.haddr (r : RelayRun) : Nat := r.f 24 0 52
/-- KADDR. -/
def RelayRun.kaddr (r : RelayRun) : Nat := r.f 32 0 52
/-- PADDR. -/
def RelayRun.paddr (r : RelayRun) : Nat := r.f 40 0 52
/-- Bytes of the hidden state. -/
def RelayRun.hlen (r : RelayRun) : Nat := 64 * r.f 12 0 16
/-- Bytes of the new key and value. -/
def RelayRun.klen (r : RelayRun) : Nat := 256 * (r.f 9 0 4 + 1)
/-- Bytes of the partial (R268). -/
def RelayRun.plen (r : RelayRun) : Nat := 520 * r.cols
/-- Chunks of a message of n bytes. -/
def chunksOf (n : Nat) : Nat := (n + 479) / 480

/-- DOWN (false) or UP (true) in progress. -/
def Dev.relay (d : Dev) (up : Bool) : Option RelayRun := Tbl.get none d.relays (if up then 1 else 0)
/-- Replace it. -/
def Dev.setRelay (d : Dev) (up : Bool) (r : Option RelayRun) : Dev := { d with relays := Tbl.set none d.relays (if up then 1 else 0) r }
/-- Change it. -/
def Dev.modRelay (d : Dev) (up : Bool) (f : RelayRun → RelayRun) : Dev := d.setRelay up ((d.relay up).map f)

/-! Sending (R340). -/

/-- Where a device's relay inbox lies (R341). -/
def inboxBase : Nat := 0x5FFFF00000

/-- A chunk: header, CRC, payload (R340). -/
def relayChunk (r : RelayRun) (kind missing i n len : Nat) (pay : List PByte) : List PByte :=
  let head := toBytes 1 kind ++ toBytes 1 1 ++ toBytes 2 r.self ++ toBytes 4 r.rtag ++ toBytes 4 r.step ++ toBytes 1 r.layer ++ toBytes 1 missing ++
    toBytes 2 i ++ toBytes 2 n ++ toBytes 2 0 ++ toBytes 4 len
  let pay := (pay ++ toPBytes 480 0).take 480
  let crc := crcFinal false (crcFeed false (crcInit false) (head ++ pay.map (·.v)))
  (head ++ toBytes 4 crc.toNat ++ toBytes 4 0).map (fun b => ⟨b, false⟩) ++ pay

/-- Send chunk i of a message to a device's inbox; one to the device's own fabric ID is served here and does not cross the port (R34). -/
def Dev.chunkSend (d : Dev) (up : Bool) (r : RelayRun) (fid kind missing i len : Nat) (pay : List PByte) : Dev :=
  let b := relayChunk r kind missing i (chunksOf len) len pay
  let a := inboxBase + i * 512 % 2 ^ 20
  if fid = d.fld FAB_ID.FID 0 0 then { d with inq := d.inq ++ [⟨fid, true, a, 512, b⟩] }
  else d.uioSend true (fid * 2 ^ 52 + a) 512 b (.relay up)

/-- Send a whole message. -/
def Dev.messageSend (d : Dev) (up : Bool) (r : RelayRun) (fid kind missing : Nat) (b : List PByte) : Dev :=
  (List.range (chunksOf b.length)).foldl (fun d i => d.chunkSend up r fid kind missing i b.length ((b.drop (480 * i)).take 480)) d

/-! The buffer (R341, R342). -/

/-- Local address of a slot of the relay buffer. -/
def Dev.bufAddr (d : Dev) (slot : Nat) : Nat := d.fld FAB_RELAY_CFG.BUF 0 0 * 2 ^ 20 + 512 * slot

/-- DEF_DEADLINE in µs (R350). -/
def Dev.defDeadline (d : Dev) : Nat := max 5 (min 500 (d.fld FAB_RELAY_CFG.DEF_DEADLINE 0 0))

/-- A RELAY_STEP of an RTAG is running. -/
def Dev.tagRuns (d : Dev) (rtag : Nat) : Bool := [false, true].any fun u => (d.relay u).any fun r => r.rtag == rtag

/-- How (STEP, LAYER) stands to the last completed of its RTAG: none known or later; equal; older (R342). -/
inductive Lateness where
  | later | equal | older
  deriving DecidableEq, Repr, Inhabited

/-- R342's test. STEP is compared as R304 compares values. -/
def Dev.lateness (d : Dev) (rtag step layer : Nat) : Lateness :=
  match d.relayLast.find? fun e => e.1 == rtag with
  | none => .later
  | some (_, s, l) =>
    if step = s then (if layer = l then .equal else if layer < l then .older else .later)
    else if (step + 2 ^ 32 - s) % 2 ^ 32 < 2 ^ 31 then .later
    else .older

/-- The payload of a kept chunk, read from the buffer; it leaves the buffer. -/
def Dev.chunkTake (d : Dev) (c : RChunk) : List PByte × Dev :=
  match c.slot with
  | none => ([], d)
  | some s =>
    let (b, _, d) := d.accRead endRelay (d.bufAddr s + 32) 480 0 []
    (b, { d with chunks := d.chunks.filter fun x => x.slot != some s })

/-! Ends (R345). -/

/-- The RESULT of a run. -/
def RelayRun.result (r : RelayRun) (up : Bool) : Nat :=
  let total := min 255 ((r.missing.map (·.2)).sum)
  if total = 0 then 0
  else
    let i := (oldest (fun x => x) (r.missing.map (·.1))).getD 0
    (if up then r.children.getD i 0 else r.parent) + 2 ^ 12 + total * 2 ^ 16

/-- A run ends: the last completed (STEP, LAYER) of an UP, its kept chunks, the baton where its region is reached, the descriptor; what is missing goes before a failure of the engine's own reads and writes (R27, R337, R342, R345). -/
def Dev.relayEnd (d : Dev) (up : Bool) (r : RelayRun) : Dev :=
  let d := d.setRelay up none
  let mine (c : RChunk) : Bool := c.rtag == r.rtag && c.step == r.step && c.layer == r.layer && (c.kind == 3) == up
  let d := { d with
    chunks := d.chunks.filter fun c => !mine c
    relayLast := if up then ((r.rtag, r.step, r.layer) :: d.relayLast.filter fun e => e.1 != r.rtag).take 16 else d.relayLast }
  let c := batonRegion (r.f 61 0 14)
  let d := if r.f 61 15 1 = 1 ∧ d.regionReach c then d.btnAccess (.mem endRelay) (ioPort c) (batonBase + 64 * r.f 61 0 14 + 8) 4 (some (toPBytes 4 1)) else d
  let st : Status := if r.result up ≠ 0 ∨ r.failed then (if r.crc then .crcMismatch else .deadline) else r.st
  d.descDone r.id st 0 (r.result up)

/-- A send of a run has not been answered: an outbound request, or a chunk to the device itself (R34, R343, R344). -/
def Dev.relaySends (d : Dev) (up : Bool) : Bool :=
  d.uio.any (fun u => u.owner == .relay up) || up && d.inq.any fun q => q.fid == d.fld FAB_ID.FID 0 0 && q.write && decide (inboxBase ≤ q.addr)

/-- A run whose inputs are done with ends once every send has been answered. -/
def Dev.relayTry (d : Dev) (up : Bool) : Dev :=
  match d.relay up with
  | some r => if r.sending && !d.relaySends up then d.relayEnd up r else d
  | none => d

/-! DOWN (R343). -/

/-- A DOWN awaits KVNEW. -/
def RelayRun.wantsKv (r : RelayRun) : Bool := r.tailIdx != 0xFE

/-- A kept chunk is an input of a DOWN that it does not have. -/
def RelayRun.takesDown (r : RelayRun) (c : RChunk) : Bool :=
  c.slot.isSome && !r.anchor && c.src == r.parent && c.rtag == r.rtag && c.step == r.step && c.layer == r.layer &&
    (c.kind == 1 && decide (c.chunk < chunksOf r.hlen) || c.kind == 2 && r.wantsKv && decide (c.chunk < chunksOf r.klen)) &&
    !r.got.contains (c.kind, c.chunk)

/-- Every input of a DOWN is complete. -/
def RelayRun.downComplete (r : RelayRun) (kind : Nat) : Bool :=
  r.anchor || (List.range (chunksOf (if kind = 1 then r.hlen else r.klen))).all fun i => r.got.contains (kind, i)

/-- Take one chunk of a DOWN: it is written, and forwarded as soon as it is checked. -/
def Dev.downChunk (d : Dev) (r : RelayRun) (c : RChunk) : Dev :=
  let (b, d) := d.chunkTake c
  let d := d.modRelay false fun r => { r with got := r.got ++ [(c.kind, c.chunk)] }
  let len := if c.kind = 1 then r.hlen else r.klen
  let b := b.take (min 480 (len - 480 * c.chunk))
  let keep := c.kind == 1 || r.p 6 1 1 == 1
  let (st, d) := if keep then d.accWrite endRelay ((if c.kind = 1 then r.haddr else r.kaddr) + 480 * c.chunk) b 0 .none [] else (.ok, d)
  let d := d.modRelay false fun r => { r with st := r.st.first st }
  let dest := if c.kind = 1 then r.children else if keep then [] else [r.children.getD r.tailIdx 0]
  dest.foldl (fun d fid => d.chunkSend false r fid c.kind 0 c.chunk len b) d

/-- Take every kept chunk a DOWN wants, and let it end when nothing more comes; after its deadline it takes none (R343, R345). -/
def Dev.downGo (d : Dev) : Dev :=
  match d.relay false with
  | none => d
  | some r =>
    if r.sending then d.relayTry false else
    let d := (d.chunks.filter r.takesDown).foldl (fun d c => match d.relay false with | some r => if r.takesDown c then d.downChunk r c else d | none => d) d
    (d.modRelay false fun r => if r.downComplete 1 && (!r.wantsKv || r.downComplete 2) then { r with sending := true } else r).relayTry false

/-- The deadline of a DOWN: bytes that did not arrive are poison with POISON_INCOMPLETE (R345). -/
def Dev.downLate (d : Dev) (r : RelayRun) : Dev :=
  let lost := [1, 2].filter fun k => (k = 1 ∨ r.wantsKv) && !r.downComplete k
  let fill (d : Dev) (k : Nat) : Dev :=
    if k = 2 ∧ r.p 6 1 1 = 0 then d
    else
      let len := if k = 1 then r.hlen else r.klen
      ((List.range (chunksOf len)).filter fun i => !r.got.contains (k, i)).foldl (fun d i =>
        (d.accWrite endRelay ((if k = 1 then r.haddr else r.kaddr) + 480 * i) (poisonBytes (min 480 (len - 480 * i))) 0 .none []).2) d
  let d := if d.bit FAB_RELAY_CFG.POISON_INCOMPLETE 0 0 then lost.foldl fill d else d
  let crc := d.chunks.any fun c => c.slot == none && c.src == r.parent && c.rtag == r.rtag && c.step == r.step && c.layer == r.layer && lost.contains c.kind
  (d.modRelay false fun r => { r with sending := true, missing := if lost = [] then [] else [(0, lost.length)], crc := crc }).relayTry false

/-! UP (R344, R268 to R270). -/

/-- An FP32 element with its poison. -/
def elemAt (b : Array PByte) (off : Nat) : Nat × Bool :=
  let l := (List.range 4).map fun i => b.getD (off + i) ⟨0, true⟩
  (ofPBytes l, anyPoison l)

/-- Bytes of an element. -/
def elemBytes (e : Nat × Bool) : List PByte := if e.2 then poisonBytes 4 else toPBytes 4 e.1

/-- f1 × x1 + f2 × x2: the second product rounded, then one fused multiply-add (R269). -/
def mergeElem (f1 f2 : Nat) (x1 x2 : Nat × Bool) : Nat × Bool :=
  if x1.2 || x2.2 then (0, true) else (f32Fma f1 x1.1 (f32Mul f2 x2.1), false)

/-- A column of a partial: m, s and the 128 elements of o. -/
structure PCol where
  m : Nat × Bool
  s : Nat × Bool
  o : List (Nat × Bool)

/-- Column c of a partial of C columns in the form 0 layout (R268). -/
def colAt (cols c : Nat) (b : Array PByte) : PCol :=
  ⟨elemAt b (4 * c), elemAt b (4 * (cols + c)), (List.range 128).map fun i => elemAt b (8 * cols + 512 * c + 4 * i)⟩

/-- The bytes of a partial. -/
def colsBytes (l : List PCol) : List PByte :=
  (l.flatMap fun c => elemBytes c.m) ++ (l.flatMap fun c => elemBytes c.s) ++ l.flatMap fun c => c.o.flatMap elemBytes

/-- The code of −Inf. -/
def f32NegInf : Nat := 0xFF800000

/-- The empty column (R268). -/
def colEmpty : PCol := ⟨(f32NegInf, false), (0, false), List.replicate 128 (0, false)⟩

/-- Merge two columns (R269, R270). -/
def mergeCol (c0 : Nat) (a b : PCol) : PCol :=
  if a.m.2 || b.m.2 then ⟨(0, true), (0, true), List.replicate 128 (0, true)⟩
  else if fp32.decode a.m.1 = .nan ∨ fp32.decode b.m.1 = .nan then ⟨(fp32.nanCode, false), (fp32.nanCode, false), List.replicate 128 (fp32.nanCode, false)⟩
  else
    let m := f32Max a.m.1 b.m.1
    if m = f32NegInf then
      let z (x y : Nat × Bool) : Nat × Bool := (0, x.2 || y.2)
      ⟨(m, false), z a.s b.s, (a.o.zip b.o).map fun p => z p.1 p.2⟩
    else
      let f (x : Nat) : Nat := f32Exp2 true Config.exp2Ulp (f32Mul c0 (f32Sub x m))
      let f1 := f a.m.1
      let f2 := f b.m.1
      ⟨(m, false), mergeElem f1 f2 a.s b.s, (a.o.zip b.o).map fun p => mergeElem f1 f2 p.1 p.2⟩

/-- The partial at PADDR. -/
def Dev.partialRead (d : Dev) (r : RelayRun) : Array PByte × Dev :=
  let (b, _, d) := d.takeRead endRelay r.paddr r.plen
  (b.toArray, d)

/-- Write the partial at PADDR. -/
def Dev.partialWrite (d : Dev) (r : RelayRun) (b : List PByte) : Dev :=
  let (st, d) := d.accWrite endRelay r.paddr b 0 .none []
  d.modRelay true fun r => { r with st := r.st.first st }

/-- The kept chunks of child i's partial. -/
def Dev.childChunks (d : Dev) (r : RelayRun) (i : Nat) : List RChunk :=
  d.chunks.filter fun c => c.slot.isSome && c.kind == 3 && c.src == r.children.getD i 0 && c.rtag == r.rtag && c.step == r.step && c.layer == r.layer &&
    decide (c.chunk < chunksOf r.plen)

/-- All chunks of child i's partial have arrived. -/
def Dev.childReady (d : Dev) (r : RelayRun) (i : Nat) : Bool :=
  !r.merged.contains i && ((d.childChunks r i).map (·.chunk)).dedup.length == chunksOf r.plen

/-- C0 of the context of a relay tag: open, but finite and above zero as R249 has every C0 (R269; log 42). -/
def relayC0 (tag : Nat) : Nat := 1 + (Config.relayC0 tag).toNat % 0x7F7FFFFF

/-- Merge child i's partial (R344). -/
def Dev.childMerge (d : Dev) (r : RelayRun) (i : Nat) : Dev :=
  let cs := d.childChunks r i
  let (b, d) := (List.range (chunksOf r.plen)).foldl (fun (p : List PByte × Dev) k =>
    match cs.find? fun c => c.chunk == k with
    | some c => let (x, d) := p.2.chunkTake c; (p.1 ++ x, d)
    | none => p) ([], d)
  let b := b.toArray
  let (a, d) := d.partialRead r
  let c0 := relayC0 r.rtag
  let d := d.partialWrite r (colsBytes ((List.range r.cols).map fun c => mergeCol c0 (colAt r.cols c a) (colAt r.cols c b)))
  let k := ((cs.head?).map (·.missing)).getD 0
  d.modRelay true fun r => { r with merged := r.merged ++ [i], missing := if k = 0 then r.missing else r.missing ++ [(i, k)] }

/-- o[c][d] / s[c] in FP32, correctly rounded, +0 for an empty column (R269, R344). -/
def finishElem (c : PCol) (o : Nat × Bool) : Nat × Bool :=
  if c.m.2 || c.s.2 || o.2 then (0, true)
  else if c.m.1 = f32NegInf ∧ c.s.1 = 0 then (0, false)
  else
    match fp32.decode o.1, fp32.decode c.s.1 with
    | .nan, _ | _, .nan => (fp32.nanCode, false)
    | .inf _, .inf _ => (fp32.nanCode, false)
    | .inf n, .fin m _ _ => (f32Sign (n != m) fp32.infCode, false)
    | .fin n _ _, .inf m => (f32Sign (n != m) 0, false)
    | .fin n x e, .fin m y e' =>
      if y = 0 then (if x = 0 then fp32.nanCode else f32Sign (n != m) fp32.infCode, false)
      else if x = 0 then (f32Sign (n != m) 0, false)
      else ((fp32.round .rne false (n != m) x y (e - e')).code, false)

/-- The inputs of an UP are done with: the result is sent, or finished, or stands at PADDR (R344, R345). -/
def Dev.upSend (d : Dev) (late : Bool) : Dev :=
  match d.relay true with
  | none => d
  | some r =>
    let total := min 255 ((r.missing.map (·.2)).sum)
    let bad := late && d.bit FAB_RELAY_CFG.POISON_INCOMPLETE 0 0
    let (a, d) := d.partialRead r
    let d := d.modRelay true fun r => { r with sending := true }
    let d :=
      if !r.anchor then d.messageSend true r r.parent 3 total (if bad then poisonBytes r.plen else a.toList)
      else if r.f 8 2 1 = 1 then
        let out := (List.range r.cols).flatMap fun c =>
          let col := colAt r.cols c a
          col.o.flatMap fun o => elemBytes (finishElem col o)
        let (st, d) := d.accWrite endRelay (r.f 48 0 52) (if bad then poisonBytes (512 * r.cols) else out) 0 .none []
        d.modRelay true fun r => { r with st := r.st.first st }
      else if bad then d.partialWrite r (poisonBytes r.plen)
      else d
    d.relayTry true

/-- Merge every child whose partial is complete, in the order in which they became so, and in plan order those that became so together (log 148); then send when every child has been merged. -/
def Dev.upGo (d : Dev) : Dev :=
  match d.relay true with
  | none => d
  | some r =>
    if r.sending then d
    else
      let ready := (List.range r.children.length).filter fun i => d.childReady r i
      let last (i : Nat) : Nat := (d.childChunks r i).foldl (fun m c => max m c.at') 0
      let d := ((List.range ready.length).foldl (fun (p : List Nat × Dev) _ =>
        match oldest last p.1 with
        | some i => (p.1.filter (· != i), match p.2.relay true with | some r => p.2.childMerge r i | none => p.2)
        | none => p) (ready, d)).2
      match d.relay true with
      | some r => if (List.range r.children.length).all fun i => r.merged.contains i then d.upSend false else d
      | none => d

/-- The deadline of an UP (R345). -/
def Dev.upLate (d : Dev) (r : RelayRun) : Dev :=
  let lost := (List.range r.children.length).filter fun i => !r.merged.contains i
  let crc := d.chunks.any fun c => c.slot == none && c.kind == 3 && c.rtag == r.rtag && c.step == r.step && c.layer == r.layer &&
    lost.any fun i => c.src == r.children.getD i 0
  (d.modRelay true fun r => { r with missing := r.missing ++ lost.map (fun i => (i, 1)), crc := crc }).upSend true

/-! Starting (R339, R343, R344). -/

/-- A RELAY_STEP begins: the one of its direction that started first, while none of that direction runs (R339). -/
def Dev.relayStart (d : Dev) (id : Nat) (up : Bool) (op : Nat) (f : Dev → RelayRun → Dev) : Dev :=
  d.qop id 0x70 fun x =>
    let dir (b : BitVec 512) : Bool := dq b 8 0 2 != 0
    if dq x.body 8 0 2 ≠ op ∨ (d.relay up).isSome ∨
      (d.descs.any fun y : Desc => decide (y.seq < x.seq) && dqOp y.body == 0x70 && dir y.body == up && !y.sent && y.fin.isNone) then d
    else d.whole fun d =>
      let (plan, st, d) := d.planAt (dq x.body 16 0 52)
      let us := dq x.body 14 0 16
      let r : RelayRun := ⟨id, x.body, plan, d.ns + 1000 * (if us = 0 then d.defDeadline else us), [], [], [], false, false, st, false⟩
      f ((d.setRelay up (some r)).modFlight id fun y => { y with sent := true }) r

/-- DOWN: the anchor sends; another device takes what has already arrived (R343). -/
def Dev.downBegin (d : Dev) (r : RelayRun) : Dev :=
  if r.anchor then
    let (h, st, d) := d.takeRead endRelay r.haddr r.hlen
    let d := r.children.foldl (fun d fid => d.messageSend false r fid 1 0 h) d
    let (st', d) :=
      if r.tailIdx < r.children.length then
        let (k, st', d) := d.takeRead endRelay r.kaddr r.klen
        (st', d.messageSend false r (r.children.getD r.tailIdx 0) 2 0 k)
      else (.ok, d)
    (d.modRelay false fun r => { r with st := (r.st.first st).first st', sending := true }).relayTry false
  else d.downGo

/-- UP: with OP 2 from the empty partial (R344). -/
def Dev.upBegin (d : Dev) (r : RelayRun) : Dev :=
  (if r.f 8 0 2 = 2 then d.partialWrite r (colsBytes (List.replicate r.cols colEmpty)) else d).upGo

/-! The inbox (R341, R342). -/

/-- What a chunk's header says, filed in a slot. -/
def chunkOf (b : List PByte) (slot : Option Nat) (now : Nat) : RChunk :=
  let f (off n : Nat) : Nat := ofPBytes ((b.drop off).take n)
  ⟨f 2 2 % 4096, f 0 1, f 4 4, f 8 4, f 12 1, f 13 1, f 14 2, slot, now⟩

/-- The CRC of a chunk holds; a poisoned chunk's does not (log 43). -/
def chunkCrcOk (b : List PByte) : Bool :=
  !anyPoison (b.take 32) &&
    (crcFinal false (crcFeed false (crcInit false) (((b.take 24) ++ b.drop 32).map (·.v)))).toNat == ofPBytes ((b.drop 24).take 4)

/-- A slot of the buffer that holds nothing; which one is open (log 44). -/
def Dev.chunkSlot (d : Dev) : Option Nat × Dev :=
  let used := d.chunks.filterMap (·.slot)
  let (v, d) := d.free
  (((List.range 2048).map fun i => (i + v.toNat) % 2048).find? fun s => !used.contains s, d)

/-- The deadline of the running step that a chunk belongs to has passed without its input: the chunk counts as LATE under R342 (R345). -/
def Dev.chunkLate (d : Dev) (c : RChunk) : Bool :=
  (d.relay (c.kind == 3)).any fun r => r.sending && r.rtag == c.rtag && r.step == c.step && r.layer == c.layer &&
    (if c.kind = 3 then (List.range r.children.length).any fun i => !r.merged.contains i else !r.missing.isEmpty)

/-- A chunk arrives at the inbox from a fabric ID: how it is answered, and what becomes of it (R341, R342). -/
def Dev.chunkArrive (d : Dev) (fid : Nat) (b : List PByte) : UioStatus × Dev :=
  let c := chunkOf b none d.ns
  if b.length ≠ 512 ∨ !d.bit FAB_RELAY_CFG.INBOX_EN 0 0 ∨ d.done < 10 ∨ ofPBytes ((b.drop 1).take 1) ≠ 1 then (.unsupported, d.fabErr FAB_ERR.IN_REFUSED (some fid))
  else if d.bit FAB_RELAY_CFG.CRC_CHECK 0 0 && !chunkCrcOk b then
    (.ok, { (d.fabErr FAB_ERR.RELAY_CRC (some fid)).count FAB_RELAY_CNT.CRC_DROPS 0 0 1 with chunks := d.chunks ++ [{ c with src := fid }] })
  else
    match if d.chunkLate c then Lateness.equal else d.lateness c.rtag c.step c.layer with
    | .equal => (.ok, (d.fabErr FAB_ERR.RELAY_LATE (some fid)).count FAB_RELAY_CNT.LATE 0 0 1)
    | .older => (.ok, (d.fabErr FAB_ERR.RELAY_LATE (some fid)).count FAB_RELAY_CNT.STALE 0 0 1)
    | .later =>
      let early := (d.chunks.filter fun x => x.slot.isSome && !d.tagRuns x.rtag).length
      let full : UioStatus × Dev := (.abort, (d.fabErr FAB_ERR.INBOX_FULL (some fid)).count FAB_RELAY_CNT.REFUSED 0 0 1)
      let dup (x : RChunk) : Bool := x.slot.isSome && { x with slot := none, at' := c.at', missing := c.missing } == c
      if d.chunks.any dup then (.ok, d)
      else if !d.scratchBacked (d.bufAddr 0) (2 ^ 20) || !d.tagRuns c.rtag && decide (1024 ≤ early) then full
      else
        match d.chunkSlot with
        | (none, _) => full
        | (some s, d) =>
          let (_, d) := d.accWrite endRelay (d.bufAddr s) b 0 .none []
          (.ok, (Dev.downGo { d with chunks := d.chunks ++ [{ c with slot := some s }] }).upGo)

/-- CHUNK_EXPIRE: the oldest early chunk whose time is up is discarded as STALE (R341); the trace of a failed CRC goes without a count. -/
def Dev.chunkExpire (d : Dev) : Dev :=
  match d.chunks.find? fun c => !d.tagRuns c.rtag && decide (c.at' + 1000 * d.defDeadline ≤ d.ns) with
  | none => d
  | some c =>
    let d' := { d with chunks := d.chunks.erase c }
    if c.slot.isSome then (d'.fabErr FAB_ERR.RELAY_LATE (some c.src)).count FAB_RELAY_CNT.STALE 0 0 1 else d'

/-- RELAY_DEADLINE: the cycle of the deadline is over, so that a last chunk that came in it stands; a step whose sends the lost link has cut off ends with them failed (R336, R345, R346). -/
def Dev.relayLate (d : Dev) (up : Bool) : Dev :=
  match d.relay up with
  | some r =>
    if d.ns ≤ r.limit then d
    else if !r.sending then d.whole fun d => if up then d.upLate r else d.downLate r
    else if d.fld FAB_PORT.SPEED 0 0 = 0 then ((d.modRelay up fun r => { r with failed := true }).uioDrop fun u => u.owner == .relay up).relayTry up
    else d
  | none => d

/-- A chunk arrives at the inbox: it is counted where it is taken, and its UIO write is answered; one the device sent to itself has failed where it is refused (R34, R340, R341; log 177). -/
def Dev.relayIn (d : Dev) (fid : Nat) (chunk : List PByte) : Dev :=
  let r := d.chunkArrive fid chunk
  let d := if r.1 = .ok then r.2.pmcDev 0x07 1 else r.2
  if fid = d.fld FAB_ID.FID 0 0 then (if r.1 = .ok then d else d.modRelay true fun x => { x with failed := true }).relayTry true
  else d.emit (.uioResp fid r.1 [])

/-! The commands. -/

def execRelayDown (id : Nat) (s : State) : Host.Outcome State Fault Refusal := s.ev fun d => d.relayStart id false 0 Dev.downBegin
def execRelayUp (id : Nat) (s : State) : Host.Outcome State Fault Refusal := s.ev fun d => d.relayStart id true 1 Dev.upBegin
def execRelayUpEmpty (id : Nat) (s : State) : Host.Outcome State Fault Refusal := s.ev fun d => d.relayStart id true 2 Dev.upBegin
def execChunkExpire (s : State) : Host.Outcome State Fault Refusal := s.ev fun d => d.chunkExpire
def execRelayDeadline (up : Bool) (s : State) : Host.Outcome State Fault Refusal := s.ev fun d => d.relayLate up

end Sys2Proof.Machine
end

