-- ==== Sys2Proof/Machine/Port.lean ====
section
/-! DEFINITION. The CXL port: host memory requests, decoders, the snoop filter, outbound and inbound UIO, the link, the mailbox (R314 to R336, R346 to R355). -/

namespace Sys2Proof.Machine

/-! Host requests (R319 to R323, R334, R335). -/

/-- The DPA a host address decodes to (R320). -/
def Dev.hdmFind (d : Dev) (hpa : Nat) : Option Nat :=
  (d.cyc.hdm.find? fun h => decide (h.hpa ≤ hpa) && decide (hpa < h.hpa + h.size)).map fun h => h.dpa + (hpa - h.hpa)

/-- Recall a line, unless a recall of it is already outstanding (R323). -/
def Dev.biSnoop (d : Dev) (line : Nat) : Dev :=
  if d.biOut.contains line then d else ({ d with biOut := d.biOut ++ [line] }).emit (.biSnp line 1)

/-- The set of a line in the snoop filter (log 46). -/
def sfSet (line : Nat) : Nat := line % 16384

/-- Grant a state for a line: the state, and the filter afterwards (R323). -/
def Dev.sfGrant (d : Dev) (line : Nat) (want : CohState) : CohState × Dev :=
  let l := Tbl.get [] d.sf (sfSet line)
  let put (l : List Nat) : Dev := { d with sf := Tbl.set [] d.sf (sfSet line) l }
  if want = .inval then (.inval, d)
  else if l.contains line then (want, put (l.erase line ++ [line]))
  else if l.length < 16 then (want, put (l ++ [line]))
  else (.inval, (d.count FAB_BI_CTL.SF_FULL 0 0 1).biSnoop (l.headD 0))

/-- Hand a host request to its target; with the die-to-die link lost every target lies beyond it (R27, R303, R335, R491). -/
def Dev.portIssue (d : Dev) (r : PortReq) : Dev :=
  let d := { d with port := d.port.map fun x : PortReq => if x.tag = r.tag then { x with sent := true } else x }
  let q : MemReq := ⟨portSrc r.tag, r.write, r.dpa, r.len, r.data, 0⟩
  let fenced : Dev := d.portReply r.tag .fencedUnit (poisonBytes r.len)
  let a := r.dpa
  if d.bit LNK_STATUS.D2D_FATAL 0 0 then d.portReply r.tag .resetAbort (poisonBytes r.len)
  else if a < stackEnd then if d.sliceReach (stackCore a) then d.slcNet (stackCore a) q else fenced
  else if batonBase ≤ a ∧ a < batonEnd then
    let c := batonRegion ((a - batonBase) / 64)
    if !d.regionReach c then fenced else d.btnAccess (.mem (portSrc r.tag)) (ioPort c) a r.len (if r.write then some r.data else none)
  else
    let c := if a < scratchBase then homeRegion a else scratchRegion a
    if !d.regionReach c then fenced else if r.write then d.regionWrite c q else d.regionRead c q

/-- The device is PARKED or leaving it: the port holds requests (R406). -/
def Dev.portHeld (d : Dev) : Bool := d.power == .parked || d.power == .waking

/-- A write that arrived earlier to the same 64 B line is not over (R335). -/
def PortReq.after (r : PortReq) : List PortReq → Bool
  | [] => false
  | x :: t => if x.tag = r.tag then false else (x.write && x.dpa / 64 == r.dpa / 64) || r.after t

/-- Hand over every held request that need not wait, in order of arrival. -/
def Dev.portPump (d : Dev) : Dev :=
  (d.port.filter fun r => !r.sent).foldl (fun d r => if !d.portHeld && d.port.contains r && !r.after d.port then d.portIssue r else d) d

/-- Answer a request that reaches no target: poison, or Cmp and discarded (R319, R321). -/
def Dev.portDrop (d : Dev) (tag : Nat) (write : Bool) (len : Nat) : Dev :=
  if write then d.emit (.memCmp tag) else d.emit (.memData tag true .inval (poisonBytes len))

/-- A host request arrives (R319, R321, R323, R334, R406); with the IDE stream of CXL.mem ended by a MAC failure it is dropped (R331; log 176). -/
def Dev.portArrive (d : Dev) (tag : Nat) (write : Bool) (hpa len : Nat) (data : List PByte) (want : CohState) : Dev :=
  if !d.linkOn || d.cfg.ideFailed || decide (len = 0) || decide (64 < hpa % 64 + len) || d.port.any fun r => r.tag == tag then d
  else if !d.bit FAB_PORT.MEM_ACTIVE 0 0 then ((d.pmcDev 0x05 1).count FAB_RESP.EARLY 0 0 1).portDrop tag write len
  else
    let d := d.pmcDev 0x05 1
    match d.hdmFind hpa with
    | none => (d.count FAB_RESP.UNMAPPED 0 0 1).portDrop tag write len
    | some a =>
      if !d.backed a len then (d.count FAB_RESP.UNMAPPED 0 0 1).portDrop tag write len
      else if d.portHeld && write && decide (64 ≤ (d.port.filter fun r => r.write && !r.sent).length) then
        (((d.count FAB_RESP.WRITE_LOST 0 0 1).event 2 .writeLost [0xFF])).emit (.memCmp tag)
      else
        let (st, d) := if write then (.inval, d) else d.sfGrant (a / 64) want
        let limit := d.ns + if d.gddrHas a len then 2900 else 1900
        Dev.portPump { d with port := d.port ++ [⟨tag, write, a, len, data, st, limit, false, false⟩] }

/-- PORT_TIMER_EXPIRE: the cycle of the limit is over, so that data that came in it was sent (R346); a read is completed with poison, a write with Cmp; the write is still applied, a read the port still holds is over (R334, R335). -/
def Dev.portTimer (d : Dev) (tag : Nat) : Dev :=
  match d.port.find? fun r => r.tag == tag with
  | none => d
  | some r =>
    if r.answered ∨ d.ns ≤ r.limit ∨ !d.linkOn then d
    else
      let d := { d with port := (d.port.map fun x : PortReq => if x.tag = tag then { x with answered := true } else x).filter fun x => !(x.tag == tag && !x.write && !x.sent) }
      (if r.write then d.emit (.memCmp tag) else ((d.pmcDev 0x06 1).count FAB_RESP.TIMER_POISON 0 0 1).emit (.memData tag true r.state (poisonBytes r.len))).portPump

/-! Back-invalidate (R323, R324). -/

/-- BIRSPI: the host answers a recall of a line, or evicts it. -/
def Dev.biAnswer (d : Dev) (line : Nat) : Dev :=
  let d := { d with
    sf := Tbl.set [] d.sf (sfSet line) ((Tbl.get [] d.sf (sfSet line)).erase line)
    biOut := d.biOut.erase line
    recalls := d.recalls.erase line }
  d.setBit FAB_BI_CTL.BUSY 0 0 (!d.recalls.isEmpty)

/-- Send the snoops of a recall in ascending order: aligned runs of four or two lines as one BISnpInvBlk (R324). -/
def biGroups : Nat → List Nat → List (Nat × Nat)
  | 0, _ => []
  | _, [] => []
  | fuel + 1, x :: t =>
    if x % 4 = 0 ∧ t.take 3 = [x + 1, x + 2, x + 3] then (x, 4) :: biGroups fuel (t.drop 3)
    else if x % 2 = 0 ∧ t.take 1 = [x + 1] then (x, 2) :: biGroups fuel (t.drop 1)
    else (x, 1) :: biGroups fuel t

/-- GO: every filter entry of the range granted before it is recalled (R324, R353). -/
def Dev.recallGo (d : Dev) : Dev :=
  if d.bit FAB_BI_CTL.BUSY 0 0 then d
  else
    let a := d.fld FAB_BI_ADDR.ADDR 0 0
    let n := d.fld FAB_BI_CTL.LINES 0 0
    let ls := sortAsc ((d.sf.flatMap (·.2)).filter fun l => decide (a ≤ l) && decide (l < a + n) && d.cyc.sf.any fun p => p.2.contains l)
    let new := ls.filter fun l => !d.biOut.contains l
    let d := { d with recalls := ls, biOut := d.biOut ++ new }
    (biGroups new.length new).foldl (fun d g => d.emit (.biSnp g.1 g.2)) (d.setBit FAB_BI_CTL.BUSY 0 0 (!ls.isEmpty))

/-- CXL_CACHE_SNOOP: a held doorbell line is dropped, and read again where a ring needs it; a line that is still being read is not held (R290, R325). -/
def Dev.cacheSnoop (d : Dev) (line : Nat) : Dev :=
  match Tbl.get none d.watch line with
  | none => d.emit (.snpResp line false)
  | some w => (d.emit (.snpResp line (!w.reading && d.cacheOn))).doorbellSnoop line

/-! Outbound requests (R329). -/

/-- The outstanding request with a tag. -/
def Dev.uioFind (d : Dev) (tag : Nat) : Option Uio := d.uio.find? fun u => u.tag == tag && u.issued.isSome && u.done.isNone

/-- What a request served goes on once the request is over, with the first failure there was; a response that a fenced core no longer awaits is absorbed (R514). -/
def Dev.uioOver (d : Dev) (o : UioOwner) (st : Status) : Dev :=
  match o with
  | .desc id => (d.descFail id st).descTry id
  | .dma n id => if (d.dmaDesc n id).isNone && !d.inService n then d.count RST_STATUS.ABSORBED 0 0 1 else d.dmaData n id st
  | .op c l => d.opAck c l st
  | .relay up => (if st = .ok then d else d.modRelay up fun r => { r with failed := true }).relayTry up
  | _ => d

/-- A request is over: the sector of a line's fill has its data; an engine's read keeps it until the engine takes it; anything else goes on with a status (R217, R329). -/
def Dev.uioEnd (d : Dev) (u : Uio) (data : List PByte) (st : Status) : Dev :=
  match u.owner with
  | .line c l => (((d.uioDrop fun v => v.tag == u.tag).fillGot c l (u.addr % 4096 / 256) data st).regWork c).portPump
  | .eng _ => Dev.uioPump { d with uio := d.uio.map fun v : Uio => if v.tag = u.tag then { v with data := data, done := some st } else v }
  | o => (d.uioDrop fun v => v.tag == u.tag).uioOver o st

/-- A request fails: a read returns poison (R329). -/
def Dev.uioFail (d : Dev) (u : Uio) (st : Status) : Dev := d.uioEnd u (poisonBytes u.len) st

/-- UIO_TIMEOUT: 50 µs without a completion (R329). -/
def Dev.uioTimeout (d : Dev) (tag : Nat) : Dev :=
  match d.uioFind tag with
  | some u => if u.issued.any fun t => decide (t + 50000 ≤ d.ns) then d.uioFail u .deadline else d
  | none => d

/-- UIO_RETRY: a refused write is sent again 1 µs later; after 50 µs it has failed (R329). -/
def Dev.uioRetry (d : Dev) (tag : Nat) : Dev :=
  match d.uioFind tag with
  | none => d
  | some u =>
    if u.issued.any fun t => decide (t + 50000 ≤ d.ns) then d.uioFail u .deadline
    else if u.retryAt.any fun t => decide (t ≤ d.ns) then
      ({ d with uio := d.uio.map fun v : Uio => if v.tag = tag then { v with retryAt := none } else v }).emit (.uio u.tag u.write u.addr u.len u.data)
    else d

/-- UIO_COMPLETION (R329). A read that is refused returns poison (log 47). -/
def Dev.uioCompletion (d : Dev) (tag : Nat) (st : UioStatus) (data : List PByte) : Dev :=
  match d.uioFind tag with
  | none => d
  | some u =>
    if !d.linkOn ∨ u.retryAt.isSome then d
    else if u.write then
      if st = .ok then (d.uioDrop fun v => v.tag == tag).uioOver u.owner .ok
      else { d with uio := d.uio.map fun v : Uio => if v.tag = tag then { v with retryAt := some (d.ns + 1000) } else v }
    else
      let b := if st = .ok then (data ++ poisonBytes u.len).take u.len else poisonBytes u.len
      d.uioEnd u b (if anyPoison b then .poisonRead else .ok)

/-! Inbound requests (R330). -/

/-- Inbound window i admits a request. -/
def Dev.inWin (d : Dev) (i : Nat) (write : Bool) (a len : Nat) : Bool :=
  let n := 2 ^ max 20 (min 40 (d.fld FAB_INWIN.LOG2SIZE i 0))
  let base := d.fld FAB_INWIN.LBASE i 0 * 2 ^ 20 / n * n
  d.bit FAB_INWIN.EN i 0 && (!write || d.bit FAB_INWIN.WRITE i 0) && decide (base ≤ a) && decide (a + len ≤ base + n)

/-- A request to baton records that is always admitted. -/
def inBaton (write : Bool) (a len : Nat) : Bool :=
  decide (batonBase ≤ a) && decide (a + len ≤ batonEnd) &&
    (!write || ((len == 4 || len == 8) && a % len == 0 && (a % 64 == 0 || a % 64 == 8)))

/-- Serve a request that was admitted, at the local address under the rules of its target (R34, R330, R341). -/
def Dev.inServe (d : Dev) (q : InReq) : Dev :=
  let c := batonRegion ((q.addr - batonBase) / 64)
  if q.write ∧ inboxBase ≤ q.addr ∧ q.addr + q.len ≤ fabBase then d.relayIn q.fid q.data
  else if inBaton q.write q.addr q.len ∧ d.regionReach c then d.btnAccess (.uio q.fid) (ioPort c) q.addr q.len (if q.write then some q.data else none)
  else if q.write then ((d.accWrite endPort q.addr q.data 0 .none []).2).emit (.uioResp q.fid .ok [])
  else
    let r := d.takeRead endPort q.addr q.len
    r.2.2.emit (.uioResp q.fid .ok r.1)

/-- Serve what has come in, oldest first, until one has to wait; what that one waits for is asked for (log 177). -/
def Dev.inPump : Nat → Dev → Dev
  | 0, d => d
  | k + 1, d =>
    match d.inq with
    | [] => d
    | q :: rest =>
      let t := Dev.inServe { d with inq := rest, waits := [] } q
      if t.waits.isEmpty then Dev.inPump k t else t.waits.eraseDups.foldl Dev.ask { d with waits := [] }

/-- A request from the fabric takes its place behind those that wait. -/
def Dev.inPut (d : Dev) (q : InReq) : Dev := Dev.inPump (d.inq.length + 1) { d with inq := d.inq ++ [q] }

/-- INBOUND_UIO: admitted, or refused (R330). -/
def Dev.uioIn (d : Dev) (fid : Nat) (write : Bool) (a len : Nat) (data : List PByte) : Dev :=
  if !d.linkOn ∨ len = 0 ∨ 512 < len ∨ (write ∧ data.length ≠ len) then d
  else if !(write && decide (inboxBase ≤ a) && decide (a + len ≤ fabBase)) && !inBaton write a len && !((List.range 8).any fun i => d.inWin i write a len) then
    (d.fabErr FAB_ERR.IN_REFUSED (some fid)).emit (.uioResp fid .unsupported [])
  else d.inPut ⟨fid, write, a, len, data⟩

/-! Decoders, configuration, the link (R318, R320, R331, R336). -/

/-- A decoder's range stays within one span (R320). -/
def hdmSpan (a n : Nat) : Bool :=
  decide (a + n ≤ stackEnd) || (decide (0x2000000000 ≤ a) && decide (a + n ≤ 0x3000000000)) ||
    (decide (scratchBase ≤ a) && decide (a + n ≤ scratchEnd)) || (a == batonBase && n == 2 ^ 28)

/-- HDM_COMMIT: decoders are committed in ascending order; one that breaks R320, or would map board memory where there is none (R368), fails with Error Not Committed. -/
def Dev.hdmCommit (d : Dev) (dec hpa size skip : Nat) : Dev :=
  let a := (match d.hdm.getLast? with | some h => h.dpa + h.size | none => 0) + skip
  let q := 2 ^ 28
  if dec = d.hdm.length ∧ hpa % q = 0 ∧ size % q = 0 ∧ 0 < size ∧ skip % q = 0 ∧ hdmSpan a size ∧ ¬(stackEnd ≤ a ∧ a < scratchBase ∧ (d.gdrChans = [] ∨ d.gddr.fitted = 0)) then
    ({ d with hdm := d.hdm ++ [Hdm.mk hpa size a] }).emit (.hdm true)
  else d.emit (.hdm false)

/-- Milliseconds since the start of R502's timeline have passed. -/
def Dev.sincePerst (d : Dev) (ms : Nat) : Bool := d.perstAt.any fun t => decide (t + ms * 1000000 ≤ d.ns)

/-- A stated part of a configuration register: a structure of `Config.cfgBase` and an offset in it, the bits, their value. The offsets and bits are those of CXL and PCI Express (log 176). -/
structure CfgPart where
  base : Nat
  off : Nat
  mask : Nat
  value : Nat

/-- What R314 to R318 state of the structures of configuration space. -/
def Dev.cfgParts (d : Dev) : List CfgPart :=
  let bit (b : Bool) (i : Nat) : Nat := if b then 2 ^ i else 0
  [⟨0, 0, 0xC7FF0000, 0x7FF * 2 ^ 16 + bit d.cfg.msixMask 30 + bit d.cfg.msixEn 31⟩, ⟨0, 4, 0xFFFFFFFF, 0x120000⟩, ⟨0, 8, 0xFFFFFFFF, 0x128000⟩,
   ⟨1, 8, 0x78BFFFFF, 0x40970000⟩,
   ⟨1, 0xC, 0x40004001, bit (d.bit FAB_PORT.CACHE_EN 0 0) 0 + bit d.cfg.viralEn 14 + bit (d.bit FAB_PORT.VIRAL 0 0) 30⟩,
   ⟨1, 0x14, 0xFF0F0000, 0x04010000⟩, ⟨1, 0x1C, 0xE002, bit (d.bit FAB_PORT.MEM_ACTIVE 0 0) 1 + 0x8000⟩,
   ⟨2, 8, 0x2067FFFF, 0x20070007⟩, ⟨3, 8, 0xFFFF, 8⟩, ⟨3, 0xC, 0xFFFFFFFF, 0x00000100⟩, ⟨3, 0x10, 0xFFFFFFFF, 0⟩, ⟨3, 0x14, 0xFFFFFFFF, 0x00010300⟩, ⟨3, 0x18, 0xFFFFFFFF, 0⟩,
   ⟨4, 4, 0x80FFFFFF, 2 ^ 31 + (4 * 2 ^ 9 + 96) * 2 ^ 12 + (4 * 2 ^ 9 + 191)⟩, ⟨5, 4, 0x10000000, 0⟩, ⟨5, 0xC, 0x0C00, 0⟩]

/-- The parts of the type 0 header that R315, R316 and R318 state: Immediate Readiness 0, BAR0 64-bit and non-prefetchable, no other BAR, no INTx. -/
def cfgHeader : List (Nat × Nat × Nat) :=
  [(4, 0x00100000 + 0x00010000, 0x00100000), (0x10, 0xF, 4), (0x18, 0xFFFFFFFF, 0), (0x1C, 0xFFFFFFFF, 0), (0x20, 0xFFFFFFFF, 0), (0x24, 0xFFFFFFFF, 0), (0x3C, 0xFF00, 0)]

/-- The stated bits of a configuration register, and what they read. -/
def Dev.cfgStated (d : Dev) (reg : Nat) : Nat × Nat :=
  ((cfgHeader ++ d.cfgParts.map fun p => (Config.cfgBase p.base + p.off, p.mask, p.value)).filter fun p => p.1 == reg).foldl
    (fun a p => (a.1 ||| p.2.1, (a.2 &&& (2 ^ 32 - 1 - p.2.1)) ||| (p.2.2 &&& p.2.1))) (0, 0)

/-- Every held doorbell line is read again when the link returns, or when Cache_Enable is set (R290, R325, R336; log 49). -/
def Dev.watchAgain (d : Dev) : Dev :=
  if !d.cacheEn then d
  else (d.watch.map (·.1)).foldl (fun d l => ({ d.pmcDev 0x04 1 with watch := Tbl.set none d.watch l (some ⟨true, false⟩) }).emit (.hostRead (64 * l) 64)) d

/-- Cache_Enable (R325, R348). -/
def Dev.cacheEnable (d : Dev) (x : Bool) : Dev :=
  if d.bit FAB_PORT.CACHE_EN 0 0 = x then d else (d.setBit FAB_PORT.CACHE_EN 0 0 x).watchAgain

/-- What a write of a configuration register does to what this spec states (R317, R322, R325, R348). -/
def Dev.cfgWrite (d : Dev) (reg : Nat) (v : BitVec 32) : Dev :=
  if reg = Config.cfgBase 0 then
    (List.range 2048).foldl Dev.msixRelease { d with cfg := { d.cfg with msixEn := v.getLsbD 31, msixMask := v.getLsbD 30 } }
  else if reg = Config.cfgBase 1 + 0xC then Dev.cacheEnable { d with cfg := { d.cfg with viralEn := v.getLsbD 14 } } (v.getLsbD 0)
  else d

/-- CONFIG_REQUEST: Retry Status before 200 ms; after it, completed. A read answers what R314 to R318 state, and a free value where CXL and PCI Express alone say what a register holds (R316, R318; logs 48, 176). -/
def Dev.configReq (d : Dev) (write : Bool) (reg : Nat) (value : BitVec 32) : Dev :=
  if !d.linkOn then d
  else if !d.sincePerst 200 then d.emit (.config true 0)
  else if write then (d.cfgWrite reg value).emit (.config false 0)
  else
    let (v, d) := d.free
    let p := d.cfgStated reg
    d.emit (.config false ((v.setWidth 32 &&& ~~~(BitVec.ofNat 32 p.1)) ||| BitVec.ofNat 32 p.2))

/-- LINK_UP: a link that comes up has no failed IDE stream (log 176). -/
def Dev.linkUp (d : Dev) (gts64 width8 cacheEn : Bool) : Dev :=
  if d.fld FAB_PORT.SPEED 0 0 ≠ 0 ∨ d.perstAt = none ∨ d.power = .halt then d
  else
    let d : Dev := { d.setFld FAB_PORT.SPEED 0 0 (if gts64 then 2 else 1) with cfg := { d.cfg with ideFailed := false } }
    ((d.setFld FAB_PORT.WIDTH 0 0 (if width8 then 8 else 4)).setBit FAB_PORT.CACHE_EN 0 0 cacheEn).watchAgain

/-- The port discards the host requests it holds, with no completion; a write its target has is still applied, in silence (R336, R411). -/
def Dev.portDiscard (d : Dev) : Dev :=
  { d with port := (d.port.filter (·.sent)).map fun r : PortReq => { r with answered := true } }

/-- Reads behind the port complete with poison, and what asked for them ends with DEADLINE: UIO reads, and the fills of lines that CXL.cache was asked for (R336). -/
def Dev.portReadsFail (d : Dev) : Dev :=
  let d := (d.uio.filter fun u => !u.write && u.done.isNone).foldl (fun d u => if d.uio.contains u then d.uioFail u .deadline else d) d
  let cut (d : Dev) (c l : Nat) (f : FillBuf) : Dev :=
    ((List.range 16).filter fun s => f.asked.getLsbD s && !f.got.getLsbD s).foldl (fun d s => d.fillGot c l s (poisonBytes 256) .deadline) d
  d.regions.foldl (fun d p =>
    (p.2.fills.foldl (fun d e => match e.2 with | some f => if (d.window (e.1 * 4096)).any (·.host) then cut d p.1 e.1 f else d | none => d) d).regWork p.1) d

/-- LINK_DOWN: requests of other devices that had not been served are lost with it (R336; log 177). -/
def Dev.linkDown (d : Dev) : Dev :=
  if d.fld FAB_PORT.SPEED 0 0 = 0 then d
  else
    let d := ((d.setFld FAB_PORT.SPEED 0 0 0).setFld FAB_PORT.WIDTH 0 0 0).count FAB_PORT.LINK_DOWNS 0 0 1
    Dev.portReadsFail (Dev.portDiscard { d with inq := d.inq.filter fun q => q.fid == d.fld FAB_ID.FID 0 0 })

/-- IDE_MAC_FAIL: the stream ends, and until the link comes up anew nothing of CXL.cachemem crosses the port. In containment mode what has been received and not handed on is discarded; in skid mode it has been released, and is carried out unanswered. A Fatal record, and Viral if enabled (R331; log 176). -/
def Dev.ideMacFail (d : Dev) : Dev :=
  if d.bit FAB_PORT.IDE_CM 0 0 then
    let d := Dev.viralSig { (d.setBit FAB_PORT.IDE_CM 0 0 false).event 3 .ideMac [] with fatal := true, cfg := { d.cfg with ideFailed := true } }
    if d.cfg.ideSkid then { d with port := d.port.map fun r : PortReq => { r with answered := true } } else d.portDiscard
  else d

/-! The mailbox (R314, R332; layouts and return codes are CXL's, log 50). -/

/-- A request needs a service: it is served, held in the call room, or answered Busy; one that finds the room full is, unless a service that becomes ready in its cycle frees a place (R502, R503, R517; `Dev.roomSettle`). `f`: serving it. -/
def Dev.needs (d : Dev) (svc : Service) (chan : Channel) (i : Instr) (f : Dev → Dev) : Dev :=
  if d.svc.contains svc then f d
  else if d.perstAt.isNone then d
  else if d.dead.contains svc then d.emit (.busy svc chan)
  else { d with calls := d.calls ++ [⟨chan, svc, i, d.ns⟩] }

/-- The mailbox serves commands. -/
def Dev.mbox (d : Dev) (i : Instr) (f : Dev → Dev) : Dev := if d.linkOn then d.needs .mailbox .mbox i f else d

/-- A successful answer. -/
def Dev.mboxOk (d : Dev) (b : List Byte) : Dev := d.emit (.mailbox 0 b)

/-- IDENTIFY: vendor of DEV_IDENT; what the spec does not give is open. -/
def Dev.mboxIdentify (d : Dev) : Dev :=
  let (v, d) := d.free
  let (w, d) := d.free
  d.mboxOk (toBytes 2 (d.fld DEV_IDENT.VENDOR 0 0) ++ toBytes 6 v.toNat ++ toBytes 8 w.toNat)

/-- The UUID of the command effects log. -/
def celUuid : BitVec 128 := 0x0DA9C0B5BF414B788F7996B1623B3F17

/-- The commands of R314 with their effects. -/
def celLog : List Byte :=
  [(0x0001, 0), (0x0100, 0), (0x0101, 0x10), (0x0102, 0), (0x0103, 0x08), (0x0300, 0), (0x0301, 0x08), (0x0400, 0), (0x0401, 0), (0x4000, 0)].flatMap
    fun p => toBytes 2 p.1 ++ toBytes 2 p.2

/-- GET_LOG. -/
def Dev.mboxLog (d : Dev) (uuid : BitVec 128) (off len : Nat) : Dev :=
  if uuid ≠ celUuid then d.emit (.mailbox 0x17 [])
  else if celLog.length < off + len then d.emit (.mailbox 2 [])
  else d.mboxOk ((celLog.drop off).take len)

/-- GET_EVENT_RECORDS: the records of a log, oldest first, and how many were dropped. -/
def Dev.mboxEvents (d : Dev) (log : Nat) : Dev := d.emit (.events log (Tbl.get 0 d.evOver log) (Tbl.get [] d.evLogs log).reverse)

/-- CLEAR_EVENT_RECORDS: all, or those of the handles given; an unknown handle is refused. -/
def Dev.mboxClear (d : Dev) (log : Nat) (all : Bool) (hs : List Nat) : Dev :=
  let l := Tbl.get [] d.evLogs log
  let put (l : List EvRec) : Dev := { d with evLogs := Tbl.set [] d.evLogs log l, evOver := Tbl.set 0 d.evOver log 0 }
  if all then (put []).mboxOk []
  else if hs.all fun h => l.any fun e => e.handle == h then (put (l.filter fun e => !hs.contains e.handle)).mboxOk []
  else d.emit (.mailbox 0x0E [])

/-- The timestamp: the value set, counted on in nanoseconds; 0 while none has been set. -/
def Dev.stampNow (d : Dev) : Nat := match d.stamp with | some (t, at') => t + (d.ns - at') | none => 0

/-- IDENTIFY_MEMORY_DEVICE: capacities in 256 MiB, event log sizes; the rest is open. -/
def Dev.mboxMemory (d : Dev) : Dev :=
  let (v, d) := d.free
  let (w, d) := d.free
  let cap := (stackEnd + d.gddr.usableMib * 2 ^ 20) / 2 ^ 28
  d.mboxOk (toBytes 8 v.toNat ++ toBytes 8 w.toNat ++ toBytes 8 cap ++ toBytes 8 cap ++ toBytes 8 0 ++ toBytes 8 0 ++
    toBytes 2 64 ++ toBytes 2 64 ++ toBytes 2 64 ++ toBytes 2 64)

/-- The protocols of the DOE mailbox: Discovery, CMA/SPDM, Secured CMA/SPDM, CDAT Table Access (R314). -/
def doeProtocols : List Byte := [(0x0001, 0), (0x0001, 1), (0x0001, 2), (0x1E98, 2)].flatMap fun p => toBytes 2 p.1 ++ toBytes 2 p.2

/-- CDAT_TABLE_ACCESS: what an entry holds is open (log 48). -/
def Dev.cdat (d : Dev) (entry : Nat) : Dev :=
  if !d.linkOn then d
  else
    d.needs .cdat .doe (.cdatTableAccess entry) fun d =>
      let (v, d) := d.free
      d.emit (.doe (toBytes 2 entry ++ toBytes 8 v.toNat))

/-! The commands of the mailbox, each served, held or refused. -/

/-- Identify. -/
def Dev.mbIdentify (d : Dev) : Dev := d.mbox .identify Dev.mboxIdentify
/-- Get Supported Logs: the command effects log. -/
def Dev.mbLogs (d : Dev) : Dev := d.mbox .getSupportedLogs fun d => d.mboxOk (toBytes 2 1 ++ toBytes 6 0 ++ toBytes 16 celUuid.toNat ++ toBytes 4 celLog.length)
/-- Get Log. -/
def Dev.mbLog (d : Dev) (uuid : BitVec 128) (off len : Nat) : Dev := d.mbox (.getLog uuid off len) fun d => d.mboxLog uuid off len
/-- Get Event Records. -/
def Dev.mbEvents (d : Dev) (log : Fin 4) : Dev := d.mbox (.getEventRecords log) fun d => d.mboxEvents log
/-- Clear Event Records. -/
def Dev.mbClear (d : Dev) (log : Fin 4) (all : Bool) (hs : List Nat) : Dev := d.mbox (.clearEventRecords log all hs) fun d => d.mboxClear log all hs
/-- Get Event Interrupt Policy. -/
def Dev.mbPolicy (d : Dev) : Dev := d.mbox .getEventInterruptPolicy fun d => d.mboxOk (toBytes 4 d.evPolicy.toNat)
/-- Set Event Interrupt Policy. -/
def Dev.mbSetPolicy (d : Dev) (p : BitVec 32) : Dev := d.mbox (.setEventInterruptPolicy p) fun d => Dev.mboxOk { d with evPolicy := p } []
/-- Get Timestamp. -/
def Dev.mbStamp (d : Dev) : Dev := d.mbox .getTimestamp fun d => d.mboxOk (toBytes 8 d.stampNow)
/-- Set Timestamp. -/
def Dev.mbSetStamp (d : Dev) (t : Word) : Dev := d.mbox (.setTimestamp t) fun d => Dev.mboxOk { d with stamp := some (t.toNat, d.ns) } []
/-- Identify Memory Device. -/
def Dev.mbMemory (d : Dev) : Dev := d.mbox .identifyMemoryDevice Dev.mboxMemory

/-! The commands. -/

def execPortTimerExpire (tag : Nat) (s : State) : Host.Outcome State Fault Refusal := s.ev fun d => d.portTimer tag
def execBirspi (line : Nat) (s : State) : Host.Outcome State Fault Refusal := s.ev fun d => if d.cfg.ideFailed then d else d.biAnswer line
def execRecallGo (s : State) : Host.Outcome State Fault Refusal := s.ev fun d => d.recallGo
def execCxlCacheSnoop (line : Nat) (s : State) : Host.Outcome State Fault Refusal := s.ev fun d => if d.linkOn && !d.cfg.ideFailed then d.cacheSnoop line else d
def execUioTimeout (tag : Nat) (s : State) : Host.Outcome State Fault Refusal := s.ev fun d => d.uioTimeout tag
def execUioRetry (tag : Nat) (s : State) : Host.Outcome State Fault Refusal := s.ev fun d => d.uioRetry tag
def execUioCompletion (tag : Nat) (status : UioStatus) (data : List PByte) (s : State) : Host.Outcome State Fault Refusal := s.ev fun d => d.uioCompletion tag status data
def execInboundUio (fid : BitVec 12) (write : Bool) (addr : BitVec 52) (len : Nat) (data : List PByte) (s : State) : Host.Outcome State Fault Refusal :=
  s.ev fun d => d.uioIn fid.toNat write addr.toNat len data
def execRelayChunk (fid : BitVec 12) (chunk : List PByte) (s : State) : Host.Outcome State Fault Refusal :=
  s.ev fun d => if d.linkOn then d.inPut ⟨fid.toNat, true, inboxBase, chunk.length, chunk⟩ else d
def execHdmCommit (dec : Fin 8) (hpa size skip : Nat) (s : State) : Host.Outcome State Fault Refusal := s.ev fun d => d.hdmCommit dec hpa size skip
def execConfigRequest (write : Bool) (reg : Nat) (value : BitVec 32) (s : State) : Host.Outcome State Fault Refusal := s.ev fun d => d.configReq write reg value
def execLinkUp (gts64 width8 cacheEn : Bool) (s : State) : Host.Outcome State Fault Refusal := s.ev fun d => d.linkUp gts64 width8 cacheEn
def execLinkDown (s : State) : Host.Outcome State Fault Refusal := s.ev fun d => d.linkDown
def execIdeMacFail (s : State) : Host.Outcome State Fault Refusal := s.ev fun d => d.ideMacFail
def execIdentify (s : State) : Host.Outcome State Fault Refusal := s.ev fun d => d.mbIdentify
def execGetSupportedLogs (s : State) : Host.Outcome State Fault Refusal :=
  s.ev fun d => d.mbLogs
def execGetLog (uuid : BitVec 128) (off len : Nat) (s : State) : Host.Outcome State Fault Refusal := s.ev fun d => d.mbLog uuid off len
def execGetEventRecords (log : Fin 4) (s : State) : Host.Outcome State Fault Refusal := s.ev fun d => d.mbEvents log
def execClearEventRecords (log : Fin 4) (all : Bool) (handles : List Nat) (s : State) : Host.Outcome State Fault Refusal :=
  s.ev fun d => d.mbClear log all handles
def execGetEventInterruptPolicy (s : State) : Host.Outcome State Fault Refusal := s.ev fun d => d.mbPolicy
def execSetEventInterruptPolicy (policy : BitVec 32) (s : State) : Host.Outcome State Fault Refusal :=
  s.ev fun d => d.mbSetPolicy policy
def execGetTimestamp (s : State) : Host.Outcome State Fault Refusal := s.ev fun d => d.mbStamp
def execSetTimestamp (t : Word) (s : State) : Host.Outcome State Fault Refusal := s.ev fun d => d.mbSetStamp t
def execIdentifyMemoryDevice (s : State) : Host.Outcome State Fault Refusal := s.ev fun d => d.mbMemory
def execDoeDiscovery (s : State) : Host.Outcome State Fault Refusal := s.ev fun d => if d.linkOn && d.sincePerst 200 then d.emit (.doe doeProtocols) else d
def execCdatTableAccess (entry : Nat) (s : State) : Host.Outcome State Fault Refusal := s.ev fun d => d.cdat entry

end Sys2Proof.Machine
end

