-- ==== Sys2Proof/Machine/Life.lean ====
section
/-! DEFINITION. The life log's histogram copies, bond wear, the lap counter's rainflow count, and the link retries of a week (R492, R540 to R549, R551, R553). -/

namespace Sys2Proof.Machine

/-! The lap counter (R492, R544). Temperatures are in units of 0.0625 °C. -/

/-- The amplitude bin of a range of at least 2 °C (R544). -/
def lapBin (x : Nat) : Nat := ([64, 96, 128, 160, 240, 320, 480, 640, 800, 960, 1280].filter fun t => decide (t ≤ x)).length

/-- Half cycles of interface i in bin b. -/
def Dev.lapHalf (d : Dev) (i b : Nat) : Nat := d.num (histKey (0x3000 + (i * 12 + b) * 4)) 4

/-- Add half cycles of a range to interface i. -/
def Dev.lapAdd (d : Dev) (i : Nat) (range half : Nat) : Dev := d.hist (0x3000 + (i * 12 + lapBin range) * 4) 4 half

/-- Close cycles: while the newest range covers the one before it, the inner one counts as a full cycle and its reversals go (R544; log 62). Answers the stack and the ranges closed. -/
def lapClose : Nat → List Int → List Int × List Nat
  | 0, s => (s, [])
  | fuel + 1, s =>
    match s with
    | x :: y :: z :: t =>
      if (y - z).natAbs ≤ (x - y).natAbs then
        let r := lapClose fuel (x :: t)
        (r.1, (y - z).natAbs :: r.2)
      else (s, [])
    | _ => (s, [])

/-- A reversal enters the stack of interface i; a full stack first gives up its two oldest as half a cycle (R544). -/
def Dev.lapPush (d : Dev) (i : Nat) (s : List Int) (x : Int) : List Int × Dev :=
  let (s, d) :=
    if 64 ≤ s.length then
      (s.dropLast.dropLast, d.lapAdd i (s.getD 63 0 - s.getD 62 0).natAbs 1)
    else (s, d)
  let r := lapClose 64 (x :: s)
  (r.1, r.2.foldl (fun d v => d.lapAdd i v 2) d)

/-- Interface i takes a sample: a turn of 2 °C or more makes the running extreme a reversal (R492, R544). -/
def Dev.lapSample (d : Dev) (i : Nat) (x : Int) : Dev :=
  match Tbl.get none d.laps i with
  | none => { d with laps := Tbl.set none d.laps i (some ⟨x, none, []⟩) }
  | some l =>
    let keep (l : Lap) : Dev := { d with laps := Tbl.set none d.laps i (some l) }
    let turn (up : Bool) : Dev :=
      let (s, d) := d.lapPush i l.stack l.ext
      { d with laps := Tbl.set none d.laps i (some ⟨x, some up, s⟩) }
    match l.up with
    | none => if 32 ≤ (x - l.ext).natAbs then turn (decide (l.ext < x)) else d
    | some true => if l.ext < x then keep { l with ext := x } else if 32 ≤ l.ext - x then turn false else d
    | some false => if x < l.ext then keep { l with ext := x } else if 32 ≤ x - l.ext then turn true else d

/-- VIN is turned off: each interface takes a reversal at the last valid INLET, or at 25 °C, and keeps its stack (R544). -/
def Dev.lapOff (d : Dev) : Dev :=
  let x := 2 * d.lapInlet.getD 200
  (d.laps.map (·.1)).foldl (fun d i =>
    let d := d.lapSample i x
    match Tbl.get none d.laps i with
    | none => d
    | some l =>
      if l.stack.head?.any fun y => decide ((x - y).natAbs < 32) then d
      else
        let (s, d) := d.lapPush i l.stack x
        { d with laps := Tbl.set none d.laps i (some ⟨x, none, s⟩) }) d

/-! Wear (R545, R553). -/

/-- Damage of one half cycle of a bin, in 2^−40 ppm: 10^6 / (2 n_ref (10 / A_b)^m) (R545). -/
def wearUnit (i b : Nat) : Nat :=
  if i < 2 then
    [9895604649, 27487790694, 53876069761, 89060441849, 171798691840, 336725436006, 687194767360, 1346901744025, 2226511046246, 3326022674022, 5387606976102, 8906044184985].getD b 0
  else
    [1355011471, 4859200799, 11268988488, 21122538424, 48019194174, 111361470472, 271637582625, 629955607474, 1180785794390, 1950053645970, 3563567055130, 6679533138739].getD b 0

/-- The exact damage of interface i in ppm, rounded down. -/
def Dev.wearExact (d : Dev) (i : Nat) : Nat := (((List.range 12).map fun b => d.lapHalf i b * wearUnit i b).sum) / 2 ^ 40

/-- DAMAGE_PPM and HALF_CYCLES of interface i; the FP32 rounding of the sum is open, so the value may lie off the exact one by its rounding error (R545; log 63). -/
def Dev.wearUpdate (d : Dev) (i : Nat) : Dev :=
  let x := d.wearExact i
  let (v, d) := d.free
  let tol := x / 2 ^ 18 + 1
  let ppm := if x = 0 then 0 else min (2 ^ 32 - 1) (x - tol + v.toNat % (2 * tol + 1))
  let d := d.setFld LIFE_WEAR.DAMAGE_PPM i 0 ppm
  let d := d.setFld LIFE_WEAR.HALF_CYCLES i 0 (min (2 ^ 32 - 1) (((List.range 12).map (d.lapHalf i)).sum))
  if d.fld LIFE_CTL.WEAR_WARN 0 0 * 100 ≤ ppm ∧ !d.worn.contains i then ({ d with worn := i :: d.worn }).event 1 .wear [i, ppm] else d

/-! The image (R541, R542, R546, R547). -/

/-- The spares section: what LNK_SLICE and the slices show (R542). -/
def Dev.lifeSpares (d : Dev) : Dev :=
  (List.range 256).foldl (fun d n =>
    let v := min 511 (d.fld LNK_SLICE.DATA_USED n 0) + 2 ^ 9 * d.fld LNK_SLICE.CA_USED n 0 +
      (if (d.slice n).mode = .narrow then 2 ^ 13 else 0) + (if (d.slice n).degraded then 2 ^ 14 else 0)
    d.putNum (histKey (0x5000 + 4 * n)) 4 v) d

/-- Page of a histogram copy: A for false. -/
def Dev.lifePage (d : Dev) (b : Bool) : Nat := (if b then d.fld LIFE_STATUS.PAGE_B 0 0 else d.fld LIFE_STATUS.PAGE_A 0 0) * 0x10000

/-- Write the 64 KiB image at a key over the older copy, with GEN one above the newer, its header last (R546). -/
def Dev.imageWrite (d : Dev) (k : Nat) : Dev :=
  let valid := d.bit LIFE_STATUS.VALID 0 0
  let newer := d.bit LIFE_STATUS.COPY 0 0
  let gen := if valid then d.num (mramKey (d.lifePage newer + 8)) 8 + 1 else 1
  let b := valid && !newer
  let body := (List.range 0xFFC0).map fun i => d.byte (k + 0x40 + i)
  let head := toBytes 4 0x4C4C5844 ++ toBytes 4 0 ++ toBytes 8 gen ++ toBytes 8 (d.num (k + 16) 8) ++ toBytes 32 0
  let image := head ++ toBytes 8 (crc64 0 (head ++ body)).toNat ++ body
  let d := { d with mem := storeBytes d.mem (mramKey (d.lifePage b)) image }
  (d.setBit LIFE_STATUS.COPY 0 0 b).setBit LIFE_STATUS.VALID 0 0 true

/-- The working histograms are kept as the image that waits, in place of any older one (R547). -/
def Dev.imageWait (d : Dev) : Dev :=
  let old := d.mem.filter fun c => !(decide (pendKey 0 ≤ c.1) && decide (c.1 < pendKey 0x10000))
  let new := (d.mem.filter fun c => decide (histKey 0 ≤ c.1) && decide (c.1 < histKey 0x10000)).map fun c => (c.1 + (pendKey 0 - histKey 0), c.2)
  { d with mem := new.foldl (fun m c => Tbl.set 0 m c.1 c.2) old, imgPend := true }

/-- Journal records that waited are written, oldest first, then the image (R410, R547). -/
def Dev.journalFlush (d : Dev) : Dev :=
  if d.nvmBlocked then d
  else
    let d := { d.lifePend.foldl (fun d r => d.journalWrite r) d with lifePend := [] }
    if d.imgPend then { d.imageWrite (pendKey 0) with imgPend := false } else d

/-- The last full week of life, if there has been one. -/
def Dev.lastWeek (d : Dev) : Option Nat := if d.lifeS / 604800 = 0 then none else some ((d.lifeS / 604800 - 1) % 32)

/-- Link retries of group g in a week's entry (R542). -/
def Dev.weekRetries (d : Dev) (w g : Nat) : Nat := d.num (histKey (0x4480 + (w * 16 + g) * 4)) 4

/-- Slices in narrow mode (R494). -/
def Dev.narrowCount (d : Dev) : Nat := (d.slices.filter fun p => p.2.mode == .narrow).length

/-- PLDM sensors 16 to 19, refreshed at each update (R540). -/
def Dev.lifeSensors (d : Dev) : Dev :=
  let put (d : Dev) (i : Nat) (v : Nat) : Dev := { d with pldm := Tbl.set none d.pldm i (some (v : Int)) }
  let d := put d 16 (((List.range 16).map fun i => d.fld LIFE_WEAR.DAMAGE_PPM i 0).foldl max 0)
  let d := put d 17 (match d.lastWeek with | some w => ((List.range 16).map (d.weekRetries w)).foldl max 0 | none => 0)
  let d := put d 18 (match d.lastWeek with
    | some w => ((List.range 9).map fun s => d.num (histKey (0x3500 + (w * 27 + s * 3) * 4)) 4).sum
    | none => 0)
  put d 19 d.narrowCount

/-- An update of the log (R545 to R547, R553). -/
def Dev.lifeSave (d : Dev) : Dev :=
  let d := (List.range 16).foldl (fun d i => d.wearUpdate i) d
  let d := { d.lifeSpares.lifeSensors with lifeAt := d.us }
  if d.nvmBlocked then d.imageWait else d.imageWrite (histKey 0)

/-- A replay of a frame is counted: LNK_D2D, its group, the device event, the life log (R490, R542). -/
def Dev.retryCount (d : Dev) (g : Nat) : Dev :=
  let d := ((d.count LNK_D2D.RETRIES 0 0 1).count LNK_D2D_GRP.RETRIES g 0 1).pmcDev 0x09 1
  (d.hist (0x4400 + 8 * g) 8 1).hist (0x4480 + (d.week * 16 + g) * 4) 4 1

end Sys2Proof.Machine
end

