-- ==== Sys2Proof/Machine/Power.lean ====
section
/-! DEFINITION. Power: switched domains, PARKED, operating points, the budget, supply sag and HALT, HOLD (R399 to R417, R430, R431). -/

namespace Sys2Proof.Machine

/-! Switched domains (R401 to R403). -/

/-- The rails of domain k, numbered: VCL of the clusters 0 to 31, VMEM 32, VTHR 33, VBASE 34, VSRAM 35, VDRAM 36, VIO 37, VGIO 38, VPHY 39 (R401). -/
def domRails (k : Nat) : List Nat :=
  if k < 256 then [k / 8] else if k < 288 then [32] else if k < 290 then [33] else if k < 418 then [34, 35] else if k = 418 then [34]
  else if k < 431 then [36] else if k < 439 then [37, 38] else if k = 439 ∨ k = 448 then [37, 39] else [37]

/-- State of domain k: 0 OFF, 1 RAMP_UP, 2 ON, 3 DRAIN, 4 RAMP_DOWN (R417). -/
def Dev.domState (d : Dev) (k : Nat) : Nat := d.fld PWR_DOM.STATE k 0

/-- Domain k enters a state; PENDING_ON follows (R402). -/
def Dev.domGo (d : Dev) (k st : Nat) : Dev :=
  let d := { d.setFld PWR_DOM.STATE k 0 st with domAt := Tbl.set 0 d.domAt k d.ns }
  d.setBit PWR_DOM.PENDING_ON k 0 (d.bit PWR_DOM.REQ k 0 && decide (3 ≤ st))

/-- REQ is written, by software that may or by hardware; a request ON counts from when it is made (R402, R403). -/
def Dev.domReq (d : Dev) (k : Nat) (on : Bool) : Dev :=
  let was := d.bit PWR_DOM.REQ k 0
  let d := d.setBit PWR_DOM.REQ k 0 on
  let d := if on && !was then { d with domAsked := Tbl.set 0 d.domAsked k d.ns } else d
  let st := d.domState k
  if st = 2 ∧ !on then d.domGo k 3
  else d.setBit PWR_DOM.PENDING_ON k 0 (on && decide (3 ≤ st))

/-- Software may switch domain k now: a fenced core's, the relay engine, the I/O die's check-value units (R401). -/
def Dev.domSoft (d : Dev) (k : Nat) : Bool :=
  if k < 256 then d.fenceState k == 2 else decide (442 ≤ k) && decide (k ≤ 446)

/-- DOMAIN_REQUEST by software: one that would switch a domain it may not is refused, as is any before STARTER step 1 (R401, R504). -/
def Dev.domWrite (d : Dev) (k : Nat) (on : Bool) : Dev :=
  if d.bit PWR_DOM.REQ k 0 == on && decide (1 ≤ d.done) then d
  else if decide (d.done < 1) || !d.domSoft k then d.setBit PWR_DOM.REFUSED k 0 true
  else d.domReq k on

/-- The domains that are ramping up. -/
def Dev.ramping (d : Dev) : List Nat := (List.range 452).filter fun j => d.domState j == 1

/-- A domain that waits may be granted a place beside those ramping up: fewer than 8, fewer than 2 of them on any of its rails. A place is held for the whole of RAMP_UP (R403; log 51). -/
def rampFree (up : List Nat) (k : Nat) : Bool :=
  decide (up.length < 8) && (domRails k).all fun r => decide ((up.filter fun j => (domRails j).contains r).length < 2)

/-- The waiting domain that is granted a place next: the oldest for which there is one (R403). -/
def Dev.rampPick (d : Dev) : Option (Nat × Dev) :=
  let up := d.ramping
  let ws := (List.range 452).filter fun k => rampFree up k && d.domState k == 0 && d.bit PWR_DOM.REQ k 0
  match oldest (Tbl.get 0 d.domAsked) ws with
  | none => none
  | some h => d.tie (arbKey 10 0) (ws.filter fun k => Tbl.get 0 d.domAsked k == Tbl.get 0 d.domAsked h)

/-- RAMP_GRANT: the oldest waiting domain for which there is a place (R403). -/
def Dev.rampGrant (d : Dev) : Dev :=
  match d.rampPick with
  | none => d
  | some (k, d) => d.domGo k 1

/-- ACLK of an operating point in MHz (R400). -/
def pointMhz (p : Nat) : Nat := [100, 1000, 1500, 2000, 2500, 3000, 3500, 4000].getD p 4000

/-- VCL of an operating point in mV (R400). -/
def pointMv (p : Nat) : Nat := [550, 550, 580, 620, 680, 750, 820, 900].getD p 900

/-- The level of a cluster's rail now: it moves at 10 mV/µs (R400; log 160 of a fall). -/
def Dev.railNow (d : Dev) (k : Nat) : Nat :=
  let r := Tbl.get ⟨900, 0, 900⟩ d.rails k
  let moved := (d.ns - r.at') / 100
  if r.mv ≤ r.goal then min r.goal (r.mv + moved) else max r.goal (r.mv - moved)

/-- The rail of a cluster is set to a level. -/
def Dev.railGo (d : Dev) (k mv : Nat) : Dev := { d with rails := Tbl.set ⟨900, 0, 900⟩ d.rails k ⟨d.railNow k, d.ns, mv⟩ }

/-- Every cluster runs at the clock of its point. -/
def Dev.clocksRun (d : Dev) : Dev := d.points.foldl (fun d p => d.clkSet p.1 (pointMhz p.2)) d

/-- With the through-domains ON and every cluster's rail at the level of its point, the clocks run again, and requests held at the port go on (R406). -/
def Dev.wakeDone (d : Dev) : Dev :=
  if d.power = .waking ∧ d.domOn 288 ∧ d.domOn 289 ∧ d.points.all (fun p => decide (pointMv p.2 ≤ d.railNow p.1)) then
    ({ d with power := .run } : Dev).clocksRun.portPump
  else d

/-- RAMP_UP_DONE: ON, or, not before 1 µs of stage 0, RAMP_FAIL (R402). -/
def Dev.rampUp (d : Dev) (k : Nat) (ok : Bool) : Dev :=
  if d.domState k ≠ 1 ∨ (!ok ∧ d.ns < Tbl.get 0 d.domAt k + 1000) then d
  else if ok then
    let d := (d.count PWR_DOM.RAMPS k 0 1).domGo k 2
    let d := if k < 256 then { d with cycBase := Tbl.set 0 d.cycBase k (d.clkSum (clusterOf k)) } else d
    (if d.bit PWR_DOM.REQ k 0 then d else d.domGo k 3).wakeDone
  else ((d.setBit PWR_DOM.RAMP_FAIL k 0 true).hwFld PWR_DOM.REQ k 0 0).domGo k 4

/-- Work in flight of a domain whose drain has reached its bound ends with RESET_ABORT (R402). -/
def Dev.domAbort (d : Dev) (k : Nat) : Dev :=
  if k < 256 then ((((d.attnLose k .resetAbort).seqStop k .resetAbort).dmaStop k .resetAbort).arrOwnerStop k).arrOwnerFill k
  else if k = 442 then
    let d := { d with uio := d.uio.filter fun u => match u.owner with | .relay _ => false | _ => true }
    [false, true].foldl (fun d up => match d.relay up with | some r => (d.setRelay up none).descDone r.id .resetAbort 0 0 | none => d) d
  else d

/-- The drain bound of domain k in ns; the CXL port and the watch table have none (R401). -/
def domBound (k : Nat) : Option Nat :=
  if k < 256 then some 5000 else if k < 419 then some 20000 else if k < 431 then some 48 else if k < 439 then some 20000 else if k < 441 then none
  else if k = 441 then some 200000 else if k = 442 then some 20000 else if k < 447 then some 5000 else if k < 450 then some 20000 else some 5000

/-- Domain k has no work in flight: a core's sequencer, DMA engine and array, the relay engine. The domains that hardware switches have none when it asks them OFF (R402, R405). -/
def Dev.domQuiet (d : Dev) (k : Nat) : Bool :=
  if k < 256 then (d.core k).prog.isNone && (d.core k).dma.held.isEmpty && (d.arr k).cmds.isEmpty && (d.arr k).runs.isEmpty && !(d.dmaWaits k)
  else if k = 442 then [false, true].all fun up => (d.relay up).isNone
  else true

/-- DOMAIN_DRAIN_END: with its work in flight complete a domain ramps down; one whose drain bound has elapsed answers what is left with RESET_ABORT (R402). -/
def Dev.drainEnd (d : Dev) (k : Nat) (late : Bool) : Dev :=
  if d.domState k ≠ 3 then d
  else if d.domQuiet k then d.domGo k 4
  else if late ∧ (domBound k).any (fun b => decide (Tbl.get 0 d.domAt k + b ≤ d.ns)) then ((d.domAbort k).setBit PWR_DOM.DRAIN_LATE k 0 true).domGo k 4
  else d

/-- What a core holds is lost when its domain goes OFF: it is as after a core reset, and its stores hold nothing (log 1). -/
def Dev.coreLost (d : Dev) (n : Nat) : Dev :=
  ((d.coreClear n).zeroSpan (lsAddr n 0) (2 ^ 22)).zeroSpan (storeKey n 0 0) (2 ^ 17)

/-- RAMP_DOWN_DONE: the discharge of 1 µs has ended; what the domain held is lost (R402; log 1). -/
def Dev.rampDown (d : Dev) (k : Nat) : Dev :=
  if d.domState k = 4 ∧ Tbl.get 0 d.domAt k + 1000 ≤ d.ns then
    let d := if k < 256 then d.coreLost k else if k = 442 then { d with relayLast := [], chunks := [] } else if 443 ≤ k ∧ k ≤ 446 then d.chkReset (k - 411) else d
    d.domGo k 0
  else d

/-! HOLD (R430, R431, R436, R437). -/

/-- The content of a record of R437, by record code and location. -/
def Dev.thmPayload (d : Dev) (code loc : Nat) : List Nat :=
  [code, d.fld THM_STATUS.TJ_MAX 0 0, d.fld THM_STATUS.DRAM_MAX 0 0, d.fld THM_RISE.X 0 0, d.fld THM_RISE.RATE_1S 0 0, d.fld THM_RISE.FORECAST 0 0,
    d.therm.limit, loc]

/-- A record of R436: the event log, the journal, the count of cooling events (R542, R548). -/
def Dev.thmEvent (d : Dev) (log : Nat) (kind : EvKind) (code loc : Nat) : Dev :=
  let p := d.thmPayload code loc
  ((d.event log kind p).journal 0x03 p).hist (0x5480 + 4 * (code - 1)) 4 1

/-- The location of the hottest sensor that THM_STATUS shows, as R437 codes it: unit, die, and the layer of a DRAM sensor (log 158). -/
def Dev.hotLoc (d : Dev) : Nat :=
  if sx 12 (d.fld THM_STATUS.TJ_MAX 0 0) < sx 12 (d.fld THM_STATUS.DRAM_MAX 0 0) then d.fld THM_STATUS.DRAM_COL 0 0 + 1024 * d.fld THM_STATUS.DRAM_LAYER 0 0
  else d.fld THM_STATUS.TJ_UNIT 0 0 + 256 * d.fld THM_STATUS.TJ_DIE 0 0

/-- The record of a reason for HOLD: 0 RISE_FAST, 1 CRIT, 2 BUDGET, 3 FORCE (R436). -/
def Dev.holdRecord (d : Dev) (i : Nat) : Dev :=
  if i = 0 then d.thmEvent 2 .coolingLost 0x08 0
  else if i = 1 then d.thmEvent 2 .thermalCrit 0x09 d.hotLoc
  else if i = 2 then d.thmEvent 1 .holdBudget 0x0C 0
  else d.thmEvent 0 .holdForce 0x0D 0

/-- A reason for HOLD arrives: with the first the device enters HOLD (R430, R446). -/
def Dev.holdIn (d : Dev) (i : Nat) : Dev :=
  let r := d.fld TK_HOLD.REASON 0 0
  if bitOf r i then d
  else
    let d := d.holdRecord i
    let d := if r = 0 then { ((d.clkMark).count TK_HOLD.ENTRIES 0 0 1) with therm := { d.therm with holdAt := d.ns } } else d
    let d := (d.setFld TK_HOLD.REASON 0 0 (r ||| 2 ^ i)).setBit TK_HOLD.HELD 0 0 true
    if r = 0 then Dev.lifeSave (d.journal 0x01 (d.thmPayload (if i = 0 then 0x08 else if i = 1 then 0x09 else if i = 2 then 0x0C else 0x0D) 0 ++ [d.fld TK_HOLD.REASON 0 0])) else d

/-- A reason arises: in PARKED it waits for the wake, with its record sent (R433). -/
def Dev.holdAsk (d : Dev) (i : Nat) : Dev :=
  if d.power = .run then d.holdIn i
  else if d.therm.later.contains i then d
  else { d.holdRecord i with therm := { d.therm with later := d.therm.later ++ [i] } }

/-- HOLD ends: slices make a first start before their mode holds again; where band T3 goes on halting them, the halt began with HOLD if that came first (R190, R199). -/
def Dev.haltEnds (d : Dev) : Dev :=
  { d with slices := d.slices.map fun p =>
    (p.1, { p.2 with resume := true, haltAt := if d.slcBandNext p.1 = 3 then p.2.haltAt.map fun t => min t d.therm.holdAt else none }) }

/-- A reason clears: with the last HOLD ends (R431). -/
def Dev.holdOut (d : Dev) (i : Nat) : Dev :=
  let d := { d with therm := { d.therm with later := d.therm.later.filter (· != i) } }
  let r := d.fld TK_HOLD.REASON 0 0
  if !bitOf r i then d
  else
    let r := r - 2 ^ i
    let d := if r = 0 then d.clkMark.haltEnds else d
    let d := d.setFld TK_HOLD.REASON 0 0 r
    if r = 0 then ((d.setBit TK_HOLD.HELD 0 0 false).setFld TK_HOLD.LAST_MS 0 0 ((d.ns - d.therm.holdAt) / 1000000)).thmEvent 0 .holdExit 0x0A 0 else d

/-! Operating points (R400, R422). -/

/-- The point cluster k goes to: 7 (no register of the spec requests another; log 52), less the steps of the budget and of the thermal limits, 3 where all its sensors have failed, 1 in HOLD. -/
def Dev.pointTarget (d : Dev) (k : Nat) : Nat :=
  let p := max 1 (7 - d.pwr.arrTrim)
  let p := min p (max 1 (7 - Tbl.get 0 d.therm.down k))
  let p := if d.therm.dead.contains k then min p 3 else p
  if d.held then 1 else p

/-- The clock of a cluster changes to point p, and its rail is set to that point's level. -/
def Dev.pointGo (d : Dev) (k p : Nat) : Dev := (({ d with points := Tbl.set 8 d.points k p } : Dev).clkSet k (pointMhz p)).railGo k (pointMv p)

/-- OPERATING_POINT_CHANGE: for a lower point the clock changes and the rail then falls; for a higher one the rail is set, and the clock changes once the rail is there. While the device wakes, it may be the last rail it waits for (R400, R406). -/
def Dev.pointChange (d : Dev) (k : Nat) : Dev :=
  let p := d.pointTarget k
  let cur := Tbl.get 8 d.points k
  if d.power = .waking then d.wakeDone
  else if d.power ≠ .run ∨ cur = 8 then d
  else if p < cur ∨ (cur < p ∧ pointMv p ≤ d.railNow k) then d.pointGo k p
  else if (Tbl.get ⟨900, 0, 900⟩ d.rails k).goal = pointMv p then d
  else d.railGo k (pointMv p)

/-! PARKED (R404 to R406, R433). -/

/-- Work is in flight (R405). -/
def Dev.inFlight (d : Dev) : Bool :=
  !d.descs.isEmpty || !d.inq.isEmpty || (d.btnQ.any fun p => !p.2.isEmpty) || d.attn.isSome || (d.gddr.queue.any fun p => !p.2.isEmpty) || (d.uio.any fun u => u.done.isNone) || !d.port.isEmpty || d.rst.isSome || (d.regions.any fun p => !p.2.quiet) ||
    (List.range 256).any fun n =>
      !(d.slice n).bq.isEmpty || !(d.slice n).bqHeld.isEmpty || !(d.slice n).net.isEmpty || !(d.slice n).netHeld.isEmpty || !(d.slice n).rowQ.isEmpty || (d.core n).prog.isSome || !(d.core n).lq.isEmpty || !(d.core n).dma.held.isEmpty

/-- The GDDR devices enter self-refresh, or leave it; no channel is then one that a request has woken (R370). -/
def Dev.gddrRest (d : Dev) (rest : Bool) : Dev :=
  { d with gddr := { d.gddr with woken := [], state := match d.gddr.state, rest with | .ready, true => .selfRefresh | .selfRefresh, false => .ready | s, _ => s } }

/-- The park of this cycle is undone: the wake cause that met it stands (R412). -/
def Dev.unpark (d : Dev) : Dev :=
  let d := d.points.foldl (fun d p => d.railGo p.1 (pointMv p.2)) { d with power := .run }
  let d := [288, 289].foldl (fun d k => (d.setBit PWR_DOM.REQ k 0 true).domGo k 2) d.clocksRun
  let d := (List.range 256).foldl (fun d n => d.setSlice n { d.slice n with srWanted := false }) (d.gddrRest false)
  (d.setBit PWR_PARK.PARK_FAIL 0 0 true).portPump

/-- PARK: the regions complete what they hold; the GDDR buffers drain, the cluster clocks stop and their rails fall to 0.55 V; or PARK_FAIL is set, as where a wake cause comes in the same cycle (R233, R370, R404, R405, R412, R504). -/
def Dev.park (d : Dev) : Dev :=
  let d := if d.done < 10 ∨ d.power ≠ .run then d else d.regions.foldl (fun d p => if p.2.quiet then d else d.regFinish p.1) d
  if d.done < 10 ∨ d.power ≠ .run ∨ d.inFlight ∨ d.pwr.wakeAt = some d.ns then d.setBit PWR_PARK.PARK_FAIL 0 0 true
  else
    let d := (d.domReq 288 false).domReq 289 false
    let d := d.points.foldl (fun d p => (d.clkSet p.1 0).railGo p.1 550) d
    let d := d.gddrDrainAll.gddrRest true
    (List.range 256).foldl (fun d n => d.setSlice n { d.slice n with srWanted := true }) { d with power := .parked, pwr := { d.pwr with parkAt := some d.ns } }

/-- WAKE: a cause that counts brings every domain back; RUN follows when the through-domains are ON and the cluster rails are there (R406). Met by a park in one cycle it stands (R412). A HOLD reason that came in PARKED takes effect first (R433). -/
def Dev.wake (d : Dev) (cause : WakeCause) : Dev :=
  let counts : Bool :=
    match cause with
    | .write => true
    | .mem => d.bit PWR_PARK.WAKE_ON_MEM 0 0
    | .doorbell => d.bit PWR_PARK.WAKE_ON_DB 0 0
  if !counts then d
  else if d.power ≠ .parked then { d with pwr := { d.pwr with wakeAt := some d.ns } }
  else if d.pwr.parkAt = some d.ns then d.unpark
  else
    let d := d.therm.later.foldl (fun d i => ({ d with therm := { d.therm with later := [] } } : Dev).holdIn i) d
    let d := (List.range 256).foldl (fun d n => d.setSlice n { d.slice n with srWanted := false }) { d with power := .waking }
    let d := d.points.foldl (fun d p => d.railGo p.1 (pointMv p.2)) d
    (((d.gddrRest false).domReq 288 true).domReq 289 true).wakeDone

/-- A CXL.mem request arrives, which is a cause of the wake (R406). -/
def Dev.memTake (d : Dev) (tag : Nat) (write : Bool) (hpa len : Nat) (data : List PByte) (want : CohState) : Dev :=
  let e := d.portArrive tag write hpa len data want
  if d.linkOn && !d.cfg.ideFailed then e.wake .mem else e

/-- What a doorbell read has led to: where it has advanced a tail it is a cause of the wake (R406). -/
def Dev.tailWake (d e : Dev) : Dev := if e.rings.any fun p => p.2.sqTail != (d.ring p.1).sqTail then e.wake .doorbell else e

/-! The budget (R407 to R409). -/

/-- SUST_LIMIT in force: its register within 600 and 1,200 W, the thermal limit, 1,000 W at WARN (R407, R410, R414, R427). -/
def Dev.sustLimit (d : Dev) : Nat :=
  let l := min (max 600 (min 1200 (d.fld PWR_LIMIT.SUST_LIMIT 0 0))) d.therm.limit
  if d.fld PWR_STATUS.SAG_12V 0 0 ≠ 0 ∨ d.fld PWR_STATUS.SAG_AON 0 0 ≠ 0 then min l 1000 else l

/-- The mean of some samples, rounded down. -/
def mean (l : List Nat) : Nat := l.sum / max 1 l.length

/-- The sliding 1 s average: the mean of the 1 ms bins there are (R407). -/
def Dev.p1s (d : Dev) : Nat := mean d.pwr.bins
/-- The 100 µs average. -/
def Dev.p100 (d : Dev) : Nat := mean d.pwr.tot
/-- The 20 µs average. -/
def Dev.p20 (d : Dev) : Nat := mean (d.pwr.tot.take 20)

/-- R407 is broken, or about to be. -/
def Dev.budgetBroken (d : Dev) : Bool :=
  let l := d.sustLimit
  decide (l < d.p1s) || decide (1500 < d.p20) ||
    (decide (l < d.p100) && match d.pwr.sprintAt with | some t => decide (t + 10000000 ≤ d.ns) | none => true)

/-- ARRAY_CAP in watts. -/
def Dev.arrCap (d : Dev) : Nat := 2 * d.fld PWR_LIMIT.ARRAY_CAP 0 0
/-- STACK_CAP in watts. -/
def Dev.stkCap (d : Dev) : Nat := 2 * d.fld PWR_LIMIT.STACK_CAP 0 0
/-- The ARRAY pool is at its floor: point 1. -/
def Dev.arrFloor (d : Dev) : Bool := decide (6 ≤ d.pwr.arrTrim)
/-- The STACK pool is at its floor: W 16 and UNIT_CAP 8. -/
def Dev.stkFloor (d : Dev) : Bool := decide (11 ≤ d.pwr.stkTrim)

/-- The sprint after a sample (R407). -/
def Dev.sprintStep (d : Dev) : Dev :=
  let p := d.pwr
  let l := d.sustLimit
  let over100 := decide (l < d.p100)
  match p.sprintAt with
  | some _ => if over100 then d else { d with pwr := { p with sprintAt := none, sprintEnd := some d.ns } }
  | none =>
    let may := d.bit PWR_LIMIT.SPRINT_EN 0 0 && decide (d.p1s + 50 ≤ l) && (p.sprintEnd.all fun t => decide (t + 100000000 ≤ d.ns)) &&
      d.fld PWR_STATUS.SAG_12V 0 0 == 0 && d.fld PWR_STATUS.SAG_AON 0 0 == 0
    if over100 && may then { d with pwr := { p with sprintAt := some d.ns } } else d

/-- POWER_SAMPLE: the averages, the sprint, and the budget's reason for HOLD (R407, R408, R413). -/
def Dev.powerSample (d : Dev) (total array stack : Nat) : Dev :=
  let p := d.pwr
  let full := decide (999 ≤ p.msCnt)
  let d := { d with pwr := { p with
    tot := (total :: p.tot).take 100, arr := (array :: p.arr).take 100, stk := (stack :: p.stk).take 100
    msSum := if full then 0 else p.msSum + total, msCnt := if full then 0 else p.msCnt + 1
    bins := if full then (((p.msSum + total) / 1000) :: p.bins).take 1000 else p.bins } }
  let d := d.sprintStep
  let floor := d.arrFloor && d.stkFloor && decide (d.sustLimit < d.p1s)
  let d := { d with pwr := { d.pwr with floorAt := if floor then some (d.pwr.floorAt.getD d.ns) else none } }
  let d := if d.pwr.floorAt.any fun t => decide (t + 10000000 ≤ d.ns) then d.holdAsk 2
    else if d.p1s + 50 ≤ d.sustLimit then d.holdOut 2 else d
  let d := (d.setBit PWR_STATUS.SPRINT 0 0 d.pwr.sprintAt.isSome).setBit PWR_STATUS.HOLD_BUDGET 0 0 (bitOf (d.fld TK_HOLD.REASON 0 0) 2)
  ((d.setFld PWR_STATUS.P_100US 0 0 (min 2047 d.p100)).setFld PWR_STATUS.P_1S 0 0 (min 2047 d.p1s)).setFld PWR_STATUS.P_ARRAY 0 0 (min 1023 (mean d.pwr.arr / 2))

/-- BUDGET_TRIM_STEP: one step of each pool that is due one: a pool above its cap, or the pool R408 names while R407 is broken, is trimmed; else trims are released in the reverse order (R408). -/
def Dev.trimStep (d : Dev) : Dev :=
  let p := d.pwr
  let prefill := d.bit PWR_LIMIT.PHASE 0 0
  let broken := d.budgetBroken
  let aHigh := decide (d.arrCap < mean p.arr)
  let sHigh := decide (d.stkCap < mean p.stk)
  let aDue := decide (p.arrAt + 2000 ≤ d.ns)
  let sDue := decide (p.stkAt + 10000 ≤ d.ns)
  let aCut := (aHigh || broken && (!prefill || d.stkFloor)) && !d.arrFloor
  let sCut := (sHigh || broken && (prefill || d.arrFloor)) && !d.stkFloor
  let aFree := !broken && !aHigh && decide (0 < p.arrTrim) && (prefill || p.stkTrim == 0)
  let sFree := !broken && !sHigh && decide (0 < p.stkTrim) && (!prefill || p.arrTrim == 0)
  let a := if aDue && aCut then p.arrTrim + 1 else if aDue && aFree then p.arrTrim - 1 else p.arrTrim
  let s := if sDue && sCut then p.stkTrim + 1 else if sDue && sFree then p.stkTrim - 1 else p.stkTrim
  let d := { d with pwr := { p with arrTrim := a, stkTrim := s, arrAt := if a = p.arrTrim then p.arrAt else d.ns, stkAt := if s = p.stkTrim then p.stkAt else d.ns } }
  (d.setBit PWR_STATUS.ARRAY_TRIM 0 0 (a != 0)).setBit PWR_STATUS.STACK_TRIM 0 0 (s != 0)

/-- Two paths may write one value: of writes in one cycle R29 orders the two, with index 0 for BAR0 and 1 for the other path, and the later stands. `last`: when and by which path it was last written. Answers whether a write by path `src` stands now (R29, R392, R412). -/
def Dev.pathStands (d : Dev) (key : Nat) (last : Option (Nat × Nat)) (src : Nat) : Bool × Dev :=
  match last with
  | some (t, j) =>
    if t = d.ns ∧ j ≠ src then (match d.tie key [0, 1] with | some (w, d) => (w == j, d) | none => (true, d)) else (true, d)
  | none => (true, d)

/-- A write of PRESET loads the caps and sets PHASE (R409). -/
def Dev.presetSet (d : Dev) (p : Nat) : Dev :=
  let d := d.setFld PWR_LIMIT.PRESET 0 0 p
  let load (ph a s : Nat) : Dev := ((d.setFld PWR_LIMIT.PHASE 0 0 ph).setFld PWR_LIMIT.ARRAY_CAP 0 0 (a / 2)).setFld PWR_LIMIT.STACK_CAP 0 0 (s / 2)
  if p = 1 then load 0 220 700 else if p = 2 then load 1 800 200 else if p = 3 then load 0 500 450 else d

/-- PRESET is written through BAR0, path 0, or by the pacer, path 1 (R409, R412). -/
def Dev.preset (d : Dev) (src p : Nat) : Dev :=
  let (stands, d) := d.pathStands (arbKey 18 0) d.pwr.presetBy src
  if stands then ({ d with pwr := { d.pwr with presetBy := some (d.ns, src) } } : Dev).presetSet p else d

/-! Supply sag and HALT (R410, R411). -/

/-- HALT: the port stops, arrays and bank-side units stop, slices write back and enter self-refresh, the GDDR buffers drain; the record waits in retention SRAM (R386, R411). -/
def Dev.haltIn (d : Dev) (supply lowest : Nat) : Dev :=
  if d.power = .halt ∨ !d.bit DEV_PINS.PERST 0 0 then d
  else
    let d := { d.clkMark with power := .halt, pwr := { d.pwr with haltAt := d.ns } }
    let d := d.portDiscard.portReadsFail
    let d := (List.range 256).foldl (fun d n => let d := d.slcFinish n; d.setSlice n { d.slice n with srWanted := true }) d
    d.gddrDrainAll.journal 0x09 [supply, 3, lowest]

/-- A level of a supply is entered: its count, its records (R410, R542, R548). -/
def Dev.sagEnter (d : Dev) (supply level v : Nat) : Dev :=
  let d := if level = 1 then d.count PWR_SAG.WARN_CNT 0 0 1 else if level = 2 then d.count PWR_SAG.BLOCK_CNT 0 0 1 else d
  let d := (d.event 1 .supplySag [supply, level]).hist (0x5440 + 12 * supply + 4 * (level - 1)) 4 1
  if level = 3 then d.haltIn supply v else d.journal 0x09 [supply, level, v]

/-- One level of one supply takes a sample (R410). -/
def Dev.sagLevel (d : Dev) (supply level v thr hyst : Nat) : Dev :=
  let key := 4 * supply + level
  let s := Tbl.get ⟨0, 0, false⟩ d.pwr.sag key
  let below := if v < thr then s.below + 1 else 0
  let above := if thr + hyst < v then s.above + 1 else 0
  let enter := !s.on && decide (4 ≤ below)
  let leave := s.on && level != 3 && decide (1000 ≤ above)
  let d := { d with pwr := { d.pwr with sag := Tbl.set ⟨0, 0, false⟩ d.pwr.sag key ⟨min 4 below, min 1000 above, (s.on || enter) && !leave⟩ } }
  if enter then d.sagEnter supply level v else d

/-- The highest level of a supply in force. -/
def Dev.sagNow (d : Dev) (supply : Nat) : Nat :=
  [1, 2, 3].foldl (fun m l => if (Tbl.get ⟨0, 0, false⟩ d.pwr.sag (4 * supply + l)).on then l else m) 0

/-- The lowest level seen in the life log, as in PWR_SAG (R542). -/
def Dev.sagLow (d : Dev) (off v : Nat) : Dev :=
  let old := d.num (histKey off) 2
  if old = 0 ∨ v < old then d.putNum (histKey off) 2 v else d

/-- SAG_SAMPLE: 12V_SENSE in mV, VAON in tenths of a mV (R410, R416). -/
def Dev.sagSample (d : Dev) (mv12 aon : Nat) : Dev :=
  let d := ({ d with pmb := { d.pmb with aon := aon } } : Dev)
  let d := (d.sagLow 0x5458 (min 0xFFF (mv12 / 5))).sagLow 0x545A (min 0xFFF (aon / 5))
  let d := if mv12 / 5 < d.fld PWR_SAG.MIN_12V 0 0 then d.setFld PWR_SAG.MIN_12V 0 0 (mv12 / 5) else d
  let d := if aon / 5 < d.fld PWR_SAG.MIN_AON 0 0 then d.setFld PWR_SAG.MIN_AON 0 0 (aon / 5) else d
  let d := ((d.sagLevel 0 1 mv12 11400 200).sagLevel 0 2 mv12 10800 200).sagLevel 0 3 mv12 10200 0
  let d := ((d.sagLevel 1 1 aon 7600 100).sagLevel 1 2 aon 7200 100).sagLevel 1 3 aon 6800 0
  ((d.setFld PWR_STATUS.SAG_12V 0 0 (d.sagNow 0)).setFld PWR_STATUS.SAG_AON 0 0 (d.sagNow 1)).journalFlush

/-! Power lost. -/

/-- Everything powered from VIN is off: every switched domain OFF without a drain, memory contents gone (R387, R404). -/
def Dev.railsOff (d : Dev) : Dev :=
  let d := (List.range 452).foldl (fun d k => d.clrReg PWR_DOM.reg k 0) d
  Dev.lapOff { d with mem := d.mem.filter (fun c => decide (2 ^ 54 ≤ c.1)), chk := [] }

/-- HALT_MODULE_OFF: MOD_EN drops 50 µs after HALT began (R411). -/
def Dev.haltOff (d : Dev) : Dev :=
  if d.power = .halt ∧ d.pwr.haltAt + 50000 ≤ d.ns ∧ d.modEn then { d.railsOff with modEn := false } else d

/-! The commands. -/

/-- An event of a device whose always-on domain has power. -/
def State.evAux (s : State) (f : Dev → Dev) : Host.Outcome State Fault Refusal := s.ev fun d => if d.auxAt.isSome then f d else d

def execDomainRequest (_r : Req) (dom : DomId) (on : Bool) (s : State) : Host.Outcome State Fault Refusal := s.ev fun d => d.domWrite dom on
def execRampGrant (s : State) : Host.Outcome State Fault Refusal := s.ev fun d => d.rampGrant
def execRampUpDone (dom : DomId) (ok : Bool) (s : State) : Host.Outcome State Fault Refusal := s.ev fun d => d.rampUp dom ok
def execDomainDrainEnd (dom : DomId) (late : Bool) (s : State) : Host.Outcome State Fault Refusal := s.ev fun d => d.drainEnd dom late
def execRampDownDone (dom : DomId) (s : State) : Host.Outcome State Fault Refusal := s.ev fun d => d.rampDown dom
def execPark (s : State) : Host.Outcome State Fault Refusal := s.ev fun d => d.park
def execCxlMemRead (tag hpa len : Nat) (want : CohState) (s : State) : Host.Outcome State Fault Refusal := s.ev fun d => d.memTake tag false hpa len [] want
def execCxlMemWrite (tag hpa : Nat) (data : List PByte) (s : State) : Host.Outcome State Fault Refusal := s.ev fun d => d.memTake tag true hpa data.length data .inval
def execDoorbellRead (line : Nat) (data : List PByte) (s : State) : Host.Outcome State Fault Refusal := s.ev fun d => d.tailWake (d.doorbellRead line data)
def execDoorbellPoll (ring : RingId) (slot : Option Word) (s : State) : Host.Outcome State Fault Refusal := s.ev fun d => d.tailWake (d.doorbellPoll ring slot)
def execWake (cause : WakeCause) (s : State) : Host.Outcome State Fault Refusal := s.ev fun d => d.wake cause
def execOperatingPointChange (k : ClusterId) (s : State) : Host.Outcome State Fault Refusal := s.ev fun d => d.pointChange k
def execPowerSample (total array stack : Nat) (s : State) : Host.Outcome State Fault Refusal := s.evAux fun d => d.powerSample total array stack
def execBudgetTrimStep (s : State) : Host.Outcome State Fault Refusal := s.ev fun d => d.trimStep
def execPresetWrite (_r : Req) (preset : Fin 4) (s : State) : Host.Outcome State Fault Refusal := s.ev fun d => d.preset 0 preset
def execSagSample (mv12 mvAon10 : Nat) (s : State) : Host.Outcome State Fault Refusal := s.evAux fun d => d.sagSample mv12 mvAon10
def execHaltModuleOff (s : State) : Host.Outcome State Fault Refusal := s.ev fun d => d.haltOff

end Sys2Proof.Machine
end

