-- ==== Sys2Proof/Machine/Thermal.lean ====
section
/-! DEFINITION. Temperature and the timekeeper: sensors, thresholds, bands, the coolant model, HOLD, KCLK, the pacer (R391, R392, R418 to R448). Temperatures are in units of 0.125 °C. -/

namespace Sys2Proof.Machine

/-! Sensors (R418 to R420). Number: cores 0 to 255, regions 256 to 383, DRAM 384 + 128 × layer + column, I/O die 1920 to 1923. -/

/-- Change the thermal unit. -/
def Dev.modTherm (d : Dev) (f : Therm → Therm) : Dev := { d with therm := f d.therm }

/-- The other sensors a sensor is compared with (R419). -/
def sensorGroup (n : Nat) : List Nat :=
  (if n < 256 then (List.range 8).map (· + n / 8 * 8)
   else if n < 384 then (List.range 8).map (· + (256 + (n - 256) / 8 * 8))
   else if n < 1920 then (List.range 8).map (· + (384 + (n - 384) / 8 * 8))
   else (List.range 4).map (· + 1920)).filter (· != n)

/-- The hub of a sensor: one a die, L, U, base, DRAM layers 0 to 11, I/O (R420; log 53). -/
def sensorHub (n : Nat) : Nat := if n < 128 then 0 else if n < 256 then 1 else if n < 384 then 2 else if n < 1920 then 3 + (n - 384) / 128 else 15

/-- The die of a sensor outside the DRAM: 0 base, 1 L, 2 U, 3 I/O (R439). -/
def sensorDie (n : Nat) : Nat := if n < 128 then 1 else if n < 256 then 2 else if n < 384 then 0 else 3

/-- Its unit on that die. -/
def sensorUnit (n : Nat) : Nat := if n < 256 then n else if n < 384 then n - 256 else n - 1920

/-- The location of a sensor in a record: [7:0] unit, [9:8] die, [13:10] layer (R437; log 158). -/
def sensorLoc (n : Nat) : Nat := if 384 ≤ n ∧ n < 1920 then (n - 384) % 128 + 1024 * ((n - 384) / 128) else sensorUnit n + 256 * sensorDie n

/-- The location of a hub: its die or layer (R420, R437; log 158). -/
def hubLoc (h : Nat) : Nat := if h = 0 then 256 else if h = 1 then 512 else if h = 2 then 0 else if h < 15 then 1024 * (h - 3) else 768

/-- Insert into an ascending list. -/
def insertInt (x : Int) : List Int → List Int
  | [] => [x]
  | y :: t => if x ≤ y then x :: y :: t else y :: insertInt x t

/-- Twice the median of a list (log 54: of an even number, the mean of the middle two). -/
def median2 (l : List Int) : Int :=
  let s := l.foldr insertInt []
  s.getD ((s.length - 1) / 2) 0 + s.getD (s.length / 2) 0

/-- The value of a sensor: the median of its last 3 readings (R419). -/
def Therm.val (t : Therm) (n : Nat) : Option Int :=
  match Tbl.get [] t.hist n with
  | [] => none
  | l => some (median2 l / 2)

/-- The value of a sensor that has not failed. -/
def Therm.ok (t : Therm) (n : Nat) : Option Int := if t.failed.contains n then none else t.val n

/-- The largest value among some sensors, and the first that has it. -/
def Therm.hottest (t : Therm) (l : List Nat) : Option (Nat × Int) :=
  l.foldl (fun b n =>
    match t.ok n, b with
    | none, _ => b
    | some v, none => some (n, v)
    | some v, some (_, w) => if w < v then some (n, v) else b) none

/-- The sensors of cluster k. -/
def clusterSensors (k : Nat) : List Nat := (List.range 8).map (· + 8 * k)
/-- The DRAM sensors of column c. -/
def columnSensors (c : Nat) : List Nat := (List.range 12).map fun l => 384 + 128 * l + c
/-- Every sensor outside the DRAM. -/
def dieSensors : List Nat := List.range 384 ++ (List.range 4).map (· + 1920)
/-- Every DRAM sensor. -/
def dramSensors : List Nat := (List.range 1536).map (· + 384)

/-- The readings of a round, with the offset of a hub whose references disagree (R419, R420). -/
def Therm.read (t : Therm) (r : Round) : Therm :=
  let hubs : Tbl Nat := (List.range 16).filterMap fun h =>
    if r.badHubs.contains h then some (h, min 16 (Tbl.get 0 t.hubs h + 1)) else none
  let hist : Tbl (List Int) := (List.range 1924).filterMap fun n =>
    let old := Tbl.get [] t.hist n
    let off : Int := if Tbl.get 0 hubs (sensorHub n) = 16 then 16 else 0
    match r.readings.find? fun p => p.1 == n with
    | some p => some (n, ((p.2 + off) :: old).take 3)
    | none => match old with | [] => none | x :: _ => some (n, (x :: old).take 3)
  { t with hubs := hubs, hist := hist }

/-- Whether a sensor differs by more than 25 °C from its group, if the group can judge (R419). -/
def Therm.differs (t : Therm) (n : Nat) : Bool :=
  let g := (sensorGroup n).filterMap t.ok
  match t.val n with
  | some v => decide (2 ≤ g.length) && decide (400 < (2 * v - median2 g).natAbs)
  | none => false

/-- Failed sensors after a round (R419). -/
def Therm.judge (t : Therm) : Therm :=
  let diff : Tbl Nat := (List.range 1924).filterMap fun n => if t.differs n then some (n, min 16 (Tbl.get 0 t.diff n + 1)) else none
  let new := (List.range 1924).filter fun n => !t.failed.contains n &&
    ((t.val n).any (fun v => decide (v < -160) || decide (1200 < v)) || Tbl.get 0 diff n == 16)
  let failed := t.failed ++ new
  { t with diff := diff, failed := failed, dead := (List.range 32).filter fun k => (clusterSensors k).all fun n => failed.contains n }

/-! Registers of the round (R421, R423, R439, R442). -/

/-- A signed value in 12 bits, held at its ends. -/
def code12 (v : Int) : Nat := ux 12 (max (-2048) (min 2047 v))

/-- The maxima of THM_STATUS (R439). -/
def Dev.thmMaxima (d : Dev) : Dev :=
  let t := d.therm
  let d :=
    match t.hottest dieSensors with
    | some (n, v) =>
      ((d.setFld THM_STATUS.TJ_MAX 0 0 (code12 v)).setFld THM_STATUS.TJ_DIE 0 0 (sensorDie n)).setFld THM_STATUS.TJ_UNIT 0 0 (sensorUnit n)
    | none => d
  match t.hottest dramSensors with
  | some (n, v) => ((d.setFld THM_STATUS.DRAM_MAX 0 0 (code12 v)).setFld THM_STATUS.DRAM_COL 0 0 ((n - 384) % 128)).setFld THM_STATUS.DRAM_LAYER 0 0 ((n - 384) / 128)
  | none => d

/-- How many of three thresholds a value exceeds. -/
def exceeded (l : List Int) (v : Int) : Nat := (l.filter fun x => decide (x < v)).length

/-- The band of column c after a round (R419, R423). -/
def Dev.bandNext (d : Dev) (c : Nat) : Nat :=
  let b := d.bandOf c
  match d.therm.hottest (columnSensors c) with
  | some (_, v) => max (exceeded [680, 760, 840] v) (min b (exceeded [664, 744, 824] v))
  | none => if (columnSensors c).all fun n => d.therm.failed.contains n then 2 else b

/-- THM_BAND and BAND_MAX (R423, R442). -/
def Dev.bandStep (d : Dev) : Dev :=
  let bs := (List.range 128).map d.bandNext
  let d := (List.range 4).foldl (fun d w => d.setFld THM_BAND.BAND 0 w (((List.range 32).map fun i => bs.getD (32 * w + i) 0 * 4 ^ i).sum)) d
  d.setFld THM_STATUS.BAND_MAX 0 0 (bs.foldl max 0)

/-- WARN, CRIT, and base-die or I/O-die sensors at THROTTLE, a condition that lasts until all of them read 3 °C below it (R421, R422). -/
def Dev.thresholds (d : Dev) : Dev :=
  let t := d.therm
  let top := ((t.hottest dieSensors).map (·.2)).getD (-160)
  let all := max top (((t.hottest dramSensors).map (·.2)).getD (-160))
  let d := if !t.warn && decide (760 ≤ all) then ({ d with therm := { t with warn := true } } : Dev).thmEvent 1 .thermalWarn 0x01 d.hotLoc
    else if t.warn && decide (all ≤ 736) then { d with therm := { t with warn := false } } else d
  let d := if !d.therm.crit && decide (880 ≤ all) then (d.modTherm fun t => { t with crit := true }).holdAsk 1
    else if d.therm.crit && decide (all ≤ 856) then (d.modTherm fun t => { t with crit := false }).holdOut 1 else d
  let base := ((t.hottest ((List.range 128).map (· + 256) ++ (List.range 4).map (· + 1920))).map (·.2)).getD (-160)
  if 800 ≤ base ∨ (776 < base ∧ d.therm.baseAt.isSome) then
    if d.therm.baseAt.all fun a => decide (a + 10000000 ≤ d.ns) then d.modTherm fun t => { t with baseAt := some d.ns, limit := max 600 (t.limit - 50) } else d
  else if base ≤ 776 then d.modTherm fun t => { t with baseAt := none } else d

/-! The coolant model (R424 to R429). -/

/-- t_ref in 2^−16 units: INLET while it is valid, else the value learned (R424). -/
def Dev.tRefNow (d : Dev) : Int :=
  if d.bit THM_COOLANT.INLET_VALID 0 0 then sx 12 (d.fld THM_COOLANT.INLET 0 0) * 65536 else d.therm.tRef.getD 0

/-- r_lid × p_lag in 2^−16 units. -/
def Dev.lidRise (d : Dev) : Int := (d.fld THM_CFG.R_LID 0 0 : Int) * d.therm.pLag / 1250

/-- t_lid: the largest layer-11 value. -/
def Dev.tLid (d : Dev) : Option Int := (d.therm.hottest ((List.range 128).map (· + (384 + 128 * 11)))).map (·.2)

/-- The mean of 16 residuals from the i-th newest on: a 1 ms average (R425). -/
def Therm.msAvg (t : Therm) (i : Nat) : Option Int :=
  let l := (t.xs.drop i).take 16
  if l.length = 16 then some (l.foldl (· + ·) 0 / 16) else none

/-- The newest residual. -/
def Therm.x (t : Therm) : Int := t.xs.headD 0

/-- A coolant condition of R426 beyond the rate holds. -/
def Dev.coolBad (d : Dev) : Bool :=
  decide ((d.fld THM_CFG.XDEG 0 0 : Int) * 65536 ≤ d.therm.x) ||
    (d.bit THM_COOLANT.FLOW_VALID 0 0 && decide (d.fld THM_COOLANT.FLOW 0 0 < 150)) ||
    (d.bit THM_COOLANT.INLET_VALID 0 0 && decide (320 < sx 12 (d.fld THM_COOLANT.INLET 0 0)))

/-- COOL and LIMIT of THM_STATUS follow the model (R439). -/
def Dev.coolShow (d : Dev) : Dev :=
  let c := if bitOf (d.fld TK_HOLD.REASON 0 0) 0 then 2 else if d.therm.degraded then 1 else 0
  (d.setFld THM_STATUS.COOL 0 0 c).setFld THM_STATUS.LIMIT 0 0 (d.therm.limit / 2)

/-- DEGRADED begins when one of its conditions holds; its first step is due at once (R426, R427). -/
def Dev.degrade (d : Dev) : Dev :=
  if !d.therm.degraded && (decide (10 ≤ d.therm.slow) || d.coolBad) then d.modTherm fun t => { t with degraded := true, calm := 0, stepAt := d.ns } else d

/-- The residual of a round, RATE_10MS and RISE_FAST (R424, R425, R429). The first round with no valid inlet starts t_ref where x is 0 (log 55). A round of PARKED stands for the 16 of its millisecond (R433). -/
def Dev.residual (d : Dev) : Dev :=
  match d.tLid with
  | none => d
  | some v =>
    let d := if d.therm.tRef = none then d.modTherm fun t => { t with tRef := some (v * 65536 - d.lidRise) } else d
    let x := v * 65536 - (d.tRefNow + d.lidRise)
    let k := if d.power == .parked then 16 else 1
    let d := d.modTherm fun t => { t with xs := (List.replicate k x ++ t.xs).take 176 }
    let d := d.setFld THM_RISE.X 0 0 (code12 (x / 65536))
    let xdeg : Int := d.fld THM_CFG.XDEG 0 0 * 65536
    let hot := decide (xdeg ≤ x) || decide (760 ≤ sx 12 (d.fld THM_STATUS.TJ_MAX 0 0))
    let d := d.modTherm fun t => { t with calmBad := t.calmBad || decide (xdeg ≤ 2 * x), fastBad := t.fastBad || hot }
    match d.therm.msAvg 0, d.therm.msAvg 160 with
    | some a, some b =>
      let d := d.setFld THM_RISE.RATE_10MS 0 0 (code12 ((a - b) * 100 / 65536))
      let n := if 160 * 65536 < (a - b) * 100 then min 2 (d.therm.fast + 1) else 0
      let d := d.modTherm fun t => { t with fast := n }
      if n = 2 then (d.modTherm fun t => { t with fastCalm := 0 }).holdAsk 0 else d
    | _, _ => d

/-- HOUSEKEEPING_ROUND (R419 to R426, R429). -/
def Dev.round (d : Dev) (r : Round) : Dev :=
  let old := d.therm.failed.length
  let hubs := (d.therm.hubs.filter fun p => p.2 == 16).map (·.1)
  let hot (t : Therm) : Bool := t.hist.any fun p => decide (800 ≤ p.2.headD 0)
  let t := d.therm.read r
  let d := { d with therm := t.judge, perstLow := if hot d.therm || hot t then d.ns else d.perstLow }
  let d := if old < d.therm.failed.length ∨ hubs.length < (d.therm.hubs.filter fun p => p.2 == 16).length then
    let newHub := (d.therm.hubs.filter fun p => p.2 == 16 && !(hubs.contains p.1)).map (·.1)
    (d.setBit THM_STATUS.SENSOR_FAULT 0 0 true).thmEvent 1 .sensorFault 0x06
      (if old < d.therm.failed.length then sensorLoc (d.therm.failed.getLastD 0) else hubLoc (newHub.headD 0)) else d
  (((d.thmMaxima.bandStep).thresholds).residual).degrade.coolShow

/-- MODEL_UPDATE: every 1 ms, from the newest 1 ms bin of the power; before the first bin is full, from what the command gives (R407, R424). -/
def Dev.modelUpdate (d : Dev) (p1ms : Nat) : Dev :=
  d.modTherm fun t => { t with pLag := t.pLag + ((d.pwr.bins.headD p1ms : Int) * 65536 - t.pLag) / (max 1 (d.fld THM_CFG.TAU_MS 0 0) : Nat) }

/-- The bin of a RATE_1S (R425). `n`: the rate × 2 × 65536, in units of 0.01 °C/s. -/
def rateBin (n : Int) : Nat := exceeded ([5, 10, 20, 50, 100, 200, 2000].map fun x : Int => x * 131072 - 1) n

/-- RATE_1S_UPDATE: the rate of a second, its bin, the learned t_ref, the seconds of R426 and R431, through each of which x, and TJ_MAX, have to stay below their limits, the forecast (R424 to R431, R443). -/
def Dev.rateUpdate (d : Dev) : Dev :=
  let t := d.therm
  let a := (t.msAvg 0).getD t.x1s
  let n := (a - t.x1s) * 25
  let b := rateBin n
  let d := d.setFld THM_RISE.RATE_1S 0 0 (code12 (n / 131072))
  let h := d.fld THM_RISEHIST.BINS 0 0
  let d := if bitsOf h (8 * b) 8 = 255 then d else d.setFld THM_RISEHIST.BINS 0 0 (h + 2 ^ (8 * b))
  let d := d.hist (0x54C0 + 4 * b) 4 1
  let tj := sx 12 (d.fld THM_STATUS.TJ_MAX 0 0)
  let rise := tj - t.tj1s
  let xdeg : Int := d.fld THM_CFG.XDEG 0 0 * 65536
  let slow := if (d.fld THM_CFG.COOL_SLOW 0 0 : Int) * 131072 ≤ n then min 10 (t.slow + 1) else 0
  let calm := if n ≤ 0 ∧ 2 * t.x < xdeg ∧ !t.calmBad then min 60 (t.calm + 1) else 0
  let fastCalm := if n ≤ 0 ∧ t.x < xdeg ∧ tj < 760 then (if t.fastBad then 1 else min 2 (t.fastCalm + 1)) else 0
  let learn := !d.bit THM_COOLANT.INLET_VALID 0 0 && decide (n < 5 * 131072) && !t.degraded && !d.coolBad
  let ref := match d.tLid, t.tRef with
    | some v, some r => if learn then some (r + (v * 65536 - d.lidRise - r) / 600) else some r
    | _, r => r
  let d := d.modTherm fun t => { t with x1s := a, tj1s := tj, tjRise := rise, slow := slow, calm := calm, fastCalm := fastCalm, calmBad := false, fastBad := false, tRef := ref }
  let d := d.setFld THM_RISE.FORECAST 0 0 (if rise ≤ 0 then 0xFFFF else min 0xFFFF ((800 - tj) / rise).toNat)
  let d := if fastCalm = 2 then d.holdOut 0 else d
  let d := if d.therm.degraded && decide (60 ≤ calm) && !d.coolBad then
    d.modTherm fun t => { t with degraded := false, slow := 0, stepAt := d.ns + max 1 (d.fld THM_CFG.STEP_S 0 0) * 1000000000 } else d.degrade
  d.coolShow

/-- COOLING_DEGRADED: the thermal limit falls by a step while DEGRADED lasts, with a record, and rises by one after it, not while R422 lowers it (R422, R427, R428; log 158). -/
def Dev.coolStep (d : Dev) : Dev :=
  let w := max 1 (d.fld THM_CFG.STEP_W 0 0)
  let next := d.ns + max 1 (d.fld THM_CFG.STEP_S 0 0) * 1000000000
  if d.ns < d.therm.stepAt then d
  else if d.therm.degraded then ((d.modTherm fun t => { t with limit := max 600 (t.limit - w), stepAt := next }).coolShow).thmEvent 1 .coolingDegraded 0x03 0
  else if d.therm.limit < 1200 ∧ d.therm.baseAt = none then (d.modTherm fun t => { t with limit := min 1200 (t.limit + w), stepAt := next }).coolShow
  else d

/-- THROTTLE_STEP of cluster k (R422). -/
def Dev.throttleStep (d : Dev) (k : Nat) : Dev :=
  match d.therm.hottest (clusterSensors k) with
  | none => d
  | some (n, v) =>
    let s := Tbl.get 0 d.therm.down k
    let at' := Tbl.get 0 d.therm.downAt k
    let put (s : Nat) : Dev := d.modTherm fun t => { t with down := Tbl.set 0 t.down k s, downAt := Tbl.set 0 t.downAt k d.ns }
    if 800 ≤ v ∧ s < 6 ∧ (s = 0 ∨ at' + 100000 ≤ d.ns) then
      if s = 0 then (put 1).thmEvent 1 .thermalThrottle 0x02 (sensorLoc n) else put (s + 1)
    else if v < 776 ∧ 0 < s ∧ at' + 10000000 ≤ d.ns then put (s - 1)
    else d

/-! Coolant data (R391, R392). -/

/-- AGE of THM_COOLANT in seconds. -/
def Dev.coolAge (d : Dev) : Nat := min 255 ((d.ns - d.therm.coolAt) / 1000000000)

/-- COOLANT_STALE: AGE reaches STALE and both VALID bits clear (R391, R436). -/
def Dev.coolStale (d : Dev) : Dev :=
  let s := d.fld THM_COOLANT.STALE 0 0
  if s ≠ 0 ∧ s ≤ d.coolAge ∧ (d.bit THM_COOLANT.INLET_VALID 0 0 || d.bit THM_COOLANT.FLOW_VALID 0 0) then
    ((d.setBit THM_COOLANT.INLET_VALID 0 0 false).setBit THM_COOLANT.FLOW_VALID 0 0 false).thmEvent 0 .coolantStale 0x04 0
  else d

/-- A write of THM_COOLANT sets its fields, and AGE to 0 (R391). -/
def Dev.coolSet (d : Dev) (v : Word) : Dev :=
  let d := [THM_COOLANT.INLET, THM_COOLANT.INLET_VALID, THM_COOLANT.FLOW, THM_COOLANT.FLOW_VALID, THM_COOLANT.STALE].foldl
    (fun d f => d.setFld f 0 0 (bitsOf v.toNat f.lo f.w)) (d.modTherm fun t => { t with coolAt := d.ns })
  if d.bit THM_COOLANT.INLET_VALID 0 0 then { d with lapInlet := some (sx 12 (d.fld THM_COOLANT.INLET 0 0)) } else d

/-- THM_COOLANT is written through BAR0, path 0, or by the management controller, path 1: of writes in one cycle the later of R29's order stands (R392). -/
def Dev.coolWrite (d : Dev) (src : Nat) (v : Word) : Dev :=
  let (stands, d) := d.pathStands (arbKey 18 1) d.therm.coolBy src
  if stands then (d.modTherm fun t => { t with coolBy := some (d.ns, src) }).coolSet v else d

/-- The path of a requester (R392). -/
def Req.path : Req → Nat
  | .mgmt => 1
  | _ => 0

/-! KCLK (R432, R445). -/

/-- SLOWCLK_COUNT: KCLK counted over 32,768 SLOWCLK cycles. By how much TRIM moves is open, as is when SLOWCLK counts as within its bounds before KCLK is disciplined (log 56). -/
def Dev.slowCount (d : Dev) (kclk : Nat) : Dev :=
  let err : Int := ((kclk : Int) - 32000000) / 32
  let ok := decide (err.natAbs ≤ if d.bit TK_OSC.DISCIPLINED 0 0 then 500 else 15500)
  if !ok then d
  else
    let (v, d) := d.free
    let d := if err = 0 then d else d.setFld TK_OSC.TRIM 0 0 v.toNat
    let d := (d.setFld TK_OSC.ERR_PPM 0 0 (ux 16 err)).setBit TK_OSC.DISCIPLINED 0 0 (decide (err.natAbs ≤ 150))
    (d.setBit TK_OSC.NO_SLOWCLK 0 0 false).setBit DEV_PINS.SLOWCLK_OK 0 0 true

/-- SLOWCLK_LOST: the fuse trim alone, and a record (R432, R436). -/
def Dev.slowLost (d : Dev) : Dev :=
  if d.bit DEV_PINS.SLOWCLK_OK 0 0 then
    let d := ((d.setBit DEV_PINS.SLOWCLK_OK 0 0 false).setBit TK_OSC.DISCIPLINED 0 0 false).setBit TK_OSC.NO_SLOWCLK 0 0 true
    (d.setFld TK_OSC.TRIM 0 0 d.fuse.trim).thmEvent 1 .slowclkLost 0x07 0
  else d

/-! The pacer (R434, R435, R447, R448). -/

/-- `w` bits of a plan entry. -/
def planBits (e : BitVec 64) (lo w : Nat) : Nat := bitsOf e.toNat lo w

/-- TK_PLAN entry i as it stands. -/
def Dev.planEntry (d : Dev) (i : Nat) : BitVec 64 :=
  BitVec.ofNat 64 (d.fld TK_PLAN.KIND 0 i + d.fld TK_PLAN.VALID 0 i * 4 + d.fld TK_PLAN.DURATION_MS 0 i * 2 ^ 8 + d.fld TK_PLAN.POWER_W 0 i * 2 ^ 32)

/-- PLAN_HOT when the coming entry's forecast is 95 °C or more (R434). -/
def Dev.planHot (d : Dev) (e : BitVec 64) : Dev :=
  if 760 * 65536 ≤ d.tRefNow + (d.fld THM_CFG.R_JUNC 0 0 : Int) * (planBits e 32 11) * 65536 / 1250 then d.thmEvent 0 .planHot 0x05 0 else d

/-- The caps and PHASE of a preset: ARRAY and STACK codes (R409). -/
def presetCaps (p : Nat) : Nat × Nat × Nat := if p = 1 then (0, 110, 350) else if p = 2 then (1, 400, 100) else (0, 250, 225)

/-- PACE_START: entry 0 begins at the next millisecond; its preset is written at once (R434). -/
def Dev.paceStart (d : Dev) : Dev :=
  if !d.bit TK_PACE.EN 0 0 then d
  else
    let e := d.planEntry 0
    if planBits e 2 1 = 0 then (d.setBit TK_PACE.RUNNING 0 0 false).setFld TK_PACE.CUR 0 0 0
    else
      let aux := d.auxAt.getD 0
      let start := aux + ((d.ns - aux) / 1000000 + 1) * 1000000
      let d := ({ d with pace := ⟨e, start, false, none⟩ } : Dev)
      let d := (d.setBit TK_PACE.RUNNING 0 0 true).setFld TK_PACE.CUR 0 0 0
      (if planBits e 0 2 = 0 then d else d.preset 1 (planBits e 0 2)).planHot e

/-- When the running entry ends. -/
def Dev.paceEndAt (d : Dev) : Nat := d.pace.at' + planBits d.pace.entry 8 24 * 1000000

/-- The pacer writes PRESET 0 with PHASE or caps of its own; of PRESET writes in one cycle the later of R29's order stands (R412, R435). -/
def Dev.paceCaps (d : Dev) (f : Dev → Dev) : Dev :=
  let (stands, d) := d.pathStands (arbKey 18 0) d.pwr.presetBy 1
  if stands then f (({ d with pwr := { d.pwr with presetBy := some (d.ns, 1) } } : Dev).setFld PWR_LIMIT.PRESET 0 0 0) else d

/-- The preset of the coming entry is written, in one step or as the start of a spread (R434, R435). -/
def Dev.paceLead (d : Dev) : Dev :=
  let d := { d with pace := { d.pace with led := true } }
  let i := d.fld TK_PACE.CUR 0 0 + 1
  let e := d.planEntry i
  if i = 16 ∨ planBits e 2 1 = 0 then d
  else
    let d := d.planHot e
    let kind := planBits e 0 2
    if kind = 0 then d
    else if planBits d.pace.entry 32 11 + d.fld TK_PACE.SWING_W 0 0 < planBits e 32 11 then
      let (ph, a, s) := presetCaps kind
      let a0 := d.fld PWR_LIMIT.ARRAY_CAP 0 0
      let s0 := d.fld PWR_LIMIT.STACK_CAP 0 0
      let d := d.paceCaps fun d => ((d.setFld PWR_LIMIT.PHASE 0 0 ph).setFld PWR_LIMIT.ARRAY_CAP 0 0 (min a a0)).setFld PWR_LIMIT.STACK_CAP 0 0 (min s s0)
      { d with pace := { d.pace with spread := some ((min a a0, a), (min s s0, s), 0) } }
    else d.preset 1 kind

/-- PACE_PRESET (R434). -/
def Dev.pacePreset (d : Dev) : Dev :=
  if d.bit TK_PACE.RUNNING 0 0 && !d.pace.led && decide (d.paceEndAt ≤ d.ns + d.fld TK_PACE.LEAD_MS 0 0 * 1000000) then d.paceLead else d

/-- PACE_SPREAD_STEP: one of 8 steps of the rising pool's cap, once its entry has begun (R435). -/
def Dev.paceSpread (d : Dev) : Dev :=
  match d.pace.spread with
  | none => d
  | some ((a, a'), (s, s'), k) =>
    if !d.bit TK_PACE.RUNNING 0 0 ∨ d.pace.led ∨ d.ns < d.pace.at' + d.fld TK_PACE.SPREAD_MS 0 0 * 1000000 * k / 8 then d
    else
      let k := k + 1
      let d := d.paceCaps fun d => (d.setFld PWR_LIMIT.ARRAY_CAP 0 0 (a + (a' - a) * k / 8)).setFld PWR_LIMIT.STACK_CAP 0 0 (s + (s' - s) * k / 8)
      { d with pace := { d.pace with spread := if k = 8 then none else some ((a, a'), (s, s'), k) } }

/-- PACE_ENTRY_END: the next entry begins, or the plan ends (R434, R447). -/
def Dev.paceEnd (d : Dev) : Dev :=
  if !d.bit TK_PACE.RUNNING 0 0 ∨ d.ns < d.paceEndAt then d
  else
    let d := if d.pace.led then d else d.paceLead
    let i := d.fld TK_PACE.CUR 0 0 + 1
    let e := d.planEntry i
    if i = 16 ∨ planBits e 2 1 = 0 then { d.setBit TK_PACE.RUNNING 0 0 false with pace := { d.pace with spread := none } }
    else { d.setFld TK_PACE.CUR 0 0 i with pace := { d.pace with entry := e, at' := d.paceEndAt, led := false } }

/-- FORCE_HOLD: TK_HOLD.FORCE until step 10 completes (R11, R431, R446). -/
def Dev.forceHold (d : Dev) (on : Bool) : Dev :=
  if 10 ≤ d.done then d
  else
    let d := d.setBit TK_HOLD.FORCE 0 0 on
    if on then d.holdAsk 3 else d.holdOut 3

/-! The commands. -/

def execHousekeepingRound (round : Round) (s : State) : Host.Outcome State Fault Refusal := s.evAux fun d => d.round round
def execThrottleStep (k : ClusterId) (s : State) : Host.Outcome State Fault Refusal := s.evAux fun d => d.throttleStep k
def execModelUpdate (p1ms : Nat) (s : State) : Host.Outcome State Fault Refusal := s.evAux fun d => d.modelUpdate p1ms
def execRate1sUpdate (s : State) : Host.Outcome State Fault Refusal := s.evAux fun d => d.rateUpdate
def execCoolingDegraded (s : State) : Host.Outcome State Fault Refusal := s.evAux fun d => d.coolStep
def execSlowclkCount (kclk : Nat) (s : State) : Host.Outcome State Fault Refusal := s.evAux fun d => d.slowCount kclk
def execSlowclkLost (s : State) : Host.Outcome State Fault Refusal := s.evAux fun d => d.slowLost
def execPaceStart (s : State) : Host.Outcome State Fault Refusal := s.evAux fun d => d.paceStart
def execPacePreset (s : State) : Host.Outcome State Fault Refusal := s.evAux fun d => d.pacePreset
def execPaceSpreadStep (s : State) : Host.Outcome State Fault Refusal := s.evAux fun d => d.paceSpread
def execPaceEntryEnd (s : State) : Host.Outcome State Fault Refusal := s.evAux fun d => d.paceEnd
def execForceHold (_r : Req) (on : Bool) (s : State) : Host.Outcome State Fault Refusal := s.evAux fun d => d.forceHold on
def execCoolantWrite (r : Req) (value : Word) (s : State) : Host.Outcome State Fault Refusal := s.evAux fun d => d.coolWrite (Req.path r) value
def execCoolantStale (s : State) : Host.Outcome State Fault Refusal := s.evAux fun d => d.coolStale

end Sys2Proof.Machine
end

