-- ==== Sys2Proof/Machine/Integrity.lean ====
section
/-! DEFINITION. Split-write test mode and patrol scrub, and the enabling of a port snoop (R459, R461, R462, R466, R474, R475). -/

namespace Sys2Proof.Machine

/-! Split-write test mode. -/

/-- GO has an effect before STARTER step 10 completes, and while debug is unlocked with its permission, or was never locked (R459, R564, R565). -/
def Dev.splitOpen (d : Dev) : Bool :=
  decide (d.done < 10) || !d.fuse.debugLock || (d.bit SEC_STATUS.DEBUG_UNLOCKED 0 0 && bitOf (d.fld SEC_STATUS.PERMS 0 0) 1)

/-- The target lies in a store that split mode reaches (R459). -/
def Dev.splitHas (d : Dev) (a : Nat) : Bool := decide (a + 32 ≤ stackEnd) || d.scratchBacked a 32 || lsBacked a 32 || d.gddrHas a 32

/-- What the target's controller holds for its row, or its buffer, is carried out first (R459: the per-codeword order; log 136). -/
def Dev.splitSettle (d : Dev) (a : Nat) : Dev :=
  if a + 32 ≤ stackEnd then d.slcSettle (stackCore a) fun r => r == stackRow a
  else if d.gddrHas a 32 then d.gddrNeed (a - gddrBase) 32
  else if d.scratchBacked a 32 && !d.scratchTurn (scratchRegion a) a then d.regFinish (scratchRegion a)
  else d

/-- DATA0 to DATA3 as bytes. -/
def Dev.splitBytes (d : Dev) : List Byte := (List.range 4).flatMap fun i => toBytes 8 (d.fld ECC_SPLIT_DATA.DATA 0 i)

/-- CHECK: C_top in the low byte, C_bot in the high. -/
def Dev.splitCheckWord (d : Dev) : BitVec 16 := BitVec.ofNat 16 (d.fld ECC_SPLIT_CHECK.C_TOP 0 0 + 256 * d.fld ECC_SPLIT_CHECK.C_BOT 0 0)

/-- The tag of the codeword of a local address: bits [36:5] (R451). -/
def cwTag (a : Nat) : Nat := bitsOf a 5 32

/-- The check bits stored with a codeword. -/
def Dev.rawCheck (d : Dev) (a : Nat) : BitVec 16 := Tbl.get 0 d.chk (a / 32) ^^^ hxCheck (d.cwData (a / 32)) (cwTag a)

/-- Store 32 bytes and 16 check bits in a codeword as they are. -/
def Dev.putRaw (d : Dev) (a : Nat) (b : List Byte) (chk : BitVec 16) : Dev :=
  { d with mem := storeBytes d.mem (32 * (a / 32)) b, chk := Tbl.set 0 d.chk (a / 32) (chk ^^^ hxCheck b (cwTag a)) }

/-- The code of a class in ECC_SPLIT_CTL.CLASS (R474). -/
def CwClass.code : CwClass → Nat
  | .clean => 0
  | .corr _ => 1
  | .uncorr => 2
  | .addr => 3
  | .poison => 4

/-- READ: data and check bits uncorrected, with syndrome and class (R459). -/
def Dev.splitReport (d : Dev) (a : Nat) : Dev :=
  let b := d.cwData (a / 32)
  let syn := Tbl.get 0 d.chk (a / 32)
  let raw := d.rawCheck a
  let d := (List.range 4).foldl (fun d i => d.setFld ECC_SPLIT_DATA.DATA 0 i (ofBytes ((b.drop (8 * i)).take 8))) d
  let d := (d.setFld ECC_SPLIT_CHECK.C_TOP 0 0 (raw.toNat % 256)).setFld ECC_SPLIT_CHECK.C_BOT 0 0 (raw.toNat / 256)
  (d.setFld ECC_SPLIT_CTL.SYNDROME 0 0 syn.toNat).setFld ECC_SPLIT_CTL.CLASS 0 0 (hxClass syn).code

/-- A write of GO to ECC_SPLIT_CTL with a MODE (R459). -/
def Dev.splitGo (d : Dev) (mode : Nat) : Dev :=
  let d := d.setFld ECC_SPLIT_CTL.MODE 0 0 mode
  let a := 32 * d.fld ECC_SPLIT_ADDR.ADDR 0 0
  if !d.splitOpen || !d.splitHas a then d.setBit ECC_SPLIT_CTL.ERR 0 0 true
  else
    let d := d.splitSettle a
    match mode with
    | 0 => d.putRaw a d.splitBytes (d.rawCheck a)
    | 1 => d.putRaw a (d.cwData (a / 32)) d.splitCheckWord
    | 2 => d.putRaw a d.splitBytes d.splitCheckWord
    | _ => d.splitReport a

/-! Patrol scrub. -/

/-- The row slot goes to a scrub read of a row: nothing of the classes above it takes the slot, the windows allow an ACT and the bank is free (R163). -/
def Dev.scrubFree (d : Dev) (n row : Nat) : Bool :=
  d.slotOpen n && d.actFree n row && d.bankFree n (rowBank row) &&
    match (d.rowSlot n).1 with
    | .none | .mrw => true
    | _ => false

/-- A scrub read of a whole row, in a background slot: its corrections feed the stuck-lane detector and are written back, by a second row move in the next slot it is left (R154, R155, R163, R461, R462). -/
def Dev.scrubRow (d : Dev) (a : Nat) (flips : List BitFlip) : Dev :=
  let n := stackCore a
  let row := stackRow a
  let cws := d.rowDecode n row flips
  let fixed := cws.any fun c => match c.2.1 with | .corr _ => true | _ => false
  let d := (d.setSlice n (((d.slice n).tookSlot d.ns).activated d.ns row 40)).pmcCore n 0x0C 1
  let d := if fixed then d.rowBook n row 40 else d
  cws.foldl (fun e c => match c.2.1 with | .corr _ => e.putCw (rowCw n row c.1) c.2.2 | _ => e) (d.rowEvents n row cws)

/-- A scrub read in the base cache joins the controller's queue with the accesses of index 4 (R231, R461). -/
def Dev.scrubCache (d : Dev) (a : Nat) (flips : List BitFlip) : Dev :=
  let scr := d.scratchBacked (a / 32 * 32) 32
  let c := if scr then scratchRegion a else homeRegion a
  if d.regionReach c then d.regPut c (a / 4096) 4 [a / 64 % 32] (.scrub (if scr then a / 32 else cacheKey a / 32) flips) else d

/-- A scrub read of a codeword of a local store, or of an I-store or D-store by its key (R461). -/
def Dev.scrubLs (d : Dev) (a : Nat) (flips : List BitFlip) : Dev :=
  if lsBacked (a / 32 * 32) 32 then
    let n := (a - lsBase) / 2 ^ 22
    let r := d.scrubOne (a / 32) flips
    r.2.lsEcc n 0 (a / 32) ((a - lsBase) % 2 ^ 22 / 32 * 32) r.1
  else if 2 ^ 52 ≤ a ∧ a < storeKey 256 0 0 then
    let n := (a - 2 ^ 52) / 2 ^ 17
    let dd := bitsOf a 16 1
    let r := d.scrubOne (a / 32) flips
    r.2.lsEcc n (1 + dd) (a / 32) (a % 65536 / 32 * 32) r.1
  else d

/-- A scrub read in the usable GDDR capacity, of the BACKGROUND class (R363, R461). -/
def Dev.scrubGddr (d : Dev) (a : Nat) (flips : List BitFlip) : Dev :=
  if d.gddrHas (a / 32 * 32) 32 then
    let d := d.gdrSlot (d.gdrChan (a - gddrBase))
    let r := d.scrubOne (a / 32) flips
    r.2.gdrEvent (d.gdrChan (a - gddrBase)) (a / 32) r.1
  else d

/-- PATROL_SCRUB: one scrub read of a store, and what ECC_SCRUB shows after it; a read of the stack waits for its row slot, one of GDDR for an idle channel (R163, R363, R461, R475). PROGRESS is a free value: how far a pass has come is not the read's to tell (log 57). -/
def Dev.scrub (d : Dev) (store a : Nat) (flips : List BitFlip) (passEnd late : Bool) : Dev :=
  if d.power ≠ .run ∨ (store = 0 ∧ a < stackEnd ∧ !d.scrubFree (stackCore a) (stackRow a)) ∨
     (store = 3 ∧ d.gddrHas (a / 32 * 32) 32 ∧ !d.gdrIdle (d.gdrChan (a - gddrBase))) then d
  else
    let d :=
      match store with
      | 0 => if a < stackEnd then d.scrubRow a flips else d
      | 1 => d.scrubCache a flips
      | 2 => d.scrubLs a flips
      | _ => d.scrubGddr a flips
    if passEnd then ((d.count ECC_SCRUB.PASSES 0 store 1).setFld ECC_SCRUB.PROGRESS 0 store 0).setBit ECC_SCRUB.BEHIND 0 store late
    else
      let (v, d) := d.free
      let d := d.setFld ECC_SCRUB.PROGRESS 0 store (v.toNat % 1000)
      if late then d.setBit ECC_SCRUB.BEHIND 0 store true else d

/-! The commands. -/

def execSplitData (s : State) : Host.Outcome State Fault Refusal := s.ev fun d => d.splitGo 0
def execSplitCheck (s : State) : Host.Outcome State Fault Refusal := s.ev fun d => d.splitGo 1
def execSplitRaw (s : State) : Host.Outcome State Fault Refusal := s.ev fun d => d.splitGo 2
def execSplitRead (s : State) : Host.Outcome State Fault Refusal := s.ev fun d => d.splitGo 3
def execPatrolScrub (store : Fin 4) (addr : Nat) (flips : List BitFlip) (passEnd late : Bool) (s : State) : Host.Outcome State Fault Refusal :=
  s.ev fun d => d.scrub store addr flips passEnd late
def execChkSnoopEnable (_r : Req) (unit : Fin 36) (s : State) : Host.Outcome State Fault Refusal :=
  s.ev fun d => let e := d.setBit CHK_SNOOP.EN unit 0 true
    if d.bit CHK_SNOOP.EN unit 0 then e.chkSnoopSettle unit else e.chkSnoopOn unit

end Sys2Proof.Machine
end

