-- ==== Sys2Proof/Machine/Lanes.lean ====
section
/-! DEFINITION. Repair in service: spare swaps, command parity, calibration bursts, lane retirement, the replay and the hard fault of the die-to-die link, the lap counter's samples (R479 to R501, R544). -/

namespace Sys2Proof.Machine

/-! Groups and spares (R479, R480, R500). -/

/-- State of data group j of core n: 0 spare free, 1 used, 2 bad, 3 unrepairable (R500). -/
def Dev.grpState (d : Dev) (n j : Nat) : Nat := bitsOf (d.fld LNK_GRPMAP.STATE n (j / 32)) (2 * (j % 32)) 2

/-- Set the state of data group j of core n. -/
def Dev.setGrp (d : Dev) (n j v : Nat) : Dev :=
  let w := d.fld LNK_GRPMAP.STATE n (j / 32)
  d.setFld LNK_GRPMAP.STATE n (j / 32) (w - bitsOf w (2 * (j % 32)) 2 * 2 ^ (2 * (j % 32)) + v % 4 * 2 ^ (2 * (j % 32)))

/-- Repair position of a group: 32 while the spare is unused (R480). -/
def Dev.repairAt (d : Dev) (n g : Nat) : Nat := Tbl.get 32 d.repair (512 * n + g)

/-- The physical connection that logical connection i of a group uses (R480). -/
def Dev.physical (d : Dev) (n g i : Nat) : Nat := if i < d.repairAt n g then 33 * g + i else 33 * g + i + 1

/-- Set the repair position of a group. -/
def Dev.setRepair (d : Dev) (n g s : Nat) : Dev := { d with repair := Tbl.set 32 d.repair (512 * n + g) s }

/-- A repair event (R495). -/
def Dev.lnkErr (d : Dev) (bit : Fld) (unit conn : Nat) : Dev :=
  d.raise [LNK_ERR.SWAP, LNK_ERR.NOSPARE, LNK_ERR.CA_FAULT, LNK_ERR.LANE_RETIRED, LNK_ERR.LAST_LANE, LNK_ERR.D2D_FATAL] LNK_ERR.MULTIPLE 0 0 bit
    [(LNK_ERR.FIRST_UNIT, unit), (LNK_ERR.FIRST_CONN, conn)]

/-! Online spare swap (R483, R484). -/

/-- A second connection of a group has failed, or its spare had: the group is unrepairable. -/
def Dev.grpLost (d : Dev) (n j : Nat) : Dev :=
  match d.grpState n j with
  | 1 => (d.setGrp n j 3).count LNK_SLICE.DATA_BAD n 0 1
  | 2 => d.setGrp n j 3
  | _ => d

/-- The swap of connection v commits: its group's spare takes it, and the row path resumes after 7 SCLK of settling (R480, R482 to R484). -/
def Dev.swapCommit (d : Dev) (n v : Nat) : Dev :=
  let s := d.slice n
  let d := d.setSlice n { s with
    swapReq := s.swapReq.erase v, swapStep := .idle, swapped := s.swapped ++ [v], stopFree := d.ns + 1007, noActUntil := max s.noActUntil (d.ns + 7) }
  let d := ((d.setGrp n (v / 32) 1).setRepair n (v / 32) (v % 32)).count LNK_SLICE.DATA_USED n 0 1
  ((d.count LNK_SLICE.SWAPS n 0 1).lnkErr LNK_ERR.SWAP n v).journal 0x04 [n, 0, v]

/-- SPARE_SWAP: the oldest declaration of a slice is handled. With its group's spare free its staging begins, twelve MRW; with the layers written and the row path quiet the swap commits. With no spare narrow mode follows at once (R170, R171, R175, R482 to R484). -/
def Dev.spareSwap (d : Dev) (n : Nat) : Dev :=
  let s := d.slice n
  match s.swapReq with
  | [] => d
  | v :: rest =>
    match s.swapStep with
    | .staging => d
    | .stopped => if s.opens = [] ∧ s.moves = [] then d.swapCommit n v else d
    | .idle =>
      if d.grpState n (v / 32) = 0 ∧ d.bit LNK_CFG.SWAP_EN 0 0 then
        if s.mode = .switching ∨ s.narrowHalf ≠ none then d
        else d.setSlice n { s with swapStep := .staging, mrwLeft := List.range 12 }
      else
        let d := (d.setSlice n { s with swapReq := rest }).lnkErr LNK_ERR.NOSPARE n v
        ((d.grpLost n (v / 32)).journal 0x04 [n, 0, v]).connDead n v

/-! Command connections (R485). -/

/-- Answer the read requests that a row was opened for with poison and UNCORRECTABLE. -/
def Dev.rowFail (d : Dev) (n row seq : Nat) : Dev :=
  let s := d.slice n
  let reads := s.net.filter fun e => !e.req.write && e.row == row && decide (e.seq < seq)
  let rows := s.rowQ.filter fun e => e.row == row && decide (e.seq < seq)
  let d := d.setSlice n { s with
    net := s.net.filter fun e => !(!e.req.write && e.row == row && decide (e.seq < seq))
    rowQ := s.rowQ.filter fun e => !(e.row == row && decide (e.seq < seq)) }
  let d := reads.foldl (fun d e => d.memReply e.req.src .uncorr (poisonBytes e.req.len)) d
  rows.foldl (fun d e => d.rowAns n e .uncorr (poisonBytes 1024)) d

/-- PARITY_ALERT: the layer has ignored the latest command; it is issued again, its ACT with it, in the first row slot that the windows leave (R154, R155, R157); a second failure answers the request with poison. A write whose command fails twice goes back to WB (R485; log 59). -/
def Dev.parityAlert (d : Dev) (n : Nat) (again : Bool) : Dev :=
  let s := d.slice n
  match s.opens.getLast? with
  | some o =>
    if !again then
      let t := d.bookAt n o.row 128 (max d.ns (max s.noActUntil s.calibAt))
      d.setSlice n { s.booked d.ns t o.row 40 with opens := s.opens.dropLast ++ [{ o with at' := t }] }
    else
      match o.write with
      | some w => d.setSlice n { s with opens := s.opens.dropLast, wb := w :: s.wb }
      | none => (d.setSlice n { s with opens := s.opens.dropLast }).rowFail n o.row o.seq
  | none =>
    match s.moves.getLast? with
    | none => d
    | some m =>
      if !again then d.setSlice n { s with moves := s.moves.dropLast ++ [{ m with at' := d.ns }] }
      else (d.setSlice n { s with moves := s.moves.dropLast }).rowFail n m.row m.seq

/-- A command connection found failed: it is retired, and its group's spare takes it through a stop of the row path after the burst, or CA_FAULT is set (R482 to R485). A group already given up reports nothing again (log 59). -/
def Dev.caFound (d : Dev) (n g conn : Nat) : Dev :=
  let key := 16 * n + g
  let retire (d : Dev) : Dev := d.journal 0x04 [n, 1, 32 * g + conn % 32]
  match Tbl.get 0 d.caGrp key with
  | 0 =>
    let d := { d with caGrp := Tbl.set 0 d.caGrp key 1 }
    let s := d.slice n
    let d := d.setSlice n { s with noActUntil := max s.noActUntil (d.ns + 87), stopFree := d.ns + 1087 }
    let d := ((d.setRepair n (300 + g) (conn % 32)).count LNK_SLICE.CA_USED n 0 1).count LNK_SLICE.SWAPS n 0 1
    retire (d.lnkErr LNK_ERR.SWAP n conn)
  | 3 => d
  | _ =>
    let d := { d with caGrp := Tbl.set 0 d.caGrp key 3 }
    retire (((d.setBit LNK_SLICE.CA_FAULT n 0 true).lnkErr LNK_ERR.CA_FAULT n conn).event 2 .caFault [n, g, conn])

/-- LAYER_CALIBRATION: a burst of up to 80 SCLK in a background slot that no request and no REFpb takes, which loops back every command connection; while no stop may begin, those found failed wait for a later burst (R163, R484, R485). -/
def Dev.layerCal (d : Dev) (n : Nat) (bad : List (Nat × Nat)) : Dev :=
  match d.rowSlot n with
  | (.none, d) | (.mrw, d) =>
    if !d.slotOpen n then d
    else
      let s := d.slice n
      let bad := if s.stopFree ≤ d.ns then bad.filter fun p => decide (p.1 < 9) else []
      let d := d.setSlice n { s with lastSlot := some d.ns, calibAt := d.ns + 80 }
      bad.foldl (fun d p => d.caFound n p.1 p.2) d
  | _ => d

/-! Flit lanes (R486). -/

/-- Number of a router in the tables. -/
def routerNo : RouterId → Nat
  | .cluster k => k
  | .base c => 32 + c
  | .io => 160

/-- Flit lanes of an input port of a router (R23); a port the spec gives no width has one (log 60). -/
def laneCount (r port : Nat) : Nat :=
  if r < 32 then
    (if 9 ≤ port ∧ port ≤ 12 then 2 else if 13 ≤ port ∧ port ≤ 20 then (if r < 16 then 6 else 5) else if port = 21 then 4 else 1)
  else if r < 160 then (if 3 ≤ port ∧ port ≤ 6 then 2 else if port = 7 then 6 else if port = 8 then 5 else 1)
  else 1

/-- Lanes of an input port still in use. -/
def Dev.lanesUp (d : Dev) (r port : Nat) : List Nat := (List.range (laneCount r port)).filter fun l => !d.laneOff.contains (r, port, l)

/-- The field of LNK_COLUMN that counts a port's retired lanes, and its column (R501). -/
def laneColumn (r port : Nat) : Option (Nat × Fld) :=
  if r < 32 then (if 13 ≤ port ∧ port ≤ 20 then some (r % 16 * 8 + (port - 13), if r < 16 then LNK_COLUMN.L_UP else LNK_COLUMN.U_UP) else none)
  else if r < 160 then (if port = 7 then some (r - 32, LNK_COLUMN.L_DOWN) else if port = 8 then some (r - 32, LNK_COLUMN.U_DOWN) else none)
  else none

/-- Key of an input lane. -/
def laneKey (r port lane : Nat) : Nat := r * 1024 + port * 16 + lane

/-- An FCHECK mismatch at an input lane (R21, R457, R486, R501, R532). -/
def Dev.fcheckBad (d : Dev) (r port lane : Nat) : Dev :=
  let k := laneKey r port lane
  let d := { d with laneErr := Tbl.set [] d.laneErr k ((d.ns :: Tbl.get [] d.laneErr k).take 16) }
  let d := (d.count ECC_CNT.UNCORR 0 8 1).histEcc 8 1
  let d := if r < 32 then d.pmcCluster r 0x05 1 else d
  match laneColumn r port with
  | some (c, _) => d.count LNK_COLUMN.FCHECK c 0 1
  | none => d

/-- Sixteen mismatches of a lane lie within 1 ms. -/
def Dev.laneBad (d : Dev) (r port lane : Nat) : Bool :=
  let l := Tbl.get [] d.laneErr (laneKey r port lane)
  l.length == 16 && decide (l.headD 0 ≤ l.getLastD 0 + 1000000)

/-- LANE_RETIRE: a lane with 16 mismatches in 1 ms is retired, unless it is the last of its port (R482, R486). -/
def Dev.laneRetire (d : Dev) (r port lane : Nat) : Dev :=
  if !d.laneBad r port lane || !(d.lanesUp r port).contains lane || !d.bit LNK_CFG.RETIRE_EN 0 0 then d
  else
    let d := { d with laneErr := Tbl.set [] d.laneErr (laneKey r port lane) [] }
    let unit := match laneColumn r port with | some (c, _) => c | none => r
    if d.lanesUp r port = [lane] then (d.lnkErr LNK_ERR.LAST_LANE unit (16 * port + lane)).event 2 .lastLane [r, port, lane]
    else
      let d := { d with laneOff := d.laneOff ++ [(r, port, lane)] }
      let d := (d.count LNK_STATUS.LANES_RETIRED 0 0 1).lnkErr LNK_ERR.LANE_RETIRED unit (16 * port + lane)
      let d := match laneColumn r port with | some (c, f) => d.count f c 0 1 | none => d
      d.journal 0x04 [r, 2, 16 * port + lane]

/-! The die-to-die link (R488 to R491). -/

/-- A lane group; after training its receiver expects SEQ 0. -/
def Dev.grp (d : Dev) (g : Nat) : D2dGroup := Tbl.get ⟨0, false, 0, 0⟩ d.d2d g
/-- Replace a lane group. -/
def Dev.setD2d (d : Dev) (g : Nat) (x : D2dGroup) : Dev := { d with d2d := Tbl.set ⟨0, false, 0, 0⟩ d.d2d g x }

/-- D2D_REPLAY: a NAK with the last good SEQ makes the sender resend from the frame after it (R490). -/
def Dev.d2dReplay (d : Dev) (g last : Nat) : Dev :=
  let x := d.grp g
  if d.bit LNK_STATUS.D2D_UP 0 0 ∧ x.nak ∧ (last + 1) % 4096 = x.next then (d.setD2d g { x with nak := false, replays := x.replays + 1, at' := d.ns }).retryCount g else d

/-- The link is down: every host request is answered, every descriptor ends with RESET_ABORT (R491). -/
def Dev.linkLost (d : Dev) : Dev :=
  let d := (d.port.map (·.tag)).foldl (fun d t => d.portReply t .resetAbort (poisonBytes (((d.port.find? fun r => r.tag == t).map (·.len)).getD 0))) d
  (d.rings.map (·.1)).foldl (fun d i => d.ringAbort i .resetAbort) d

/-- D2D_HARD_FAULT: a lane has lost lock, or a frame has been replayed 8 times and not received in the cycle of the 8th (R491, R493, R495, R497). -/
def Dev.d2dHard (d : Dev) (g lane : Nat) (lost : Bool) : Dev :=
  if !d.bit LNK_STATUS.D2D_UP 0 0 || (!lost && decide ((d.grp g).replays < 8 ∨ d.ns ≤ (d.grp g).at')) then d
  else
    let why := if lost then 1 else 2
    let code := lane + 16 * (g % 8) + 128 * (g / 8)
    let d := (d.setBit LNK_STATUS.D2D_UP 0 0 false).setBit LNK_STATUS.D2D_FATAL 0 0 true
    let d := (d.setFld LNK_D2D.FATAL_LANE 0 0 code).setFld LNK_D2D.FATAL_WHY 0 0 why
    let d := { (d.lnkErr LNK_ERR.D2D_FATAL g lane).event 3 .d2dFatal [code, why] with fatal := true }
    ((d.journal 0x06 [code, why]).viralSig).linkLost

/-! The lap counter (R492). -/

/-- The mean of two sensors in units of 0.0625 °C, if neither has failed. -/
def Therm.mean2 (t : Therm) (a b : Nat) : Option Int := (t.ok a).bind fun x => (t.ok b).map fun y => x + y

/-- The largest of some means. -/
def largest (l : List (Option Int)) : Option Int := l.foldl (fun m x => match m, x with | none, x => x | some a, some b => some (max a b) | some a, none => some a) none

/-- The input of interface i, in units of 0.0625 °C (R492). -/
def Therm.lapInput (t : Therm) (i : Nat) : Option Int :=
  let cols := List.range 128
  match i with
  | 0 => (t.hottest ((List.range 4).map (· + 1920))).map fun p => 2 * p.2
  | 1 => (t.hottest ((List.range 128).map (· + 256))).map fun p => 2 * p.2
  | 2 => largest (cols.map fun c => t.mean2 (256 + c) c)
  | 3 => largest (cols.map fun c => t.mean2 c (c + 128))
  | 4 => largest (cols.map fun c => t.mean2 (c + 128) (384 + c))
  | _ => largest (cols.map fun c => t.mean2 (384 + 128 * (i - 5) + c) (384 + 128 * (i - 4) + c))

/-- LAP_SAMPLE: each interface takes its input, if it has one (R492, R544). -/
def Dev.lapRound (d : Dev) : Dev :=
  (List.range 16).foldl (fun d i => match d.therm.lapInput i with | some x => d.lapSample i x | none => d) d

/-! The commands. -/

def execSpareSwap (core : CoreId) (s : State) : Host.Outcome State Fault Refusal := s.ev fun d => d.spareSwap core
def execParityAlert (core : CoreId) (_group : Fin 9) (again : Bool) (s : State) : Host.Outcome State Fault Refusal := s.ev fun d => d.parityAlert core again
def execLayerCalibration (core : CoreId) (badCmdConn : List (Nat × Nat)) (s : State) : Host.Outcome State Fault Refusal :=
  s.ev fun d => d.layerCal core badCmdConn
def execLaneRetire (router : RouterId) (port lane : Nat) (s : State) : Host.Outcome State Fault Refusal :=
  s.ev fun d => d.laneRetire (routerNo router) port lane
def execD2dReplay (group : Fin 16) (lastGood : BitVec 12) (s : State) : Host.Outcome State Fault Refusal := s.ev fun d => d.d2dReplay group lastGood.toNat
def execD2dHardFault (group : Fin 16) (lane : Fin 13) (lostLock : Bool) (s : State) : Host.Outcome State Fault Refusal :=
  s.ev fun d => d.d2dHard group lane lostLock
def execLapSample (s : State) : Host.Outcome State Fault Refusal := s.ev fun d => d.lapRound

end Sys2Proof.Machine
end

