-- ==== Sys2Proof/Machine/Perf.lean ====
section
/-! DEFINITION. Counters of cycles, FREEZE, PLDM sensors, and the seconds and weeks of the life log (R527 to R543, R549). -/

namespace Sys2Proof.Machine

/-! Counters of cycles. -/

/-- Bring every counter of cluster k and its cores up to now. -/
def Dev.pmcSettleAll (d : Dev) (k : Nat) : Dev :=
  let d := (List.range 8).foldl (fun d j => d.pmcSettleCore (8 * k + j)) d
  (List.range 8).foldl (fun d i => d.pmcSettleCl k i) d

/-- A write of PERF_CTL of PMCi of core n: what it counted so far stays (R534). -/
def Dev.pmcCtlWrite (d : Dev) (n i v : Nat) : Dev :=
  let d := d.pmcSettle n i
  let d := [PERF_CTL.EVENT, PERF_CTL.EN, PERF_CTL.IRQ, PERF_CTL.SAMPLE].foldl (fun d f => d.setFld f n i (bitsOf v f.lo f.w)) d
  (d.pmcSince (8 * n + i) (d.pmcNow n i)).2

/-- FREEZE is written: every counter of the cluster holds, or counts on, from the same moment (R538). -/
def Dev.freezeSet (d : Dev) (k : Nat) (on : Bool) : Dev := (d.pmcSettleAll k).setBit PERF_CLCTL.FREEZE k 0 on

/-- PMC_WRAP: a counter at its maximum takes one more event of those it counts (R529, R530, R532). -/
def Dev.pmcWrap (d : Dev) (u : PmcUnit) (i : Nat) : Dev :=
  match u with
  | .core n =>
    if i < 6 ∧ d.fld PERF_CNT.COUNT n i = 2 ^ 48 - 1 ∧ d.bit PERF_CTL.EN n i ∧ !d.bit PERF_CLCTL.FREEZE (n.val / 8) 0 then d.pmcCoreAdd n i 1 else d
  | .cluster k =>
    if d.fld PERF_CLCNT.COUNT k i = 2 ^ 48 - 1 ∧ d.bit PERF_CLSEL.EN k i ∧ !d.bit PERF_CLCTL.FREEZE k 0 then (d.pmcAdd PERF_CLCNT.COUNT PERF_CLOVF.OVF k i 1).1 else d
  | .device =>
    if d.fld DEV_PCNT.COUNT 0 i = 2 ^ 48 - 1 ∧ d.bit DEV_PCTL.EN 0 i then (d.pmcAdd DEV_PCNT.COUNT DEV_POVF.OVF 0 i 1).1 else d

/-! The device's state as reported (R404, R413). -/

/-- PWR_STATUS.STATE: RUN 0, THROTTLE 1, HOLD 2, PARKED 3, before STARTER step 10 OFF or STARTING read 0. -/
def Dev.pwrState (d : Dev) : Nat :=
  if d.done < 10 then 0
  else if d.power = .parked ∨ d.power = .waking then 3
  else if d.held then 2
  else if (List.range 32).any fun k => decide (d.pointTarget k < 7) then 1
  else 0

/-- The entry of power-state time the device is in: RUN, THROTTLE, HOLD, PARKED, STARTING, OFF (R542). -/
def Dev.lifeState (d : Dev) : Nat := if !d.bit DEV_PINS.PWR_GOOD 0 0 then 5 else if d.done < 10 then 4 else d.pwrState

/-! PLDM sensors (R540). -/

/-- SENSOR_REFRESH: sensors 1 to 15 take their values. -/
def Dev.sensorRefresh (d : Dev) : Dev :=
  let s12 (f : Fld) : Option Int := some (sx 12 (d.fld f 0 0))
  let u (v : Nat) : Option Int := some (v : Int)
  let vals : List (Option Int) :=
    [s12 THM_STATUS.TJ_MAX, s12 THM_STATUS.DRAM_MAX, u (d.fld THM_STATUS.BAND_MAX 0 0), u (d.fld PWR_STATUS.P_1S 0 0), u d.therm.limit,
      u (d.fld THM_STATUS.COOL 0 0), u (d.fld THM_RISE.FORECAST 0 0), u d.pwrState, u d.pmb.vin, u d.pmb.vout, u d.pmb.iout, u d.pmb.temp, u (d.pmb.aon / 5),
      if d.bit THM_COOLANT.INLET_VALID 0 0 then s12 THM_COOLANT.INLET else none,
      if d.bit THM_COOLANT.FLOW_VALID 0 0 then u (d.fld THM_COOLANT.FLOW 0 0) else none]
  { d with pldm := (vals.zipIdx 1).foldl (fun t p => Tbl.set none t p.2 p.1) d.pldm }

/-- Upper thresholds of a sensor in its unit: warning, critical, fatal (R540). -/
def Dev.sensorLimits (d : Dev) (i : Nat) : List (Option Int) :=
  match i with
  | 1 => [some 760, some 880, some 960]
  | 2 => [some 760, some 840, some 960]
  | 4 => [some (d.fld PWR_LIMIT.SUST_LIMIT 0 0 : Int), none, none]
  | 16 => [some (d.fld LIFE_CTL.WEAR_WARN 0 0 * 100 : Int), none, none]
  | 17 => [some (d.fld LIFE_CTL.RETRY_WARN 0 0 : Int), none, none]
  | _ => []

/-- The state a sensor reports: 0 normal, 1 warning, 2 critical, 3 fatal. -/
def Dev.sensorState (d : Dev) (i : Nat) (v : Int) : Nat :=
  ((d.sensorLimits i).zipIdx 1).foldl (fun m p => match p.1 with | some t => if t ≤ v then max m p.2 else m | none => m) 0

/-! Seconds and weeks of life (R542, R543, R549). -/

/-- The sensors of thermal region r (R543). -/
def regionSensors (r : Nat) : List Nat :=
  if r < 32 then clusterSensors r
  else if r < 160 then [256 + (r - 32)]
  else if r < 172 then (List.range 128).map (· + (384 + 128 * (r - 160)))
  else (List.range 4).map (· + 1920)

/-- Junction-time bin of a value in units of 0.125 °C (R543). -/
def junctionBin (v : Int) : Nat := if v < 320 then 0 else if 880 ≤ v then 15 else 1 + ((v - 320) / 40).toNat

/-- A new week begins: its ring entries are zeroed (R542). -/
def Dev.weekBegin (d : Dev) : Dev :=
  let clear (d : Dev) (off len : Nat) : Dev := { d with mem := d.mem.filter fun c => decide (c.1 < histKey off) || decide (histKey (off + len) ≤ c.1) }
  clear (clear d (0x3500 + d.week * 108) 108) (0x4480 + d.week * 64) 64

/-- LIFE_SECOND: a second of life: junction time, power-state time (R542, R543); the rise-rate bin of the second is counted with RATE_1S. -/
def Dev.lifeSecond (d : Dev) : Dev :=
  let d := (List.range 173).foldl (fun d r =>
    match d.therm.hottest (regionSensors r) with
    | some (_, v) => d.hist (0x40 + (r * 16 + junctionBin v) * 4) 4 1
    | none => d) d
  let d := (d.hist (0x5400 + 8 * d.lifeState) 8 1).hist 16 8 1
  if d.lifeS % 604800 = 0 then d.weekBegin else d

/-- LIFE_UPDATE: 10 minutes of TK_TIME have passed since the last update (R546). -/
def Dev.lifeUpdate (d : Dev) : Dev :=
  if d.lifeAt + 600000000 ≤ d.us then
    let e := d.lifeSave
    { e with cyc := { e.cyc with saved := true } }
  else d

/-- LIFE_FLUSH: an update now; a timed one of this cycle serves for it (R546, R550). -/
def Dev.lifeFlush (d : Dev) : Dev := if d.cyc.saved then d else d.lifeSave

/-- Retries of group g `back` weeks before the last full one, if life reaches that far and the ring still holds it. -/
def Dev.retriesBack (d : Dev) (g back : Nat) : Option Nat :=
  let w := d.lifeS / 604800
  if back + 1 ≤ w ∧ back < 31 then some (d.weekRetries ((w - 1 - back) % 32) g) else none

/-- The retries of group g have at least doubled in each of n weeks in a row; a week without retries has not doubled (R549; log 66). -/
def Dev.retriesRise (d : Dev) (g n : Nat) : Bool :=
  (List.range n).all fun b =>
    match d.retriesBack g b, d.retriesBack g (b + 1) with
    | some x, some y => decide (0 < x) && decide (2 * y ≤ x)
    | _, _ => false

/-- WEEK_END: each die-to-die group is checked at the end of a week (R549). -/
def Dev.weekEnd (d : Dev) : Dev :=
  if d.lifeS = 0 ∨ d.lifeS % 604800 ≠ 0 then d
  else
    (List.range 16).foldl (fun d g =>
      let n := (d.retriesBack g 0).getD 0
      if d.fld LIFE_CTL.RETRY_WARN 0 0 < n ∨ d.retriesRise g (max 1 (d.fld LIFE_CTL.RETRY_WEEKS 0 0)) then d.event 1 .retries [g, n] else d) d

/-! The commands. -/

def execPmcWrap (unit : PmcUnit) (i : Fin 8) (s : State) : Host.Outcome State Fault Refusal := s.ev fun d => d.pmcWrap unit i
def execFreeze (_r : Req) (k : ClusterId) (on : Bool) (s : State) : Host.Outcome State Fault Refusal := s.ev fun d => d.freezeSet k on
def execSensorRefresh (s : State) : Host.Outcome State Fault Refusal := s.evAux fun d => d.sensorRefresh
def execLifeSecond (s : State) : Host.Outcome State Fault Refusal := s.evAux fun d => d.lifeSecond
def execLifeUpdate (s : State) : Host.Outcome State Fault Refusal := s.evAux fun d => d.lifeUpdate
def execLifeFlush (s : State) : Host.Outcome State Fault Refusal := s.evAux fun d => d.lifeFlush
def execWeekEnd (s : State) : Host.Outcome State Fault Refusal := s.evAux fun d => d.weekEnd

end Sys2Proof.Machine
end

