-- ==== Sys2Proof/Machine/Trust.lean ====
section
/-! DEFINITION. The root of trust: SHA-512, RSASSA-PSS, signed images, the boot ROM, the commands of SEC_CMD, SPDM and IDE keys (R555 to R571). The layouts of SPDM and IDE_KM messages are those of DSP0274 1.2 and PCI Express (log 68). -/

namespace Sys2Proof.Machine

/-! SHA-512 (the hash R555 names). -/

/-- Round constants of SHA-512, part 0. -/
def shaK0 : List (BitVec 64) :=
  [0x428A2F98D728AE22, 0x7137449123EF65CD, 0xB5C0FBCFEC4D3B2F, 0xE9B5DBA58189DBBC, 0x3956C25BF348B538,
   0x59F111F1B605D019, 0x923F82A4AF194F9B, 0xAB1C5ED5DA6D8118, 0xD807AA98A3030242, 0x12835B0145706FBE,
   0x243185BE4EE4B28C, 0x550C7DC3D5FFB4E2, 0x72BE5D74F27B896F, 0x80DEB1FE3B1696B1, 0x9BDC06A725C71235,
   0xC19BF174CF692694, 0xE49B69C19EF14AD2, 0xEFBE4786384F25E3, 0x0FC19DC68B8CD5B5, 0x240CA1CC77AC9C65]

/-- Round constants of SHA-512, part 1. -/
def shaK1 : List (BitVec 64) :=
  [0x2DE92C6F592B0275, 0x4A7484AA6EA6E483, 0x5CB0A9DCBD41FBD4, 0x76F988DA831153B5, 0x983E5152EE66DFAB,
   0xA831C66D2DB43210, 0xB00327C898FB213F, 0xBF597FC7BEEF0EE4, 0xC6E00BF33DA88FC2, 0xD5A79147930AA725,
   0x06CA6351E003826F, 0x142929670A0E6E70, 0x27B70A8546D22FFC, 0x2E1B21385C26C926, 0x4D2C6DFC5AC42AED,
   0x53380D139D95B3DF, 0x650A73548BAF63DE, 0x766A0ABB3C77B2A8, 0x81C2C92E47EDAEE6, 0x92722C851482353B]

/-- Round constants of SHA-512, part 2. -/
def shaK2 : List (BitVec 64) :=
  [0xA2BFE8A14CF10364, 0xA81A664BBC423001, 0xC24B8B70D0F89791, 0xC76C51A30654BE30, 0xD192E819D6EF5218,
   0xD69906245565A910, 0xF40E35855771202A, 0x106AA07032BBD1B8, 0x19A4C116B8D2D0C8, 0x1E376C085141AB53,
   0x2748774CDF8EEB99, 0x34B0BCB5E19B48A8, 0x391C0CB3C5C95A63, 0x4ED8AA4AE3418ACB, 0x5B9CCA4F7763E373,
   0x682E6FF3D6B2B8A3, 0x748F82EE5DEFB2FC, 0x78A5636F43172F60, 0x84C87814A1F0AB72, 0x8CC702081A6439EC]

/-- Round constants of SHA-512, part 3. -/
def shaK3 : List (BitVec 64) :=
  [0x90BEFFFA23631E28, 0xA4506CEBDE82BDE9, 0xBEF9A3F7B2C67915, 0xC67178F2E372532B, 0xCA273ECEEA26619C,
   0xD186B8C721C0C207, 0xEADA7DD6CDE0EB1E, 0xF57D4F7FEE6ED178, 0x06F067AA72176FBA, 0x0A637DC5A2C898A6,
   0x113F9804BEF90DAE, 0x1B710B35131C471B, 0x28DB77F523047D84, 0x32CAAB7B40C72493, 0x3C9EBE0A15C9BEBC,
   0x431D67C49C100D4C, 0x4CC5D4BECB3E42B6, 0x597F299CFC657E2A, 0x5FCB6FAB3AD6FAEC, 0x6C44198C4A475817]

/-- The round constants. -/
def shaK : List (BitVec 64) := shaK0 ++ shaK1 ++ shaK2 ++ shaK3

/-- The initial hash value. -/
def shaInit : List (BitVec 64) :=
  [0x6A09E667F3BCC908, 0xBB67AE8584CAA73B, 0x3C6EF372FE94F82B, 0xA54FF53A5F1D36F1,
   0x510E527FADE682D1, 0x9B05688C2B3E6C1F, 0x1F83D9ABFB41BD6B, 0x5BE0CD19137E2179]

/-- Bytes, most significant first, as a number. -/
def beNat (l : List Byte) : Nat := l.foldl (fun a b => a * 256 + b.toNat) 0

/-- A number in n bytes, most significant first. -/
def beBytes (n v : Nat) : List Byte := (toBytes n v).reverse

/-- The message schedule, latest word first, extended by n words. -/
def shaSched : Nat → List (BitVec 64) → List (BitVec 64)
  | 0, w => w
  | n + 1, w =>
    let a := w.getD 14 0
    let b := w.getD 1 0
    let s0 := a.rotateRight 1 ^^^ a.rotateRight 8 ^^^ (a >>> 7)
    let s1 := b.rotateRight 19 ^^^ b.rotateRight 61 ^^^ (b >>> 6)
    shaSched n ((w.getD 15 0 + s0 + w.getD 6 0 + s1) :: w)

/-- One round on a, b, c, d, e, f, g, h. -/
def shaRound (s : List (BitVec 64)) (kw : BitVec 64) : List (BitVec 64) :=
  match s with
  | [a, b, c, d, e, f, g, h] =>
    let s1 := e.rotateRight 14 ^^^ e.rotateRight 18 ^^^ e.rotateRight 41
    let ch := (e &&& f) ^^^ (~~~e &&& g)
    let t1 := h + s1 + ch + kw
    let s0 := a.rotateRight 28 ^^^ a.rotateRight 34 ^^^ a.rotateRight 39
    let mj := (a &&& b) ^^^ (a &&& c) ^^^ (b &&& c)
    [t1 + (s0 + mj), a, b, c, d + t1, e, f, g]
  | s => s

/-- One block of 128 bytes. -/
def shaBlock (h : List (BitVec 64)) (b : List Byte) : List (BitVec 64) :=
  let w := (List.range 16).map fun i => BitVec.ofNat 64 (beNat ((b.drop (8 * i)).take 8))
  let sched := (shaSched 64 w.reverse).reverse
  let r := (shaK.zip sched).foldl (fun s p => shaRound s (p.1 + p.2)) h
  (h.zip r).map fun p => p.1 + p.2

/-- The blocks of a padded message, at most `fuel` of them. -/
def shaBlocks : Nat → List (BitVec 64) → List Byte → List (BitVec 64)
  | 0, h, _ => h
  | fuel + 1, h, b => if b.length < 128 then h else shaBlocks fuel (shaBlock h (b.take 128)) (b.drop 128)

/-- SHA-512 of a message, as 64 bytes. -/
def sha512 (m : List Byte) : List Byte :=
  let pad := (239 - m.length % 128) % 128
  let p := m ++ [0x80] ++ List.replicate pad 0 ++ beBytes 16 (8 * m.length)
  (shaBlocks (p.length / 128 + 1) shaInit p).flatMap fun w => beBytes 8 w.toNat

/-! RSASSA-PSS (RFC 8017, with the choices of R556). -/

/-- x to the power 65,537 modulo n. -/
def rsaPow (x n : Nat) : Nat := (List.range 16).foldl (fun a _ => a * a % n) (x % n) * x % n

/-- MGF1 with SHA-512. -/
def mgf1 (seed : List Byte) (n : Nat) : List Byte := ((List.range ((n + 63) / 64)).flatMap fun i => sha512 (seed ++ beBytes 4 i)).take n

/-- EMSA-PSS verification of a 512-byte encoded message against the hash of the message: salt 64 B, trailer 0xBC. -/
def pssOk (em mHash : List Byte) : Bool :=
  let db0 := em.take 447
  let h := (em.drop 447).take 64
  let db := (db0.zip (mgf1 h 447)).map fun p => p.1 ^^^ p.2
  let db := (db.headD 0 &&& 0x7F) :: db.drop 1
  let salt := db.drop 383
  em.getD 511 0 == 0xBC && decide ((em.headD 0).toNat < 128) && (db.take 382).all (· == 0) && db.getD 382 0 == 1 &&
    sha512 (List.replicate 8 0 ++ mHash ++ salt) == h

/-- RSASSA-PSS-VERIFY of a 512-byte signature under a 512-byte modulus. -/
def rsaVerify (modulus sig m : List Byte) : Bool :=
  let n := beNat modulus
  let s := beNat sig
  decide (s < n) && pssOk (beBytes 512 (rsaPow s n)) (sha512 m)

/-! Signed images (R555, R556). -/

/-- Codes of SEC_CMDST.STATUS (R570). -/
inductive SecStatus where
  | ok | format | key | rollback | signature | supply | nonce | lastSlot | store
  deriving DecidableEq, Repr, Inhabited

/-- The code of a status. -/
def SecStatus.code : SecStatus → Nat
  | .ok => 0 | .format => 1 | .key => 2 | .rollback => 3 | .signature => 4 | .supply => 5 | .nonce => 6 | .lastSlot => 7 | .store => 8

/-- A little-endian field of a header. -/
def hdrNum (b : List Byte) (off n : Nat) : Nat := ofBytes ((b.drop off).take n)
/-- The modulus in a header. -/
def hdrModulus (b : List Byte) : List Byte := (b.drop 0x40).take 512
/-- SVN in a header. -/
def hdrSvn (b : List Byte) : Nat := hdrNum b 8 4
/-- BODY_LEN in a header. -/
def hdrLen (b : List Byte) : Nat := hdrNum b 12 4

/-- The key hash of a slot's fuses (R558). -/
def keyHashBytes (slot : Nat) : List Byte := beBytes 64 (Config.keyHash slot).toNat

/-- A modulus is that of key slot s, whose key is not revoked (R556, R565). -/
def Dev.slotKey (d : Dev) (slot : Nat) (modulus : List Byte) : Bool := decide (slot < 2) && !d.fuse.revoked.contains slot && sha512 modulus == keyHashBytes slot

/-- Fuse count of a TYPE (R558). -/
def Fuse.svn (f : Fuse) (type : Nat) : Nat := if type = 1 then f.svnMgmt else f.svnCore

/-- The checks of a header alone (R556, first three rows). -/
def Dev.headCheck (d : Dev) (type : Nat) (h : List Byte) : SecStatus :=
  let n := hdrLen h
  let lenOk := if type = 1 then decide (1 ≤ n) && decide (n ≤ 4190208) else n == 131072
  if hdrNum h 0 4 ≠ 0x4946444E ∨ hdrNum h 4 2 ≠ 1 ∨ hdrNum h 6 1 ≠ type ∨ !lenOk ∨ !((h.drop 0x18).take 0x28).all (· == 0) ∨ !((h.drop 0x440).take 0xBC0).all (· == 0) then .format
  else if !d.slotKey (hdrNum h 7 1) (hdrModulus h) then .key
  else if hdrSvn h < d.fuse.svn type ∨ 63 < hdrSvn h then .rollback
  else .ok

/-- The signed message of an image. -/
def imageMessage (h body : List Byte) : List Byte := h.take 0x240 ++ body

/-- Verify a header and its body (R556). -/
def Dev.imageCheck (d : Dev) (type : Nat) (h body : List Byte) : SecStatus :=
  match d.headCheck type h with
  | .ok => if rsaVerify (hdrModulus h) ((h.drop 0x240).take 512) (imageMessage h body) then .ok else .signature
  | e => e

/-- Read and verify the image at a local address: status, header, body. Poison anywhere fails it with SIGNATURE (R556). -/
def Dev.imageAt (d : Dev) (type a : Nat) : SecStatus × List Byte × List Byte × Dev :=
  let (h, st, d) := d.takeRead endMgmt a 4096
  if anyPoison h || st != .ok then (.signature, [], [], d)
  else
    let h := h.map (·.v)
    match d.headCheck type h with
    | .ok =>
      let (b, st, d) := d.takeRead endMgmt (a + 4096) (hdrLen h)
      if anyPoison b || st != .ok then (.signature, h, [], d) else (d.imageCheck type h (b.map (·.v)), h, b.map (·.v), d)
    | e => (e, h, [], d)

/-- Bytes of the firmware store. -/
def Dev.fwBytes (d : Dev) (off len : Nat) : List Byte := (List.range len).map fun i => d.byte (fwKey (off + i))

/-- Header and body in a slot of the firmware store (R557). -/
def Dev.fwSlot (d : Dev) (slot : Nat) : List Byte × List Byte :=
  let h := d.fwBytes (slot * 0x400000) 4096
  (h, d.fwBytes (slot * 0x400000 + 4096) (min 4190208 (hdrLen h)))

/-- A digest as a number. -/
def digest (m : List Byte) : BitVec 512 := BitVec.ofNat 512 (beNat (sha512 m))

/-- BOOT_ROM: chooses and verifies a management slot, records measurements 1 and 2, starts the controller (R557). -/
def Dev.bootRom (d : Dev) : Dev :=
  let svn (i : Nat) : Nat := hdrSvn (d.fwSlot i).1
  let first := if svn 0 < svn 1 then 1 else 0
  let ok (i : Nat) : Bool := d.imageCheck 1 (d.fwSlot i).1 (d.fwSlot i).2 == .ok
  let start (i : Nat) (back : Bool) : Dev :=
    let p := d.fwSlot i
    let d := ((d.setFld SEC_STATUS.BOOT_SLOT 0 0 i).setBit SEC_STATUS.FALLBACK 0 0 back).setFld SEC_STATUS.RUN_SVN_MGMT 0 0 (hdrSvn p.1)
    { d with meas := Tbl.set 0 (Tbl.set 0 d.meas 1 Config.romDigest) 2 (digest (imageMessage p.1 p.2)), mgmt := true }
  if ok first then start first false
  else if ok (1 - first) then start (1 - first) true
  else d.setBit SEC_STATUS.FALLBACK 0 0 true

/-- A core image has been verified: measurement 3, CORE_IMAGES, RUN_SVN_CORE (R559, R567). -/
def Dev.coreImage (d : Dev) (h body : List Byte) : Dev :=
  let d := { d with meas := Tbl.set 0 d.meas 3 (digest (imageMessage h body)) }
  (d.count SEC_STATUS.CORE_IMAGES 0 0 1).setFld SEC_STATUS.RUN_SVN_CORE 0 0 (hdrSvn h)

/-! Commands of SEC_CMD (R560, R565, R569, R570). -/

/-- A command ends. -/
def Dev.secDone (d : Dev) (st : SecStatus) : Dev := (d.setBit SEC_CMDST.DONE 0 0 true).setFld SEC_CMDST.STATUS 0 0 st.code

/-- FW_UPDATE (R560). -/
def Dev.fwUpdate (d : Dev) (a : Nat) : Dev :=
  let (st, h, b, d) := d.imageAt 1 a
  match st with
  | .ok =>
    if d.nvmBlocked then d.secDone .supply
    else
      let slot := 1 - d.fld SEC_STATUS.BOOT_SLOT 0 0
      let d := { d with mem := storeBytes d.mem (fwKey (slot * 0x400000)) (h ++ b) }
      let p := d.fwSlot slot
      d.secDone (if d.imageCheck 1 p.1 p.2 = .ok then .ok else .store)
  | e => d.secDone e

/-- COMMIT_SVN (R560); a count that is not below the SVN needs no write. -/
def Dev.commitSvn (d : Dev) (type : Nat) : Dev :=
  if type ≠ 1 ∧ type ≠ 2 then d.secDone .format
  else
    let v := if type = 1 then d.fld SEC_STATUS.RUN_SVN_MGMT 0 0 else d.fld SEC_STATUS.RUN_SVN_CORE 0 0
    if v ≤ d.fuse.svn type then d.secDone .ok
    else if d.nvmBlocked then d.secDone .supply
    else
      let f := d.fuse
      ({ d with fuse := if type = 1 then { f with svnMgmt := v } else { f with svnCore := v } }).secDone .ok

/-- The unused nonce, if there is one (R571). -/
def Dev.nonce (d : Dev) : Option (List Byte) :=
  let b := (List.range 4).flatMap fun i => toBytes 8 (d.fld SEC_DBG_NONCE.NONCE 0 i)
  if b.all (· == 0) then none else some b

/-- The nonce is consumed (R565). -/
def Dev.nonceUse (d : Dev) : Dev := (List.range 4).foldl (fun d i => d.setFld SEC_DBG_NONCE.NONCE 0 i 0) d

/-- The modulus of a key slot, from a header of the firmware store that carries it (log 67). -/
def Dev.slotModulus (d : Dev) (slot : Nat) : Option (List Byte) :=
  ((List.range 2).map fun i => hdrModulus (d.fwSlot i).1).find? fun m => d.slotKey slot m

/-- Check a token in the order of its fields (R565). `revoke`: what REVOKE needs of it. -/
def Dev.tokenCheck (d : Dev) (t : List Byte) (revoke : Bool) : SecStatus :=
  let slot := hdrNum t 4 1
  let perms := hdrNum t 48 8
  if hdrNum t 0 4 ≠ 0x4B54474E then .format
  else
    match d.slotModulus slot with
    | none => .key
    | some m =>
      if BitVec.ofNat 64 (hdrNum t 8 8) ≠ Config.dsn then .nonce
      else if d.nonce ≠ some ((t.drop 16).take 32) then .nonce
      else if perms &&& 0x87 ≠ perms ∨ (revoke ∧ !bitOf perms 7) ∨ (!revoke ∧ hdrNum t 56 2 ≠ 0) ∨ hdrNum t 58 6 ≠ 0 then .format
      else if rsaVerify m ((t.drop 64).take 512) (t.take 64) then .ok
      else .signature

/-- Read the token at a local address, check it and consume the nonce. -/
def Dev.tokenAt (d : Dev) (a : Nat) (revoke : Bool) : SecStatus × List Byte × Dev :=
  let (t, st, d) := d.takeRead endMgmt a 576
  if anyPoison t || st != .ok then (.signature, [], d.nonceUse) else (d.tokenCheck (t.map (·.v)) revoke, t.map (·.v), d.nonceUse)

/-- REVOKE (R560). -/
def Dev.revokeKey (d : Dev) (a : Nat) : Dev :=
  let (st, t, d) := d.tokenAt a true
  match st with
  | .ok =>
    let s := hdrNum t 56 2
    if 2 ≤ s then d.secDone .format
    else if d.fuse.revoked.contains (1 - s) then d.secDone .lastSlot
    else if hdrNum t 4 1 = s then d.secDone .key
    else if d.nvmBlocked then d.secDone .supply
    else ({ d with fuse := { d.fuse with revoked := if d.fuse.revoked.contains s then d.fuse.revoked else d.fuse.revoked ++ [s] } }).secDone .ok
  | e => d.secDone e

/-- Every IDE key is erased and every session ends (R563). -/
def Dev.trustClear (d : Dev) : Dev := (({ d with ide := [], sessions := [] } : Dev).setBit FAB_PORT.IDE_IO 0 0 false).setBit FAB_PORT.IDE_CM 0 0 false

/-- DEBUG_UNLOCK (R565). -/
def Dev.unlock (d : Dev) (a : Nat) : Dev :=
  let (st, t, d) := d.tokenAt a false
  match st with
  | .ok =>
    let d := (d.setBit SEC_STATUS.DEBUG_UNLOCKED 0 0 true).setFld SEC_STATUS.PERMS 0 0 (hdrNum t 48 1 % 8)
    d.trustClear.secDone .ok
  | e => d.secDone e

/-- SEC_DBG_GEN: a new nonce from the random generator (R571). -/
def Dev.nonceGen (d : Dev) : Dev :=
  let d := (List.range 4).foldl (fun e i => e.setFld SEC_DBG_NONCE.NONCE 0 i (Config.random (d.draws + i)).toNat) d
  { d with draws := d.draws + 4 }

/-! SPDM 1.2 (R561, R562). -/

/-- Number of a transport: MCTP 0, DOE 1. -/
def spdmNo (doe : Bool) : Nat := if doe then 1 else 0
/-- The connection of a transport. -/
def Dev.spdmOf (d : Dev) (doe : Bool) : Spdm := Tbl.get ⟨0, []⟩ d.spdm (spdmNo doe)
/-- Replace the connection of a transport. -/
def Dev.setSpdm (d : Dev) (doe : Bool) (x : Spdm) : Dev := { d with spdm := Tbl.set ⟨0, []⟩ d.spdm (spdmNo doe) x }

/-- Answer a request; the transcript takes both. -/
def Dev.spdmSay (d : Dev) (q : SpdmReq) (b : List Byte) : Dev :=
  let x := d.spdmOf q.overDoe
  (d.setSpdm q.overDoe { x with script := x.script ++ q.body ++ b }).emit (.spdm q.overDoe q.session b)

/-- An SPDM ERROR response. -/
def Dev.spdmErr (d : Dev) (q : SpdmReq) (code : Nat) : Dev := d.emit (.spdm q.overDoe q.session [0x12, 0x7F, BitVec.ofNat 8 code, 0])

/-- The session a request is made in, on its transport. -/
def Dev.sessionOf (d : Dev) (q : SpdmReq) : Option Session := q.session.bind fun i => d.sessions.find? fun x => x.id == i && x.doe == q.overDoe

/-- Serve a request on a connection that has answered `stage` requests in order; one that names a session must be in an open one. -/
def Dev.spdmServe (d : Dev) (i : Instr) (q : SpdmReq) (stage : Nat) (f : Dev → Dev) : Dev :=
  d.needs .spdm (if q.overDoe then .doe else .bus) i fun d =>
    if q.session.isSome && !((d.sessionOf q).any (·.open')) then d.spdmErr q 2
    else if (d.spdmOf q.overDoe).stage < stage then d.spdmErr q 4
    else f d

/-- GET_VERSION: SPDM 1.2; the connection begins anew. -/
def Dev.spdmVersion (d : Dev) (q : SpdmReq) : Dev :=
  d.spdmServe (.spdmGetVersion q) q 0 fun d => (d.setSpdm q.overDoe ⟨1, []⟩).spdmSay q [0x10, 0x04, 0, 0, 0, 1, 0, 0x12]

/-- GET_CAPABILITIES: certificates, challenges, measurements with signatures, encryption, MAC, key exchange, heartbeat, key update. -/
def Dev.spdmCaps (d : Dev) (q : SpdmReq) : Dev :=
  d.spdmServe (.spdmGetCapabilities q) q 1 fun d => (d.setSpdm q.overDoe { d.spdmOf q.overDoe with stage := 2 }).spdmSay q ([0x12, 0x61, 0, 0, 0, 20, 0, 0] ++ toBytes 4 0x62F6 ++ toBytes 4 4096 ++ toBytes 4 4096)

/-- NEGOTIATE_ALGORITHMS: RSASSA-PSS 4096, SHA-512, secp384r1, AES-256-GCM (R562). -/
def Dev.spdmAlgs (d : Dev) (q : SpdmReq) : Dev :=
  d.spdmServe (.spdmNegotiateAlgorithms q) q 2 fun d => (d.setSpdm q.overDoe { d.spdmOf q.overDoe with stage := 3 }).spdmSay q
    ([0x12, 0x63, 3, 0] ++ toBytes 2 48 ++ [1, 0] ++ toBytes 4 8 ++ toBytes 4 0x40 ++ toBytes 4 4 ++ List.replicate 12 0 ++ [2, 0x20] ++ toBytes 2 0x10 ++ [3, 0x20] ++ toBytes 2 2 ++ [5, 0x20] ++ toBytes 2 1)

/-- GET_DIGESTS: slot 0 alone (R561). -/
def Dev.spdmDigests (d : Dev) (q : SpdmReq) : Dev := d.spdmServe (.spdmGetDigests q) q 3 fun d => d.spdmSay q ([0x12, 0x01, 0, 1] ++ sha512 Config.certChain)

/-- GET_CERTIFICATE: a portion of the chain of slot 0; the other slots are empty (R561). -/
def Dev.spdmCert (d : Dev) (q : SpdmReq) (slot off len : Nat) : Dev :=
  d.spdmServe (.spdmGetCertificate q slot off len) q 3 fun d =>
    if slot ≠ 0 ∨ Config.certChain.length < off then d.spdmErr q 1
    else
      let b := (Config.certChain.drop off).take len
      d.spdmSay q ([0x12, 0x02, 0, 0] ++ toBytes 2 b.length ++ toBytes 2 (Config.certChain.length - off - b.length) ++ b)

/-- Fresh random bytes of a response. -/
def Dev.draw (d : Dev) (n : Nat) : List Byte × Dev :=
  (((List.range ((n + 7) / 8)).flatMap fun i => toBytes 8 (Config.random (d.draws + i)).toNat).take n, { d with draws := d.draws + (n + 7) / 8 })

/-- Answer with a signature over the transcript. -/
def Dev.spdmSigned (d : Dev) (q : SpdmReq) (b : List Byte) : Dev :=
  d.spdmSay q (b ++ Config.sign ((d.spdmOf q.overDoe).script ++ q.body ++ b))

/-- SEC_FUSE as the fuses stand (R568). -/
def Dev.fuseWord (d : Dev) : Nat :=
  (if d.fuse.revoked.contains 0 then 1 else 0) + (if d.fuse.revoked.contains 1 then 2 else 0) + (if d.fuse.debugLock then 4 else 0) + 2 ^ 8 * d.fuse.svnMgmt + 2 ^ 16 * d.fuse.svnCore

/-- Every RWL field, register by register in the map's order, as stored (R562). -/
def Dev.lockedBytes (d : Dev) : List Byte :=
  regMap.flatMap fun r =>
    let fs := r.fields.filter fun f => f.acc == .rwl
    if fs = [] then []
    else (List.range r.pos.units).flatMap fun u => (List.range r.pos.icount).flatMap fun i => fs.flatMap fun f => toBytes 8 (d.fld f u i)

/-- The digest of a measurement block that is available (R562). -/
def Dev.measurement (d : Dev) (i : Nat) : Option (BitVec 512) :=
  match i with
  | 1 | 2 => some (Tbl.get 0 d.meas i)
  | 3 => if 9 ≤ d.done then some (Tbl.get 0 d.meas 3) else none
  | 4 => some (digest (toBytes 8 d.fuseWord ++ toBytes 2 (d.fld SEC_STATUS.BOOT_SLOT 0 0 + 2 * d.fld SEC_STATUS.FALLBACK 0 0 + 4 * d.fld SEC_STATUS.DEBUG_UNLOCKED 0 0 + 8 * d.fld SEC_STATUS.PERMS 0 0)))
  | 5 => if 10 ≤ d.done then some (digest d.lockedBytes) else none
  | _ => none

/-- DMTF type of a block: 0 immutable ROM, 1 mutable firmware, 2 hardware configuration. -/
def measType (i : Nat) : Nat := match i with | 1 => 0 | 2 | 3 => 1 | _ => 2

/-- A measurement block. -/
def measBlock (i : Nat) (v : BitVec 512) : List Byte := [BitVec.ofNat 8 i, 1] ++ toBytes 2 67 ++ [BitVec.ofNat 8 (measType i)] ++ toBytes 2 64 ++ beBytes 64 v.toNat

/-- GET_MEASUREMENTS: 0 asks for their number, 255 for all, else one; signed or not. -/
def Dev.spdmMeas (d : Dev) (q : SpdmReq) (index : Nat) (signed : Bool) : Dev :=
  d.spdmServe (.spdmGetMeasurements q index signed) q 3 fun d =>
    let all := [1, 2, 3, 4, 5].filterMap fun i => (d.measurement i).map fun v => (i, v)
    let pick := if index = 0 then some [] else if index = 255 then some all else (d.measurement index).map fun v => [(index, v)]
    match pick with
    | none => d.spdmErr q 1
    | some l =>
      let rec' := l.flatMap fun p => measBlock p.1 p.2
      let (nonce, d) := d.draw 32
      let b := [0x12, 0x60, if index = 0 then BitVec.ofNat 8 all.length else 0, 0, BitVec.ofNat 8 l.length] ++ toBytes 3 rec'.length ++ rec' ++ nonce ++ toBytes 2 0
      if signed then d.spdmSigned q b else d.spdmSay q b

/-- CHALLENGE: signed with the identity key (R562). -/
def Dev.spdmChallenge (d : Dev) (q : SpdmReq) (slot : Nat) : Dev :=
  d.spdmServe (.spdmChallenge q slot) q 3 fun d =>
    if slot ≠ 0 then d.spdmErr q 1
    else
      let (nonce, d) := d.draw 32
      d.spdmSigned q ([0x12, 0x03, 0, 1] ++ sha512 Config.certChain ++ nonce ++ toBytes 2 0)

/-- KEY_EXCHANGE: a session begins, up to 4 at once (R562). -/
def Dev.spdmKeyEx (d : Dev) (q : SpdmReq) : Dev :=
  d.spdmServe (.spdmKeyExchange q) q 3 fun d =>
    if 4 ≤ d.sessions.length then d.spdmErr q 10
    else
      let id := ((List.range 5).map (· + 1)).find? fun i => !(d.sessions.any fun x => x.id == i)
      match id with
      | none => d.spdmErr q 10
      | some i =>
        let (rnd, d) := d.draw 128
        ({ d with sessions := d.sessions ++ [⟨i, q.overDoe, false, 0⟩] } : Dev).spdmSigned q ([0x12, 0x64, 0, 0] ++ toBytes 2 i ++ [0, 0] ++ rnd)

/-- Change the session a request names. -/
def Dev.modSession (d : Dev) (q : SpdmReq) (f : Session → Session) : Dev :=
  { d with sessions := d.sessions.map fun x : Session => if some x.id = q.session ∧ x.doe = q.overDoe then f x else x }

/-- FINISH: the session is open. -/
def Dev.spdmFinish (d : Dev) (q : SpdmReq) : Dev :=
  d.needs .spdm (if q.overDoe then .doe else .bus) (.spdmFinish q) fun d =>
    match d.sessionOf q with
    | none => d.spdmErr q 2
    | some x => if x.open' then d.spdmErr q 4 else (d.modSession q fun x => { x with open' := true }).spdmSay q [0x12, 0x65, 0, 0]

/-- A request that only an open session may make. -/
def Dev.spdmInside (d : Dev) (i : Instr) (q : SpdmReq) (f : Dev → Dev) : Dev :=
  d.spdmServe i q 3 fun d => if q.session.isNone then d.spdmErr q 4 else f d

/-- HEARTBEAT. -/
def Dev.spdmBeat (d : Dev) (q : SpdmReq) : Dev := d.spdmInside (.spdmHeartbeat q) q fun d => d.spdmSay q [0x12, 0x68, 0, 0]
/-- KEY_UPDATE. -/
def Dev.spdmRekey (d : Dev) (q : SpdmReq) : Dev := d.spdmInside (.spdmKeyUpdate q) q fun d => (d.modSession q fun x => { x with gen := x.gen + 1 }).spdmSay q [0x12, 0x69, 0, 0]
/-- END_SESSION. -/
def Dev.spdmEnd (d : Dev) (q : SpdmReq) : Dev :=
  d.spdmInside (.spdmEndSession q) q fun d => ({ d with sessions := d.sessions.filter fun x => !(some x.id == q.session && x.doe == q.overDoe) } : Dev).spdmSay q [0x12, 0x6C, 0, 0]

/-! IDE keys (R563). -/

/-- An IDE request: inside an open session over DOE, refused elsewhere. -/
def Dev.ideServe (d : Dev) (i : Instr) (q : SpdmReq) (f : Dev → Dev) : Dev := d.spdmInside i q fun d => if q.overDoe then f d else d.spdmErr q 7

/-- FAB_PORT shows which IDE is on: a key set of a CXL.io stream or of CXL.cachemem is in use. -/
def Dev.ideShow (d : Dev) : Dev :=
  (d.setBit FAB_PORT.IDE_IO 0 0 (d.ide.any fun k => k.go && decide (k.stream < 3))).setBit FAB_PORT.IDE_CM 0 0 (d.ide.any fun k => k.go && k.stream == 3)

/-- QUERY: the streams (one link, two selective). -/
def Dev.ideQuery (d : Dev) (q : SpdmReq) : Dev := d.ideServe (.ideQuery q) q fun d => d.spdmSay q [0x01, 1, 2]
/-- KEY_PROG: a key is stored; it can never be read. -/
def Dev.ideProg (d : Dev) (q : SpdmReq) (stream : Nat) (ks : Bool) (key : BitVec 256) : Dev :=
  d.ideServe (.ideKeyProg q stream ks key) q fun d =>
    if 4 ≤ stream then d.emit (.spdm true q.session [0x03, BitVec.ofNat 8 stream, 0x03])
    else ({ d with ide := (d.ide.filter fun k => !(k.stream == stream && k.keySet == ks)) ++ [⟨stream, ks, key, false⟩] } : Dev).ideShow.emit (.spdm true q.session [0x03, BitVec.ofNat 8 stream, 0])
/-- K_SET_GO: the key set is used, in place of the stream's other. For CXL.cachemem the request names the mode, which the table's row does not carry: containment or skid is open (R314, R331; log 176). -/
def Dev.ideGo (d : Dev) (q : SpdmReq) (stream : Nat) (ks : Bool) : Dev :=
  d.ideServe (.ideKSetGo q stream ks) q fun d =>
    if d.ide.any fun k => k.stream == stream && k.keySet == ks then
      let (v, d) := d.free
      let skid := if stream = 3 then v.getLsbD 0 else d.cfg.ideSkid
      ({ d with ide := d.ide.map fun k : IdeKey => if k.stream = stream then { k with go := k.keySet == ks } else k, cfg := { d.cfg with ideSkid := skid } } : Dev).ideShow.emit (.spdm true q.session [0x06, BitVec.ofNat 8 stream, 0])
    else d.spdmErr q 1
/-- K_SET_STOP. -/
def Dev.ideStop (d : Dev) (q : SpdmReq) (stream : Nat) (ks : Bool) : Dev :=
  d.ideServe (.ideKSetStop q stream ks) q fun d =>
    ({ d with ide := d.ide.map fun k : IdeKey => if k.stream = stream ∧ k.keySet = ks then { k with go := false } else k } : Dev).ideShow.emit (.spdm true q.session [0x06, BitVec.ofNat 8 stream, 0])

/-! The commands. -/

/-- A command of SEC_CMD, which the management firmware carries out. -/
def Dev.sec (d : Dev) (f : Dev → Dev) : Dev := if d.mgmt && !d.bit SEC_CMDST.BUSY 0 0 then f d else d

def execFwUpdate (_r : Req) (addr : BitVec 52) (s : State) : Host.Outcome State Fault Refusal := s.evFuse fun d => d.sec fun d => d.whole fun d => d.fwUpdate addr.toNat
def execCommitSvn (_r : Req) (type : Fin 4) (s : State) : Host.Outcome State Fault Refusal := s.evFuse fun d => d.sec fun d => d.commitSvn type
def execRevoke (_r : Req) (addr : BitVec 52) (s : State) : Host.Outcome State Fault Refusal := s.evFuse fun d => d.sec fun d => d.whole fun d => d.revokeKey addr.toNat
def execDebugUnlock (_r : Req) (addr : BitVec 52) (s : State) : Host.Outcome State Fault Refusal := s.evFuse fun d => d.sec fun d => d.whole fun d => d.unlock addr.toNat
def execNonceGen (s : State) : Host.Outcome State Fault Refusal := s.ev fun d => d.nonceGen
def execSpdmGetVersion (q : SpdmReq) (s : State) : Host.Outcome State Fault Refusal := s.ev fun d => d.spdmVersion q
def execSpdmGetCapabilities (q : SpdmReq) (s : State) : Host.Outcome State Fault Refusal := s.ev fun d => d.spdmCaps q
def execSpdmNegotiateAlgorithms (q : SpdmReq) (s : State) : Host.Outcome State Fault Refusal := s.ev fun d => d.spdmAlgs q
def execSpdmGetDigests (q : SpdmReq) (s : State) : Host.Outcome State Fault Refusal := s.ev fun d => d.spdmDigests q
def execSpdmGetCertificate (q : SpdmReq) (slot off len : Nat) (s : State) : Host.Outcome State Fault Refusal := s.ev fun d => d.spdmCert q slot off len
def execSpdmChallenge (q : SpdmReq) (slot : Nat) (s : State) : Host.Outcome State Fault Refusal := s.ev fun d => d.spdmChallenge q slot
def execSpdmGetMeasurements (q : SpdmReq) (index : Nat) (signed : Bool) (s : State) : Host.Outcome State Fault Refusal := s.ev fun d => d.spdmMeas q index signed
def execSpdmKeyExchange (q : SpdmReq) (s : State) : Host.Outcome State Fault Refusal := s.ev fun d => d.spdmKeyEx q
def execSpdmFinish (q : SpdmReq) (s : State) : Host.Outcome State Fault Refusal := s.ev fun d => d.spdmFinish q
def execSpdmHeartbeat (q : SpdmReq) (s : State) : Host.Outcome State Fault Refusal := s.ev fun d => d.spdmBeat q
def execSpdmKeyUpdate (q : SpdmReq) (s : State) : Host.Outcome State Fault Refusal := s.ev fun d => d.spdmRekey q
def execSpdmEndSession (q : SpdmReq) (s : State) : Host.Outcome State Fault Refusal := s.ev fun d => d.spdmEnd q
def execIdeQuery (q : SpdmReq) (s : State) : Host.Outcome State Fault Refusal := s.ev fun d => d.ideQuery q
def execIdeKeyProg (q : SpdmReq) (stream : Nat) (keySet : Bool) (key : BitVec 256) (s : State) : Host.Outcome State Fault Refusal := s.ev fun d => d.ideProg q stream keySet key
def execIdeKSetGo (q : SpdmReq) (stream : Nat) (keySet : Bool) (s : State) : Host.Outcome State Fault Refusal := s.ev fun d => d.ideGo q stream keySet
def execIdeKSetStop (q : SpdmReq) (stream : Nat) (keySet : Bool) (s : State) : Host.Outcome State Fault Refusal := s.ev fun d => d.ideStop q stream keySet

end Sys2Proof.Machine
end

