-- ==== Sys2Proof/Machine/Starter.lean ====
section
/-! DEFINITION. Bring-up and resets: boot faults, the ten STARTER steps, scoped resets, device reset, partitions (R481, R488, R502 to R526). -/

namespace Sys2Proof.Machine

/-! Services (R502, R503). -/

/-- BOOT_FAULT: a service is not ready 1 s after the start (R396, R503, R548). -/
def Dev.bootFault (d : Dev) (svc : Service) : Dev :=
  if !d.sincePerst 1000 || d.svc.contains svc || d.dead.contains svc then d
  else
    let held := d.calls.filter fun c => c.svc == svc
    let d := held.foldl (fun d c => d.emit (.busy svc c.chan)) { d with dead := d.dead ++ [svc], calls := d.calls.filter (fun c => c.svc != svc), fatal := true }
    (d.setBit STARTER_STATUS.BOOT_FAULT 0 0 true).journal 0x0B
      [match svc with | .bar0 => 0 | .mailbox => 1 | .mctp => 2 | .pldm => 3 | .cdat => 4 | .spdm => 5]

/-! STARTER (R505, R506). -/

/-- The bound of step k in ms (R506). -/
def Dev.stepBound (d : Dev) (k : Nat) : Nat :=
  if k = 7 then (if d.bit STARTER_OPT.FULL_TEST 0 0 then 420000 else 60000) else [0, 5, 2, 20, 60, 80, 120, 0, 1, 50, 1].getD k 0

/-- The training that step 5 carried out alongside ends with it (R360). -/
def Dev.stepTrain (d : Dev) : Dev :=
  match d.step.bind (·.train) with
  | some pass => d.gddrTrain pass
  | none => d

/-- The step that runs ends in failure (R505, R548). -/
def Dev.stepFail (d : Dev) (k code ms : Nat) : Dev :=
  let d := ({ d.stepTrain with step := none } : Dev).setFld STARTER_STATUS.RUNNING 0 0 0
  let d := ((d.setFld STARTER_STATUS.RESULT 0 0 3).setFld STARTER_STATUS.FAIL_STEP 0 0 k).setFld STARTER_STATUS.FAIL_CODE 0 0 code
  let d := if k = 4 ∧ code = 2 then d.setFld LNK_STATUS.VT_RESULT 0 0 3 else d
  (d.setFld STARTER_STATUS.ELAPSED_MS 0 0 ms).journal 0x07 [k, code]

/-- The precondition of step k (R506). -/
def Dev.stepMay (d : Dev) (k : Nat) : Bool :=
  if k = 1 then d.bit DEV_PINS.PWR_GOOD 0 0
  else if k = 10 then d.bit FAB_ID.FID_VALID 0 0 && d.linkOn
  else true

/-- STARTER_CTL takes a step k: accepted, its precondition checked, its action begun; else FALSE_START (R505). `run`: what the step does, with the FAIL_CODE it will end with and whether it ends degraded; `train`: the channels whose training step 5 will find to pass. -/
def Dev.stepStart (d : Dev) (k : Nat) (run : Dev → Dev × Option Nat × Bool) (train : Option Nat := none) : Dev :=
  if !d.svc.contains .bar0 then d
  else
    let again := d.fld STARTER_STATUS.RESULT 0 0 == 3 && d.fld STARTER_STATUS.FAIL_STEP 0 0 == k
    if d.step.isSome || !(k == d.done + 1 || again) then d.setBit STARTER_STATUS.FALSE_START 0 0 true
    else if !d.stepMay k then d.stepFail k 1 0
    else
      let d := d.setFld STARTER_STATUS.RUNNING 0 0 k
      let (e, fail, deg) := run d
      { e with step := some ⟨d.ns, fail, deg, train⟩ }

/-- Milliseconds the running step has taken. -/
def Dev.stepMs (d : Dev) : Nat := match d.step with | some r => (d.ns - r.at') / 1000000 | none => 0

/-- STEP_COMPLETE: the running step passes, or fails its own check (R505, R506). Step 1 passes once every domain it turned on is ON. -/
def Dev.stepDone (d : Dev) (ok : Bool) : Dev :=
  let k := d.fld STARTER_STATUS.RUNNING 0 0
  match d.step with
  | none => d
  | some r =>
    if r.at' + d.stepBound k * 1000000 < d.ns then d
    else if k = 1 ∧ ((List.range 439).any fun j => d.bit PWR_DOM.RAMP_FAIL j 0) then d.stepFail k 2 d.stepMs
    else
      match r.fail with
      | some c => d.stepFail k c d.stepMs
      | none =>
        if !ok then d.stepFail k 2 d.stepMs
        else if k = 1 ∧ ((List.range 439).any fun j => d.bit PWR_DOM.REQ j 0 && !d.domOn j) then d
        else
          let ms := d.stepMs
          let d := ({ d.stepTrain with step := none } : Dev).setFld STARTER_STATUS.RUNNING 0 0 0
          let deg := r.degraded || r.train.isSome && d.gddr.state == .disabled
          let d := if k = 4 then d.setFld LNK_STATUS.VT_RESULT 0 0 (if r.degraded then 2 else 1) else d
          let d := if k = 8 then d.setBit FAB_PORT.MEM_ACTIVE 0 0 true else d
          ((d.setFld STARTER_STATUS.DONE 0 0 k).setFld STARTER_STATUS.RESULT 0 0 (if deg then 2 else 1)).setFld STARTER_STATUS.ELAPSED_MS 0 0 ms

/-- STEP_TIMEOUT: the running step has not completed within its bound (R505). -/
def Dev.stepLate (d : Dev) : Dev :=
  let k := d.fld STARTER_STATUS.RUNNING 0 0
  match d.step with
  | none => d
  | some r => if r.at' + d.stepBound k * 1000000 < d.ns then d.stepFail k 0xFF d.stepMs else d

/-- Step 1: domains 0 to 438 are requested ON, but the GDDR domains of channels that are not in use or not populated (R368, R383, R401, R506). -/
def Dev.railsUp (d : Dev) : Dev :=
  (List.range 439).foldl (fun d k =>
    if 431 ≤ k ∧ !d.gdrFitted.contains (k - 431) then d else (d.setBit PWR_DOM.RAMP_FAIL k 0 false).domReq k true) d

/-- Step 2: every cluster runs at operating point 7 (R400, R506). -/
def Dev.clocksUp (d : Dev) : Dev :=
  (List.range 32).foldl (fun d k => d.pointGo k 7) d

/-- Step 3: the lanes of a group with one failed lane are spared; two failed lanes fail the step (R488, R494, R498). `bad`: group, lane. -/
def Dev.d2dTrain (d : Dev) (bad : List (Nat × Nat)) : Dev × Bool :=
  let lanes (g : Nat) : List Nat := ((bad.filter fun p => p.1 == g && decide (p.2 < 13)).map (·.2)).dedup
  let d := (List.range 16).foldl (fun d g =>
    match lanes g with
    | [l] => d.setFld LNK_D2D_GRP.SPARE_FOR g 0 (if l < 12 then l else 15)
    | _ => d.setFld LNK_D2D_GRP.SPARE_FOR g 0 15) d
  let used := ((List.range 16).filter fun g => match lanes g with | [l] => decide (l < 12) | _ => false).length
  let d := { d.setFld LNK_STATUS.D2D_SPARES 0 0 (min 15 used) with d2d := [] }
  if (List.range 16).any fun g => decide (2 ≤ (lanes g).length) then (d, false)
  else ((d.setBit LNK_STATUS.D2D_UP 0 0 true).setBit LNK_STATUS.D2D_FATAL 0 0 false, true)

/-- Entries of the retired-connection list of a class: unit, connection (R482; log 58). -/
def Dev.retiredOf (d : Dev) (cls : Nat) : List (Nat × Nat) :=
  ((List.range 8192).map fun i => d.num (mramKey (d.retiredBase + 8 * i)) 8).filterMap fun w =>
    if 2 ^ 63 ≤ w ∧ bitsOf w 32 16 = cls then some (bitsOf w 16 16, bitsOf w 0 16) else none

/-- RETIRE_CLEAR: the retired list is emptied (R496). -/
def Dev.retiredClear (d : Dev) : Dev :=
  { d with mem := d.mem.filter fun c => decide (c.1 < mramKey d.retiredBase) || decide (mramKey (d.retiredBase + 0x10000) ≤ c.1) }

/-- Data group j of core n has failed at physical positions `l`, ascending (R480, R481, R499, R500). -/
def Dev.grpRepair (d : Dev) (n j : Nat) (l : List Nat) : Dev :=
  match l with
  | [] => d
  | [p] => if p = 32 then (d.setGrp n j 2).count LNK_SLICE.DATA_BAD n 0 1 else ((d.setGrp n j 1).setRepair n j p).count LNK_SLICE.DATA_USED n 0 1
  | p :: _ =>
    let d := (d.setGrp n j 3).count LNK_SLICE.DATA_BAD n 0 1
    let s := d.slice n
    let d := d.setSlice n { s with dead := s.dead ++ [32 * j + p] }
    d.count (if j < 136 then SLC_STUCK.DEAD_H0 else SLC_STUCK.DEAD_H1) n 0 1

/-- A slice with unrepairable groups starts narrow (R171, R172, R481). -/
def Dev.sliceWidth (d : Dev) (n : Nat) : Dev :=
  let s := d.slice n
  if s.dead = [] then d
  else
    let h := s.bestHalf
    let bad := s.dead.any fun v => v / 4352 == h
    let s := { s with mode := .narrow, half := h, degraded := bad }
    let d := d.setSlice n s
    let d := if bad then d.slcErr n SLC_ERR.DEGRADED else d
    if (List.range 32).any fun w => s.collided w then d.slcErr n SLC_ERR.COLLISION else d

/-- Column ports whose lanes R481 counts: at the clusters toward the base, at the base stops toward the dies. -/
def columnPorts : List (Nat × Nat) :=
  ((List.range 32).flatMap fun r => (List.range 8).map fun i => (r, 13 + i)) ++ (List.range 128).flatMap fun c => [(32 + c, 7), (32 + c, 8)]

/-- Step 4 (R481; log 182 of degradation): what failed is repaired where a spare can; the step's check and whether it ends degraded. Failed connections and command connections by physical number within their core, lanes with an unrepairable group by 32 × router + port. -/
def Dev.vertTest (d : Dev) (badConns badCmd badLanes : List (Nat × Nat)) (badLinks : List Nat) : Dev × Bool × Bool :=
  let clear := d.bit LNK_CFG.RETIRE_CLEAR 0 0
  let old (cls : Nat) : List (Nat × Nat) := if clear then [] else d.retiredOf cls
  let conns := badConns ++ (old 0).map fun p => (p.1, p.2 / 32 * 33 + p.2 % 32)
  let cmds := badCmd ++ (old 1).map fun p => (p.1, p.2 / 32 * 33 + p.2 % 32)
  let lanes := (badLanes.map fun p => (p.1 / 32, p.1 % 32, p.2)) ++ (old 2).map fun p => (p.1, p.2 / 16, p.2 % 16)
  let d := if clear then d.retiredClear else d
  let d := { d with repair := [], caGrp := [], laneOff := [], laneErr := [] }
  let d := (List.range 256).foldl (fun d n =>
    let d := (List.range 9).foldl (fun d i => d.clrReg LNK_GRPMAP.reg n i) (d.clrReg LNK_SLICE.reg n 0)
    let groups (l : List (Nat × Nat)) (m : Nat) : List Nat := (((l.filter fun p => p.1 == n).map fun p => p.2 / 33).filter fun g => decide (g < m)).dedup
    let fails (l : List (Nat × Nat)) (g : Nat) : List Nat := sortAsc ((l.filter fun p => p.1 == n && p.2 / 33 == g).map fun p => p.2 % 33).dedup
    let d := d.setSlice n { d.slice n with dead := [], mode := .full, degraded := false, refBase := d.ns, due := [], debt := [], lastRef := [], decayAt := d.ns }
    let d := (d.setFld SLC_STUCK.DEAD_H0 n 0 0).setFld SLC_STUCK.DEAD_H1 n 0 0
    let d := (groups conns 272).foldl (fun d j => d.grpRepair n j (fails conns j)) d
    let d := (groups cmds 9).foldl (fun d g =>
      match fails cmds g with
      | [p] =>
        if p = 32 then { d with caGrp := Tbl.set 0 d.caGrp (16 * n + g) 2 }
        else ({ d with caGrp := Tbl.set 0 d.caGrp (16 * n + g) 1 }.setRepair n (300 + g) p).count LNK_SLICE.CA_USED n 0 1
      | _ => { d with caGrp := Tbl.set 0 d.caGrp (16 * n + g) 3 }) d
    d.sliceWidth n) d
  let lanes := (lanes.filter fun p => decide (p.2.2 < laneCount p.1 p.2.1)).dedup
  let d := ({ d with laneOff := lanes } : Dev).setFld LNK_STATUS.LANES_RETIRED 0 0 lanes.length
  let d := lanes.foldl (fun d p => match laneColumn p.1 p.2.1 with | some (c, f) => d.count f c 0 1 | none => d) d
  let ok := (d.caGrp.all fun p => p.2 != 3) && (columnPorts.all fun p => !(d.lanesUp p.1 p.2).isEmpty) &&
    badLinks.all fun c => !(d.fuse.disabled.contains c || d.fuse.disabled.contains (c + 128))
  let deg := ((List.range 256).any fun n => (d.slice n).mode == .narrow) || !lanes.isEmpty || !badLinks.isEmpty
  (d, ok, deg)

/-- Step 6: valid codewords of zero data in the stack, every local store, I-store and D-store, GDDR that is READY, every baton (R460). -/
def Dev.fill (d : Dev) : Dev :=
  let d := (d.zeroSpan 0 0x1800000000).zeroSpan (lsAddr 0 0) (256 * 0x400000)
  let d := d.zeroSpan (storeKey 0 0 0) (256 * 2 ^ 17)
  let d := if d.gddr.state = .ready then d.zeroSpan gddrBase (d.gddr.usableMib * 2 ^ 20) else d
  { d with btnVal := [], btnBad := [] }

/-- Structure and unit of a tested codeword, named by its tag (R451, R457). -/
def testPlace (cw : Nat) : Nat × Nat :=
  if cw < 0xC0000000 then (0, stackCore (32 * cw))
  else if 0xE0000000 ≤ cw ∧ cw < 0xE1000000 then (4 + cw / 32768 % 2, (cw - 0xE0000000) / 65536)
  else if lsAddr 0 0 ≤ 32 * cw then (3, (32 * cw - lsAddr 0 0) / 0x400000)
  else (6, 0)

/-- A code event that the memory test meets, counted and logged as any other of its store (R457, R507). -/
def Dev.testEvent (d : Dev) (cw : Nat) (cls : CwClass) : Dev :=
  let (st, unit) := testPlace cw
  if st = 6 then d.gdrEvent (d.gdrChan (32 * cw - gddrBase)) cw cls
  else if st = 0 then d.eccEvent 0 unit cw cls
  else d.lsEcc unit (st - 3) cw (if st = 3 then 32 * cw - lsAddr unit 0 else 32 * (cw % 32768)) cls

/-- Step 7: the codewords that read with an error, corrected with the bit that was wrong or UNCORRECTABLE, are counted and logged, the latter in the life log as well; the fill is made again (R457, R507). -/
def Dev.memTest (d : Dev) (defects : List (Nat × Option Nat)) : Dev :=
  (defects.foldl (fun d p =>
    match p.2 with
    | some b => d.testEvent p.1 (.corr (b % 272))
    | none => (d.testEvent p.1 .uncorr).journal 0x0A [p.1 % 2 ^ 32, p.1 / 2 ^ 32]) d).fill

/-- Step 8: the base cache is initialised and its registers reset (R506). -/
def Dev.cacheInit (d : Dev) : Dev :=
  let regs : List Reg := [BCR_PART.reg, BCR_CFG.reg, BCR_STATUS.reg, BCR_ERR.reg, BCR_ACCESS.reg, BCR_DEAD.reg, BCR_PIN.reg, BCR_RED.reg, BCR_ECC.reg]
  let d := (List.range 128).foldl (fun d c => (List.range 16).foldl (fun d i => d.clrReg BCR_TRAP.reg c i) (regs.foldl (fun d r => d.clrReg r c 0) d)) d
  let d := (d.zeroSpan scratchBase (2 ^ 31)).zeroSpan (cacheKey 0) (2 ^ 53)
  { d with regions := [] }

/-- Step 9: the cores of the chosen partitions are released with a verified image; whether the image passes (R508). -/
def Dev.release (d : Dev) : Dev × Bool :=
  let (st, h, body, d) := d.imageAt 2 (d.fld STARTER_IMG.ADDR 0 0 * 4096)
  if st ≠ .ok then (d, false)
  else
    let d := d.coreImage h body
    let part := d.fld STARTER_OPT.RELEASE_PART 0 0
    let cores := (List.range 256).filter fun n => (List.range 8).any fun p => bitOf part p && d.partHas p (n / 8)
    (cores.foldl (fun d n =>
      let d := d.lsWrite n 0 (body.map fun b => PByte.mk b false)
      (d.coreCtl .mgmt n 3).fenceClear n true) d, true)

/-! Scoped resets (R513, R514). -/

/-- A descriptor started in the cycle in which its ring's partition is reset has not been started (R517). -/
def Dev.ringUnstart (d : Dev) (i : Nat) : Dev :=
  let now := ((d.inflight i).filter fun x => x.fin.isNone && x.at' == d.ns).map (·.id)
  { d with descs := d.descs.filter fun x => !now.contains x.id }.btnWithdraw (fun o => match o with | .desc k => now.contains k | _ => false) .resetAbort

/-- RST_CTL GO: lost in the cycle of a device reset; refused before step 2, while a reset runs, or with a target out of range; else every covered core is fenced; rings of a partition stop and drain, their started descriptors posting RESET_ABORT; of a die the memory-side domains stop, and waits of rings are withdrawn (R283, R306, R504, R513, R514). -/
def Dev.resetGo (d : Dev) (scope target : Nat) : Dev :=
  if d.perstAt = some d.ns then d else
  let d := (d.setFld RST_CTL.SCOPE 0 0 scope).setFld RST_CTL.TARGET 0 0 target
  let ok : Bool := match scope with
    | 0 => decide (target < 256)
    | 1 => decide (target < 32)
    | 2 => decide (target < 8)
    | _ => target == 1 || target == 2
  if d.done < 2 ∨ d.rst.isSome ∨ !ok then d.setBit RST_STATUS.REFUSED 0 0 true
  else
    let t := if scope = 3 then target - 1 else target
    let d := ({ d with rst := some ⟨scope, t, d.ns⟩ } : Dev).setBit RST_STATUS.BUSY 0 0 true
    let d := (d.scopeCores scope t).foldl (fun d n => (d.fenceUndo n).fenceSet n true) d
    if scope = 2 then
      (d.rings.map (·.1)).foldl (fun d i =>
        if d.fld RING_CFG.PARTITION i 0 = t ∧ (d.ring i).on then
          let d := d.ringUnstart i
          (((d.setBit RING_CFG.ENABLE i 0 false).setRing i { d.ring i with state := .draining, pendingEn := false, fetched := [] }).ringAbort i .resetAbort).ringSettle i
        else d) d
    else if scope = 3 then
      (d.scopeCores 3 t).foldl (fun d n => d.slcReset n) (d.btnWithdraw (fun o => match o with | .desc _ => true | _ => false) .resetAbort)
    else d

/-- The drain bound of a scope in ns (R513). -/
def drainBound : Nat → Nat
  | 0 => 5000
  | 1 => 20000
  | 2 => 200000
  | _ => 2000000

/-- The memory-side domains of cluster k of a die are reset: its slices finish and leave self-refresh again, its check-value unit is reset (R174, R201, R513). -/
def Dev.memSideReset (d : Dev) (k : Nat) : Dev :=
  ((List.range 8).foldl (fun d j =>
    let n := 8 * k + j
    let d := d.slcFinish n
    let s := d.slice n
    d.setSlice n { s with debt := [], srAt := some (s.srAt.getD d.ns), srWanted := false, resetting := false, lastSlot := none }) d).chkReset k

/-- The counters of cluster k are cleared (R513, R532, R538). -/
def Dev.perfClear (d : Dev) (k : Nat) : Dev := (List.range 8).foldl (fun d i => (d.pmcSettleCl k i).clrReg PERF_CLCNT.reg k i) d

/-- RESET_APPLIED: every covered core is QUIESCED and the slices of a die are in self-refresh, or the drain bound has been reached (R174, R513, R514). -/
def Dev.resetApply (d : Dev) : Dev :=
  match d.rst with
  | none => d
  | some r =>
    let cs := d.scopeCores r.scope r.target
    let late := !cs.all fun n => d.fenceState n == 2 && (r.scope != 3 || (d.slice n).srAt.isSome)
    if late ∧ d.ns < r.at' + drainBound r.scope then d
    else
      let d := if late then d.setBit RST_STATUS.DRAIN_LATE 0 0 true else d
      let d := cs.foldl (fun d n => (((d.coreClear n).setFld RST_FENCE.STATE n 0 2).setBit RST_FENCE.FENCE n 0 true)) d
      let ks := (cs.map (· / 8)).dedup
      let d := if r.scope = 0 then d else ks.foldl (fun d k => d.perfClear k) d
      let d := if r.scope = 3 then (ks.foldl (fun d k => d.memSideReset k) d).attnReset (r.target == 1) else d
      (({ d with rst := none } : Dev).setBit RST_STATUS.BUSY 0 0 false).setFld RST_STATUS.LAST_DRAIN 0 0 (min (2 ^ 32 - 1) (d.ns - r.at'))

/-! Device reset (R502, R516). -/

/-- R502 starts: domains 439 to 451 are turned on, a trip since the last reset is reported, the boot ROM verifies management firmware and starts it (R417, R436, R502, R557). -/
def Dev.bringUp (d : Dev) : Dev :=
  let d := (List.range 13).foldl (fun d i => (d.setBit PWR_DOM.REQ (439 + i) 0 true).setFld PWR_DOM.STATE (439 + i) 0 2) { d with perstAt := some d.ns }
  let d := match d.tripRec with | some loc => { d with tripRec := none }.thmEvent 3 .thermalTrip 0x0B loc | none => d
  d.bootRom

/-- Registers whose contents a device reset keeps: THM_COOLANT, DEV_ALERT_MASK, the pins and the latched trip, and what shows the life log (R387, R397, R516). -/
def keptOffs : List Nat :=
  [THM_COOLANT.pos.off 0 0, DEV_ALERT_MASK.pos.off 0 0, DEV_PINS.pos.off 0 0, LIFE_STATUS.pos.off 0 0] ++ (List.range 16).map fun i => LIFE_WEAR.pos.off i 0

/-- Everything a device reset resets; what lies in the always-on domain, the MRAM, the retention SRAM and the fuses stays, as do the model's own clock, free values and outputs (R516). -/
def Dev.cleared (d : Dev) : Dev :=
  Dev.sync { Dev.reset with
    ns := d.ns, fresh := d.fresh, out := d.out, fuse := d.fuse, draws := d.draws
    regs := keptOffs.foldl (fun t o => Tbl.set 0 t o (Tbl.get 0 d.regs o)) (Tbl.set 0 Dev.reset.regs (TK_OSC.pos.off 0 0) (TK_OSC.TRIM.put 0 d.fuse.trim))
    mem := d.mem.filter fun c => decide (2 ^ 54 ≤ c.1)
    auxAt := d.auxAt, lifeSeq := d.lifeSeq, lifePend := d.lifePend, imgPend := d.imgPend, lifeAt := d.lifeAt
    laps := d.laps, lapInlet := d.lapInlet, worn := d.worn
    therm := { Therm.init with hist := d.therm.hist, coolAt := d.therm.coolAt }
    modEn := d.modEn, modEnAt := d.modEnAt, modFail := d.modFail, strapped := d.strapped, perstLow := d.perstLow, tripRec := d.tripRec
    gddr := { Gddr.init with fitted := d.gddr.fitted }, jtagIr := d.jtagIr, jtagBypass := d.jtagBypass, boundary := d.boundary }

/-- DEVICE_RESET by RST_DEV, a hot reset or a CXL Reset: the buffers of the board memory drain, everything is reset, and R502 starts again (R370, R516, R522). In HALT only PERST_N resets. -/
def Dev.deviceReset (d : Dev) (cause : ResetCause) : Dev :=
  let goes : Bool := match cause with
    | .rstDev _ key => key == 0x0D96#16 && d.svc.contains .bar0
    | _ => d.perstAt.isSome
  if goes && d.power != .halt then d.gddrDrainAll.cleared.bringUp else d

/-! The commands. -/

def execBootFault (svc : Service) (s : State) : Host.Outcome State Fault Refusal := s.ev fun d => d.bootFault svc
def execStepRails (s : State) : Host.Outcome State Fault Refusal := s.ev fun d => d.stepStart 1 fun d => (d.railsUp, none, false)
def execStepClocks (s : State) : Host.Outcome State Fault Refusal := s.ev fun d => d.stepStart 2 fun d => (d.clocksUp, none, false)
def execStepD2dTraining (_r : Req) (bad : List (Nat × Nat)) (s : State) : Host.Outcome State Fault Refusal :=
  s.ev fun d => d.stepStart 3 fun d => let (e, ok) := d.d2dTrain bad; (e, if ok then none else some 2, false)
def execStepVerticalTest (_r : Req) (badConns badCmd badLanes : List (Nat × Nat)) (badColumnLinks : List Nat) (s : State) : Host.Outcome State Fault Refusal :=
  s.ev fun d => d.stepStart 4 fun d => let (e, ok, deg) := d.vertTest badConns badCmd badLanes badColumnLinks; (e, if ok then none else some 2, deg)
def execStepStackCalibration (_r : Req) (uncal : List (Nat × Nat)) (gddrPass : BitVec 8) (s : State) : Host.Outcome State Fault Refusal :=
  s.ev fun d => d.stepStart 5 (fun d => (d.gddrTrainBegin, if uncal.isEmpty then none else some 2, false)) (some gddrPass.toNat)
def execStepFill (s : State) : Host.Outcome State Fault Refusal := s.ev fun d => d.stepStart 6 fun d => (d.fill, none, false)
def execStepMemoryTest (_r : Req) (defects : List (Nat × Option Nat)) (s : State) : Host.Outcome State Fault Refusal :=
  s.ev fun d => d.stepStart 7 fun d => (d.memTest defects, none, defects.any fun p => p.2.isNone)
def execStepCacheInit (s : State) : Host.Outcome State Fault Refusal := s.ev fun d => d.stepStart 8 fun d => (d.cacheInit, none, false)
def execStepFirmwareLoad (s : State) : Host.Outcome State Fault Refusal :=
  s.ev fun d => d.whole fun d => d.stepStart 9 fun d => let (e, ok) := d.release; (e, if ok then none else some 3, false)
def execStepFabricJoin (s : State) : Host.Outcome State Fault Refusal := s.ev fun d => d.stepStart 10 fun d => (d, none, false)
def execStepComplete (ok : Bool) (s : State) : Host.Outcome State Fault Refusal := s.ev fun d => d.stepDone ok
def execStepTimeout (s : State) : Host.Outcome State Fault Refusal := s.ev fun d => d.stepLate
def execCoreReset (_r : Req) (core : CoreId) (s : State) : Host.Outcome State Fault Refusal := s.ev fun d => d.resetGo 0 core
def execClusterReset (_r : Req) (k : ClusterId) (s : State) : Host.Outcome State Fault Refusal := s.ev fun d => d.resetGo 1 k
def execPartitionReset (_r : Req) (p : Fin 8) (s : State) : Host.Outcome State Fault Refusal := s.ev fun d => d.resetGo 2 p
def execDieReset (_r : Req) (upper : Bool) (s : State) : Host.Outcome State Fault Refusal := s.ev fun d => d.resetGo 3 (if upper then 2 else 1)
def execResetApplied (s : State) : Host.Outcome State Fault Refusal := s.ev fun d => d.resetApply
def execDeviceReset (cause : ResetCause) (s : State) : Host.Outcome State Fault Refusal := s.ev fun d => d.deviceReset cause
def execPartitionWrite (_r : Req) (p : Fin 8) (clusters : BitVec 32) (s : State) : Host.Outcome State Fault Refusal := s.ev fun d => d.partSet p clusters.toNat

end Sys2Proof.Machine
end

