-- ==== Sys2Proof/Machine/Package.lean ====
section
/-! DEFINITION. Package and board: standby supply, straps, MOD_EN, PERST_N, the thermal trip, ALERT_N, JTAG, MCTP and PLDM, PMBus (R380 to R398, R540). -/

namespace Sys2Proof.Machine

/-! The life log as 3V3_AUX rises (R541, R546). -/

/-- A histogram copy in the MRAM is valid: MAGIC and CRC match. -/
def Dev.copyValid (d : Dev) (b : Bool) : Bool :=
  let k := mramKey (d.lifePage b)
  d.num k 4 == 0x4C4C5844 &&
    d.num (k + 56) 8 == (crc64 0 (((List.range 56).map fun i => d.byte (k + i)) ++ (List.range 0xFFC0).map fun i => d.byte (k + 0x40 + i))).toNat

/-- The log is found again: the newer valid copy becomes the working histograms. -/
def Dev.lifeLoad (d : Dev) : Dev :=
  let a := d.copyValid false
  let b := d.copyValid true
  let newer := b && (!a || decide (d.num (mramKey (d.lifePage false + 8)) 8 < d.num (mramKey (d.lifePage true + 8)) 8))
  let d := (d.setBit LIFE_STATUS.VALID 0 0 (a || b)).setBit LIFE_STATUS.COPY 0 0 newer
  let k := mramKey (d.lifePage newer)
  let copy := if a || b then (d.mem.filter fun c => decide (k ≤ c.1) && decide (c.1 < k + 0x10000)).map fun c => (c.1 - k + histKey 0, c.2) else []
  { d with mem := copy.foldl (fun m c => Tbl.set 0 m c.1 c.2) d.mem }

/-- AUX_POWER_UP: the always-on domain starts; TK_TIME counts from here (R384, R444). -/
def Dev.auxUp (d : Dev) : Dev :=
  if d.auxAt.isSome then d
  else (({ d with auxAt := some d.ns, perstLow := d.ns } : Dev).setFld TK_OSC.TRIM 0 0 d.fuse.trim).lifeLoad

/-- AUX_POWER_DOWN: everything but the MRAM, the firmware store and the fuses is lost (R381, R387, R541). -/
def Dev.auxDown (d : Dev) : Dev :=
  Dev.sync { Dev.reset with
    gddr := { Gddr.init with fitted := d.gddr.fitted }, ns := d.ns, fresh := d.fresh, out := d.out, fuse := d.fuse, draws := d.draws
    mem := d.mem.filter fun c => decide (2 ^ 54 ≤ c.1) && decide (c.1 < histKey 0), lifeSeq := d.lifeSeq, worn := d.worn }

/-- STRAP_SAMPLE, 10 ms after 3V3_AUX rose (R381). -/
def Dev.straps (d : Dev) (sel : Nat) (smbus : Bool) : Dev :=
  if d.auxAt.any (fun t => decide (t + 10000000 ≤ d.ns)) && !d.strapped then
    (({ d with strapped := true } : Dev).setFld DEV_PINS.ADDR_SEL 0 0 sel).setBit DEV_PINS.MGMT_MODE 0 0 smbus
  else d

/-! VIN (R384 to R386, R398). -/

/-- MOD_EN rises 20 ms after 3V3_AUX, with a module present, 12 V there and no trip latched; never again after a module that did not answer (R378, R384). -/
def Dev.modOn (d : Dev) (modIdLow : Bool) (mv12 : Nat) : Dev :=
  if d.auxAt.any (fun t => decide (t + 20000000 ≤ d.ns)) && !d.modEn && !d.modFail && d.power != .halt then
    let d := d.setBit DEV_PINS.MOD_PRESENT 0 0 modIdLow
    if modIdLow && decide (11400 < mv12) && !d.bit DEV_PINS.TRIPPED 0 0 then { d with modEn := true, modEnAt := d.ns } else d
  else d

/-- PWR_GOOD_RISE. -/
def Dev.vinUp (d : Dev) : Dev := if d.modEn then d.setBit DEV_PINS.PWR_GOOD 0 0 true else d

/-- PWR_GOOD_TIMEOUT (R384, R548). -/
def Dev.vinLate (d : Dev) : Dev :=
  if d.modEn && !d.bit DEV_PINS.PWR_GOOD 0 0 && decide (d.modEnAt + 5000000 ≤ d.ns) then ({ d with modEn := false, modFail := true } : Dev).journal 0x08 [] else d

/-- The HALT level of the 12 V supply is in force, as when its samples say so (R386, R410). -/
def Dev.sagForce (d : Dev) : Dev :=
  let s := Tbl.get ⟨0, 0, false⟩ d.pwr.sag 3
  let d : Dev := { d with pwr := { d.pwr with sag := Tbl.set ⟨0, 0, false⟩ d.pwr.sag 3 { s with on := true } } }
  (d.sagEnter 0 3 (5 * d.fld PWR_SAG.MIN_12V 0 0)).setFld PWR_STATUS.SAG_12V 0 0 3

/-- PWR_GOOD_FALL: the HALT level of the 12 V supply comes into force while PERST_N is high; VIN is gone at once while it is low (R386, R398, R410). -/
def Dev.vinDown (d : Dev) : Dev :=
  if !d.bit DEV_PINS.PWR_GOOD 0 0 then d
  else
    let d := d.setBit DEV_PINS.PWR_GOOD 0 0 false
    if d.bit DEV_PINS.PERST 0 0 then (if d.power = .halt then d else d.sagForce) else d.railsOff

/-- MOD_ID_HIGH: the module is gone (R398). -/
def Dev.modGone (d : Dev) : Dev :=
  let d := d.setBit DEV_PINS.MOD_PRESENT 0 0 false
  if d.modEn then ({ d with modEn := false } : Dev).vinDown else d

/-! PERST_N and the trip (R385 to R387). -/

/-- PERST_DEASSERT: R502 starts, unless a latched trip keeps the rails off. -/
def Dev.perstUp (d : Dev) : Dev :=
  if d.auxAt.isNone || d.bit DEV_PINS.PERST 0 0 then d
  else
    let d := d.setBit DEV_PINS.PERST 0 0 true
    if d.bit DEV_PINS.TRIPPED 0 0 then d else d.bringUp

/-- PERST_ASSERT: the buffers of the board memory drain, the life log is updated, the device is reset; MOD_EN then drops (R370, R385, R386, R546). -/
def Dev.perstDown (d : Dev) : Dev :=
  if !d.bit DEV_PINS.PERST 0 0 then d
  else
    let d := if d.perstAt.isSome then (if d.power = .halt then d else d.gddrDrainAll).lifeSave else d
    let d := if d.modEn then d.lapOff else d
    { d.cleared.setBit DEV_PINS.PERST 0 0 false with perstLow := d.ns, modEn := false }

/-- THERMTRIP: a junction at 120 °C: MOD_EN and every rail but the always-on domain drop, the trip is latched and recorded (R387, R398). -/
def Dev.trip (d : Dev) (die unit : Nat) (reading : Int) : Dev :=
  if d.auxAt.isNone || decide (reading < 960) || d.bit DEV_PINS.TRIPPED 0 0 then d
  else
    let d := d.railsOff.journal 0x02 [die, unit, ux 12 reading]
    ({ d.cleared with modEn := false, perstLow := d.ns, tripRec := some (unit % 256 + 256 * die) } : Dev).setBit DEV_PINS.TRIPPED 0 0 true

/-- TRIP_CLEAR: PERST_N has been low for 100 ms in which every sensor read below 100 °C (R387). -/
def Dev.tripEnd (d : Dev) : Dev :=
  if d.bit DEV_PINS.TRIPPED 0 0 && !d.bit DEV_PINS.PERST 0 0 && decide (d.perstLow + 100000000 ≤ d.ns) && d.therm.hist.all fun p => decide (p.2.headD 0 < 800) then
    d.setBit DEV_PINS.TRIPPED 0 0 false
  else d

/-! ALERT_N (R388, R396, R397). -/

/-- ALERT_SRC: bits [22:16] of DEV_PINS, each a level (R396). -/
def Dev.alertSrc (d : Dev) : Nat :=
  let bits : List Bool :=
    [decide (0 < d.evPending),
     d.fld PWR_STATUS.SAG_12V 0 0 != 0 || d.fld PWR_STATUS.SAG_AON 0 0 != 0,
     d.therm.warn,
     d.therm.degraded || d.fld THM_STATUS.COOL 0 0 != 0 || d.pwrState == 1 || d.pwrState == 2,
     d.bit DEV_PINS.SRC_MODULE 0 0,
     d.fld FAB_PORT.SPEED 0 0 == 0,
     d.fatal]
  ((bits.zipIdx).map fun p => if p.1 then 2 ^ p.2 else 0).sum

/-- ALERT_N is asserted (R388). -/
def Dev.alert (d : Dev) : Bool := d.auxAt.isSome && (d.alertSrc &&& d.fld DEV_ALERT_MASK.MASK 0 0) != 0

/-- In I3C mode the package raises an in-band interrupt when ALERT_N is asserted (R388; log 163). -/
def Dev.alertPump (d : Dev) : Dev :=
  let a := d.alert
  if a = d.alerted then d
  else
    let d : Dev := { d with alerted := a }
    if a && d.strapped && !d.bit DEV_PINS.MGMT_MODE 0 0 then d.emit .i3cIbi else d

/-- ALERT_RESPONSE: in SMBus mode a device that asserts ALERT_N answers with its static address (R381, R388). -/
def Dev.alertAnswer (d : Dev) : Dev :=
  if d.strapped && d.bit DEV_PINS.MGMT_MODE 0 0 && d.alert then d.emit (.smbAddress (0x60 + d.fld DEV_PINS.ADDR_SEL 0 0)) else d

/-! JTAG (R389). -/

/-- BYPASS: one bit through the bypass register, which starts at 0. -/
def Dev.jtagPass (d : Dev) (tdi : Bool) : Dev :=
  ({ d with jtagIr := .bypass, jtagBypass := tdi } : Dev).emit (.jtag [d.jtagIr == .bypass && d.jtagBypass])

/-- IDCODE: 0x00D9_64E5, least significant bit first. -/
def Dev.jtagId (d : Dev) : Dev := ({ d with jtagIr := .idcode } : Dev).emit (.jtag ((List.range 32).map fun i => bitOf 0x00D964E5 i))

/-- SAMPLE/PRELOAD: the boundary register takes the pins. -/
def Dev.jtagSample (d : Dev) (pins : List Bool) : Dev := ({ d with jtagIr := .sample, boundary := pins } : Dev).emit (.jtag pins)

/-- EXTEST: the boundary register drives the perimeter signal lands. -/
def Dev.jtagDrive (d : Dev) : Dev := (d.boundary.zipIdx).foldl (fun d p => d.emit (.pin p.2 p.1)) { d with jtagIr := .extest }

/-! MCTP and PLDM (R392 to R394, R540). Command codes and completion codes are those of DSP0236, DSP0240 and DSP0248 (log 70). -/

/-- The channel of a binding. -/
def bindingOf (vdm : Bool) : Channel := if vdm then .vdm else .bus

/-- A binding carries messages: 3V3_AUX and, for VDM, the link. -/
def Dev.binding (d : Dev) (vdm : Bool) (f : Dev → Dev) : Dev := if d.auxAt.isSome && (!vdm || d.linkOn) then f d else d

/-- The answer to an MCTP control request: Set Endpoint ID (through its own row), Get Endpoint ID, Get Message Type Support; any other is unsupported. -/
def Dev.mctpControl (d : Dev) (vdm : Bool) (body : List Byte) : Dev :=
  let cmd := (body.getD 1 0).toNat
  d.emit (.mctpReply vdm 0
    (if cmd = 2 then [0, Tbl.get 0 d.eid (if vdm then 1 else 0), 0, 0]
     else if cmd = 5 then [0, 4, 0x00, 0x01, 0x05, 0x06]
     else [5]))

/-- A PLDM message: a request is served; a successful response to PlatformEventMessage accepts the oldest record that waits (R396). -/
def Dev.pldmIn (d : Dev) (vdm : Bool) (body : List Byte) : Dev :=
  if bitOf (body.headD 0).toNat 7 then d.needs .pldm (bindingOf vdm) (.mctpMessage vdm 1 body) fun d => d.emit (.served .pldm (bindingOf vdm) body)
  else if (body.getD 1 0).toNat % 64 = 2 ∧ body.getD 2 0 = 0x0A ∧ body.getD 3 0xFF = 0 then { d with evPending := d.evPending - 1 }
  else d

/-- MCTP_MESSAGE: each type goes to its service; another type is answered with an MCTP control error (R393, R394). -/
def Dev.mctpIn (d : Dev) (vdm : Bool) (type : Nat) (body : List Byte) : Dev :=
  d.binding vdm fun d =>
    match type with
    | 0x00 => d.needs .mctp (bindingOf vdm) (.mctpMessage vdm (BitVec.ofNat 8 type) body) fun d => d.mctpControl vdm body
    | 0x01 => d.pldmIn vdm body
    | 0x05 | 0x06 => d.needs .spdm (bindingOf vdm) (.mctpMessage vdm (BitVec.ofNat 8 type) body) fun d => d.emit (.served .spdm (bindingOf vdm) body)
    | _ => d.needs .mctp (bindingOf vdm) (.mctpMessage vdm (BitVec.ofNat 8 type) body) fun d => d.emit (.mctpReply vdm 0 [1])

/-- SET_ENDPOINT_ID (R393). -/
def Dev.eidSet (d : Dev) (vdm : Bool) (e : Byte) : Dev :=
  d.binding vdm fun d => d.needs .mctp (bindingOf vdm) (.setEndpointId vdm e) fun d =>
    ({ d with eid := Tbl.set 0 d.eid (if vdm then 1 else 0) e } : Dev).emit (.mctpReply vdm 0 [0, 0, e, 0])

/-- PLDM_REQUEST: base gives the types supported, 0 and 2; monitoring a sensor's value and state; a sensor or type that does not exist is an error (R394, R540). -/
def Dev.pldmAsk (d : Dev) (vdm : Bool) (type sensor : Nat) : Dev :=
  d.binding vdm fun d => d.needs .pldm (bindingOf vdm) (.pldmRequest vdm (BitVec.ofNat 6 type) sensor) fun d =>
    match type with
    | 0 => d.emit (.mctpReply vdm 1 [0, 0x05])
    | 2 =>
      if 1 ≤ sensor ∧ sensor ≤ 19 then
        match Tbl.get none d.pldm sensor with
        | some v => d.emit (.pldmValue sensor (some v) (d.sensorState sensor v))
        | none => d.emit (.pldmValue sensor none 0)
      else d.emit (.mctpReply vdm 1 [0x80])
    | _ => d.emit (.mctpReply vdm 1 [0x20])

/-- PLDM_EFFECTER: effecter 1 writes INLET, effecter 2 FLOW, each with its VALID bit, as one write of THM_COOLANT (R391, R392, R540). -/
def Dev.pldmEffect (d : Dev) (vdm : Bool) (n v : Nat) : Dev :=
  d.binding vdm fun d => d.needs .pldm (bindingOf vdm) (.pldmEffecter vdm n (BitVec.ofNat 12 v)) fun d =>
    let g (f : Fld) : Nat := d.fld f 0 0
    let word (inlet iv flow fv : Nat) : Word :=
      BitVec.ofNat 64 (inlet + 2 ^ 12 * iv + 2 ^ 16 * flow + 2 ^ 28 * fv + 2 ^ 32 * g THM_COOLANT.STALE)
    match n with
    | 1 => d.coolWrite 1 (word v 1 (g THM_COOLANT.FLOW) (g THM_COOLANT.FLOW_VALID))
    | 2 => d.coolWrite 1 (word (g THM_COOLANT.INLET) (g THM_COOLANT.INLET_VALID) v 1)
    | _ => d.emit (.mctpReply vdm 1 [0x80])

/-! The module's PMBus (R395). -/

/-- PMBUS_POLL. -/
def Dev.pmbPoll (d : Dev) (vin iout vout temp : Nat) : Dev := { d with pmb := { d.pmb with vin := vin, iout := iout, vout := vout, temp := temp } }

/-- PMB_ALERT: SRC_MODULE follows PMB_ALERT_N; STATUS_WORD is read when it is asserted. -/
def Dev.pmbAlert (d : Dev) (on : Bool) (w : BitVec 16) : Dev := { d.setBit DEV_PINS.SRC_MODULE 0 0 on with pmbStatus := if on then w else d.pmbStatus }

/-! The commands. -/

def execAuxPowerUp (s : State) : Host.Outcome State Fault Refusal := s.ev fun d => d.auxUp
def execAuxPowerDown (s : State) : Host.Outcome State Fault Refusal := s.ev fun d => d.auxDown
def execStrapSample (sel : BitVec 2) (mode : Bool) (s : State) : Host.Outcome State Fault Refusal := s.ev fun d => d.straps sel.toNat mode
def execModEn (modIdLow : Bool) (mv12 : Nat) (s : State) : Host.Outcome State Fault Refusal := s.ev fun d => d.modOn modIdLow mv12
def execPwrGoodRise (s : State) : Host.Outcome State Fault Refusal := s.ev fun d => d.vinUp
def execPwrGoodTimeout (s : State) : Host.Outcome State Fault Refusal := s.ev fun d => d.vinLate
def execPwrGoodFall (s : State) : Host.Outcome State Fault Refusal := s.ev fun d => d.vinDown
def execModIdHigh (s : State) : Host.Outcome State Fault Refusal := s.ev fun d => d.modGone
def execPerstDeassert (s : State) : Host.Outcome State Fault Refusal := s.ev fun d => d.perstUp
def execPerstAssert (s : State) : Host.Outcome State Fault Refusal := s.ev fun d => d.perstDown
def execThermtrip (die : Fin 4) (unit : Nat) (reading : Int) (s : State) : Host.Outcome State Fault Refusal := s.ev fun d => d.trip die unit reading
def execTripClear (s : State) : Host.Outcome State Fault Refusal := s.ev fun d => d.tripEnd
def execAlertResponse (s : State) : Host.Outcome State Fault Refusal := s.ev fun d => d.alertAnswer
def execJtagBypass (tdi : Bool) (s : State) : Host.Outcome State Fault Refusal := s.evAux fun d => d.jtagPass tdi
def execJtagIdcode (s : State) : Host.Outcome State Fault Refusal := s.evAux fun d => d.jtagId
def execJtagSamplePreload (pins : List Bool) (s : State) : Host.Outcome State Fault Refusal := s.evAux fun d => d.jtagSample pins
def execJtagExtest (s : State) : Host.Outcome State Fault Refusal := s.evAux fun d => d.jtagDrive
def execMctpMessage (vdm : Bool) (type : BitVec 8) (body : List Byte) (s : State) : Host.Outcome State Fault Refusal := s.ev fun d => d.mctpIn vdm type.toNat body
def execSetEndpointId (vdm : Bool) (eid : Byte) (s : State) : Host.Outcome State Fault Refusal := s.ev fun d => d.eidSet vdm eid
def execPldmRequest (vdm : Bool) (type : BitVec 6) (sensor : Nat) (s : State) : Host.Outcome State Fault Refusal := s.ev fun d => d.pldmAsk vdm type.toNat sensor
def execPldmEffecter (vdm : Bool) (id : Nat) (value : BitVec 12) (s : State) : Host.Outcome State Fault Refusal := s.ev fun d => d.pldmEffect vdm id value.toNat
def execPmbusPoll (vin iout vout temp : Nat) (s : State) : Host.Outcome State Fault Refusal := s.evAux fun d => d.pmbPoll vin iout vout temp
def execPmbAlert (asserted : Bool) (statusWord : BitVec 16) (s : State) : Host.Outcome State Fault Refusal := s.evAux fun d => d.pmbAlert asserted statusWord

end Sys2Proof.Machine
end

