-- ==== Sys2Proof/Machine/CallRoom.lean ====
section
/-! DEFINITION. Services becoming ready, and the call room (R502, R503). -/

namespace Sys2Proof.Machine

/-- CALL_ROOM: a request for a service that is not ready is held, or answered Busy; one that is ready is served (R503). -/
def Dev.callIn (d : Dev) (chan : Channel) (svc : Service) (body : List Byte) : Dev :=
  d.needs svc chan (.callRoom chan svc body) fun d => d.emit (.served svc chan body)

/-- Serve a request the call room held, as its command serves it once its service is ready (R503). -/
def Dev.serveHeld (d : Dev) (i : Instr) : Dev :=
  match i with
  | .callRoom chan svc body => d.callIn chan svc body
  | .identify => d.mbIdentify
  | .getSupportedLogs => d.mbLogs
  | .getLog uuid off len => d.mbLog uuid off len
  | .getEventRecords log => d.mbEvents log
  | .clearEventRecords log all hs => d.mbClear log all hs
  | .getEventInterruptPolicy => d.mbPolicy
  | .setEventInterruptPolicy p => d.mbSetPolicy p
  | .getTimestamp => d.mbStamp
  | .setTimestamp t => d.mbSetStamp t
  | .identifyMemoryDevice => d.mbMemory
  | .cdatTableAccess entry => d.cdat entry
  | .mctpMessage vdm type body => d.mctpIn vdm type.toNat body
  | .setEndpointId vdm e => d.eidSet vdm e
  | .pldmRequest vdm type sensor => d.pldmAsk vdm type.toNat sensor
  | .pldmEffecter vdm n v => d.pldmEffect vdm n v.toNat
  | .spdmGetVersion q => d.spdmVersion q
  | .spdmGetCapabilities q => d.spdmCaps q
  | .spdmNegotiateAlgorithms q => d.spdmAlgs q
  | .spdmGetDigests q => d.spdmDigests q
  | .spdmGetCertificate q slot off len => d.spdmCert q slot off len
  | .spdmChallenge q slot => d.spdmChallenge q slot
  | .spdmGetMeasurements q index signed => d.spdmMeas q index signed
  | .spdmKeyExchange q => d.spdmKeyEx q
  | .spdmFinish q => d.spdmFinish q
  | .spdmHeartbeat q => d.spdmBeat q
  | .spdmKeyUpdate q => d.spdmRekey q
  | .spdmEndSession q => d.spdmEnd q
  | .ideQuery q => d.ideQuery q
  | .ideKeyProg q stream ks key => d.ideProg q stream ks key
  | .ideKSetGo q stream ks => d.ideGo q stream ks
  | .ideKSetStop q stream ks => d.ideStop q stream ks
  | _ => d

/-- Requester index of a channel (R503). -/
def Channel.idx : Channel → Nat
  | .bus => 0
  | .vdm => 1
  | .doe => 2
  | .mbox => 3

/-- The call served next: the oldest; of calls that arrived in one cycle R29 orders the channels (R29, R503). -/
def Dev.callNext (d : Dev) (l : List Call) : Option (Call × Dev) :=
  match oldest (·.arr) l with
  | none => none
  | some h =>
    let tied := l.filter fun c => c.arr == h.arr
    match d.tie (arbKey 19 0) (tied.map fun c => Channel.idx c.chan).dedup with
    | none => none
    | some (w, d) => (tied.find? fun c => Channel.idx c.chan == w).map fun c => (c, d)

/-- Serve held calls in order of arrival (R503). -/
def Dev.serveCalls (d : Dev) : Nat → List Call → Dev
  | 0, _ => d
  | fuel + 1, l =>
    match d.callNext l with
    | some (c, d) => (d.serveHeld c.req).serveCalls fuel (l.erase c)
    | none => d

/-- Milliseconds after the start of R502 at which a service becomes ready. -/
def readyMs : Service → Nat
  | .bar0 => 200
  | .mailbox | .mctp | .pldm | .cdat => 400
  | .spdm => 600

/-- SERVICE_READY: held entries of the service are served in order of arrival. BAR0 and configuration need no management firmware (R502, R503, R557). -/
def Dev.serviceReady (d : Dev) (svc : Service) : Dev :=
  if !d.sincePerst (readyMs svc) || d.svc.contains svc || d.dead.contains svc || !(d.mgmt || svc == .bar0) then d
  else
    let held := d.calls.filter fun c => c.svc == svc
    ({ d with svc := d.svc ++ [svc], calls := d.calls.filter fun c => c.svc != svc } : Dev).serveCalls held.length held

/-- A cycle ends: requests that have found all 32 entries of the room taken are answered Busy (R503, R517). -/
def Dev.roomSettle (d : Dev) : Dev := (d.calls.drop 32).foldl (fun d c => d.emit (.busy c.svc c.chan)) { d with calls := d.calls.take 32 }

/-! The commands. -/

def execServiceReady (svc : Service) (s : State) : Host.Outcome State Fault Refusal := s.ev fun d => d.serviceReady svc
def execCallRoom (chan : Channel) (svc : Service) (body : List Byte) (s : State) : Host.Outcome State Fault Refusal := s.ev fun d => d.callIn chan svc body

end Sys2Proof.Machine
end

