-- ==== Sys2Proof/Machine/CpCode.lean ====
section
/-! DEFINITION. Instruction words of the control processor: fields, the compressed encodings expanded, and the integer operations (R111; RISC-V unprivileged architecture, log 30). -/

namespace Sys2Proof.Machine

/-! Fields of a 32-bit word. -/

def rvOp (w : Nat) : Nat := bitsOf w 0 7
def rvRd (w : Nat) : Nat := bitsOf w 7 5
def rvF3 (w : Nat) : Nat := bitsOf w 12 3
def rvRs1 (w : Nat) : Nat := bitsOf w 15 5
def rvRs2 (w : Nat) : Nat := bitsOf w 20 5
def rvF7 (w : Nat) : Nat := bitsOf w 25 7
def rvImmI (w : Nat) : Int := sx 12 (bitsOf w 20 12)
def rvImmS (w : Nat) : Int := sx 12 (bitsOf w 25 7 * 32 + bitsOf w 7 5)
def rvImmB (w : Nat) : Int := sx 13 (bitsOf w 31 1 * 2 ^ 12 + bitsOf w 7 1 * 2 ^ 11 + bitsOf w 25 6 * 32 + bitsOf w 8 4 * 2)
def rvImmU (w : Nat) : Int := sx 32 (bitsOf w 12 20 * 4096)
def rvImmJ (w : Nat) : Int := sx 21 (bitsOf w 31 1 * 2 ^ 20 + bitsOf w 12 8 * 2 ^ 12 + bitsOf w 20 1 * 2 ^ 11 + bitsOf w 21 10 * 2)

/-- Address arithmetic, modulo 2^64. -/
def rvPlus (a : Nat) (z : Int) : Nat := ux 64 ((a : Int) + z)

/-! Words built from fields. -/

def encI (op f3 rd rs1 : Nat) (imm : Int) : Nat := op + rd * 2 ^ 7 + f3 * 2 ^ 12 + rs1 * 2 ^ 15 + ux 12 imm * 2 ^ 20
def encR (op f3 f7 rd rs1 rs2 : Nat) : Nat := op + rd * 2 ^ 7 + f3 * 2 ^ 12 + rs1 * 2 ^ 15 + rs2 * 2 ^ 20 + f7 * 2 ^ 25
def encS (op f3 rs1 rs2 imm : Nat) : Nat := op + bitsOf imm 0 5 * 2 ^ 7 + f3 * 2 ^ 12 + rs1 * 2 ^ 15 + rs2 * 2 ^ 20 + bitsOf imm 5 7 * 2 ^ 25
def encB (f3 rs1 : Nat) (imm : Int) : Nat :=
  let z := ux 13 imm
  0x63 + bitsOf z 11 1 * 2 ^ 7 + bitsOf z 1 4 * 2 ^ 8 + f3 * 2 ^ 12 + rs1 * 2 ^ 15 + bitsOf z 5 6 * 2 ^ 25 + bitsOf z 12 1 * 2 ^ 31
def encU (rd : Nat) (imm : Int) : Nat := 0x37 + rd * 2 ^ 7 + bitsOf (ux 32 imm) 12 20 * 2 ^ 12
def encJ (rd : Nat) (imm : Int) : Nat :=
  let z := ux 21 imm
  0x6F + rd * 2 ^ 7 + bitsOf z 12 8 * 2 ^ 12 + bitsOf z 11 1 * 2 ^ 20 + bitsOf z 1 10 * 2 ^ 21 + bitsOf z 20 1 * 2 ^ 31

/-- Compressed words of quadrant 0. -/
def rvcQ0 (h : Nat) : Option Nat :=
  let rd := 8 + bitsOf h 2 3
  let rs := 8 + bitsOf h 7 3
  let w := bitsOf h 6 1 * 4 + bitsOf h 10 3 * 8 + bitsOf h 5 1 * 64
  let q := bitsOf h 10 3 * 8 + bitsOf h 5 2 * 64
  match bitsOf h 13 3 with
  | 0 =>
    let imm := bitsOf h 6 1 * 4 + bitsOf h 5 1 * 8 + bitsOf h 11 2 * 16 + bitsOf h 7 4 * 64
    if imm = 0 then none else some (encI 0x13 0 rd 2 imm)
  | 1 => some (encI 0x07 3 rd rs q)
  | 2 => some (encI 0x03 2 rd rs w)
  | 3 => some (encI 0x03 3 rd rs q)
  | 5 => some (encS 0x27 3 rs rd q)
  | 6 => some (encS 0x23 2 rs rd w)
  | 7 => some (encS 0x23 3 rs rd q)
  | _ => none

/-- Compressed words of quadrant 1. -/
def rvcQ1 (h : Nat) : Option Nat :=
  let rd := bitsOf h 7 5
  let rp := 8 + bitsOf h 7 3
  let r2 := 8 + bitsOf h 2 3
  let u6 := bitsOf h 12 1 * 32 + bitsOf h 2 5
  let i6 := sx 6 u6
  let ij := sx 12 (bitsOf h 12 1 * 2 ^ 11 + bitsOf h 11 1 * 2 ^ 4 + bitsOf h 9 2 * 2 ^ 8 + bitsOf h 8 1 * 2 ^ 10 + bitsOf h 7 1 * 2 ^ 6 + bitsOf h 6 1 * 2 ^ 7 +
    bitsOf h 3 3 * 2 + bitsOf h 2 1 * 2 ^ 5)
  let ib := sx 9 (bitsOf h 12 1 * 2 ^ 8 + bitsOf h 10 2 * 2 ^ 3 + bitsOf h 5 2 * 2 ^ 6 + bitsOf h 3 2 * 2 + bitsOf h 2 1 * 2 ^ 5)
  match bitsOf h 13 3 with
  | 0 => some (encI 0x13 0 rd rd i6)
  | 1 => if rd = 0 then none else some (encI 0x1B 0 rd rd i6)
  | 2 => some (encI 0x13 0 rd 0 i6)
  | 3 =>
    if u6 = 0 then none
    else if rd = 2 then
      some (encI 0x13 0 2 2 (sx 10 (bitsOf h 12 1 * 2 ^ 9 + bitsOf h 6 1 * 2 ^ 4 + bitsOf h 5 1 * 2 ^ 6 + bitsOf h 3 2 * 2 ^ 7 + bitsOf h 2 1 * 2 ^ 5)))
    else some (encU rd (i6 * 4096))
  | 4 =>
    match bitsOf h 10 2 with
    | 0 => some (encI 0x13 5 rp rp u6)
    | 1 => some (encI 0x13 5 rp rp (u6 + 0x400 : Nat))
    | 2 => some (encI 0x13 7 rp rp i6)
    | _ =>
      match bitsOf h 12 1, bitsOf h 5 2 with
      | 0, 0 => some (encR 0x33 0 0x20 rp rp r2)
      | 0, 1 => some (encR 0x33 4 0 rp rp r2)
      | 0, 2 => some (encR 0x33 6 0 rp rp r2)
      | 0, 3 => some (encR 0x33 7 0 rp rp r2)
      | 1, 0 => some (encR 0x3B 0 0x20 rp rp r2)
      | 1, 1 => some (encR 0x3B 0 0 rp rp r2)
      | _, _ => none
  | 5 => some (encJ 0 ij)
  | 6 => some (encB 0 rp ib)
  | _ => some (encB 1 rp ib)

/-- Compressed words of quadrant 2. -/
def rvcQ2 (h : Nat) : Option Nat :=
  let rd := bitsOf h 7 5
  let r2 := bitsOf h 2 5
  let u6 := bitsOf h 12 1 * 32 + bitsOf h 2 5
  let lq := bitsOf h 5 2 * 8 + bitsOf h 12 1 * 32 + bitsOf h 2 3 * 64
  let lw := bitsOf h 4 3 * 4 + bitsOf h 12 1 * 32 + bitsOf h 2 2 * 64
  let sq := bitsOf h 10 3 * 8 + bitsOf h 7 3 * 64
  let sw := bitsOf h 9 4 * 4 + bitsOf h 7 2 * 64
  match bitsOf h 13 3 with
  | 0 => some (encI 0x13 1 rd rd u6)
  | 1 => some (encI 0x07 3 rd 2 lq)
  | 2 => if rd = 0 then none else some (encI 0x03 2 rd 2 lw)
  | 3 => if rd = 0 then none else some (encI 0x03 3 rd 2 lq)
  | 4 =>
    if bitsOf h 12 1 = 0 then
      (if r2 = 0 then (if rd = 0 then none else some (encI 0x67 0 0 rd 0)) else some (encR 0x33 0 0 rd 0 r2))
    else if r2 = 0 then (if rd = 0 then some 0x00100073 else some (encI 0x67 0 1 rd 0))
    else some (encR 0x33 0 0 rd rd r2)
  | 5 => some (encS 0x27 3 2 r2 sq)
  | 6 => some (encS 0x23 2 2 r2 sw)
  | _ => some (encS 0x23 3 2 r2 sq)

/-- The 32-bit word a compressed one stands for; none where it is reserved. -/
def rvcExpand (h : Nat) : Option Nat :=
  match h % 4 with
  | 0 => rvcQ0 h
  | 1 => rvcQ1 h
  | 2 => rvcQ2 h
  | _ => none

/-! Integer operations, on values modulo 2^64 (or 2^32, w = 32). -/

/-- The operations of OP and OP-IMM, by funct3; `alt` is SUB or the arithmetic shift. -/
def rvAlu (w f3 : Nat) (alt : Bool) (a b : Nat) : Nat :=
  let sh := b % w
  match f3 with
  | 0 => ux w (if alt then (a : Int) - b else (a : Int) + b)
  | 1 => ux w (a * 2 ^ sh : Nat)
  | 2 => if sx w a < sx w b then 1 else 0
  | 3 => if a < b then 1 else 0
  | 4 => a ^^^ b
  | 5 => if alt then ux w (sx w a / 2 ^ sh) else a / 2 ^ sh
  | 6 => a ||| b
  | _ => a &&& b

/-- The operations of the M extension, by funct3. -/
def rvMul (w f3 a b : Nat) : Nat :=
  let x := sx w a
  let y := sx w b
  match f3 with
  | 0 => ux w (x * y)
  | 1 => ux w (x * y / 2 ^ w)
  | 2 => ux w (x * b / 2 ^ w)
  | 3 => a * b / 2 ^ w
  | 4 => if b = 0 then 2 ^ w - 1 else ux w (x.tdiv y)
  | 5 => if b = 0 then 2 ^ w - 1 else a / b
  | 6 => if b = 0 then a else ux w (x.tmod y)
  | _ => if b = 0 then a else a % b

/-- The value an AMO leaves, by its five-bit code; none where the code is reserved. -/
def rvAmo (w op a b : Nat) : Option Nat :=
  let x := sx w a
  let y := sx w b
  match op with
  | 0 => some (ux w (x + y))
  | 1 => some b
  | 4 => some (a ^^^ b)
  | 8 => some (a ||| b)
  | 12 => some (a &&& b)
  | 16 => some (if x ≤ y then a else b)
  | 20 => some (if x ≤ y then b else a)
  | 24 => some (min a b)
  | 28 => some (max a b)
  | _ => none

/-- Whether a branch is taken, by funct3; none where the code is reserved. -/
def rvBranch (f3 a b : Nat) : Option Bool :=
  match f3 with
  | 0 => some (a == b)
  | 1 => some (a != b)
  | 4 => some (decide (sx 64 a < sx 64 b))
  | 5 => some (!decide (sx 64 a < sx 64 b))
  | 6 => some (decide (a < b))
  | 7 => some (!decide (a < b))
  | _ => none

/-- A value of w bits sign-extended to 64. -/
def sext (w v : Nat) : Nat := ux 64 (sx w v)

end Sys2Proof.Machine
end

