-- ==== Sys2Proof/Machine/CpFloat.lean ====
section
/-! DEFINITION. Floating point of the control processor: the F and D extensions of RV64GC (R111; RISC-V unprivileged architecture, log 30). -/

namespace Sys2Proof.Machine

/-- A result with the flags it accrues: NV, DZ, OF, UF, NX in bits 4 to 0. -/
abbrev FpRes := Nat × Nat

/-- The rounding mode a code names. -/
def fpMode : Nat → Option RMode
  | 0 => some .rne
  | 1 => some .rtz
  | 2 => some .rdn
  | 3 => some .rup
  | 4 => some .rmm
  | _ => none

/-- The NaN is signalling. -/
def Fmt.signalling (f : Fmt) (c : Nat) : Bool := f.decode c == .nan && !bitOf c (f.mb - 1)

/-- Invalid where an operand is a signalling NaN. -/
def Fmt.snan (f : Fmt) (l : List Nat) : Nat := if l.any f.signalling then 16 else 0

/-- Round (-1)^neg × (n / d) × 2^e, tininess judged after rounding. -/
def Fmt.rvRound (f : Fmt) (mode : RMode) (neg : Bool) (n d : Nat) (e : Int) : FpRes :=
  let r := f.round mode false neg n d e
  let top := log2Rat n d + e
  let q := top - f.mb
  let m := (if q ≥ e then roundRat mode neg n (d * 2 ^ (q - e).toNat) else roundRat mode neg (n * 2 ^ (e - q).toNat) d).1
  let tiny := decide (top < 1 - (f.bias : Int)) && !(decide (top = -(f.bias : Int)) && m == 2 ^ (f.mb + 1))
  (r.code, (if r.of then 4 else 0) + (if r.nx && !r.of && tiny then 2 else 0) + (if r.nx then 1 else 0))

/-- Round an exact value; NaN is the canonical one. -/
def Fmt.rvPut (f : Fmt) (mode : RMode) : FVal → FpRes
  | .nan => (f.nanCode, 0)
  | .inf neg => ((if neg then 2 ^ (f.eb + f.mb) else 0) + f.infCode, 0)
  | .fin neg m e => f.rvRound mode neg m 1 e

/-- The exact sum, an exact zero of unlike signs being −0 only when rounding down. -/
def rvSum (mode : RMode) (a b : FVal) : FVal :=
  match a.add b with
  | .fin neg 0 e => .fin (if a.isNeg = b.isNeg then neg else mode == .rdn) 0 e
  | v => v

/-- The operation made a NaN of operands none of which is one. -/
def madeNan (r : FVal) (l : List FVal) : Nat := if r == .nan && !l.contains .nan then 16 else 0

/-- FADD. -/
def Fmt.rvAdd (f : Fmt) (mode : RMode) (a b : Nat) : FpRes :=
  let x := f.decode a
  let y := f.decode b
  let v := rvSum mode x y
  let r := f.rvPut mode v
  (r.1, r.2 ||| f.snan [a, b] ||| madeNan v [x, y])

/-- The sign bit flipped. -/
def Fmt.flip (f : Fmt) (c : Nat) : Nat := c ^^^ 2 ^ (f.eb + f.mb)

/-- FSUB. -/
def Fmt.rvSub (f : Fmt) (mode : RMode) (a b : Nat) : FpRes := f.rvAdd mode a (f.flip b)

/-- FMUL. -/
def Fmt.rvMul (f : Fmt) (mode : RMode) (a b : Nat) : FpRes :=
  let x := f.decode a
  let y := f.decode b
  let v := x.mul y
  let r := f.rvPut mode v
  (r.1, r.2 ||| f.snan [a, b] ||| madeNan v [x, y])

/-- a × b + c, rounded once; ∞ × 0 is invalid even where c is a quiet NaN. -/
def Fmt.rvFma (f : Fmt) (mode : RMode) (a b c : Nat) : FpRes :=
  let x := f.decode a
  let y := f.decode b
  let z := f.decode c
  let p := x.mul y
  let v := rvSum mode p z
  let r := f.rvPut mode v
  (r.1, r.2 ||| f.snan [a, b, c] ||| madeNan p [x, y] ||| madeNan v [x, y, z])

/-- FDIV. -/
def Fmt.rvDiv (f : Fmt) (mode : RMode) (a b : Nat) : FpRes :=
  let neg := (f.decode a).isNeg != (f.decode b).isNeg
  let s := if neg then 2 ^ (f.eb + f.mb) else 0
  match f.decode a, f.decode b with
  | .nan, _ => (f.nanCode, f.snan [a, b])
  | _, .nan => (f.nanCode, f.snan [a, b])
  | .inf _, .inf _ => (f.nanCode, 16)
  | .inf _, .fin .. => (s + f.infCode, 0)
  | .fin .., .inf _ => (s, 0)
  | .fin _ m e, .fin _ m' e' =>
    if m' = 0 then (if m = 0 then (f.nanCode, 16) else (s + f.infCode, 8))
    else if m = 0 then (s, 0)
    else f.rvRound mode neg m m' (e - e')

/-- FSQRT. -/
def Fmt.rvSqrt (f : Fmt) (mode : RMode) (a : Nat) : FpRes :=
  match f.decode a with
  | .nan => (f.nanCode, f.snan [a])
  | .inf neg => if neg then (f.nanCode, 16) else (a, 0)
  | .fin neg m e =>
    if m = 0 then (a, 0)
    else if neg then (f.nanCode, 16)
    else
      let (m, e) := if e % 2 = 0 then (m, e) else (2 * m, e - 1)
      let k := m * 2 ^ 128
      let r := Nat.sqrt k
      f.rvRound mode false (2 * r + if r * r = k then 0 else 1) 1 (e / 2 - 65)

/-- FMIN and FMAX: a number beats a NaN, −0 is below +0. -/
def Fmt.rvMinMax (f : Fmt) (isMax : Bool) (a b : Nat) : FpRes :=
  let x := f.decode a
  let y := f.decode b
  let fl := f.snan [a, b]
  if x = .nan ∧ y = .nan then (f.nanCode, fl)
  else if x = .nan then (b, fl)
  else if y = .nan then (a, fl)
  else
    let less := x.lt y || (!y.lt x && x.isNeg && !y.isNeg)
    (if less == isMax then b else a, fl)

/-- FLE (0), FLT (1), FEQ (2). -/
def Fmt.rvCmp (f : Fmt) (op a b : Nat) : FpRes :=
  let x := f.decode a
  let y := f.decode b
  if x = .nan ∨ y = .nan then (0, if op = 2 then f.snan [a, b] else 16)
  else
    let r := if op = 0 then !y.lt x else if op = 1 then x.lt y else !x.lt y && !y.lt x
    (if r then 1 else 0, 0)

/-- FSGNJ (0), FSGNJN (1), FSGNJX (2). -/
def Fmt.rvSgnj (f : Fmt) (op a b : Nat) : Nat :=
  let w := f.eb + f.mb
  let s := if op = 0 then bitsOf b w 1 else if op = 1 then 1 - bitsOf b w 1 else bitsOf a w 1 ^^^ bitsOf b w 1
  a % 2 ^ w + s * 2 ^ w

/-- FCLASS. -/
def Fmt.rvClass (f : Fmt) (a : Nat) : Nat :=
  let sub := decide (bitsOf a f.mb f.eb = 0)
  match f.decode a with
  | .nan => if f.signalling a then 2 ^ 8 else 2 ^ 9
  | .inf neg => if neg then 2 ^ 0 else 2 ^ 7
  | .fin neg m _ => if m = 0 then (if neg then 2 ^ 3 else 2 ^ 4) else if sub then (if neg then 2 ^ 2 else 2 ^ 5) else (if neg then 2 ^ 1 else 2 ^ 6)

/-- FCVT to an integer of width w: invalid, and the nearest end, outside its range; NaN gives the highest. -/
def Fmt.rvToInt (f : Fmt) (mode : RMode) (signed : Bool) (w a : Nat) : FpRes :=
  let lo : Int := if signed then -2 ^ (w - 1) else 0
  let hi : Int := if signed then 2 ^ (w - 1) - 1 else 2 ^ w - 1
  match f.decode a with
  | .nan => (ux w hi, 16)
  | .inf neg => (ux w (if neg then lo else hi), 16)
  | .fin neg m e =>
    let (r, nx) := if e ≥ 0 then (m * 2 ^ e.toNat, false) else roundRat mode neg m (2 ^ (-e).toNat)
    let z : Int := if neg then -(r : Int) else r
    if z < lo then (ux w lo, 16) else if hi < z then (ux w hi, 16) else (ux w z, if nx then 1 else 0)

/-- FCVT from an integer. -/
def Fmt.rvOfInt (f : Fmt) (mode : RMode) (z : Int) : FpRes := f.rvRound mode (decide (z < 0)) z.natAbs 1 0

/-- FCVT between formats. -/
def Fmt.rvCvt (src dst : Fmt) (mode : RMode) (a : Nat) : FpRes :=
  let r := dst.rvPut mode (src.decode a)
  (r.1, r.2 ||| src.snan [a])

/-- A single in a 64-bit register: the low half where the high half is all ones, else the canonical NaN. -/
def unbox (f : Fmt) (v : Nat) : Nat := if f.bits = 64 then v else if v / 2 ^ 32 = 2 ^ 32 - 1 then v % 2 ^ 32 else f.nanCode

/-- A single boxed into a register. -/
def rvBox (f : Fmt) (v : Nat) : Nat := if f.bits = 64 then v else (2 ^ 32 - 1) * 2 ^ 32 + v

end Sys2Proof.Machine
end

