-- ==== Sys2Proof/Machine/Network.lean ====
section
/-! DEFINITION. Hexoarn: endpoints, deterministic routing, class arbitration, endpoints that are not ready; frames of the die-to-die link (R21 to R29, R466, R489, R490, R510, R512, R514). -/

namespace Sys2Proof.Machine

/-! Flits (R21). -/

/-- CLASS: 0 request, 1 response, 2 reduction, 3 control. -/
def flitClass (f : Flit) : Nat := bitsOf f.side.toNat 0 2
/-- HEAD. -/
def flitHead (f : Flit) : Bool := bitOf f.side.toNat 2
/-- TAIL. -/
def flitTail (f : Flit) : Bool := bitOf f.side.toNat 3
/-- POISON. -/
def flitPoison (f : Flit) : Bool := bitOf f.side.toNat 4
/-- DEST. -/
def flitDest (f : Flit) : Nat := bitsOf f.side.toNat 5 11
/-- FCHECK matches the payload and the rest of the sideband. -/
def flitOk (f : Flit) : Bool := Config.fcheck f.payload (f.side.setWidth 16) == BitVec.ofNat 16 (bitsOf f.side.toNat 16 16)
/-- A flit of a payload and sideband bits [15:0], with its FCHECK. -/
def flitOf (payload : BitVec 512) (low : Nat) : Flit :=
  ⟨payload, BitVec.ofNat 32 (low % 65536 + 65536 * (Config.fcheck payload (BitVec.ofNat 16 low)).toNat)⟩

/-! Places (R22, R23, R31). Routers by number: clusters 0 to 31, base stops from 32, the I/O die network 160. -/

/-- The column at (x, y). -/
def meshCol (x y : Nat) : Nat := 8 * (4 * (y / 2) + x / 4) + 4 * (y % 2) + x % 4

/-- The far end of an output port: router and its input port; none for a unit's own port. -/
def farIn (r p : Nat) : Option (Nat × Nat) :=
  if r < 32 then
    if p = 9 then (if 4 ≤ r % 16 then some (r - 4, 11) else none)
    else if p = 10 then (if r % 4 < 3 then some (r + 1, 12) else none)
    else if p = 11 then (if r % 16 < 12 then some (r + 4, 9) else none)
    else if p = 12 then (if 0 < r % 4 then some (r - 1, 10) else none)
    else if 13 ≤ p ∧ p ≤ 20 then some (32 + (r % 16 * 8 + (p - 13)), if r < 16 then 7 else 8)
    else if p = 21 then some ((r + 16) % 32, 21)
    else none
  else if r < 160 then
    let c := r - 32
    let x := colX c
    let y := colY c
    if p = 3 then (if 0 < y then some (32 + meshCol x (y - 1), 5) else none)
    else if p = 4 then (if x < 15 then some (32 + meshCol (x + 1) y, 6) else none)
    else if p = 5 then (if y < 7 then some (32 + meshCol x (y + 1), 3) else none)
    else if p = 6 then (if 0 < x then some (32 + meshCol (x - 1) y, 4) else none)
    else if p = 7 then some (c / 8, 13 + c % 8)
    else if p = 8 then some (16 + c / 8, 13 + c % 8)
    else if p = 9 ∧ x = 15 then some (160, 8 + y)
    else none
  else if 8 ≤ p ∧ p ≤ 15 then some (32 + meshCol 15 (p - 8), 9)
  else none

/-- Ports of a router. -/
def portCount (r : Nat) : Nat := if r < 32 then 22 else if r < 160 then 10 else 16

/-- Cluster of a compute-die endpoint. -/
def destCluster (dest : Nat) : Nat := dest % 512 / 32 + (if dest / 512 = 2 then 16 else 0)
/-- Number of a compute-die endpoint in its cluster: 0 to 7 cores, 8 to 15 slice controllers, 16 cluster blocks. -/
def destUnit (dest : Nat) : Nat := dest % 32
/-- The column by which packets from the base reach a compute-die endpoint (R24). -/
def destColumn (dest : Nat) : Nat := destCluster dest % 16 * 8 + (if destUnit dest < 16 then destUnit dest % 8 else 0)

/-- One step X then Y on a mesh, by ports north, east, south, west. -/
def meshStep (x y dx dy n e s w : Nat) : Nat := if x < dx then e else if dx < x then w else if y < dy then s else n

/-- Output port of a packet at a router: its destination, the port it came in by (R24). A packet for the base or the I/O die that did not come from a core or slice leaves by the cluster's lowest column. DESIGN CHOICE (log 166): the spec names no port for a slice controller; the slice of core j is reached by the core's port j. -/
def route (r inp dest : Nat) : Nat :=
  let die := dest / 512
  let k := destCluster dest
  if r < 32 then
    if die = 1 ∨ die = 2 then
      if k % 16 = r % 16 then
        (if k = r then (if destUnit dest < 16 then destUnit dest % 8 else 8) else 21)
      else meshStep (r % 4) (r % 16 / 4) (k % 4) (k % 16 / 4) 9 10 11 12
    else 13 + (if inp < 8 then inp else 0)
  else if r < 160 then
    let c := r - 32
    if die = 0 then
      let t := dest % 512 / 4
      if t = c then dest % 4 else meshStep (colX c) (colY c) (colX t) (colY t) 3 4 5 6
    else if die = 3 then (if colX c = 15 then 9 else 4)
    else
      let t := destColumn dest
      if t = c then (if die = 1 then 7 else 8) else meshStep (colX c) (colY c) (colX t) (colY t) 3 4 5 6
  else if die = 3 then dest % 512 % 8
  else 8 + colY (if die = 0 then dest % 512 / 4 else destColumn dest)

/-- The router serves the endpoint itself. -/
def serves (r dest : Nat) : Bool :=
  let die := dest / 512
  if r < 32 then (die == 1 || die == 2) && destCluster dest == r
  else if r < 160 then die == 0 && dest % 512 / 4 == r - 32
  else die == 3

/-! Endpoints that are ready (R27, R510, R514). -/

/-- A die reset covers cluster k. -/
def Dev.dieResets (d : Dev) (k : Nat) : Bool := match d.rst with | some r => r.scope == 3 && r.target == k / 16 | none => false

/-- An endpoint takes packets: its domain is ON, its core is not fenced, no die reset covers it. An unassigned value is no endpoint (log 71). -/
def Dev.destReady (d : Dev) (dest : Nat) : Bool :=
  let die := dest / 512
  if die = 1 ∨ die = 2 then
    let k := destCluster dest
    let u := destUnit dest
    if u < 8 then d.domOn (8 * k + u) && (d.fenceState (8 * k + u) == 0 || d.fenceState (8 * k + u) == 3)
    else u ≤ 16 && d.domOn (256 + k) && !d.dieResets k
  else if die = 0 then dest % 4 != 3 && d.domOn (290 + dest % 512 / 4)
  else
    match dest % 512 with
    | 0 => d.domOn 439
    | 1 => d.domOn 442
    | 2 => (List.range 8).any fun i => d.domOn (431 + i)
    | 3 => d.domOn 441
    | 4 => d.domOn 449
    | 5 => (List.range 4).any fun i => d.domOn (443 + i)
    | 6 => true
    | _ => false

/-- An endpoint still takes responses: a fenced core until it is QUIESCED, a unit under a die reset until its drain ends (R510, R514). -/
def Dev.takesResponse (d : Dev) (dest : Nat) : Bool :=
  let die := dest / 512
  let k := destCluster dest
  let u := destUnit dest
  if die = 1 ∨ die = 2 then
    (if u < 8 then d.domOn (8 * k + u) && d.fenceState (8 * k + u) != 2 else u ≤ 16 && d.domOn (256 + k))
  else d.destReady dest

/-! A router (R25, R26). -/

/-- The state of a router. -/
def Dev.router (d : Dev) (r : Nat) : Router := Tbl.get Router.init d.noc r
/-- Replace the state of a router. -/
def Dev.setRouter (d : Dev) (r : Nat) (x : Router) : Dev := { d with noc := Tbl.set Router.init d.noc r x }

/-- The domain a router lies in is ON: the through-domains of the L-die (288) and the U-die (289), the base mesh, the I/O die's network. A compute die's through-domain is no core's, cluster's or die's: rails bring it up (`Dev.railsUp`), PARKED and OFF take it down, software cannot (`domSoft`), and of the resets only the device's reaches it (R18, R401). -/
def Dev.routerOn (d : Dev) (r : Nat) : Bool := if r < 16 then d.domOn 288 else if r < 32 then d.domOn 289 else if r < 160 then d.domOn 418 else d.domOn 447

/-- Lanes an output port may use: those of the far input that are not retired. -/
def Dev.outLanes (d : Dev) (r p : Nat) : List Nat := match farIn r p with | some (q, i) => d.lanesUp q i | none => [0]

/-- A write's payload passes a port that a check-value unit may snoop: a cluster's unit its router's ports, the I/O units the endpoints of the I/O die (R466, R478). -/
def Dev.nocSnoop (d : Dev) (r port dir : Nat) (addr : Option Nat) (f : Flit) : Dev :=
  match addr with
  | none => d
  | some a =>
    let b := (toBytes 64 f.payload.toNat).map fun v => PByte.mk v (flitPoison f)
    let us := if r < 32 then [r] else if r < 160 then [] else [32, 33, 34, 35]
    us.foldl (fun d u => d.chkPort u port dir a b) d

/-- Flits on column and face ports are counted (R532). -/
def Dev.nocCount (d : Dev) (r port : Nat) : Dev :=
  if r < 32 then (if 13 ≤ port ∧ port ≤ 20 then d.pmcCluster r 0x03 1 else if port = 21 then d.pmcCluster r 0x04 1 else d) else d

/-- Draw n free words. -/
def Dev.freeN (d : Dev) : Nat → Nat × Dev
  | 0 => (0, d)
  | n + 1 =>
    let (v, d) := d.free
    let (w, d) := d.freeN n
    (v.toNat + 2 ^ 64 * w, d)

/-- A packet for an endpoint that is not ready: a request is answered at its TAIL, to the endpoint it came from, with POISON and FENCED_UNIT, the rest of its payload being open (log 60); reductions and control are discarded and counted, a response absorbed (R27, R28, R514). -/
def Dev.nocAnswer (d : Dev) (id : RouterId) (r : Nat) (q : NocPkt) : Dev :=
  if q.cls = 0 then
    let (a, d) := d.freeN 8
    let payload := BitVec.ofNat 512 (Status.fencedUnit.code + 256 * a)
    let d := if r < 32 then d.pmcCluster r 0x06 1 else d
    d.emit (.flit id (route r q.port q.src) 0 (flitOf payload (1 + 4 + 8 + 16 + 32 * q.src)))
  else if q.cls = 1 then d.count RST_STATUS.ABSORBED 0 0 1
  else if r < 32 then d.count PERF_CLNETERR.DISCARDED r 0 1
  else d.count DEV_NETERR.DISCARDED 0 0 1

/-- What the receiver of a response reports: UNCORRECTABLE, whatever STATUS reads, where a router has found the FCHECK of one of its flits wrong; else what STATUS names (R28). -/
def NocPkt.report (q : NocPkt) : Status := if q.bad then .uncorr else Status.ofCode q.status

/-- A flit arrives on an input lane: FCHECK is checked, a HEAD is routed, the flit is buffered, or consumed where its packet is answered (R21, R24, R27). A flit whose FCHECK does not match goes on with POISON set and the FCHECK it came with, by which every later router, and its receiver, know it (R28; DESIGN CHOICE, log 137: R21 gives it no other FCHECK). -/
def Dev.nocArrive (d : Dev) (id : RouterId) (a : Arrival) : Dev :=
  let r := routerNo id
  if portCount r ≤ a.port ∨ !(d.lanesUp r a.port).contains a.lane then d
  else
    let ok := flitOk a.flit
    let d := if ok then d else d.fcheckBad r a.port a.lane
    let f := if ok then a.flit else { a.flit with side := a.flit.side ||| 16 }
    let d := d.nocCount r a.port
    let cls := flitClass f
    let key := (a.port * 8 + a.lane) * 4 + cls
    let rt := d.router r
    let rt := if flitHead f then { rt with headAt := Tbl.set 0 rt.headAt a.port (d.ns + 1) } else rt
    let dest := flitDest f
    let up := if cls = 1 then d.takesResponse dest else d.destReady dest
    let q : Option NocPkt :=
      if flitHead f then some ⟨a.port, a.lane, cls, route r a.port dest, dest, (Config.headSource f.payload).toNat, serves r dest && !up, if cls = 0 then Config.writeHead f.payload else none, bitsOf f.payload.toNat 0 8, false⟩
      else Tbl.get none rt.inp key
    match q with
    | none => d
    | some q =>
      let d := if flitHead f then d else d.nocSnoop r a.port 1 q.addr f
      let q := { q with bad := q.bad || !ok }
      let q' : NocPkt := if flitHead f then q else { q with addr := q.addr.map (· + 64) }
      let inp := Tbl.set none rt.inp key (if flitTail f then none else some q')
      if q.answer then
        let d := d.setRouter r { rt with inp := inp }
        if flitTail f then d.nocAnswer id r q else d
      else
        let d := if flitTail f && cls == 1 && serves r dest then d.emit (.netReport dest q.report) else d
        d.setRouter r { rt with inp := inp, bufs := rt.bufs ++ [⟨a.port, a.lane, cls, f, rt.seq, q.out, q.dest, false⟩] }

/-- Two flits of one input's stream of a destination and class. -/
def NocFlit.same (a b : NocFlit) : Bool := a.port == b.port && a.cls == b.cls && a.dest == b.dest

/-- The oldest flits of their streams, in order of arrival. -/
def streamHeads : List NocFlit → List NocFlit → List NocFlit
  | _, [] => []
  | seen, f :: t =>
    if seen.any fun g => g.same f || (g.port == f.port && g.lane == f.lane && g.cls == f.cls) then streamHeads (f :: seen) t
    else f :: streamHeads (f :: seen) t

/-- HEAD flits that an output port may grant: no packet of the same stream is under way at the port (R26), and of one input port and class only the first, which is the one its arbiter has accepted (R30). -/
def Router.heads (rt : Router) (p : Nat) : List NocFlit :=
  (((streamHeads [] rt.bufs).filter fun f => f.out == p && flitHead f.flit &&
    !(rt.outp.any fun q => q.1 / 8 == p && match q.2 with | some x => x.port == f.port && x.cls == f.cls && x.dest == f.dest | none => false)).foldl
      (fun l f => if l.any fun g => g.port == f.port && g.cls == f.cls then l else l ++ [f]) [])

/-- Where the arbiter of output port p keeps when it accepted the request of an input port and class. -/
def offerKey (p port cls : Nat) : Nat := (p * 64 + port) * 4 + cls

/-- The arbiter of output port p accepts what its input ports offer it now (R30). -/
def Router.accept (rt : Router) (p : Nat) : Router :=
  (rt.heads p).foldl (fun rt f =>
    match Tbl.get none rt.offers (offerKey p f.port f.cls) with
    | some _ => rt
    | none => { rt with offers := Tbl.set none rt.offers (offerKey p f.port f.cls) (some rt.seq) }) rt

/-- The arbiters of every output port accept what has come in this cycle, busy or not (R25, R29, R30). -/
def Dev.nocAccept (d : Dev) (r : Nat) : Dev := d.setRouter r ((List.range (portCount r)).foldl (fun rt p => rt.accept p) (d.router r))

/-- When a flit's request was accepted. -/
def Router.age (rt : Router) (p : Nat) (f : NocFlit) : Nat := (Tbl.get none rt.offers (offerKey p f.port f.cls)).getD rt.seq

/-- Classes waiting at an output port, in the order of preference: control, response, reduction, request (R25). -/
def classesOf (hs : List NocFlit) : List Nat := [3, 1, 2, 0].filter fun c => hs.any fun f => f.cls == c

/-- The class an output port grants: the preferred one, unless it has been granted 8 times in a row while another class waited (R25). -/
def Router.pickClass (rt : Router) (p : Nat) (hs : List NocFlit) : Option Nat :=
  let (last, n) := Tbl.get (4, 0) rt.runs p
  let cs := classesOf hs
  let rest := cs.filter (· != last)
  if 8 ≤ n ∧ rest ≠ [] then rest.head? else cs.head?

/-- The HEAD flit an output port grants to a lane of its: by class, by age, ties by R29 at the port's arbiter; and the arbiter afterwards, with the grants in a row that its class has had while another class waited (R25, R29). -/
def Dev.nocArb (d : Dev) (r p : Nat) : Option NocFlit × Dev :=
  let d := d.setRouter r ((d.router r).accept p)
  let rt := d.router r
  let hs := rt.heads p
  match rt.pickClass p hs with
  | none => (none, d)
  | some c =>
    let cand := hs.filter fun f => f.cls == c
    match oldest (rt.age p) cand with
    | none => (none, d)
    | some h =>
      let tied := cand.filter fun f => rt.age p f == rt.age p h
      match d.tie (arbKey 11 (r * 256 + p)) (tied.map (·.port)) with
      | none => (none, d)
      | some (i, d) =>
        let run := Tbl.get (4, 0) rt.runs p
        let n := if (classesOf hs).length ≤ 1 then 0 else if run.1 = c then run.2 + 1 else 1
        (tied.find? fun f => f.port == i,
         d.setRouter r { d.router r with runs := Tbl.set (4, 0) rt.runs p (c, n), offers := Tbl.set none rt.offers (offerKey p i c) none })

/-- The flit an output lane moves: the next of the packet under way on it, else the HEAD its port grants (R25). -/
def Dev.nocPick (d : Dev) (r p l : Nat) : Option NocFlit × Dev :=
  match Tbl.get none (d.router r).outp (p * 8 + l) with
  | some q => ((d.router r).bufs.find? fun f => f.port == q.port && f.lane == q.lane && f.cls == q.cls, d)
  | none => d.nocArb r p

/-- An output lane moves one flit. -/
def Dev.nocGrant (d : Dev) (id : RouterId) (p l : Nat) : Dev :=
  let r := routerNo id
  match d.nocPick r p l with
  | (none, d) => d
  | (some f, d) =>
    let rt := d.router r
    let key := p * 8 + l
    let head := flitHead f.flit
    let q := Tbl.get none rt.outp key
    let addr := if head then (if f.cls = 0 then Config.writeHead f.flit.payload else none) else q.bind (·.addr)
    let pkt : NocPkt := ⟨f.port, f.lane, f.cls, p, f.dest, (Config.headSource f.flit.payload).toNat, false, if head then addr else addr.map (· + 64), 0, false⟩
    let rt := { rt with bufs := rt.bufs.erase f, outp := Tbl.set none rt.outp key (if flitTail f.flit then none else some pkt) }
    let d := if head then d else d.nocSnoop r p 0 addr f.flit
    let d := (d.setRouter r rt).nocCount r p
    let d := if r < 32 then d.pmcCluster r 0x02 1 else d
    d.emit (.flit id p l f.flit)

/-- FLIT_FORWARD: one cycle of a router: flits arrive, at most one on each input lane, and each output lane moves one (R21 to R29). -/
def Dev.nocCycle (d : Dev) (id : RouterId) (arr : List Arrival) : Dev :=
  let r := routerNo id
  if !d.routerOn r then d
  else
    let d := arr.foldl (fun d a => d.nocArrive id a) d
    let d := (d.setRouter r { d.router r with seq := (d.router r).seq + 1 }).nocAccept r
    (List.range (portCount r)).foldl (fun d p => (d.outLanes r p).foldl (fun d l => d.nocGrant id p l) d) d

/-! Frames of the die-to-die link (R488 to R490). -/

/-- The flits of a frame of die-to-die group g enter the router on the far side, by the port of the group (R488, R489). -/
def Dev.d2dEnter (d : Dev) (g : Nat) (flits : List Flit) : Dev :=
  let (id, port) : RouterId × Nat := if g < 8 then (.io, 8 + g) else (.base (Fin.ofNat 128 (meshCol 15 (g - 8))), 9)
  let r := routerNo id
  (flits.take 11).foldl (fun d f =>
    let d := d.nocArrive id ⟨port, 0, f⟩
    d.setRouter r { d.router r with seq := (d.router r).seq + 1 }) d

/-- D2D_FRAME: an expected frame with a good CRC is taken and its flits enter the router on the far side; any other makes the receiver return NAK with the last good SEQ, and discard what follows (R490). -/
def Dev.d2dTake (d : Dev) (g seq : Nat) (crcOk : Bool) (flits : List Flit) : Dev :=
  let x := d.grp g
  if !d.bit LNK_STATUS.D2D_UP 0 0 || x.nak then d
  else if crcOk && seq == x.next then ((d.setD2d g ⟨(x.next + 1) % 4096, false, 0, 0⟩).emit (.d2dAck g seq false)).d2dEnter g flits
  else (d.setD2d g { x with nak := true }).emit (.d2dAck g ((x.next + 4095) % 4096) true)

/-! The commands. -/

def execFlitForward (router : RouterId) (arrivals : List Arrival) (s : State) : Host.Outcome State Fault Refusal := s.ev fun d => d.nocCycle router arrivals
def execD2dFrame (group : Fin 16) (seq : BitVec 12) (crcOk : Bool) (flits : List Flit) (s : State) : Host.Outcome State Fault Refusal :=
  s.ev fun d => d.d2dTake group seq.toNat crcOk flits

end Sys2Proof.Machine
end

