-- ==== Sys2Proof/Machine/RegAccess.lean ====
section
/-! DEFINITION. Accesses of registers: BAR0 by the host, the management controller and a cluster's own processors, and the device's CSRs. Access codes, halves, live values, and what a write of each register sets off (R10 to R13, R35 to R38, R113 to R115 and the register tables). -/

namespace Sys2Proof.Machine

/-! Fields (R10, R11). -/

/-- A write reaches bits `m` of a field with `v` (both by the field's own bit numbers); the access code decides (R11). A W1C bit that the block has set in the same cycle stays 1 (R13). -/
def Dev.fieldWrite (d : Dev) (f : Fld) (u i v m : Nat) : Dev :=
  let all := 2 ^ f.w - 1
  let cur := d.fld f u i
  let rw := (cur &&& (all ^^^ m)) ||| (v &&& m)
  if m = 0 then d
  else
    match f.acc with
    | .rw => d.putFld f u i rw
    | .rwl => if 10 ≤ d.done then d else d.putFld f u i rw
    | .w1c => d.putFld f u i (cur &&& ((all ^^^ (v &&& m)) ||| d.setNow f u i))
    | .w1s => d.putFld f u i (cur ||| (v &&& m))
    | _ => d

/-- A write of value `v` under mask `m` reaches every field of a register, by its access code (R11). -/
def Dev.plainWrite (d : Dev) (fs : List Fld) (u i v m : Nat) : Dev := fs.foldl (fun d f => d.fieldWrite f u i (bitsOf v f.lo f.w) (bitsOf m f.lo f.w)) d

/-- A write of PERF_CNT of PMCi of core n stands, and a wrap of its cycle leaves no sticky bit (R13, R550). -/
def Dev.pmcCntWrite (d : Dev) (n i v m : Nat) : Dev :=
  let e := (d.pmcSettle n i).plainWrite PERF_CNT.reg.fields n i v m
  let o := PERF_OVF.OVF.pos.off n 0
  let j := PERF_OVF.OVF.lo + i
  if bitOf (Tbl.get 0 e.cyc.set o).toNat j && !bitOf (Tbl.get 0 e.cyc.regs o).toNat j then
    let e := { e with cyc := { e.cyc with set := Tbl.set 0 e.cyc.set o (Tbl.get 0 e.cyc.set o &&& ~~~(BitVec.ofNat 64 (2 ^ j))) } }
    { e with regs := Tbl.set 0 e.regs o (Tbl.get 0 e.regs o &&& ~~~(BitVec.ofNat 64 (2 ^ j))) }
  else e

/-- The write reaches some bit of a field. -/
def touches (m : Nat) (f : Fld) : Bool := bitsOf m f.lo f.w != 0

/-- What the write puts into a field it reaches; 0 elsewhere. -/
def wrote (v m : Nat) (f : Fld) : Nat := bitsOf (v &&& m) f.lo f.w

/-- The register's word after a write: the written bits where it reaches, what the register holds elsewhere. -/
def Dev.merged (d : Dev) (fs : List Fld) (u i v m : Nat) : Nat :=
  (fs.map fun f => ((d.fld f u i &&& ((2 ^ f.w - 1) ^^^ bitsOf m f.lo f.w)) ||| wrote v m f) * 2 ^ f.lo).sum

/-! What a write sets off, block by block. Each answers none where the register is not one of its own. -/

/-- Slice controllers: SLC_CFG (R176). -/
def Dev.slcCfgWrite (d : Dev) (n v m : Nat) : Dev :=
  let was := d.bit SLC_CFG.FORCE_NARROW n 0
  let old := d.refInterval n
  let d := d.plainWrite SLC_CFG.reg.fields n 0 v m
  let d := if !was && d.bit SLC_CFG.FORCE_NARROW n 0 then d.slcForce n else d
  let d := if wrote v m SLC_CFG.TRACK_CLEAR = 1 then d.setSlice n { d.slice n with tracker := [] } else d
  if touches m SLC_CFG.BAND_FLOOR then d.slcReband n old else d

/-- A write of the register path comes from the management controller or a processor of the cluster (R209). -/
def bsuPath : Req → Bool
  | .host => false
  | _ => true

/-- A write of BSU_CMD register i: the bytes it reaches, and the command with the last register (R209). -/
def Dev.bsuCmdWrite (d : Dev) (r : Req) (n i v m : Nat) : Dev :=
  if bsuPath r then
    let cur := ((d.slice n).cmdBytes.getD i 0).toNat
    d.bsuRegWrite n i (BitVec.ofNat 64 ((cur &&& ((2 ^ 64 - 1) ^^^ m)) ||| (v &&& m)))
  else d

/-- Registers of the cluster blocks. -/
def Dev.clusterWrite (d : Dev) (r : Req) (g : Reg) (u i v m : Nat) : Option Dev :=
  let plain := d.plainWrite g.fields u i v m
  if g.pos = CORE_CTL.pos then some (if touches m CORE_CTL.CP_RUN then d.coreCtlWrite r u (BitVec.ofNat 64 (v &&& m)) else d)
  else if g.pos = ARR_CFG.pos then
    let d := d.plainWrite [ARR_CFG.STATE_REQ, ARR_CFG.FAULT_ON_SAT] u 0 v m
    some (if touches m ARR_CFG.TARGET then d.targetWrite u (wrote v m ARR_CFG.TARGET == 1) else d)
  else if g.pos = PERF_CTL.pos then some (if touches m PERF_CTL.EVENT then d.pmcCtlWrite u i (v &&& m) else d)
  else if g.pos = PERF_CNT.pos then some (d.pmcCntWrite u i v m)
  else if g.pos = PERF_OVF.pos then some ((d.pmcSettleCore u).plainWrite g.fields u i v m)
  else if g.pos = PERF_CLCTL.pos then some (if touches m PERF_CLCTL.FREEZE then d.freezeSet u (wrote v m PERF_CLCTL.FREEZE == 1) else d)
  else if g.pos = PERF_CLSEL.pos ∨ g.pos = PERF_CLCNT.pos then some ((d.pmcSettleCl u i).plainWrite g.fields u i v m)
  else if g.pos = PERF_CLOVF.pos then some (((List.range 8).foldl (fun d j => d.pmcSettleCl u j) d).plainWrite g.fields u i v m)
  else if g.pos = SLC_CFG.pos then some (d.slcCfgWrite u v m)
  else if g.pos = BSU_CMD.pos then some (d.bsuCmdWrite r u i v m)
  else if g.pos = PGW_CFG.pos then some (if wrote v m PGW_CFG.LAB_INV = 1 then plain.labDrop u fun _ => true else plain)
  else none

/-- Registers of the regions, rings, check-value units, codes and counters of the device. -/
def Dev.sharedWrite (d : Dev) (g : Reg) (u i v m : Nat) : Option Dev :=
  let plain := d.plainWrite g.fields u i v m
  if g.pos = BCR_PART.pos then some (if touches m BCR_PART.SCRATCH_MASK then d.partWrite u (BitVec.ofNat 16 (wrote v m BCR_PART.SCRATCH_MASK)) else d)
  else if g.pos = BCR_CFG.pos then some (if wrote v m BCR_CFG.TRAP_CLEAR = 1 then plain.trapClear u else plain)
  else if g.pos = CQ_BASE.pos ∨ g.pos = DB_ADDR.pos then some (d.ringBaseWrite u g.fields (d.merged g.fields u i v m))
  else if g.pos = RING_CFG.pos then some (d.ringCfgWrite u (d.merged g.fields u i v m) (touches m RING_CFG.ENABLE))
  else if g.pos = CHK_CFG.pos ∨ g.pos = CHK_VAL.pos ∨ g.pos = CHK_SEQ.pos then some (if d.bit CHK_CFG.CLAIMED u 0 then d else if g.pos = CHK_VAL.pos then (d.chkWrite u).plainWrite g.fields u i v m else plain)
  else if g.pos = CHK_SNOOP.pos then some (if d.bit CHK_SNOOP.EN u 0 then plain.chkSnoopSettle u else plain.chkSnoopOn u)
  else if g.pos = DEV_PCTL.pos ∨ g.pos = DEV_PCNT.pos then some ((d.pmcSettleDev i).plainWrite g.fields u i v m)
  else if g.pos = DEV_POVF.pos then some (((List.range 8).foldl (fun d j => d.pmcSettleDev j) d).plainWrite g.fields u i v m)
  else if g.pos = ECC_SPLIT_CTL.pos then some (if wrote v m ECC_SPLIT_CTL.GO = 1 then plain.splitGo (wrote v m ECC_SPLIT_CTL.MODE) else plain)
  else if g.pos = FAB_BI_CTL.pos then some (if wrote v m FAB_BI_CTL.GO = 1 then plain.recallGo else plain)
  else if g.pos = GDR_CFG.pos then some (if wrote v m GDR_CFG.RETRY = 1 then plain.gddrRetry (plain.fld GDR_CFG.CHAN_MASK 0 0) else plain)
  else none

/-- Power, temperature and time. -/
def Dev.boardWrite (d : Dev) (g : Reg) (u i v m : Nat) : Option Dev :=
  let plain := d.plainWrite g.fields u i v m
  if g.pos = THM_COOLANT.pos then some (d.coolWrite 0 (BitVec.ofNat 64 (d.merged g.fields u i v m)))
  else if g.pos = TK_HOLD.pos then
    let on := wrote v m TK_HOLD.FORCE == 1
    some (if touches m TK_HOLD.FORCE && on != d.bit TK_HOLD.FORCE 0 0 then d.forceHold on else d)
  else if g.pos = TK_PACE.pos then
    let d := if !plain.bit TK_PACE.EN 0 0 then { plain.setBit TK_PACE.RUNNING 0 0 false with pace := { plain.pace with spread := none } } else plain
    some (if wrote v m TK_PACE.START = 1 then d.paceStart else d)
  else if g.pos = PWR_LIMIT.pos then some (if touches m PWR_LIMIT.PRESET then plain.preset 0 (wrote v m PWR_LIMIT.PRESET) else plain)
  else if g.pos = PWR_PARK.pos then
    let d := if wrote v m PWR_PARK.PARK = 1 then plain.park else plain
    some (if wrote v m PWR_PARK.WAKE = 1 then d.wake .write else d)
  else if g.pos = PWR_DOM.pos then
    if d.done < 1 then some (d.setBit PWR_DOM.REFUSED u 0 true)
    else
      let d := d.plainWrite [PWR_DOM.REFUSED, PWR_DOM.RAMP_FAIL, PWR_DOM.DRAIN_LATE] u 0 v m
      some (if touches m PWR_DOM.REQ then d.domWrite u (wrote v m PWR_DOM.REQ == 1) else d)
  else none

/-- STEP is written: the step runs as its row does, with nothing found bad (R505). -/
def Dev.stepWrite (d : Dev) (k : Nat) : Dev :=
  d.stepStart k (fun d =>
    match k with
    | 1 => (d.railsUp, none, false)
    | 2 => (d.clocksUp, none, false)
    | 3 => let (e, ok) := d.d2dTrain []; (e, if ok then none else some 2, false)
    | 4 => let (e, ok, deg) := d.vertTest [] [] [] []; (e, if ok then none else some 2, deg)
    | 5 => (d.gddrTrainBegin, none, false)
    | 6 => (d.fill, none, false)
    | 7 => (d.memTest [], none, false)
    | 8 => (d.cacheInit, none, false)
    | 9 => let (e, ok) := d.release; (e, if ok then none else some 3, false)
    | _ => (d, none, false)) (if k = 5 then some 0xFF else none)

/-- What a register write sets off has to read memory: it is carried out whole, or the write waits at its register for what it lacks (log 136). -/
def Dev.regWhole (d : Dev) (x : RegWait) (f : Dev → Dev) : Dev :=
  let t := f { d with waits := [] }
  if t.waits.isEmpty then t else t.waits.eraseDups.foldl Dev.ask { d with waits := [], regHeld := d.regHeld ++ [x] }

/-- Bring-up, resets, life log and trust. DESIGN CHOICE (log 165): ADDR of SEC_CMD is a WO field that spans both halves of its register; what a 32-bit write of one half makes of the other's bits R10 does not say. A write that reaches OP runs the command with the bits of ADDR that it does not reach 0, and one that does not reach OP does nothing. -/
def Dev.manageWrite (d : Dev) (r : Req) (g : Reg) (u i v m : Nat) : Option Dev :=
  let plain := d.plainWrite g.fields u i v m
  if g.pos = STARTER_CTL.pos then some (if touches m STARTER_CTL.STEP then d.regWhole ⟨r, g.pos.off u i, 8, some (BitVec.ofNat 64 (v &&& m))⟩ (·.stepWrite (wrote v m STARTER_CTL.STEP)) else d)
  else if g.pos = RST_DEV.pos then some (if wrote v m RST_DEV.GO = 1 then d.deviceReset (.rstDev r (BitVec.ofNat 16 (wrote v m RST_DEV.KEY))) else d)
  else if g.pos = RST_CTL.pos then some (if wrote v m RST_CTL.GO = 1 then plain.resetGo (wrote v m RST_CTL.SCOPE) (wrote v m RST_CTL.TARGET) else plain)
  else if g.pos = RST_PART.pos then some (if touches m RST_PART.CLUSTERS then d.partSet u (wrote v m RST_PART.CLUSTERS) else d)
  else if g.pos = RST_FENCE.pos then
    let d := d.plainWrite [RST_FENCE.AUTO_FENCE] u 0 v m
    some (if !touches m RST_FENCE.FENCE then d else if wrote v m RST_FENCE.FENCE = 1 then d.fenceSet u false else d.fenceClear u false)
  else if g.pos = LIFE_CTL.pos then some (if wrote v m LIFE_CTL.FLUSH = 1 then plain.lifeFlush else plain)
  else if g.pos = SEC_CMD.pos then
    let a := wrote v m SEC_CMD.ADDR * 4096
    some (if !touches m SEC_CMD.OP then d else d.sec fun d => d.regWhole ⟨r, g.pos.off u i, 8, some (BitVec.ofNat 64 (v &&& m))⟩ fun d =>
      match wrote v m SEC_CMD.OP with
      | 1 => d.fwUpdate a
      | 2 => d.commitSvn (wrote v m SEC_CMD.TYPE)
      | 3 => d.revokeKey a
      | 4 => d.unlock a
      | _ => d.secDone .format)
  else if g.pos = SEC_DBG_GEN.pos then some (if wrote v m SEC_DBG_GEN.GEN = 1 then d.nonceGen else d)
  else none

/-- A write reaches a register (R11): what its block does with it, or its fields by their access codes. -/
def Dev.regWrite (d : Dev) (r : Req) (g : Reg) (u i v m : Nat) : Dev :=
  (d.clusterWrite r g u i v m).getD ((d.sharedWrite g u i v m).getD ((d.boardWrite g u i v m).getD ((d.manageWrite r g u i v m).getD (d.plainWrite g.fields u i v m))))

/-! Live values of status fields. -/

/-- Truth as a bit. -/
def bN (b : Bool) : Nat := if b then 1 else 0

/-- Core windows: CORE_STATUS, DMA_STATUS, ARR_CFG, ARR_STATUS, PERF_CYCLE (R72, R73, R127, R149, R533). -/
def Dev.liveCore (d : Dev) (p : RegPos) (n : Nat) : List (Fld × Nat) :=
  let c := d.core n
  if p = CORE_STATUS.pos then
    let q := d.queueLens n
    [(CORE_STATUS.CP_STATE, match c.cp.st with | .reset => 0 | .copying => 1 | .running => 2 | .halted => 3), (CORE_STATUS.CP_PRIV, bN !c.cp.user),
      (CORE_STATUS.SEQ_BUSY, bN c.prog.isSome), (CORE_STATUS.LQ_FREE, 4 - c.lq.length), (CORE_STATUS.MBOX_COUNT, c.mboxCount), (CORE_STATUS.ARRQ, q.getD 0 0),
      (CORE_STATUS.VECQ, q.getD 1 0), (CORE_STATUS.DMAQ, q.getD 2 0), (CORE_STATUS.SYNCQ, q.getD 3 0)]
  else if p = DMA_STATUS.pos then
    let e := c.dma
    let on (k : Nat) : Bool := e.held.any fun x => dKind x == k && x.stage == .stream
    let gen (k : Fin 2) : Bool := e.held.any fun x => x.stage == .onChannel k
    [(DMA_STATUS.HELD, e.count), (DMA_STATUS.WBUSY, bN (on 2)), (DMA_STATUS.IBUSY, bN (on 3)), (DMA_STATUS.G0BUSY, bN (gen 0)), (DMA_STATUS.G1BUSY, bN (gen 1)),
      (DMA_STATUS.PLANE_TILES, e.tiles.length), (DMA_STATUS.CHK_HELD, bN (e.held.any fun x => x.chk)), (DMA_STATUS.CHK_WAIT, bN (e.chkWaiting.any fun _ => d.bit CHK_CFG.CLAIMED (clusterOf n) 0 || d.bit CHK_SNOOP.EN (clusterOf n) 0))]
  else if p = ARR_CFG.pos then (if d.arrDisabled n then [(ARR_CFG.TARGET, 1)] else [])
  else if p = ARR_STATUS.pos then
    let a := c.arr
    let off := d.arrDisabled n
    let own (x : ArrCmd) : Bool := x.core.val == n
    [(ARR_STATUS.ENABLED, bN !off), (ARR_STATUS.SERVING, bN (d.serving n)),
      (ARR_STATUS.STATE, if off || d.fld PWR_DOM.STATE n 0 == 0 then 3 else match a.power with | .run => 0 | .idle => 1 | .sleep => 2 | .off => 3)] ++
      if off then []
      else
        [(ARR_STATUS.BUSY, bN (a.cmds.any fun x => x.active)), (ARR_STATUS.SET0_LOADED, bN (a.set 0).loaded), (ARR_STATUS.SET1_LOADED, bN (a.set 1).loaded),
          (ARR_STATUS.HELD, bN (d.held && a.cmds.any fun x => wOp x.word.toNat == 0x11 && !x.active)), (ARR_STATUS.OWN_PENDING, (a.cmds.filter own).length),
          (ARR_STATUS.PARTNER_PENDING, (a.cmds.filter fun x => !own x).length)]
  else if p = PERF_CYCLE.pos then [(PERF_CYCLE.CYCLES, (d.clkSum (n / 8) - Tbl.get 0 d.cycBase n) / 2000)]
  else []

/-- The memory side of a cluster: SLC_STATUS, BSU_STATUS, BSU_CMDST, PGW_STATUS, PGW_CTX (R177, R205, R210, R275, R279). -/
def Dev.liveMem (d : Dev) (p : RegPos) (u i : Nat) : List (Fld × Nat) :=
  let s := d.slice u
  if p = SLC_STATUS.pos then
    [(SLC_STATUS.BAND, d.slcBand u), (SLC_STATUS.HOLD4X, bN s.hold4x),
      (SLC_STATUS.MODE, if s.srAt.isSome then 3 else match s.mode with | .full => 0 | .switching => 1 | .narrow => 2),
      (SLC_STATUS.HALF, s.half), (SLC_STATUS.DEGRADED, bN s.degraded), (SLC_STATUS.ROWQ, s.rowQ.length), (SLC_STATUS.NETQ, s.net.length), (SLC_STATUS.WBQ, s.wb.length),
      (SLC_STATUS.REF_DEBT, s.debt.foldl (fun b p => max b (min 8 p.2.toNat)) 0), (SLC_STATUS.WINDOW, d.slcWindow u)]
  else if p = BSU_STATUS.pos then
    let work := !s.bq.isEmpty || !(s.activeAt d.ns).isEmpty
    [(BSU_STATUS.STATE, if !work then 0 else if d.bsuHalted u || s.resume then 3 else if d.bsuProcessor u then 2 else if d.bsuWorking u then 1 else 0),
      (BSU_STATUS.HALT_WHY, if s.srAt.isSome || s.srWanted then 3 else if d.held then 1 else if d.slcBand u = 3 then 2 else 0),
      (BSU_STATUS.BQ, s.bq.length), (BSU_STATUS.ACTIVE, (s.activeAt d.ns).length), (BSU_STATUS.LIMIT, if d.bsuWorking u then d.hurdle u else 0),
      (BSU_STATUS.ESCALATED, bN (d.bsuProcessor u && d.escalated u))]
  else if p = BSU_CMDST.pos then [(BSU_CMDST.PENDING, bN s.bsuPending)]
  else if p = PGW_STATUS.pos then
    let valid := (d.lab.filter fun e => e.1 / 512 == u && e.2.isSome).length
    let run : List (Fld × Nat) := match d.attn with
      | some a => [(PGW_STATUS.PHASE, if a.phase = 8 then 0 else if a.phase = 7 then 1 else if a.phase = 6 ∨ d.normEnded a then 5 else a.phase), (PGW_STATUS.SLOT, dq a.body 8 0 4)]
      | none => []
    [(PGW_STATUS.LAB_VALID, valid)] ++ run
  else if p = PGW_CTX.pos then
    match d.ctx u i with
    | some c => [(PGW_CTX.VALID, 1), (PGW_CTX.TAIL, bN c.tail), (PGW_CTX.LEN, c.len), (PGW_CTX.NEXT_LAYER, c.next)]
    | none => []
  else []

/-- Regions, rings, batons, board memory (R237, R244, R285 to R287, R313, R373). -/
def Dev.liveShared (d : Dev) (p : RegPos) (u i : Nat) : List (Fld × Nat) :=
  if p = BCR_STATUS.pos then
    let r := d.region u
    [(BCR_STATUS.CACHE_WAYS, (d.ways u).length), (BCR_STATUS.PART_BUSY, bN r.partBusy), (BCR_STATUS.REDQ, r.redq), (BCR_STATUS.MISSRED, r.missred),
      (BCR_STATUS.PINNED, min 48 r.pins.length), (BCR_STATUS.FILL_WAIT, bN !r.fillWait.isEmpty), (BCR_STATUS.TRAP_USED, (r.traps.filter fun t => t.2.isSome).length)]
  else if p = BCR_TRAP.pos then
    match Tbl.get none (d.region u).traps i with
    | some t => [(BCR_TRAP.LINE, t.line), (BCR_TRAP.HITS, t.hits), (BCR_TRAP.VALID, 1)]
    | none => []
  else if p = RING_IDX.pos then [(RING_IDX.SQ_HEAD, (d.ring u).sqHead), (RING_IDX.SQ_TAIL, (d.ring u).sqTail)]
  else if p = CQ_IDX.pos then [(CQ_IDX.CQ_TAIL, (d.ring u).cqTail), (CQ_IDX.CQ_HEAD, (d.ring u).cqHead)]
  else if p = RING_STATUS.pos then
    let r := d.ring u
    [(RING_STATUS.STATE, match r.state with | .disabled => 0 | .running => 1 | .draining => 2 | .stopped => 3), (RING_STATUS.INFLIGHT, (d.inflight u).length),
      (RING_STATUS.CQ_FULL, bN (d.cqFull u)), (RING_STATUS.PENDING_EN, bN r.pendingEn)]
  else if p = BTN_REGION.pos then [(BTN_REGION.WAITERS, (d.bw u).length)]
  else if p = GDR_STATUS.pos then
    let up := d.gddr.state == .ready || d.gddr.state == .selfRefresh
    [(GDR_STATUS.STATE, match d.gddr.state with | .absent => 0 | .training => 1 | .ready => 2 | .disabled => 3 | .selfRefresh => 4),
      (GDR_STATUS.CHANNELS, if up then d.gdrChans.length else 0), (GDR_STATUS.USABLE, d.gddr.usableMib),
      (GDR_STATUS.WCB_USED, (List.range 8).foldl (fun b c => max b (d.wcbOf c).length) 0)]
  else []

/-- Software may switch domain k (R401, R417). -/
def domSw (k : Nat) : Bool := decide (k < 256) || (decide (442 ≤ k) && decide (k ≤ 446))

/-- GATE of LIFE_STATUS: an MRAM write is over within its event, so it reads open or blocked (R551). -/
def Dev.lifeGate (d : Dev) : Nat := bN d.nvmBlocked

/-- Identity, board, time, power, links, life log and fuses (R5, R6, R391, R396, R413, R417, R444, R494, R551, R568). -/
def Dev.liveDevice (d : Dev) (p : RegPos) (u i : Nat) : List (Fld × Nat) :=
  if p = DEV_IDENT.pos then [(DEV_IDENT.ARRAYS, 256 - ((List.range 256).filter d.arrDisabled).length), (DEV_IDENT.STEPPING, d.fuse.stepping)]
  else if p = DEV_ARRAY_MAP.pos then [(DEV_ARRAY_MAP.ENABLED, ((List.range 64).map fun j => if d.arrDisabled (64 * i + j) then 0 else 2 ^ j).sum)]
  else if p = DEV_PINS.pos then
    let s := d.alertSrc
    [(DEV_PINS.ALERT, bN d.alert), (DEV_PINS.SRC_EVENT, bitsOf s 0 1), (DEV_PINS.SRC_SAG, bitsOf s 1 1), (DEV_PINS.SRC_TEMP, bitsOf s 2 1),
      (DEV_PINS.SRC_COOL, bitsOf s 3 1), (DEV_PINS.SRC_LINK, bitsOf s 5 1), (DEV_PINS.SRC_FATAL, bitsOf s 6 1)]
  else if p = THM_COOLANT.pos then [(THM_COOLANT.AGE, d.coolAge)]
  else if p = TK_TIME.pos then [(TK_TIME.US, d.us)]
  else if p = PWR_STATUS.pos then [(PWR_STATUS.STATE, d.pwrState)]
  else if p = PWR_DOM.pos then [(PWR_DOM.SW, bN (domSw u))]
  else if p = LNK_STATUS.pos then [(LNK_STATUS.NARROW_SLICES, d.narrowCount)]
  else if p = LIFE_STATUS.pos then [(LIFE_STATUS.GATE, d.lifeGate), (LIFE_STATUS.PENDING, d.lifePend.length), (LIFE_STATUS.IMG_PENDING, bN d.imgPend)]
  else if p = SEC_FUSE.pos then
    let w := d.fuseWord
    [SEC_FUSE.REVOKED0, SEC_FUSE.REVOKED1, SEC_FUSE.DEBUG_LOCK, SEC_FUSE.SVN_MGMT, SEC_FUSE.SVN_CORE].map fun f => (f, bitsOf w f.lo f.w)
  else []

/-- Every live value of a register. -/
def Dev.live (d : Dev) (p : RegPos) (u i : Nat) : List (Fld × Nat) :=
  (match p.kind with
  | .core _ => d.liveCore p u ++ d.liveMem p u i
  | .cluster => d.liveMem p u i
  | .region => d.liveShared p u i
  | .flat _ => d.liveShared p u i ++ d.liveDevice p u i)

/-- What a read of a field delivers: WO fields read 0, an RC field what it held when the cycle began (R11, R13). -/
def Dev.fieldRead (d : Dev) (lv : List (Fld × Nat)) (f : Fld) (u i : Nat) : Nat :=
  if f.acc = .wo then 0 else ((lv.find? fun p => p.1 = f).map fun p => p.2 % 2 ^ f.w).getD (if f.acc = .rc then d.begun.fld f u i else d.fld f u i)

/-- What a read of a register delivers (R11, R12). -/
def Dev.regRead (d : Dev) (g : Reg) (u i : Nat) : Nat := let lv := d.live g.pos u i; (g.fields.map fun f => d.fieldRead lv f u i * 2 ^ f.lo).sum

/-- What the events of this cycle leave in an RC field that a read of the cycle clears: a least or greatest value they have moved, a count of them, a flag they have set (R13, R416; log 175 of a counter that already stood at its maximum). -/
def Dev.rcLeft (d : Dev) (f : Fld) (u i : Nat) : Nat :=
  let cur := d.fld f u i
  let was := d.begun.fld f u i
  if f.rst ≠ 0 ∨ f = BCR_PIN.LONGEST then (if cur = was then f.rst else cur)
  else if was < cur then cur - was
  else if cur < was then cur
  else if d.setNow f u i = 0 then 0 else 1

/-- The read clears the bits of RC fields that the access reaches, to the value they restart from; what the events of its cycle have added stays (R10, R11, R13, R416). -/
def Dev.readClear (d : Dev) (g : Reg) (u i m : Nat) : Dev :=
  g.fields.foldl (fun d f =>
    let k := bitsOf m f.lo f.w
    let keep (x y : Nat) : Nat := (x &&& ((2 ^ f.w - 1) ^^^ k)) ||| (y &&& k)
    if f.acc = .rc ∧ k ≠ 0 then
      let e := d.putFld f u i (keep (d.fld f u i) (d.rcLeft f u i))
      { e with cyc := { d.cyc with regs := (d.begun.putFld f u i (keep (d.begun.fld f u i) f.rst)).regs } }
    else d) d

/-- Counters of cycles are brought up to now before they are read. -/
def Dev.readSettle (d : Dev) (g : Reg) (u i : Nat) : Dev :=
  if g.pos = PERF_CNT.pos ∨ g.pos = PERF_OVF.pos ∨ g.pos = PERF_SAMPLE.pos then d.pmcSettleCore u
  else if g.pos = PERF_CLCNT.pos ∨ g.pos = PERF_CLOVF.pos then (List.range 8).foldl (fun d j => d.pmcSettleCl u j) d
  else if g.pos = DEV_PCNT.pos ∨ g.pos = DEV_POVF.pos then (List.range 8).foldl (fun d j => d.pmcSettleDev j) d
  else if g.pos = ECC_SCRUB.pos then
    let (v, d) := d.free
    d.setFld ECC_SCRUB.PROGRESS u i (v.toNat % 1000)
  else d

/-! The bus (R10, R35 to R38, R316). -/

/-- The register at an 8-byte-aligned BAR0 offset, with its unit and number. -/
def regAt (off : Nat) : Option (Reg × Nat × Nat) := regMap.findSome? fun g => (g.pos.at? off).map fun q => (g, q.1, q.2)

/-- The bits of the word that an access of 4 or 8 bytes at an offset reaches. -/
def accessMask (off size : Nat) : Nat := if size = 8 then 2 ^ 64 - 1 else (2 ^ 32 - 1) * 2 ^ (8 * (off % 8))

/-- A requester reaches the register bus: the host once BAR0 is ready and while the link is up, the management controller while its domain is ON, a processor in its own cluster's block (R36, R112, R318, R401). -/
def Dev.busOpen (d : Dev) (r : Req) (off : Nat) : Bool :=
  decide (off < 2 ^ 24) &&
    match r with
    | .host => d.svc.contains .bar0 && d.linkOn
    | .mgmt => d.domOn 449
    | .cp n => off / 0x10000 == 0x40 + n.val / 8

/-- The blocks that PARKED stops: the stack's blocks, the queue engine, the batons and the clusters' check-value units (R404, R406). -/
def parkedBlock (off : Nat) : Bool :=
  decide (0x400000 ≤ off) || (decide (0x80000 ≤ off) && decide (off < 0x100000)) || (decide (0x180000 ≤ off) && decide (off < 0x182000))

/-- The block at an offset does not run while the device is PARKED or on its way out of it, or an access has to go behind one that waits for it or at its own register (R404, R406). -/
def Dev.busWaits (d : Dev) (off : Nat) : Bool :=
  ((d.power == .parked || d.power == .waking) && parkedBlock off) || d.regHeld.any fun w => parkedBlock w.off || w.off == off

/-- The domain of the block at an offset is ON: a cluster's blocks, a region's, a check-value unit's (R27, R401). -/
def Dev.busReach (d : Dev) (off : Nat) : Bool :=
  if 0x400000 ≤ off ∧ off < 0x600000 then d.domOn (256 + (off - 0x400000) / 0x10000)
  else if 0x800000 ≤ off ∧ off < 0xA00000 then d.domOn (290 + (off - 0x800000) / 0x4000)
  else if 0x180000 ≤ off ∧ off < 0x182400 then
    let u := (off - 0x180000) / 0x100
    d.domOn (if u < 32 then 256 + u else 443 + (u - 32))
  else true

/-- CXL component and device registers: their contents are CXL's, not this part's (R316; log 48). -/
def cxlRange (off : Nat) : Bool := decide (0x100000 ≤ off) && decide (off < 0x120000)
/-- The MSI-X table (R316). -/
def msixRange (off : Nat) : Bool := decide (0x120000 ≤ off) && decide (off < 0x128000)
/-- The MSI-X pending bits (R316). -/
def pbaRange (off : Nat) : Bool := decide (0x128000 ≤ off) && decide (off < 0x128100)
/-- LIFE_WIN (R554). -/
def lifeRange (off : Nat) : Bool := decide (0x250000 ≤ off) && decide (off < 0x260000)

/-- Bits of an MSI-X table word that software may write: the address, or the data and the mask bit (R317; log 41). -/
def msixBits (off : Nat) : Nat := if off % 16 < 8 then 2 ^ 64 - 1 else 2 ^ 33 - 1

/-- A write of the MSI-X table; unmasking a vector sends its pending message (R317). The word is stored XOR its reset value. -/
def Dev.msixWrite (d : Dev) (off v m : Nat) : Dev :=
  let o := off / 8 * 8
  let rst := if o % 16 = 8 then 2 ^ 32 else 0
  let cur := (d.rawWord o).toNat ^^^ rst
  let k := m &&& msixBits o
  let new := ((cur &&& ((2 ^ 64 - 1) ^^^ k)) ||| (v &&& k)) ^^^ rst
  (d.setRaw o (BitVec.ofNat 64 new)).msixRelease ((o - 0x120000) / 16)

/-- Software has written bits `m` of the register at an offset in this cycle (R13). -/
def Dev.softMark (d : Dev) (o m : Nat) : Dev := { d with cyc := { d.cyc with soft := Tbl.set 0 d.cyc.soft o (Tbl.get 0 d.cyc.soft o ||| BitVec.ofNat 64 m) } }

/-- A BAR0 write that has reached its block. -/
def Dev.busPut (d : Dev) (r : Req) (off size v : Nat) : Dev :=
  let m := accessMask off size
  let v := v * 2 ^ (8 * (off % 8)) &&& m
  if (size ≠ 4 ∧ size ≠ 8) ∨ off % size ≠ 0 then d.barError DEV_ERR.BAD_ACCESS off
  else if cxlRange off || pbaRange off || lifeRange off then d
  else if msixRange off then d.msixWrite off v m
  else
    match regAt (off / 8 * 8) with
    | none => d.barError DEV_ERR.UNMAPPED off
    | some (g, u, i) => if d.busReach off then (d.regWrite r g u i v m).softMark (off / 8 * 8) m else d

/-- The 8 bytes of MRAM that LIFE_WIN shows at an offset (R554). -/
def Dev.lifeWord (d : Dev) (off : Nat) : Nat :=
  ofBytes ((List.range 8).map fun j => d.byte (mramKey (d.fld LIFE_CTL.PAGE 0 0 * 0x10000 + (off - 0x250000) / 8 * 8 + j)))

/-- A BAR0 read that has reached its block: the value, by the size of the access. A block that is not ON answers poison, whose value is open (R27); so are CXL's own registers (log 48). -/
def Dev.busGet (d : Dev) (off size : Nat) : Nat × Dev :=
  let m := accessMask off size
  let cut (w : Nat) : Nat := (w &&& m) / 2 ^ (8 * (off % 8))
  if (size ≠ 4 ∧ size ≠ 8) ∨ off % size ≠ 0 then (0, d.barError DEV_ERR.BAD_ACCESS off)
  else if cxlRange off then let (v, d) := d.free; (cut v.toNat, d)
  else if msixRange off then (cut ((d.rawWord (off / 8 * 8)).toNat ^^^ (if off % 16 < 8 then 0 else 2 ^ 32)), d)
  else if pbaRange off then (cut (d.rawWord (off / 8 * 8)).toNat, d)
  else if lifeRange off then (cut (d.lifeWord off), d)
  else
    match regAt (off / 8 * 8) with
    | none => (0, d.barError DEV_ERR.UNMAPPED off)
    | some (g, u, i) =>
      if d.busReach off then
        let d := d.readSettle g u i
        (cut (d.regRead g u i), d.readClear g u i m)
      else let (v, d) := d.free; (cut v.toNat, d)

/-- An access that waited is made (R406). -/
def Dev.busServe (d : Dev) (w : RegWait) : Dev :=
  match w.value with
  | some v => d.busPut w.req w.off w.size v.toNat
  | none => let (v, d) := d.busGet w.off w.size; d.emit (.regRead w.req (BitVec.ofNat 64 v))

/-- Accesses that wait, for the wake or at a register whose work lacks data, are made in order as a cycle ends, once the device runs (R406; log 136). -/
def Dev.busPump (d : Dev) : Dev :=
  if d.regHeld.isEmpty || d.power == .parked || d.power == .waking then d
  else d.regHeld.foldl (fun d w => d.busServe w) { d with regHeld := [] }

/-- A register access by BAR0 offset (R10, R37, R406). -/
def Dev.busAccess (d : Dev) (w : RegWait) : Dev :=
  if !d.busOpen w.req w.off then d
  else if d.busWaits w.off then { d with regHeld := d.regHeld ++ [w] }
  else d.busServe w

/-! CSRs (R111, R113 to R115, R531; the standard ones by the RISC-V privileged architecture, log 30). -/

/-- The permission user mode needs for a device CSR, where it needs one (R113, R531). -/
def csrPerm (num : Nat) : Option Fld :=
  if num = 0x800 then some DXMCTL.USER_SEQ
  else if 0x810 ≤ num ∧ num ≤ 0x81F then some DXMCTL.USER_GATES
  else if num = 0xCC2 then some DXMCTL.USER_POST
  else if 0xCC8 ≤ num ∧ num ≤ 0xCCE then some DXMCTL.PERF_USER
  else none

/-- The CSRs the processor has. -/
def csrKnown (num : Nat) : Bool :=
  [0x001, 0x002, 0x003, 0x300, 0x301, 0x304, 0x305, 0x306, 0x30A, 0x320, 0x340, 0x341, 0x342, 0x343, 0x344, 0xB00, 0xB02, 0xF11, 0xF12, 0xF13, 0xF14, 0xF15,
    0xFC0, 0xFC1, 0x800, 0xCC0, 0xCC1, 0xCC2, 0xCC3].contains num ||
  (decide (0x7C0 ≤ num) && decide (num ≤ 0x7C7)) || (decide (0x810 ≤ num) && decide (num ≤ 0x81F)) || (decide (0xCC8 ≤ num) && decide (num ≤ 0xCCE)) ||
  (decide (0xC00 ≤ num) && decide (num ≤ 0xC1F)) || (decide (0xB03 ≤ num) && decide (num ≤ 0xB1F)) || (decide (0x323 ≤ num) && decide (num ≤ 0x33F))

/-- The floating-point unit is enabled: mstatus.FS is not Off. -/
def Cp.fpOn (p : Cp) : Bool := bitsOf p.mstatus.toNat 13 2 != 0

/-- An access of a CSR is legal: it exists, the mode may reach it, a write is not to a read-only one. -/
def Dev.csrMay (d : Dev) (n num : Nat) (user write : Bool) : Bool :=
  let p := (d.core n).cp
  csrKnown num && (!user || decide (num / 256 % 4 = 0)) && (!write || decide (num / 1024 ≠ 3)) &&
    (!user || ((csrPerm num).map fun f => d.bit f n 0).getD true) &&
    (!user || !(decide (0xC00 ≤ num) && decide (num ≤ 0xC1F)) || p.mcounteren.getLsbD (num - 0xC00)) && (decide (3 < num) || p.fpOn)

/-- misa: RV64IMAFDC with user mode (R111). -/
def cpIsa : Nat := 2 ^ 63 + 2 ^ 0 + 2 ^ 2 + 2 ^ 3 + 2 ^ 5 + 2 ^ 8 + 2 ^ 12 + 2 ^ 20

/-- mstatus as read: SD follows FS, UXL is 64 bits. -/
def Cp.status (p : Cp) : Nat := (p.mstatus.toNat &&& 0x7FFFFFFFFFFFFFFF) + (if bitsOf p.mstatus.toNat 13 2 = 3 then 2 ^ 63 else 0)

/-- Standard CSRs. -/
def Dev.csrStd (d : Dev) (n num : Nat) : Nat :=
  let p := (d.core n).cp
  match num with
  | 0x001 => bitsOf p.fcsr.toNat 0 5
  | 0x002 => bitsOf p.fcsr.toNat 5 3
  | 0x003 => p.fcsr.toNat
  | 0x300 => p.status + 2 ^ 33
  | 0x301 => cpIsa
  | 0x304 => p.mie.toNat
  | 0x305 => p.mtvec.toNat
  | 0x306 => p.mcounteren.toNat
  | 0x340 => p.mscratch.toNat
  | 0x341 => p.mepc.toNat
  | 0x342 => p.mcause.toNat
  | 0x343 => p.mtval.toNat
  | 0x344 => d.mip n
  | 0xB00 | 0xC00 => (p.mcycle.toNat + d.cclk n) % 2 ^ 64
  | 0xB02 | 0xC02 => p.minstret.toNat
  | 0xC01 => d.time
  | 0xF11 | 0xF12 | 0xF13 | 0xF15 => (Config.cpId num).toNat
  | 0xF14 => n
  | _ => 0

/-- A read of a CSR, with what it pops (R113, R120, R531). -/
def Dev.csrGet (d : Dev) (n num : Nat) : Nat × Dev :=
  let c := d.core n
  if num = 0xFC0 then (n + (n / 8) * 2 ^ 8 + columnOf n * 2 ^ 13 + (if 128 ≤ n then 2 ^ 20 else 0) + (if d.arrDisabled n then 0 else 2 ^ 21), d)
  else if num = 0xFC1 then (c.mboxTail, d)
  else if num = 0x7C0 then (d.regRead DXMCTL.reg n 0, d)
  else if num = 0x7C1 then (c.timecmp.toNat, d)
  else if num = 0x7C2 then (c.mboxHead, d)
  else if num = 0x7C3 then (0, d)
  else if 0x7C4 ≤ num ∧ num ≤ 0x7C7 then (d.regRead DXUWIN.reg n (num - 0x7C4), d)
  else if num = 0x800 then (4 - c.lq.length, d)
  else if 0x810 ≤ num ∧ num ≤ 0x81F then (c.gates.getD (num - 0x810) 0, d)
  else if num = 0xCC0 then (d.regRead CORE_STATUS.reg n 0, d)
  else if num = 0xCC1 then d.dxRetire n
  else if num = 0xCC2 then d.dxPost n
  else if num = 0xCC3 then (d.regRead CORE_FAULT.reg n 0, d)
  else if num = 0xCC8 then (d.regRead PERF_CYCLE.reg n 0, d)
  else if 0xCC9 ≤ num ∧ num ≤ 0xCCE then
    let d := d.pmcSettle n (num - 0xCC9)
    (d.fld PERF_CNT.COUNT n (num - 0xCC9), d)
  else (d.csrStd n num, d)

/-- mstatus as written: MIE, MPIE, MPP (0 or 3), FS and MPRV are taken. -/
def mstatusOf (old v : Nat) : Nat :=
  let mpp := if bitsOf v 11 2 = 0 ∨ bitsOf v 11 2 = 3 then bitsOf v 11 2 else bitsOf old 11 2
  bitsOf v 3 1 * 2 ^ 3 + bitsOf v 7 1 * 2 ^ 7 + mpp * 2 ^ 11 + bitsOf v 13 2 * 2 ^ 13 + bitsOf v 17 1 * 2 ^ 17 + bitsOf v 21 1 * 2 ^ 21

/-- Standard CSRs written; fields an implementation may hold fixed are. -/
def Dev.csrStdPut (d : Dev) (n num v : Nat) : Dev :=
  let b (x : Nat) : BitVec 64 := BitVec.ofNat 64 x
  let cyc := d.cclk n
  d.modCp n fun p =>
    let dirty (p : Cp) : Cp := { p with mstatus := p.mstatus ||| 0x6000 }
    match num with
    | 0x001 => dirty { p with fcsr := BitVec.ofNat 8 (bitsOf p.fcsr.toNat 5 3 * 32 + bitsOf v 0 5) }
    | 0x002 => dirty { p with fcsr := BitVec.ofNat 8 (bitsOf v 0 3 * 32 + bitsOf p.fcsr.toNat 0 5) }
    | 0x003 => dirty { p with fcsr := BitVec.ofNat 8 (bitsOf v 0 8) }
    | 0x300 => { p with mstatus := b (mstatusOf p.mstatus.toNat v) }
    | 0x304 => { p with mie := b (v &&& (0x7F0000 + 0x80)) }
    | 0x305 => { p with mtvec := b (v / 4 * 4 + v % 2) }
    | 0x306 => { p with mcounteren := b (v % 2 ^ 32) }
    | 0x340 => { p with mscratch := b v }
    | 0x341 => { p with mepc := b (v / 2 * 2) }
    | 0x342 => { p with mcause := b v }
    | 0x343 => { p with mtval := b v }
    | 0xB00 => { p with mcycle := b (v + 2 ^ 64 - cyc % 2 ^ 64) }
    | 0xB02 => { p with minstret := b v }
    | _ => p

/-- A write of a CSR (R113 to R115). -/
def Dev.csrPut (d : Dev) (n num : Nat) (user : Bool) (v : Nat) : Dev :=
  let w := BitVec.ofNat 64 v
  if num = 0x7C0 then d.plainWrite DXMCTL.reg.fields n 0 v (2 ^ 64 - 1)
  else if num = 0x7C1 then d.setCore n { d.core n with timecmp := w }
  else if num = 0x7C2 then d.dxLhead n w
  else if num = 0x7C3 then d.dxDone n w
  else if 0x7C4 ≤ num ∧ num ≤ 0x7C7 then d.plainWrite DXUWIN.reg.fields n (num - 0x7C4) v (2 ^ 64 - 1)
  else if num = 0x800 then d.dxLaunch n user w
  else if 0x810 ≤ num ∧ num ≤ 0x81F then d.dxGate n (num - 0x810) w
  else d.csrStdPut n num v

/-- A CSR write as the row has it: its effect, or an illegal-instruction exception (R113). -/
def Dev.csrWrite (d : Dev) (n num : Nat) (user : Bool) (v : Nat) : Dev := if d.csrMay n num user true then d.csrPut n num user v else d.cpTrap n 2 0

/-- A CSR read as the row has it. -/
def Dev.csrRead (d : Dev) (n : CoreId) (num : Nat) (user : Bool) : Dev :=
  if d.csrMay n num user false then let (v, d) := d.csrGet n num; d.emit (.regRead (.cp n) (BitVec.ofNat 64 v)) else d.cpTrap n 2 0

/-! The commands. -/

/-- The write reaches SEC_CMD, whose commands may burn fuses (R560). -/
def targetBurns : RegTarget → Bool
  | .bar0 off _ => off / 8 * 8 == 0x280010
  | _ => false

/-- A register write by target. -/
def Dev.writeTo (d : Dev) (r : Req) (t : RegTarget) (v : Word) : Dev :=
  match t with
  | .bar0 off size => d.busAccess ⟨r, off, size, some v⟩
  | .csr n num user => d.csrWrite n num user v.toNat

/-- A register read by target. -/
def Dev.readFrom (d : Dev) (r : Req) (t : RegTarget) : Dev :=
  match t with
  | .bar0 off size => d.busAccess ⟨r, off, size, none⟩
  | .csr n num user => d.csrRead n num user

def execRegisterWrite (r : Req) (t : RegTarget) (value : Word) (s : State) : Host.Outcome State Fault Refusal :=
  if targetBurns t then s.evFuse fun d => d.writeTo r t value else s.ev fun d => d.writeTo r t value
def execClearingRead (r : Req) (t : RegTarget) (s : State) : Host.Outcome State Fault Refusal := s.ev fun d => d.readFrom r t
/-- A write of 1 to FORCE_NARROW, RWL (R11, R176). -/
def execForceNarrow (_r : Req) (core : CoreId) (s : State) : Host.Outcome State Fault Refusal :=
  s.ev fun d => if d.done < 10 ∧ !d.bit SLC_CFG.FORCE_NARROW core 0 then d.slcForce core else d
/-- A write of 1 to TRACK_CLEAR frees every tracker entry (R176). -/
def execTrackClear (_r : Req) (core : CoreId) (s : State) : Host.Outcome State Fault Refusal := s.ev fun d => d.setSlice core { d.slice core with tracker := [] }
def execPartitionChange (_r : Req) (c : RegionId) (mask : BitVec 16) (s : State) : Host.Outcome State Fault Refusal := s.ev fun d => d.partWrite c mask
def execTrapClear (_r : Req) (c : RegionId) (s : State) : Host.Outcome State Fault Refusal := s.ev fun d => d.trapClear c

end Sys2Proof.Machine
end

