-- ==== Sys2Proof/Machine/Cp.lean ====
section
/-! DEFINITION. The control processor executes an instruction: RV64GC with Zicsr and Zifencei (R111, R112; what these name is PRESUMED from the RISC-V architecture, log 30). -/

namespace Sys2Proof.Machine

/-! Registers. -/

/-- An integer register; x0 reads 0. -/
def Cp.xr (p : Cp) (i : Nat) : Nat := if i = 0 then 0 else (Tbl.get 0 p.x i).toNat
/-- Write an integer register; x0 discards. -/
def Cp.xw (p : Cp) (i v : Nat) : Cp := if i = 0 then p else { p with x := Tbl.set 0 p.x i (BitVec.ofNat 64 v) }
/-- A floating-point register. -/
def Cp.fr (p : Cp) (i : Nat) : Nat := (Tbl.get 0 p.f i).toNat
/-- Write a floating-point register; the unit's state becomes dirty. -/
def Cp.fw (p : Cp) (i v : Nat) : Cp := { p with f := Tbl.set 0 p.f i (BitVec.ofNat 64 v), mstatus := p.mstatus ||| 0x6000 }
/-- Accrue floating-point flags. -/
def Cp.flags (p : Cp) (k : Nat) : Cp := if k = 0 then p else { p with fcsr := p.fcsr ||| BitVec.ofNat 8 k, mstatus := p.mstatus ||| 0x6000 }

/-- What an instruction did: the next pc where it retired, none where it trapped or waits. -/
abbrev CpRes := Option Nat × Dev

/-- Retire, with a change of the processor. -/
def Dev.cpDo (d : Dev) (n pc : Nat) (f : Cp → Cp) : CpRes := (some pc, d.modCp n f)
/-- An illegal instruction. -/
def Dev.cpIllegal (d : Dev) (n : Nat) : CpRes := (none, d.cpTrap n 2 0)

/-! Memory (R112). -/

/-- What lies at an address. -/
inductive CpPlace where
  | store (dd off : Nat)
  | mailbox (off : Nat)
  | block (off : Nat)
  | device (a : Nat)
  | nothing
  deriving DecidableEq, Repr, Inhabited

/-- The address map as loads and stores of a mode see it (R112). -/
def cpPlace (user : Bool) (a size : Nat) : CpPlace :=
  if a < 0x10000 then (if user then .nothing else .store 0 a)
  else if a < 0x1FF00 then (if user && decide (a < 0x18000) then .nothing else .store 1 (a - 0x10000))
  else if a < 0x20000 then (if user then .nothing else .mailbox (a - 0x1FF00))
  else if a < 0x30000 then (if user || decide (size < 4) then .nothing else .block (a - 0x20000))
  else if 2 ^ 52 ≤ a ∧ a < 2 ^ 53 then .device (a - 2 ^ 52)
  else .nothing

/-- The mode loads and stores act in: that of MPP while MPRV is 1. -/
def Cp.dataUser (p : Cp) : Bool := if !p.user && bitOf p.mstatus.toNat 17 then bitsOf p.mstatus.toNat 11 2 != 3 else p.user

/-- Read a store, corrected errors written back and counted (R111). -/
def Dev.cpStoreRead (d : Dev) (n dd off size : Nat) : Option Nat × Dev :=
  let (b, cl) := d.read (storeKey n dd off) size
  let d := cl.foldl (fun e p => (e.scrubCw p.1 p.2).lsEcc n (1 + dd) p.1 (off / 32 * 32) p.2) d
  (if anyPoison b then none else some (ofPBytes b), d)

/-- Write a store; what the read of a partly written codeword meets is counted (R111, R128). -/
def Dev.cpStoreWrite (d : Dev) (n dd off : Nat) (b : List PByte) : Dev :=
  ((d.mergeCls (storeKey n dd off) b.length).foldl (fun e p => e.lsEcc n (1 + dd) p.1 (off / 32 * 32) p.2) d).write (storeKey n dd off) b

/-- A load: the value, or none after its exception (R111, R112). -/
def Dev.cpLoad (d : Dev) (n a size : Nat) (ext : List PByte) : Option Nat × Dev :=
  let user := (d.core n).cp.dataUser
  if a % size ≠ 0 then (none, d.cpTrap n 4 a)
  else
    match cpPlace user a size with
    | .store dd off => let (v, d) := d.cpStoreRead n dd off size; if v.isNone then (none, d.cpTrap n 5 a) else (v, d)
    | .mailbox off => (some (bitsOf (Tbl.get 0 (d.core n).mbox (off / 32)).toNat (off % 32 * 8) (size * 8)), d)
    | .block off => let (v, d) := d.busGet (0x400000 + n / 8 * 0x10000 + off) size; (some v, d)
    | .device off => d.cpDev n user false off size 0 ext
    | .nothing => (none, d.cpTrap n 5 a)

/-- A store: whether it was made, or trapped (R111, R112). -/
def Dev.cpStore (d : Dev) (n : CoreId) (a size v : Nat) (ext : List PByte) : Option Nat × Dev :=
  let user := (d.core n).cp.dataUser
  let v := v % 2 ^ (8 * size)
  if a % size ≠ 0 then (none, d.cpTrap n 6 a)
  else
    match cpPlace user a size with
    | .store dd off => (some 0, d.cpStoreWrite n dd off (toPBytes size v))
    | .block off => (some 0, d.busPut (.cp n) (0x400000 + n.val / 8 * 0x10000 + off) size v)
    | .device off => d.cpDev n user true off size v ext
    | _ => (none, d.cpTrap n 7 a)

/-- Atomic instructions on the stores; elsewhere a store access fault (R112). -/
def Dev.cpAtomic (d : Dev) (n : CoreId) (w pc : Nat) : CpRes :=
  let p := (d.core n).cp
  let size := 2 ^ rvF3 w
  let a := p.xr (rvRs1 w)
  let op := bitsOf w 27 5
  let b := p.xr (rvRs2 w) % 2 ^ (8 * size)
  if rvF3 w ≠ 2 ∧ rvF3 w ≠ 3 then d.cpIllegal n
  else if op ≠ 3 ∧ (op ≠ 2 ∨ rvRs2 w ≠ 0) ∧ (rvAmo 64 op 0 0).isNone then d.cpIllegal n
  else if a % size ≠ 0 then (none, d.cpTrap n (if op = 2 then 4 else 6) a)
  else
    match cpPlace p.dataUser a size with
    | .store dd off =>
      if op = 3 then
        let ok := p.resv == some a
        let d := if ok then d.cpStoreWrite n dd off (toPBytes size b) else d
        d.cpDo n pc fun p => { p.xw (rvRd w) (if ok then 0 else 1) with resv := none }
      else
        match d.cpStoreRead n dd off size with
        | (none, d) => (none, d.cpTrap n (if op = 2 then 5 else 7) a)
        | (some v, d) =>
          if op = 2 then d.cpDo n pc fun p => { p.xw (rvRd w) (sext (8 * size) v) with resv := some a }
          else
            let d := d.cpStoreWrite n dd off (toPBytes size ((rvAmo (8 * size) op v b).getD v))
            d.cpDo n pc fun p => p.xw (rvRd w) (sext (8 * size) v)
    | .nothing => (none, d.cpTrap n (if op = 2 then 5 else 7) a)
    | _ => (none, d.cpTrap n 7 a)

/-- Integer loads. -/
def Dev.cpLoadOp (d : Dev) (n w pc : Nat) (ext : List PByte) : CpRes :=
  let f3 := rvF3 w
  let size := 2 ^ (f3 % 4)
  if f3 = 7 then d.cpIllegal n
  else
    match d.cpLoad n (rvPlus ((d.core n).cp.xr (rvRs1 w)) (rvImmI w)) size ext with
    | (none, d) => (none, d)
    | (some v, d) => d.cpDo n pc fun p => p.xw (rvRd w) (if f3 < 4 then sext (8 * size) v else v)

/-- Integer stores. -/
def Dev.cpStoreOp (d : Dev) (n : CoreId) (w pc : Nat) (ext : List PByte) : CpRes :=
  let p := (d.core n).cp
  if 4 ≤ rvF3 w then d.cpIllegal n
  else
    match d.cpStore n (rvPlus (p.xr (rvRs1 w)) (rvImmS w)) (2 ^ rvF3 w) (p.xr (rvRs2 w)) ext with
    | (none, d) => (none, d)
    | (some _, d) => (some pc, d)

/-! Floating point. -/

/-- Floating-point loads. -/
def Dev.cpFload (d : Dev) (n w pc : Nat) (ext : List PByte) : CpRes :=
  if (rvF3 w ≠ 2 ∧ rvF3 w ≠ 3) ∨ !(d.core n).cp.fpOn then d.cpIllegal n
  else
    match d.cpLoad n (rvPlus ((d.core n).cp.xr (rvRs1 w)) (rvImmI w)) (2 ^ rvF3 w) ext with
    | (none, d) => (none, d)
    | (some v, d) => d.cpDo n pc fun p => p.fw (rvRd w) (rvBox (if rvF3 w = 2 then fp32 else fp64) v)

/-- Floating-point stores. -/
def Dev.cpFstore (d : Dev) (n : CoreId) (w pc : Nat) (ext : List PByte) : CpRes :=
  let p := (d.core n).cp
  if (rvF3 w ≠ 2 ∧ rvF3 w ≠ 3) ∨ !p.fpOn then d.cpIllegal n
  else
    match d.cpStore n (rvPlus (p.xr (rvRs1 w)) (rvImmS w)) (2 ^ rvF3 w) (p.fr (rvRs2 w)) ext with
    | (none, d) => (none, d)
    | (some _, d) => (some pc, d)

/-- The format of an encoding's two-bit field. -/
def rvFmt : Nat → Option Fmt
  | 0 => some fp32
  | 1 => some fp64
  | _ => none

/-- The rounding mode of a word, from frm where it says so. -/
def Cp.rmOf (p : Cp) (w : Nat) : Option RMode := fpMode (if rvF3 w = 7 then bitsOf p.fcsr.toNat 5 3 else rvF3 w)

/-- A result for a floating-point register. -/
def Dev.cpFput (d : Dev) (n w pc : Nat) (f : Fmt) (r : FpRes) : CpRes := d.cpDo n pc fun p => (p.fw (rvRd w) (rvBox f r.1)).flags r.2
/-- A result for an integer register. -/
def Dev.cpXput (d : Dev) (n w pc : Nat) (r : FpRes) : CpRes := d.cpDo n pc fun p => (p.xw (rvRd w) r.1).flags r.2

/-- Fused multiply-adds. -/
def Dev.cpFma (d : Dev) (n w pc : Nat) : CpRes :=
  let p := (d.core n).cp
  match p.fpOn, rvFmt (bitsOf w 25 2), p.rmOf w with
  | true, some f, some m =>
    let a := unbox f (p.fr (rvRs1 w))
    let b := unbox f (p.fr (rvRs2 w))
    let c := unbox f (p.fr (bitsOf w 27 5))
    d.cpFput n w pc f (match rvOp w with
      | 0x43 => f.rvFma m a b c
      | 0x47 => f.rvFma m a b (f.flip c)
      | 0x4B => f.rvFma m (f.flip a) b c
      | _ => f.rvFma m (f.flip a) b (f.flip c))
  | _, _, _ => d.cpIllegal n

/-- OP-FP. -/
def Dev.cpFp (d : Dev) (n w pc : Nat) : CpRes :=
  let p := (d.core n).cp
  let f3 := rvF3 w
  let r2 := rvRs2 w
  match p.fpOn, rvFmt (bitsOf w 25 2) with
  | true, some f =>
    let a := unbox f (p.fr (rvRs1 w))
    let b := unbox f (p.fr r2)
    let x := p.xr (rvRs1 w)
    let iw := if r2 < 2 then 32 else 64
    let put (r : RMode → FpRes) : CpRes := match p.rmOf w with | some m => d.cpFput n w pc f (r m) | none => d.cpIllegal n
    match bitsOf w 27 5 with
    | 0x00 => put fun m => f.rvAdd m a b
    | 0x01 => put fun m => f.rvSub m a b
    | 0x02 => put fun m => f.rvMul m a b
    | 0x03 => put fun m => f.rvDiv m a b
    | 0x0B => if r2 = 0 then put fun m => f.rvSqrt m a else d.cpIllegal n
    | 0x04 => if f3 ≤ 2 then d.cpFput n w pc f (f.rvSgnj f3 a b, 0) else d.cpIllegal n
    | 0x05 => if f3 ≤ 1 then d.cpFput n w pc f (f.rvMinMax (f3 == 1) a b) else d.cpIllegal n
    | 0x14 => if f3 ≤ 2 then d.cpXput n w pc (f.rvCmp f3 a b) else d.cpIllegal n
    | 0x08 =>
      match rvFmt r2 with
      | some g => if g = f then d.cpIllegal n else put fun m => g.rvCvt f m (unbox g (p.fr (rvRs1 w)))
      | none => d.cpIllegal n
    | 0x18 =>
      match p.rmOf w with
      | some m => if r2 ≤ 3 then (let r := f.rvToInt m (r2 % 2 == 0) iw a; d.cpXput n w pc (sext iw r.1, r.2)) else d.cpIllegal n
      | none => d.cpIllegal n
    | 0x1A => if r2 ≤ 3 then put fun m => f.rvOfInt m (if r2 % 2 = 0 then sx iw x else (x % 2 ^ iw : Nat)) else d.cpIllegal n
    | 0x1C =>
      if r2 ≠ 0 then d.cpIllegal n
      else if f3 = 0 then d.cpXput n w pc (sext f.bits (p.fr (rvRs1 w)), 0)
      else if f3 = 1 then d.cpXput n w pc (f.rvClass a, 0)
      else d.cpIllegal n
    | 0x1E => if r2 = 0 ∧ f3 = 0 then d.cpFput n w pc f (x % 2 ^ f.bits, 0) else d.cpIllegal n
    | _ => d.cpIllegal n
  | _, _ => d.cpIllegal n

/-! System instructions. -/

/-- The CSR instructions: CSRRW does not read for x0, CSRRS and CSRRC do not write for x0 or 0; whether minstret was written (R113). -/
def Dev.cpCsr (d : Dev) (n w pc : Nat) : CpRes :=
  let p := (d.core n).cp
  let num := bitsOf w 20 12
  let f3 := rvF3 w
  let src := if 4 ≤ f3 then rvRs1 w else p.xr (rvRs1 w)
  let wr := decide (f3 % 4 = 1) || rvRs1 w != 0
  let rd := !decide (f3 % 4 = 1) || rvRd w != 0
  if !d.csrMay n num p.user wr then d.cpIllegal n
  else
    let (old, d) := if rd then d.csrGet n num else (0, d)
    let new := if f3 % 4 = 1 then src else if f3 % 4 = 2 then old ||| src else old &&& ((2 ^ 64 - 1) ^^^ src)
    let d := if wr then d.csrPut n num p.user new else d
    d.cpDo n pc fun p => p.xw (rvRd w) old

/-- Return from a machine-mode trap. -/
def Cp.mret (p : Cp) : Cp :=
  let ms := p.mstatus.toNat
  let rest := ms - bitsOf ms 3 1 * 2 ^ 3 - bitsOf ms 7 1 * 2 ^ 7 - bitsOf ms 11 2 * 2 ^ 11
  let toUser := bitsOf ms 11 2 != 3
  let rest := if toUser then rest - bitsOf ms 17 1 * 2 ^ 17 else rest
  { p with mstatus := BitVec.ofNat 64 (rest + bitsOf ms 7 1 * 2 ^ 3 + 2 ^ 7), user := toUser }

/-- ECALL, EBREAK, MRET and WFI. -/
def Dev.cpSystem (d : Dev) (n w pc : Nat) : CpRes :=
  let p := (d.core n).cp
  match w with
  | 0x00000073 => (none, d.cpTrap n (if p.user then 8 else 11) 0)
  | 0x00100073 => (none, d.cpTrap n 3 0)
  | 0x30200073 => if p.user then d.cpIllegal n else d.cpDo n p.mepc.toNat Cp.mret
  | 0x10500073 => if p.user && bitOf p.mstatus.toNat 21 then d.cpIllegal n else d.cpDo n pc fun p => { p with wfi := true }
  | _ => if rvF3 w = 0 ∨ rvF3 w = 4 then d.cpIllegal n else d.cpCsr n w pc

/-! Execution. -/

/-- Integer register operations. -/
def Dev.cpOp (d : Dev) (n w pc : Nat) : CpRes :=
  let p := (d.core n).cp
  let f3 := rvF3 w
  let a := p.xr (rvRs1 w)
  let b := p.xr (rvRs2 w)
  let put (v : Nat) : CpRes := d.cpDo n pc fun p => p.xw (rvRd w) v
  let a' := a % 2 ^ 32
  let b' := b % 2 ^ 32
  match decide (rvOp w = 0x33), rvF7 w with
  | true, 0 => put (rvAlu 64 f3 false a b)
  | true, 0x20 => if f3 = 0 ∨ f3 = 5 then put (rvAlu 64 f3 true a b) else d.cpIllegal n
  | true, 1 => put (rvMul 64 f3 a b)
  | false, 0 => if f3 = 0 ∨ f3 = 1 ∨ f3 = 5 then put (sext 32 (rvAlu 32 f3 false a' b')) else d.cpIllegal n
  | false, 0x20 => if f3 = 0 ∨ f3 = 5 then put (sext 32 (rvAlu 32 f3 true a' b')) else d.cpIllegal n
  | false, 1 => if f3 = 0 ∨ 4 ≤ f3 then put (sext 32 (rvMul 32 f3 a' b')) else d.cpIllegal n
  | _, _ => d.cpIllegal n

/-- Integer immediate operations. -/
def Dev.cpOpImm (d : Dev) (n w pc : Nat) : CpRes :=
  let p := (d.core n).cp
  let f3 := rvF3 w
  let a := p.xr (rvRs1 w)
  let imm := ux 64 (rvImmI w)
  let put (v : Nat) : CpRes := d.cpDo n pc fun p => p.xw (rvRd w) v
  let sh := bitsOf w 20 6
  let hi := bitsOf w 26 6
  if rvOp w = 0x13 then
    if f3 = 1 then (if hi = 0 then put (rvAlu 64 1 false a sh) else d.cpIllegal n)
    else if f3 = 5 then (if hi = 0 ∨ hi = 16 then put (rvAlu 64 5 (hi == 16) a sh) else d.cpIllegal n)
    else put (rvAlu 64 f3 false a imm)
  else
    let a' := a % 2 ^ 32
    if f3 = 0 then put (sext 32 (rvAlu 32 0 false a' (imm % 2 ^ 32)))
    else if f3 = 1 then (if rvF7 w = 0 then put (sext 32 (rvAlu 32 1 false a' (rvRs2 w))) else d.cpIllegal n)
    else if f3 = 5 then (if rvF7 w = 0 ∨ rvF7 w = 0x20 then put (sext 32 (rvAlu 32 5 (rvF7 w == 0x20) a' (rvRs2 w))) else d.cpIllegal n)
    else d.cpIllegal n

/-- FENCE waits for the stores to device local addresses that have not completed; FENCE.I goes on (R112). -/
def Dev.cpFence (d : Dev) (n w pc : Nat) : CpRes :=
  if 1 < rvF3 w then d.cpIllegal n else if rvF3 w = 0 ∧ (d.uio.any fun u => u.owner == .cp n) then (none, d) else (some pc, d)

/-- Carry out a 32-bit word whose own length was `len` bytes (R111). -/
def Dev.cpExec (d : Dev) (n : CoreId) (w len : Nat) (ext : List PByte) : CpRes :=
  let p := (d.core n).cp
  let at' := p.pc.toNat
  let pc := rvPlus at' len
  let put (v : Nat) (next : Nat) : CpRes := d.cpDo n next fun p => p.xw (rvRd w) v
  match rvOp w with
  | 0x37 => put (ux 64 (rvImmU w)) pc
  | 0x17 => put (rvPlus at' (rvImmU w)) pc
  | 0x6F => put pc (rvPlus at' (rvImmJ w))
  | 0x67 => if rvF3 w = 0 then put pc (rvPlus (p.xr (rvRs1 w)) (rvImmI w) / 2 * 2) else d.cpIllegal n
  | 0x63 =>
    match rvBranch (rvF3 w) (p.xr (rvRs1 w)) (p.xr (rvRs2 w)) with
    | some t => (some (if t then rvPlus at' (rvImmB w) else pc), d)
    | none => d.cpIllegal n
  | 0x03 => d.cpLoadOp n w pc ext
  | 0x23 => d.cpStoreOp n w pc ext
  | 0x13 => d.cpOpImm n w pc
  | 0x1B => d.cpOpImm n w pc
  | 0x33 => d.cpOp n w pc
  | 0x3B => d.cpOp n w pc
  | 0x0F => d.cpFence n w pc
  | 0x2F => d.cpAtomic n w pc
  | 0x07 => d.cpFload n w pc ext
  | 0x27 => d.cpFstore n w pc ext
  | 0x43 => d.cpFma n w pc
  | 0x47 => d.cpFma n w pc
  | 0x4B => d.cpFma n w pc
  | 0x4F => d.cpFma n w pc
  | 0x53 => d.cpFp n w pc
  | 0x73 => d.cpSystem n w pc
  | _ => d.cpIllegal n

/-- The word writes minstret, whose written value then stands. -/
def writesInstret (w : Nat) : Bool := rvOp w == 0x73 && bitsOf w 20 12 == 0xB02 && rvF3 w % 4 != 0 && (rvF3 w % 4 == 1 || rvRs1 w != 0)

/-- An instruction retires: the pc moves on, the instruction counts (R528). -/
def Dev.cpRetire (d : Dev) (n w pc : Nat) : Dev :=
  (d.modCp n fun p => { p with pc := BitVec.ofNat 64 pc, minstret := if writesInstret w then p.minstret else p.minstret + 1 }).pmcCore n 0x0F 1

/-- Fetch the word at the pc, with its length; none where a half of it faults, with that half's address (R111, R112). -/
def Dev.cpFetch (d : Dev) (n : Nat) : Except Nat (Nat × Nat) × Dev :=
  let p := (d.core n).cp
  let a := p.pc.toNat
  match d.cpFetch2 n a p.user with
  | (none, d) => (.error a, d)
  | (some h, d) =>
    if h % 4 ≠ 3 then (.ok (h, 2), d)
    else
      match d.cpFetch2 n (a + 2) p.user with
      | (none, d) => (.error (a + 2), d)
      | (some g, d) => (.ok (h + g * 2 ^ 16, 4), d)

/-- The interrupts that are pending and enabled, when the mode takes them. -/
def Dev.cpIrqs (d : Dev) (n : Nat) : List Nat :=
  let p := (d.core n).cp
  if p.user || bitOf p.mstatus.toNat 3 then (List.range 23).filter fun i => bitOf (d.mip n &&& p.mie.toNat) i else []

/-- Take one of the interrupts; which of several is open (log 30). -/
def Dev.cpInterrupt (d : Dev) (n : Nat) (l : List Nat) : Dev :=
  let (v, d) := if l.length = 1 then (0, d) else d.free
  d.modCp n fun p => p.trap true (l.getD (v.toNat % l.length) 0) 0

/-- Fetch an instruction and carry it out. A fetch fault of a trap handler's first instruction halts the processor (R111). -/
def Dev.cpInstr (d : Dev) (n : CoreId) (ext : List PByte) : Dev :=
  let pre := (d.core n).cp
  match d.cpFetch n with
  | (.error a, d) => if pre.trapFault then d.cpHalted n else d.cpTrap n 1 a
  | (.ok (h, len), d) =>
    let d := d.modCp n fun p => { p with trapFault := false, wfi := false }
    match (if len = 2 then rvcExpand h else some h) with
    | none => d.cpTrap n 2 0
    | some w =>
      match d.cpExec n w len ext with
      | (none, d) => d
      | (some pc, d) => d.cpRetire n w pc

/-- The processor runs: started, not stopped by a fence, its clock not stopped. -/
def Dev.cpRuns (d : Dev) (n : Nat) : Bool := (d.core n).cp.st == .running && !(d.core n).cp.stopped && (d.clk (n / 8)).mhz != 0

/-- CP_INSTRUCTION: an enabled interrupt is taken, else an instruction is carried out; WFI waits for an interrupt to be pending and enabled in mie (R111, R116). -/
def Dev.cpStep (d : Dev) (n : CoreId) (ext : List PByte) : Dev :=
  if !d.cpRuns n then d
  else if !(d.cpIrqs n).isEmpty then d.cpInterrupt n (d.cpIrqs n)
  else if (d.core n).cp.wfi && d.mip n &&& (d.core n).cp.mie.toNat == 0 then d
  else d.whole fun d => d.cpInstr n ext

def execCpInstruction (core : CoreId) (ext : List PByte) (s : State) : Host.Outcome State Fault Refusal := s.ev fun d => d.cpStep core ext

end Sys2Proof.Machine
end

