-- ==== Sys2Proof/Machine/Dispatch.lean ====
section
/-! DEFINITION. Each command to its meaning, one arm per constructor. -/

namespace Sys2Proof.Machine

/-- The effect of a command on everything but the queue. -/
def exec (i : Instr) (s : State) : Host.Outcome State Fault Refusal :=
  match i with
  | .callRoom chan svc body => Sys2Proof.Machine.execCallRoom chan svc body s
  | .spdmGetVersion q => Sys2Proof.Machine.execSpdmGetVersion q s
  | .spdmGetCapabilities q => Sys2Proof.Machine.execSpdmGetCapabilities q s
  | .spdmNegotiateAlgorithms q => Sys2Proof.Machine.execSpdmNegotiateAlgorithms q s
  | .spdmGetDigests q => Sys2Proof.Machine.execSpdmGetDigests q s
  | .spdmGetCertificate q slot off len => Sys2Proof.Machine.execSpdmGetCertificate q slot off len s
  | .spdmChallenge q slot => Sys2Proof.Machine.execSpdmChallenge q slot s
  | .spdmGetMeasurements q index signed => Sys2Proof.Machine.execSpdmGetMeasurements q index signed s
  | .spdmKeyExchange q => Sys2Proof.Machine.execSpdmKeyExchange q s
  | .spdmFinish q => Sys2Proof.Machine.execSpdmFinish q s
  | .spdmHeartbeat q => Sys2Proof.Machine.execSpdmHeartbeat q s
  | .spdmKeyUpdate q => Sys2Proof.Machine.execSpdmKeyUpdate q s
  | .spdmEndSession q => Sys2Proof.Machine.execSpdmEndSession q s
  | .ideQuery q => Sys2Proof.Machine.execIdeQuery q s
  | .ideKeyProg q stream keySet key => Sys2Proof.Machine.execIdeKeyProg q stream keySet key s
  | .ideKSetGo q stream keySet => Sys2Proof.Machine.execIdeKSetGo q stream keySet s
  | .ideKSetStop q stream keySet => Sys2Proof.Machine.execIdeKSetStop q stream keySet s
  | .cdatTableAccess entry => Sys2Proof.Machine.execCdatTableAccess entry s
  | .registerWrite r t value => Sys2Proof.Machine.execRegisterWrite r t value s
  | .clearingRead r t => Sys2Proof.Machine.execClearingRead r t s
  | .flitForward router arrivals => Sys2Proof.Machine.execFlitForward router arrivals s
  | .load a => Sys2Proof.Machine.execLoad a s
  | .run core => Sys2Proof.Machine.execRun core s
  | .runStart a => Sys2Proof.Machine.execRunStart a s
  | .arrayStall a => Sys2Proof.Machine.execArrayStall a s
  | .groupRelease a parityErr => Sys2Proof.Machine.execGroupRelease a parityErr s
  | .accumulatorWrite a => Sys2Proof.Machine.execAccumulatorWrite a s
  | .drain a => Sys2Proof.Machine.execDrain a s
  | .targetChange core => Sys2Proof.Machine.execTargetChange core s
  | .arrayIdle a => Sys2Proof.Machine.execArrayIdle a s
  | .arraySleep a => Sys2Proof.Machine.execArraySleep a s
  | .arrayWake a => Sys2Proof.Machine.execArrayWake a s
  | .endWord core => Sys2Proof.Machine.execEndWord core s
  | .nop core => Sys2Proof.Machine.execNop core s
  | .seta core => Sys2Proof.Machine.execSeta core s
  | .adda core => Sys2Proof.Machine.execAdda core s
  | .setp core => Sys2Proof.Machine.execSetp core s
  | .loop core => Sys2Proof.Machine.execLoop core s
  | .post core => Sys2Proof.Machine.execPost core s
  | .dma core => Sys2Proof.Machine.execDma core s
  | .batonWordSignal core => Sys2Proof.Machine.execBatonWordSignal core s
  | .batonWordWait core => Sys2Proof.Machine.execBatonWordWait core s
  | .batonWordSwap core => Sys2Proof.Machine.execBatonWordSwap core s
  | .batonWordHandoff core => Sys2Proof.Machine.execBatonWordHandoff core s
  | .vopAdd core => Sys2Proof.Machine.execVopAdd core s
  | .vopSub core => Sys2Proof.Machine.execVopSub core s
  | .vopMul core => Sys2Proof.Machine.execVopMul core s
  | .vopFma core => Sys2Proof.Machine.execVopFma core s
  | .vopMax core => Sys2Proof.Machine.execVopMax core s
  | .vopMin core => Sys2Proof.Machine.execVopMin core s
  | .vopExp2 core => Sys2Proof.Machine.execVopExp2 core s
  | .vopExp core => Sys2Proof.Machine.execVopExp core s
  | .vopRcp core => Sys2Proof.Machine.execVopRcp core s
  | .vopRsqrt core => Sys2Proof.Machine.execVopRsqrt core s
  | .vopSilu core => Sys2Proof.Machine.execVopSilu core s
  | .vopCvt core => Sys2Proof.Machine.execVopCvt core s
  | .vopMxq core => Sys2Proof.Machine.execVopMxq core s
  | .vopHsum core => Sys2Proof.Machine.execVopHsum core s
  | .vopHmax core => Sys2Proof.Machine.execVopHmax core s
  | .vopHdot core => Sys2Proof.Machine.execVopHdot core s
  | .vopCopy core => Sys2Proof.Machine.execVopCopy core s
  | .commandIssue core => Sys2Proof.Machine.execCommandIssue core s
  | .commandComplete core id => Sys2Proof.Machine.execCommandComplete core id s
  | .programRetire core => Sys2Proof.Machine.execProgramRetire core s
  | .watchdogExpire core => Sys2Proof.Machine.execWatchdogExpire core s
  | .dxlaunchWrite core user value => Sys2Proof.Machine.execDxlaunchWrite core user value s
  | .dxgateWrite core user gate value => Sys2Proof.Machine.execDxgateWrite core user gate value s
  | .dxretireRead core => Sys2Proof.Machine.execDxretireRead core s
  | .dxpostRead core user => Sys2Proof.Machine.execDxpostRead core user s
  | .dxdoneWrite core user value => Sys2Proof.Machine.execDxdoneWrite core user value s
  | .dxlheadWrite core user value => Sys2Proof.Machine.execDxlheadWrite core user value s
  | .machineTimer core => Sys2Proof.Machine.execMachineTimer core s
  | .mailboxDeliver core => Sys2Proof.Machine.execMailboxDeliver core s
  | .directLaunch core => Sys2Proof.Machine.execDirectLaunch core s
  | .launchReport tag => Sys2Proof.Machine.execLaunchReport tag s
  | .cpStart r core value => Sys2Proof.Machine.execCpStart r core value s
  | .imageCopyDone core => Sys2Proof.Machine.execImageCopyDone core s
  | .seqAbort r core => Sys2Proof.Machine.execSeqAbort r core s
  | .cpHalt core => Sys2Proof.Machine.execCpHalt core s
  | .cpDeviceAccess core user store addr size value ext => Sys2Proof.Machine.execCpDeviceAccess core user store addr size value ext s
  | .lsAccess core bank reqs => Sys2Proof.Machine.execLsAccess core bank reqs s
  | .dmaCopy core chan ext => Sys2Proof.Machine.execDmaCopy core chan ext s
  | .dmaWeight core ext => Sys2Proof.Machine.execDmaWeight core ext s
  | .dmaInput core ext => Sys2Proof.Machine.execDmaInput core ext s
  | .dmaReduce core chan ext => Sys2Proof.Machine.execDmaReduce core chan ext s
  | .tileEmit core => Sys2Proof.Machine.execTileEmit core s
  | .descriptorComplete core id => Sys2Proof.Machine.execDescriptorComplete core id s
  | .chkClaim core id => Sys2Proof.Machine.execChkClaim core id s
  | .act core => Sys2Proof.Machine.execAct core s
  | .rd core => Sys2Proof.Machine.execRd core s
  | .wr core => Sys2Proof.Machine.execWr core s
  | .refpb core => Sys2Proof.Machine.execRefpb core s
  | .sre core => Sys2Proof.Machine.execSre core s
  | .srx core => Sys2Proof.Machine.execSrx core s
  | .mrw core => Sys2Proof.Machine.execMrw core s
  | .rowMoveComplete core flips => Sys2Proof.Machine.execRowMoveComplete core flips s
  | .netRequest core req => Sys2Proof.Machine.execNetRequest core req s
  | .rowRequest core row => Sys2Proof.Machine.execRowRequest core row s
  | .refreshDue core layer bank => Sys2Proof.Machine.execRefreshDue core layer bank s
  | .bandApply core => Sys2Proof.Machine.execBandApply core s
  | .trackerDecay core => Sys2Proof.Machine.execTrackerDecay core s
  | .narrowModeSwitch core => Sys2Proof.Machine.execNarrowModeSwitch core s
  | .forceNarrow r core => Sys2Proof.Machine.execForceNarrow r core s
  | .trackClear r core => Sys2Proof.Machine.execTrackClear r core s
  | .bsuCommand core source cmd => Sys2Proof.Machine.execBsuCommand core source cmd s
  | .bsuFill core layer bank => Sys2Proof.Machine.execBsuFill core layer bank s
  | .bsuRmax core layer bank => Sys2Proof.Machine.execBsuRmax core layer bank s
  | .bsuRsum core layer bank => Sys2Proof.Machine.execBsuRsum core layer bank s
  | .bsuExps core layer bank => Sys2Proof.Machine.execBsuExps core layer bank s
  | .bsuScale core layer bank => Sys2Proof.Machine.execBsuScale core layer bank s
  | .bsuSvwr core layer bank => Sys2Proof.Machine.execBsuSvwr core layer bank s
  | .bsuSvset core layer bank => Sys2Proof.Machine.execBsuSvset core layer bank s
  | .bsuStart core => Sys2Proof.Machine.execBsuStart core s
  | .bsuComplete core => Sys2Proof.Machine.execBsuComplete core s
  | .stallLimitExpire core => Sys2Proof.Machine.execStallLimitExpire core s
  | .regionRead c req => Sys2Proof.Machine.execRegionRead c req s
  | .regionWrite c req => Sys2Proof.Machine.execRegionWrite c req s
  | .cacheFill c line ext => Sys2Proof.Machine.execCacheFill c line ext s
  | .addFp32 c src addr data hint => Sys2Proof.Machine.execAddFp32 c src addr data hint s
  | .addInt32 c src addr data hint => Sys2Proof.Machine.execAddInt32 c src addr data hint s
  | .maxFp32 c src addr data hint => Sys2Proof.Machine.execMaxFp32 c src addr data hint s
  | .maxInt32 c src addr data hint => Sys2Proof.Machine.execMaxInt32 c src addr data hint s
  | .prefetch c line hint ext => Sys2Proof.Machine.execPrefetch c line hint ext s
  | .clean c line => Sys2Proof.Machine.execClean c line s
  | .flush c line => Sys2Proof.Machine.execFlush c line s
  | .invalidate c line => Sys2Proof.Machine.execInvalidate c line s
  | .discard c line => Sys2Proof.Machine.execDiscard c line s
  | .sethint c line hint => Sys2Proof.Machine.execSethint c line hint s
  | .partitionChange r c mask => Sys2Proof.Machine.execPartitionChange r c mask s
  | .partitionChangeDone c => Sys2Proof.Machine.execPartitionChangeDone c s
  | .trapClear r c => Sys2Proof.Machine.execTrapClear r c s
  | .kvMap id ext => Sys2Proof.Machine.execKvMap id ext s
  | .kvMapRelease id => Sys2Proof.Machine.execKvMapRelease id s
  | .kvMapInval id => Sys2Proof.Machine.execKvMapInval id s
  | .attnStep id => Sys2Proof.Machine.execAttnStep id s
  | .append ext => Sys2Proof.Machine.execAppend ext s
  | .score ext => Sys2Proof.Machine.execScore ext s
  | .pageWalk k slot layer head v => Sys2Proof.Machine.execPageWalk k slot layer head v s
  | .labInv r k => Sys2Proof.Machine.execLabInv r k s
  | .ringEnable r ring => Sys2Proof.Machine.execRingEnable r ring s
  | .ringDisable r ring => Sys2Proof.Machine.execRingDisable r ring s
  | .doorbellRead line data => Sys2Proof.Machine.execDoorbellRead line data s
  | .doorbellSnoop line => Sys2Proof.Machine.execDoorbellSnoop line s
  | .doorbellPoll ring slot => Sys2Proof.Machine.execDoorbellPoll ring slot s
  | .descriptorFetch ring ext => Sys2Proof.Machine.execDescriptorFetch ring ext s
  | .copy id ext => Sys2Proof.Machine.execCopy id ext s
  | .copyConvert id ext => Sys2Proof.Machine.execCopyConvert id ext s
  | .tileLaunch id => Sys2Proof.Machine.execTileLaunch id s
  | .batonSignalAdd id => Sys2Proof.Machine.execBatonSignalAdd id s
  | .batonSignalSet id => Sys2Proof.Machine.execBatonSignalSet id s
  | .batonWait id => Sys2Proof.Machine.execBatonWait id s
  | .batonWaitHandoff id => Sys2Proof.Machine.execBatonWaitHandoff id s
  | .cacheRange id ext => Sys2Proof.Machine.execCacheRange id ext s
  | .reduceInto id ext => Sys2Proof.Machine.execReduceInto id ext s
  | .chkRun id ext => Sys2Proof.Machine.execChkRun id ext s
  | .bsuBroadcast id => Sys2Proof.Machine.execBsuBroadcast id s
  | .relayDown id => Sys2Proof.Machine.execRelayDown id s
  | .relayUp id => Sys2Proof.Machine.execRelayUp id s
  | .relayUpEmpty id => Sys2Proof.Machine.execRelayUpEmpty id s
  | .queueNop id => Sys2Proof.Machine.execQueueNop id s
  | .fence id => Sys2Proof.Machine.execFence id s
  | .completionPost cq accepted => Sys2Proof.Machine.execCompletionPost cq accepted s
  | .msixSend cq => Sys2Proof.Machine.execMsixSend cq s
  | .msixUnmask vector => Sys2Proof.Machine.execMsixUnmask vector s
  | .batonAdd c bad => Sys2Proof.Machine.execBatonAdd c bad s
  | .batonSet c bad => Sys2Proof.Machine.execBatonSet c bad s
  | .batonWaitOp c bad => Sys2Proof.Machine.execBatonWaitOp c bad s
  | .batonHandoff c bad => Sys2Proof.Machine.execBatonHandoff c bad s
  | .batonRecordLoad src addr size bad => Sys2Proof.Machine.execBatonRecordLoad src addr size bad s
  | .batonRelease c => Sys2Proof.Machine.execBatonRelease c s
  | .batonTimeout c => Sys2Proof.Machine.execBatonTimeout c s
  | .cxlMemRead tag hpa len want => Sys2Proof.Machine.execCxlMemRead tag hpa len want s
  | .cxlMemWrite tag hpa data => Sys2Proof.Machine.execCxlMemWrite tag hpa data s
  | .portTimerExpire tag => Sys2Proof.Machine.execPortTimerExpire tag s
  | .birspi line => Sys2Proof.Machine.execBirspi line s
  | .cxlCacheSnoop line => Sys2Proof.Machine.execCxlCacheSnoop line s
  | .uioTimeout tag => Sys2Proof.Machine.execUioTimeout tag s
  | .uioRetry tag => Sys2Proof.Machine.execUioRetry tag s
  | .inboundUio fid write addr len data => Sys2Proof.Machine.execInboundUio fid write addr len data s
  | .relayChunk fid chunk => Sys2Proof.Machine.execRelayChunk fid chunk s
  | .relayDeadline up => Sys2Proof.Machine.execRelayDeadline up s
  | .hdmCommit dec hpa size skip => Sys2Proof.Machine.execHdmCommit dec hpa size skip s
  | .configRequest write reg value => Sys2Proof.Machine.execConfigRequest write reg value s
  | .linkUp gts64 width8 cacheEn => Sys2Proof.Machine.execLinkUp gts64 width8 cacheEn s
  | .getLog uuid off len => Sys2Proof.Machine.execGetLog uuid off len s
  | .getEventRecords log => Sys2Proof.Machine.execGetEventRecords log s
  | .clearEventRecords log all handles => Sys2Proof.Machine.execClearEventRecords log all handles s
  | .setEventInterruptPolicy policy => Sys2Proof.Machine.execSetEventInterruptPolicy policy s
  | .setTimestamp t => Sys2Proof.Machine.execSetTimestamp t s
  | .gddrRetry r pass => Sys2Proof.Machine.execGddrRetry r pass s
  | .gddrRetrain chan ok => Sys2Proof.Machine.execGddrRetrain chan ok s
  | .gddrRead req crit flips => Sys2Proof.Machine.execGddrRead req crit flips s
  | .gddrWrite req => Sys2Proof.Machine.execGddrWrite req s
  | .wcbDrain chan block needed => Sys2Proof.Machine.execWcbDrain chan block needed s
  | .strapSample sel mode => Sys2Proof.Machine.execStrapSample sel mode s
  | .modEn modIdLow mv12 => Sys2Proof.Machine.execModEn modIdLow mv12 s
  | .thermtrip die unit reading => Sys2Proof.Machine.execThermtrip die unit reading s
  | .mctpMessage vdm type body => Sys2Proof.Machine.execMctpMessage vdm type body s
  | .pldmRequest vdm type sensor => Sys2Proof.Machine.execPldmRequest vdm type sensor s
  | .setEndpointId vdm eid => Sys2Proof.Machine.execSetEndpointId vdm eid s
  | .pldmEffecter vdm id value => Sys2Proof.Machine.execPldmEffecter vdm id value s
  | .pmbusPoll vin iout vout temp => Sys2Proof.Machine.execPmbusPoll vin iout vout temp s
  | .domainRequest r d on => Sys2Proof.Machine.execDomainRequest r d on s
  | .rampUpDone d ok => Sys2Proof.Machine.execRampUpDone d ok s
  | .domainDrainEnd d late => Sys2Proof.Machine.execDomainDrainEnd d late s
  | .rampDownDone d => Sys2Proof.Machine.execRampDownDone d s
  | .wake cause => Sys2Proof.Machine.execWake cause s
  | .operatingPointChange k => Sys2Proof.Machine.execOperatingPointChange k s
  | .powerSample total array stack => Sys2Proof.Machine.execPowerSample total array stack s
  | .presetWrite r preset => Sys2Proof.Machine.execPresetWrite r preset s
  | .sagSample mv12 mvAon10 => Sys2Proof.Machine.execSagSample mv12 mvAon10 s
  | .housekeepingRound round => Sys2Proof.Machine.execHousekeepingRound round s
  | .throttleStep k => Sys2Proof.Machine.execThrottleStep k s
  | .modelUpdate p1ms => Sys2Proof.Machine.execModelUpdate p1ms s
  | .slowclkCount kclk => Sys2Proof.Machine.execSlowclkCount kclk s
  | .forceHold r on => Sys2Proof.Machine.execForceHold r on s
  | .patrolScrub store addr flips passEnd late => Sys2Proof.Machine.execPatrolScrub store addr flips passEnd late s
  | .laneRetire router port lane => Sys2Proof.Machine.execLaneRetire router port lane s
  | .d2dFrame group seq crcOk flits => Sys2Proof.Machine.execD2dFrame group seq crcOk flits s
  | .d2dReplay group lastGood => Sys2Proof.Machine.execD2dReplay group lastGood s
  | .serviceReady svc => Sys2Proof.Machine.execServiceReady svc s
  | .bootFault svc => Sys2Proof.Machine.execBootFault svc s
  | .stepD2dTraining r bad => Sys2Proof.Machine.execStepD2dTraining r bad s
  | .stepVerticalTest r badConns badCmd badLanes badColumnLinks => Sys2Proof.Machine.execStepVerticalTest r badConns badCmd badLanes badColumnLinks s
  | .stepStackCalibration r uncal gddrPass => Sys2Proof.Machine.execStepStackCalibration r uncal gddrPass s
  | .stepMemoryTest r defects => Sys2Proof.Machine.execStepMemoryTest r defects s
  | .stepComplete ok => Sys2Proof.Machine.execStepComplete ok s
  | .coreFence r core => Sys2Proof.Machine.execCoreFence r core s
  | .coreQuiesced core => Sys2Proof.Machine.execCoreQuiesced core s
  | .coreRejoin r core => Sys2Proof.Machine.execCoreRejoin r core s
  | .rejoinComplete core => Sys2Proof.Machine.execRejoinComplete core s
  | .coreReset r core => Sys2Proof.Machine.execCoreReset r core s
  | .clusterReset r k => Sys2Proof.Machine.execClusterReset r k s
  | .partitionReset r p => Sys2Proof.Machine.execPartitionReset r p s
  | .dieReset r upper => Sys2Proof.Machine.execDieReset r upper s
  | .deviceReset cause => Sys2Proof.Machine.execDeviceReset cause s
  | .partitionWrite r p clusters => Sys2Proof.Machine.execPartitionWrite r p clusters s
  | .freeze r k on => Sys2Proof.Machine.execFreeze r k on s
  | .fwUpdate r addr => Sys2Proof.Machine.execFwUpdate r addr s
  | .commitSvn r type => Sys2Proof.Machine.execCommitSvn r type s
  | .layerCalibration core badCmdConn => Sys2Proof.Machine.execLayerCalibration core badCmdConn s
  | .gddrRefresh chan allBank => Sys2Proof.Machine.execGddrRefresh chan allBank s
  | .uioCompletion tag status data => Sys2Proof.Machine.execUioCompletion tag status data s
  | .cpInstruction core ext => Sys2Proof.Machine.execCpInstruction core ext s
  | .pmbAlert asserted statusWord => Sys2Proof.Machine.execPmbAlert asserted statusWord s
  | .revoke r addr => Sys2Proof.Machine.execRevoke r addr s
  | .chkSnoopEnable r unit => Sys2Proof.Machine.execChkSnoopEnable r unit s
  | .jtagBypass tdi => Sys2Proof.Machine.execJtagBypass tdi s
  | .jtagSamplePreload pins => Sys2Proof.Machine.execJtagSamplePreload pins s
  | .coolantWrite r value => Sys2Proof.Machine.execCoolantWrite r value s
  | .spareSwap core => Sys2Proof.Machine.execSpareSwap core s
  | .parityAlert core group again => Sys2Proof.Machine.execParityAlert core group again s
  | .d2dHardFault group lane lostLock => Sys2Proof.Machine.execD2dHardFault group lane lostLock s
  | .pmcWrap unit num => Sys2Proof.Machine.execPmcWrap unit num s
  | .debugUnlock r addr => Sys2Proof.Machine.execDebugUnlock r addr s
  | .attnMax => Sys2Proof.Machine.execAttnMax s
  | .normalise => Sys2Proof.Machine.execNormalise s
  | .output => Sys2Proof.Machine.execOutput s
  | .attnStepComplete => Sys2Proof.Machine.execAttnStepComplete s
  | .descriptorStart => Sys2Proof.Machine.execDescriptorStart s
  | .recallGo => Sys2Proof.Machine.execRecallGo s
  | .chunkExpire => Sys2Proof.Machine.execChunkExpire s
  | .linkDown => Sys2Proof.Machine.execLinkDown s
  | .ideMacFail => Sys2Proof.Machine.execIdeMacFail s
  | .identify => Sys2Proof.Machine.execIdentify s
  | .getSupportedLogs => Sys2Proof.Machine.execGetSupportedLogs s
  | .getEventInterruptPolicy => Sys2Proof.Machine.execGetEventInterruptPolicy s
  | .getTimestamp => Sys2Proof.Machine.execGetTimestamp s
  | .identifyMemoryDevice => Sys2Proof.Machine.execIdentifyMemoryDevice s
  | .auxPowerUp => Sys2Proof.Machine.execAuxPowerUp s
  | .auxPowerDown => Sys2Proof.Machine.execAuxPowerDown s
  | .pwrGoodRise => Sys2Proof.Machine.execPwrGoodRise s
  | .pwrGoodTimeout => Sys2Proof.Machine.execPwrGoodTimeout s
  | .pwrGoodFall => Sys2Proof.Machine.execPwrGoodFall s
  | .modIdHigh => Sys2Proof.Machine.execModIdHigh s
  | .perstDeassert => Sys2Proof.Machine.execPerstDeassert s
  | .perstAssert => Sys2Proof.Machine.execPerstAssert s
  | .tripClear => Sys2Proof.Machine.execTripClear s
  | .alertResponse => Sys2Proof.Machine.execAlertResponse s
  | .jtagIdcode => Sys2Proof.Machine.execJtagIdcode s
  | .jtagExtest => Sys2Proof.Machine.execJtagExtest s
  | .coolantStale => Sys2Proof.Machine.execCoolantStale s
  | .rampGrant => Sys2Proof.Machine.execRampGrant s
  | .park => Sys2Proof.Machine.execPark s
  | .budgetTrimStep => Sys2Proof.Machine.execBudgetTrimStep s
  | .haltModuleOff => Sys2Proof.Machine.execHaltModuleOff s
  | .rate1sUpdate => Sys2Proof.Machine.execRate1sUpdate s
  | .coolingDegraded => Sys2Proof.Machine.execCoolingDegraded s
  | .paceStart => Sys2Proof.Machine.execPaceStart s
  | .pacePreset => Sys2Proof.Machine.execPacePreset s
  | .paceSpreadStep => Sys2Proof.Machine.execPaceSpreadStep s
  | .splitData => Sys2Proof.Machine.execSplitData s
  | .splitCheck => Sys2Proof.Machine.execSplitCheck s
  | .splitRaw => Sys2Proof.Machine.execSplitRaw s
  | .splitRead => Sys2Proof.Machine.execSplitRead s
  | .lapSample => Sys2Proof.Machine.execLapSample s
  | .stepRails => Sys2Proof.Machine.execStepRails s
  | .stepClocks => Sys2Proof.Machine.execStepClocks s
  | .stepFill => Sys2Proof.Machine.execStepFill s
  | .stepCacheInit => Sys2Proof.Machine.execStepCacheInit s
  | .stepFirmwareLoad => Sys2Proof.Machine.execStepFirmwareLoad s
  | .stepFabricJoin => Sys2Proof.Machine.execStepFabricJoin s
  | .stepTimeout => Sys2Proof.Machine.execStepTimeout s
  | .resetApplied => Sys2Proof.Machine.execResetApplied s
  | .sensorRefresh => Sys2Proof.Machine.execSensorRefresh s
  | .lifeSecond => Sys2Proof.Machine.execLifeSecond s
  | .lifeUpdate => Sys2Proof.Machine.execLifeUpdate s
  | .lifeFlush => Sys2Proof.Machine.execLifeFlush s
  | .weekEnd => Sys2Proof.Machine.execWeekEnd s
  | .nonceGen => Sys2Proof.Machine.execNonceGen s
  | .slowclkLost => Sys2Proof.Machine.execSlowclkLost s
  | .paceEntryEnd => Sys2Proof.Machine.execPaceEntryEnd s
  | .doeDiscovery => Sys2Proof.Machine.execDoeDiscovery s

end Sys2Proof.Machine
end

