-- ==== Sys2Proof/Machine/Step.lean ====
section
/-! DEFINITION. One step of the block: the command at the front of its queue, or one tick of its clock when no command waits. -/

namespace Sys2Proof.Machine

/-- A cycle ends: the units, the cache regions, the memory channels and the port do what one cycle lets them do, accesses that wait are made, attention steps and programs go on, the cycle's events enter the summary, ALERT_N follows, and the next cycle begins with nothing in it (R13, R106, R231, R271, R335, R363, R388, R406, R470). -/
def Dev.cycle (d : Dev) : Dev :=
  let d := d.unitsPump.portPump
  let d := (d.inPump d.inq.length).busPump.gddrPump.attnTurn.progPump
  (d.sumSettle d.cyc.sums.length).roomSettle.alertPump.sync

/-- One tick: one SCLK cycle, one nanosecond, passes (R15; log 2). Only a command of the root of trust that has waited at its register burns fuses (log 136). -/
def State.tick (s : State) : State :=
  let t := s.dev.cycle
  { s with dev := { t with ns := s.dev.ns + 1, fuse := if s.dev.regHeld.isEmpty then s.dev.fuse else s.dev.fuse.burn t.fuse, waits := s.dev.waits } }

/-- Take the command at the front of the queue and carry it out with the rest; on an empty queue the clock ticks (log 2). -/
def step (s : State) : Host.Outcome State Fault Refusal :=
  match s.pending with
  | [] => .next s.tick
  | c :: rest => exec c { s with pending := rest }

/-- Put the command that a word spells at the front of the queue; no word spells one (log 10). -/
def State.withFetchWord (s : State) (nbits w : Nat) : State :=
  match Sys2Proof.decodeTableWord nbits w with
  | some c => { s with pending := c :: s.pending }
  | none => s

end Sys2Proof.Machine
end

