-- ==== Sys2Proof/Safety.lean ====
section
/-! DEFINITION. The terms claims are stated in: intact memory, what fuses may do, and the situations in which a command takes its ordinary course. -/

namespace Sys2Proof.Machine

/-! Fuses (R555 to R561). -/

/-- From fuse content f to g nothing has been unblown: version counts and revocations only grow, the lock stays, and what is set at manufacture stands (R558). -/
def Fuse.burnsTo (f g : Fuse) : Prop :=
  f.svnMgmt ≤ g.svnMgmt ∧ f.svnCore ≤ g.svnCore ∧ (∀ i ∈ f.revoked, i ∈ g.revoked) ∧ g.debugLock = f.debugLock ∧
    g.disabled = f.disabled ∧ g.stepping = f.stepping ∧ g.trim = f.trim

/-- The disabled arrays of a grade: 0, 8 or 16 of the 256, at most one of each tower column (R1, R2). -/
def gradeOk (disabled : List Nat) : Bool :=
  [0, 8, 16].contains disabled.length && decide disabled.Nodup &&
    disabled.all fun c => decide (c < 256) && !disabled.contains ((c + 128) % 256)

/-- A content the fuses can have: counts of 63-bit thermometers, key slots 0 and 1, and the arrays of a grade (R1, R2, R558). -/
def Fuse.legal (f : Fuse) : Bool :=
  decide (f.svnMgmt ≤ 63) && decide (f.svnCore ≤ 63) && (f.revoked.all fun i => decide (i < 2)) && gradeOk f.disabled

/-! Memory. -/

/-- Every codeword that a run of bytes touches is stored as a valid codeword (R449, R450). -/
abbrev Dev.intact (d : Dev) (k len : Nat) : Prop := ∀ cw ∈ cwsOf k len, Tbl.get 0 d.chk cw = 0

/-- Memory keeps its canonical form: addresses strictly rising, no entry equal to what an unlisted address reads as. -/
def memoryWf (m : List Host.Cell) : Bool := Tbl.wf 0 m

/-- What bytes from key `k` read after a write of clean bytes: those bytes there, and what stood there everywhere else. -/
def Dev.wrote (d e : Dev) (k : Nat) (b : List PByte) : Prop :=
  ∀ j, e.byte j = if k ≤ j ∧ j < k + b.length then (b.getD (j - k) ⟨0, false⟩).v else d.byte j

/-! Regions (R231). -/

/-- Nothing is queued at a region, held before it or waiting there, no fill or change of its granules is in progress, and it has granted no access in this nanosecond. -/
def Region.idle (r : Region) (ns : Nat) : Bool := r.quiet && !r.partBusy && r.zeroAt.isNone && decide (r.cyc < 2 * ns)

/-! Waiting (log 136). -/

/-- The machine as an event finds it that may have to wait for memory: nothing is noted yet of what it lacks. -/
abbrev Dev.unasked (d : Dev) : Dev := { d with waits := [] }

/-! Tile programs. -/

/-- The CCLK from which the dispatcher takes the word after the next one: one after that word's (R103). -/
def Dev.dispNext (d : Dev) (n : Nat) (p : Prog) : Nat := p.dispNow ((d.bufFill n).cclk n) + 1

/-- With its decode buffer filled, core n runs program p, which has neither met END nor faulted, and w is its next word, whole and well-formed (R97, R102, R103). -/
def Dev.atWord (d : Dev) (n : Nat) (p : Prog) (w : Nat) : Prop :=
  (∃ b, (d.core n).prog = some { p with buf := b }) ∧ ((d.bufFill n).core n).prog = some p ∧ p.ended = false ∧ p.faulted = none ∧ p.pc + 8 ≤ lsSize ∧
    p.buf.head? = some (p.pc, w, false) ∧ wordFault w = none

end Sys2Proof.Machine
end

