-- ==== Sys2Proof/Certificates/Slice0/Obligations.lean ====
section
/-! DEFINITION. The statements about this model that the provers are asked to prove. Each docstring says which rules of the spec its statement formalises. -/

open Sys2Proof Sys2Proof.Machine

/-! The step (tier 1). -/

/-- R504's queue aside, the block takes commands one by one: a step at a state whose queue begins with c is exec of c on the state with the queue's rest. -/
def Obligations.StepRunsFrontCommand : Prop :=
  ∀ (c : Instr) (s : State), step { s with pending := c :: s.pending } = exec c s

/-- With no command waiting the block idles: its clock advances by one SCLK cycle (R15), no command appears, and with no register access waiting no fuse is burnt (the model's choice, logs 2, 136). -/
def Obligations.IdleStepTicks : Prop :=
  ∀ s : State, s.pending = [] → ∃ t, step s = .next t ∧ t.pending = [] ∧ t.dev.ns = s.dev.ns + 1 ∧ (s.dev.regHeld = [] → t.dev.fuse = s.dev.fuse)

/-- Whatever a command does, it leads to a next state, takes no command from the queue and adds none, and the clock stands: only the idle step moves it. -/
def Obligations.CommandsKeepQueueAndClock : Prop :=
  ∀ (c : Instr) (s : State), ∃ t, exec c s = .next t ∧ t.pending = s.pending ∧ t.dev.ns = s.dev.ns

/-- R558: a fuse, once blown, stays blown, over every step: the least versions accepted never fall, a revoked key slot stays revoked, and DEBUG_LOCK, the arrays disabled, the stepping and the trim code stand. -/
def Obligations.FusesOnlyBurn : Prop := ∀ (s t : State), step s = .next t → s.dev.fuse.burnsTo t.dev.fuse

/-- The fuse content at reset (a DX96-256-A0 as it is made, log 4) is legal: the arrays disabled are those of a grade and never both of a pair c, c + 128 (R1, R2), the counts at most 63, and no key slot but 0 and 1 revoked (R558). -/
def Obligations.ResetFusesLegal : Prop := State.reset.dev.fuse.legal = true

/-- A legal fuse content stays legal over every step (R1, R2, R558). -/
def Obligations.FusesStayLegal : Prop := ∀ (s t : State), s.dev.fuse.legal = true → step s = .next t → t.dev.fuse.legal = true

/-! Tile programs: dispatcher words and vector words (R96 to R107). -/

/-- END, SETA, ADDA, SETP and LOOP are carried out by the dispatcher when they are the next word, with the decode buffer filled as far as that word needs (R102, R103, R105; that fetch runs no further ahead is the model's choice, log 145). END ends fetch and dispatch: the program has ended, and nothing else of it changes. SETA sets register AR to ADDR and its increment to INCR, sign-extended; ADDA adds DELTA, sign-extended, modulo 2^22; SETP writes SCALE_GRAN, WATCHDOG or BVALUE; LOOP opens a body of BODY words run COUNT + 1 times. After each of these four the program goes on behind the word and the dispatcher continues from there, one CCLK later. The word is counted, and the rest of the machine stands. -/
def Obligations.DispatcherWords : Prop :=
  ∀ (s : State) (n : CoreId) (p : Prog) (w : Nat), s.dev.atWord n p w →
    (wOp w = 0x01 → ∃ t, exec (.endWord n) s = .next t ∧ (t.dev.core n).prog = some { p with ended := true, dispAt := s.dev.dispNext n p } ∧
      t.dev = s.dev.keep (((s.dev.bufFill n).modProg n fun _ => { p with ended := true, dispAt := s.dev.dispNext n p }).dispatched n 0x01 p.pc)) ∧
    (wOp w = 0x08 → ∃ t, exec (.seta n) s = .next t ∧
      t.dev = s.dev.keep ((((s.dev.bufFill n).modProg n fun _ =>
        { { p with ars := Tbl.set (0, 0) p.ars (bitsOf w 18 4) (bitsOf w 22 22, sx 20 (bitsOf w 44 20)) }.advance with dispAt := s.dev.dispNext n p }).dispatched n 0x08 p.pc).dispatch n)) ∧
    (wOp w = 0x09 → ∃ t, exec (.adda n) s = .next t ∧
      t.dev = s.dev.keep ((((s.dev.bufFill n).modProg n fun _ =>
        { { p with ars := (Tbl.set (0, 0) p.ars (bitsOf w 18 4)
          (ux 22 ((p.ar (bitsOf w 18 4)).1 + sx 24 (bitsOf w 22 24)), (p.ar (bitsOf w 18 4)).2)) }.advance with dispAt := s.dev.dispNext n p }).dispatched n 0x09 p.pc).dispatch n)) ∧
    (wOp w = 0x0A → bitsOf w 18 8 ≤ 2 → ∃ t, exec (.setp n) s = .next t ∧
      t.dev = s.dev.keep ((((s.dev.bufFill n).modProg n fun _ =>
        { (if bitsOf w 18 8 = 0 then { p with scaleGran := bitsOf w 26 32 }
           else if bitsOf w 18 8 = 1 then { p with watchdog := bitsOf w 26 32 }
           else { p with bvalue := bitsOf w 26 32 }).advance with dispAt := s.dev.dispNext n p }).dispatched n 0x0A p.pc).dispatch n)) ∧
    (wOp w = 0x0A → 2 < bitsOf w 18 8 → ∃ t, exec (.setp n) s = .next t ∧
      t.dev = s.dev.keep ((s.dev.bufFill n).progFault n .badDescriptor 0x06 0x0A p.pc)) ∧
    (wOp w = 0x0C → 1 ≤ bitsOf w 34 12 → p.loops.length < 4 →
      (p.loops.all fun f => decide (p.pc + 8 + 8 * bitsOf w 34 12 ≤ f.last)) = true → ∃ t, exec (.loop n) s = .next t ∧
      t.dev = s.dev.keep ((((s.dev.bufFill n).modProg n fun _ =>
        { p with pc := p.pc + 8, loops := ⟨p.pc + 8, p.pc + 8 + 8 * bitsOf w 34 12, bitsOf w 18 16⟩ :: p.loops, dispAt := s.dev.dispNext n p }).dispatched n 0x0C p.pc).dispatch n))

/-- The eleven element-wise functions of the vector unit (R90, R99, R100): the oldest VOP that has issued and not finished, whose operands passed the checks of R101 and lie in intact memory, writes to each destination element the function of its source elements (a single one repeated under BCAST). Every other byte of memory and every check bit stands, the VOP has finished with status OK, and nothing else changes but the memory tables and the core's program. -/
def Obligations.VectorElementwise : Prop :=
  ∀ (s : State) (n : CoreId) (p : Prog) (i : Issued) (c : Instr) (f : Nat),
    (c, f) ∈ [(Instr.vopAdd n, 0x00), (.vopSub n, 0x01), (.vopMul n, 0x02), (.vopFma n, 0x03), (.vopMax n, 0x04), (.vopMin n, 0x05),
      (.vopExp2 n, 0x06), (.vopExp n, 0x07), (.vopRcp n, 0x08), (.vopRsqrt n, 0x09), (.vopSilu n, 0x0A)] →
    (s.dev.core n).prog = some p →
    (p.issued.find? fun i => wOp i.cmd.word.toNat == 0x20 && i.done.isNone) = some i →
    vFn i.cmd.word.toNat = f →
    (∀ r ∈ vSources i.cmd, s.dev.intact (lsAddr n r.1) r.2.1) →
    (let w := i.cmd.word.toNat
     let src := vSources i.cmd
     let a := (s.dev.vRead n (vLen w) (src.getD 0 (0, 0, 1))).1
     let b := (s.dev.vArg n (vLen w) src[1]? a).1
     let x := (s.dev.vArg n (vLen w) src[2]? a).1
     let out := vBytes (tyBytes (vTy w)) (vZip f (vTy w) a b x)
     let k := lsAddr n (i.cmd.ops.getD 0 0)
     s.dev.intact k out.length →
     ∃ t, exec c s = .next t ∧ s.dev.wrote t.dev k out ∧ (∀ cw, Tbl.get 0 t.dev.chk cw = Tbl.get 0 s.dev.chk cw) ∧
       t.dev = { s.dev.cmdDone n i.cmd.id .ok with mem := t.dev.mem, chk := t.dev.chk })

/-- CVT, COPY, the horizontal functions and MXQ (R82, R90, R91, R100): under the same conditions CVT writes each element converted to the destination type, COPY the elements as they are, HSUM, HMAX and HDOT the one FP32 (or INT32) element their tree reduction gives, and MXQ the quantised elements at DST and one scale byte for each block of 32 at b. -/
def Obligations.VectorWholeFunctions : Prop :=
  ∀ (s : State) (n : CoreId) (p : Prog) (i : Issued),
    (s.dev.core n).prog = some p →
    (p.issued.find? fun i => wOp i.cmd.word.toNat == 0x20 && i.done.isNone) = some i →
    (∀ r ∈ vSources i.cmd, s.dev.intact (lsAddr n r.1) r.2.1) →
    (let w := i.cmd.word.toNat
     let src := vSources i.cmd
     let a := (s.dev.vRead n (vLen w) (src.getD 0 (0, 0, 1))).1
     let b := (s.dev.vArg n (vLen w) src[1]? a).1
     let k := lsAddr n (i.cmd.ops.getD 0 0)
     let only (t : State) : Prop := t.dev = { s.dev.cmdDone n i.cmd.id .ok with mem := t.dev.mem, chk := t.dev.chk }
     let one := vBytes 4 [⟨vHorizontal (vFn w) (vTy w) (a.map (·.v)) (b.map (·.v)), false⟩]
     let cvt := vBytes (tyBytes (vDty w)) (a.map fun e => ⟨vConvert (vTy w) (vDty w) e.v, e.p⟩)
     let q := vQuant (vMx16 w) (vLen w / 32) a
     let els := vBytes (if vMx16 w then 2 else 1) q.1
     let scales := vBytes 1 q.2
     let kb := lsAddr n (i.cmd.ops.getD 2 0)
     (vFn w = 0x0B → s.dev.intact k cvt.length → ∃ t, exec (.vopCvt n) s = .next t ∧ s.dev.wrote t.dev k cvt ∧ only t) ∧
     (vFn w = 0x18 → s.dev.intact k (vBytes (tyBytes (vTy w)) a).length →
       ∃ t, exec (.vopCopy n) s = .next t ∧ s.dev.wrote t.dev k (vBytes (tyBytes (vTy w)) a) ∧ only t) ∧
     (∀ cf ∈ [(Instr.vopHsum n, 0x10), (.vopHmax n, 0x11), (.vopHdot n, 0x12)], vFn w = cf.2 → s.dev.intact k 4 →
       ∃ t, exec cf.1 s = .next t ∧ s.dev.wrote t.dev k one ∧ only t) ∧
     (vFn w = 0x0C → s.dev.intact k els.length → s.dev.intact kb scales.length →
       (k + els.length ≤ kb ∨ kb + scales.length ≤ k) →
       ∃ t, exec (.vopMxq n) s = .next t ∧ only t ∧
         ∀ j, t.dev.byte j =
           if k ≤ j ∧ j < k + els.length then (els.getD (j - k) ⟨0, false⟩).v
           else if kb ≤ j ∧ j < kb + scales.length then (scales.getD (j - kb) ⟨0, false⟩).v else s.dev.byte j))

/-! Issue, completion and retirement (R103 to R107, R120 to R126). -/

/-- R103, R104: commands issue from the heads of the four queues that their units and gates let go. Where exactly one head of a kind is granted, the command leaves its queue and takes a count of its wait gate; NOP completes at once; POST puts its value into the post queue and completes; a RUN that the array takes, and a DMA word whose list lies in the local store and fits, become outstanding at their unit; the four BATON words send SIGNAL-ADD, WAIT, SIGNAL-SET and HANDOFF to the baton's unit with BVALUE. COMMAND_ISSUE lets every granted head issue. The dispatcher then goes on. -/
def Obligations.IssueWords : Prop :=
  ∀ (s : State) (n : CoreId) (p : Prog), (((s.dev.dispatch n).wakeHeads n).core n).prog = some p →
    (let g := ((s.dev.dispatch n).wakeHeads n).issueGrants n p
     (g.1 ≠ [] → ∃ t, exec (.commandIssue n) s = .next t ∧
       t.dev = s.dev.keep ((g.1.foldl (fun e h => e.issueOne n h.1 h.2) g.2).dispatch n)) ∧
     ∀ c : TileCmd,
       (let w := c.word.toNat
        let e := (g.2.issueTake n .sync c).issuePut n c
        (wOp w = 0x02 → (g.1.filter fun h => wOp h.2.word.toNat == 0x02) = [(.sync, c)] → ∃ t, exec (.nop n) s = .next t ∧
          t.dev = s.dev.keep (((e.cmdDone n c.id .ok).cmdComplete n c.id).dispatch n)) ∧
        (wOp w = 0x0E → (g.1.filter fun h => wOp h.2.word.toNat == 0x0E) = [(.sync, c)] → (e.core n).postQ.length < 8 →
          ∃ t, exec (.post n) s = .next t ∧
          t.dev = s.dev.keep ((((e.setCore n { e.core n with postQ := (e.core n).postQ ++ [BitVec.ofNat 32 (bitsOf w 18 32)] }).cmdDone n c.id .ok).cmdComplete n c.id).dispatch n)) ∧
        (∀ x, wOp w = 0x11 → (g.1.filter fun h => h.1 == .arr && wOp h.2.word.toNat == 0x11) = [(.arr, c)] →
          (g.2.issueTake n .arr c).arrAccept n c = (.taken, x) → ∃ t, exec (.run n) s = .next t ∧
          t.dev = s.dev.keep ((x.issuePut n c).dispatch n)) ∧
        (∀ x, (g.1.filter fun h => h.1 == .dma) = [(.dma, c)] → 64 * (bitsOf w 18 16 + bitsOf w 34 8 + 1) ≤ lsSize →
          ((g.2.issueTake n .dma c).issuePut n c).dmaAccept n c ((g.2.core n).prog.map (fun p => p.launch.user) |>.getD false) = some x →
          ∃ t, exec (.dma n) s = .next t ∧ t.dev = s.dev.keep (x.dispatch n)) ∧
        (∀ bk ∈ [(Instr.batonWordSignal n, 0, BtnKind.add), (.batonWordWait n, 1, .wait), (.batonWordSwap n, 2, .set), (.batonWordHandoff n, 3, .handoff)],
          wOp w = 0x38 → bitsOf w 32 3 = bk.2.1 →
          (g.1.filter fun h => wOp h.2.word.toNat == 0x38 && bitsOf h.2.word.toNat 32 3 == bk.2.1) = [(.sync, c)] →
          e.regionReach (batonRegion (bitsOf w 18 14)) = true → ∃ t, exec bk.1 s = .next t ∧
          t.dev = s.dev.keep ((e.btnSend { kind := bk.2.2, baton := bitsOf w 18 14, v := c.bvalue, src := .tile n c.id, port := corePort n (batonRegion (bitsOf w 18 14)), arr := e.ns, limit := none }).dispatch n))))

/-- R104, R105, R107, R123, R124: an issued command that its unit has finished with OK leaves the outstanding commands, adds a count to its signal gate if it has one, and dispatch goes on; one that finished with another status faults its program with DETAIL 0x40, or 0x41 for a BATON word. -/
def Obligations.CommandsComplete : Prop :=
  ∀ (s : State) (n : CoreId) (p : Prog) (id : Nat) (i : Issued) (st : Status), (s.dev.core n).prog = some p →
    (p.issued.find? fun i => i.cmd.id == id) = some i → i.done = some st →
    (let w := i.cmd.word.toNat
     let e := (s.dev.modProg n fun p => { p with issued := p.issued.filter fun j => j.cmd.id != id }).seqActive n
     (st = .ok → wSen w = false → ∃ t, exec (.commandComplete n id) s = .next t ∧ t.dev = s.dev.keep (e.dispatch n)) ∧
     (st = .ok → wSen w = true → p.faulted = none → ∃ t, exec (.commandComplete n id) s = .next t ∧
       t.dev = s.dev.keep ((e.gateSignal n (wSGate w) (wOp w) i.cmd.pc).dispatch n)) ∧
     (st ≠ .ok → ∃ t, exec (.commandComplete n id) s = .next t ∧
       t.dev = s.dev.keep ((e.progFault n st (if wOp w = 0x38 then 0x41 else 0x40) (wOp w) i.cmd.pc).dispatch n)))

/-- R105, R120: a program that has ended, with every queue empty and nothing outstanding, retires: the sequencer is free and its gates are 0; a program that dxlaunch started leaves a record with its TAG, status and DETAIL in the retirement queue while that has a place, one that a DIRECT entry started is reported to the queue engine; nothing else changes while no further program waits. One that a fence has stopped takes the launch queue with it (R122). -/
def Obligations.ProgramsRetire : Prop :=
  ∀ (s : State) (n : CoreId) (p : Prog), (s.dev.core n).prog = some p → (p.ended || p.faulted.isSome) = true →
    p.arrQ = [] → p.vecQ = [] → p.dmaQ = [] → p.syncQ = [] → p.issued = [] →
    (p.fenced = true → ∃ t, exec (.programRetire n) s = .next t ∧
      t.dev = s.dev.keep (((s.dev.setCore n { s.dev.core n with prog := none, gates := List.replicate 16 0 }).retireFenced n p.launch).lqFenced n)) ∧
    (p.fenced = false → (s.dev.core n).lq = [] → p.launch.direct = false → (s.dev.core n).retQ.length < 4 → ∃ t, exec (.programRetire n) s = .next t ∧
      t.dev = s.dev.setCore n { s.dev.core n with
        prog := none, gates := List.replicate 16 0
        retQ := (s.dev.core n).retQ ++ [⟨p.launch.tag, (p.faulted.getD (.ok, 0)).1, (p.faulted.getD (.ok, 0)).2⟩] }) ∧
    (p.fenced = false → (s.dev.core n).lq = [] → p.launch.direct = true → ∃ t, exec (.programRetire n) s = .next t ∧
      t.dev = (s.dev.setCore n { s.dev.core n with prog := none, gates := List.replicate 16 0 }).coreReport p.launch.tag n (p.faulted.getD (.ok, 0)).1)

/-- R107, R123, R126: with no command issued or completed for WATCHDOG × 1,024 CCLK outside HOLD, the program faults with DEADLINE, DETAIL 0x30; a write of SEQ_ABORT by the management controller faults it with RESET_ABORT, DETAIL 0x50. The program then stands faulted with that status and DETAIL, nothing of it waits for issue, and no loop is open. -/
def Obligations.ProgramsAreStopped : Prop :=
  ∀ (s : State) (n : CoreId) (p : Prog), (s.dev.core n).prog = some p → p.faulted = none →
    (let stopped (t : State) (st : Status) (detail : Nat) : Prop :=
       ∃ q, (t.dev.core n).prog = some q ∧ q.faulted = some (st, detail) ∧ q.arrQ = [] ∧ q.vecQ = [] ∧ q.dmaQ = [] ∧ q.syncQ = [] ∧ q.loops = []
     (p.watchdog ≠ 0 → s.dev.held = false → p.quietAt + p.watchdog * 1024 * 2000 ≤ s.dev.clkLive (clusterOf n) →
       ∃ t, exec (.watchdogExpire n) s = .next t ∧ stopped t .deadline 0x30) ∧
     (∃ t, exec (.seqAbort .mgmt n) s = .next t ∧ stopped t .resetAbort 0x50))

/-! Launch CSRs, mailbox, control processor, local store (R106, R108 to R122, R126). -/

/-- R113, R114: an access the permissions allow has its effect. A write of dxlaunch while a program runs and the launch queue has room adds the program at its address, with its TAG, as USER where user mode wrote it; with no room, and no program of the other source last in the queue from the same CCLK, it sets LAUNCH_LOST; the photo-finish rule orders it against a program of the other source that arrived in the same CCLK, otherwise it comes last (R106, R29). A write of dxgate adds its signed value to the gate, clamped to 0 to 255. A read of dxretire takes the oldest retirement record and answers it with VALID; one of dxpost the oldest posted value. A write of dxlhead sets the mailbox head; one of dxdone is the core's report on the launch with its TAG. Each changes nothing else. -/
def Obligations.LaunchCsrs : Prop :=
  ∀ (s : State) (n : CoreId) (user : Bool) (v : Word),
    (let c := s.dev.core n
     let may (f : Fld) : Prop := user = false ∨ s.dev.bit f n 0 = true
     (may DXMCTL.USER_SEQ → c.lq.length < 4 → c.prog.isSome = true → ∃ t, exec (.dxlaunchWrite n user v) s = .next t ∧
       (t.dev.core n).lq.Perm (c.lq ++ [⟨bitsOf v.toNat 3 19 * 8, bitsOf v.toNat 32 16, user, false, s.dev.cclk n, false⟩]) ∧
       ((∀ m, c.lq.getLast? = some m → (m.direct || m.attn) = false ∨ m.at' ≠ s.dev.cclk n) →
         t.dev = s.dev.setCore n { c with lq := c.lq ++ [⟨bitsOf v.toNat 3 19 * 8, bitsOf v.toNat 32 16, user, false, s.dev.cclk n, false⟩] })) ∧
     (may DXMCTL.USER_SEQ → 4 ≤ c.lq.length → (∀ m, c.lq.getLast? = some m → (m.direct || m.attn) = false ∨ m.at' ≠ s.dev.cclk n) → ∃ t, exec (.dxlaunchWrite n user v) s = .next t ∧
       t.dev = s.dev.setBit DXMCTL.LAUNCH_LOST n 0 true) ∧
     (∀ g : Fin 16, may DXMCTL.USER_GATES → ∃ t, exec (.dxgateWrite n user g v) s = .next t ∧
       t.dev = s.dev.setCore n { c with gates := c.gates.set g (max 0 (min 255 ((c.gates.getD g 0 : Int) + v.toInt))).toNat }) ∧
     (∀ r rest, c.retQ = r :: rest → ∃ t, exec (.dxretireRead n) s = .next t ∧
       t.dev = (s.dev.setCore n { c with retQ := rest }).emit
         (.regRead (.cp n) (BitVec.ofNat 64 (r.tag + r.status.code * 2 ^ 16 + r.detail * 2 ^ 24 + 2 ^ 63)))) ∧
     (∀ x rest, may DXMCTL.USER_POST → c.postQ = x :: rest → c.swapAck = none → ∃ t, exec (.dxpostRead n user) s = .next t ∧
       t.dev = (s.dev.setCore n { c with postQ := rest }).emit (.regRead (.cp n) (BitVec.ofNat 64 (x.toNat + 2 ^ 63)))) ∧
     (user = false → ∃ t, exec (.dxlheadWrite n user v) s = .next t ∧ t.dev = s.dev.setCore n { c with mboxHead := v.toNat % 16 }) ∧
     (user = false → ∃ t, exec (.dxdoneWrite n user v) s = .next t ∧
       t.dev = s.dev.coreReport (v.toNat % 65536) n (Status.ofCode (bitsOf v.toNat 16 8))))

/-- R113: a user-mode access without the permission shown raises an illegal-instruction exception: the access has no effect, the processor is in machine mode at the handler's address, and the interrupted pc and the cause are saved (the trap itself follows the RISC-V privileged architecture, log 30). -/
def Obligations.UserAccessTraps : Prop :=
  ∀ (s : State) (n : CoreId) (v : Word) (i : Instr),
    (i ∈ [Instr.dxdoneWrite n true v, .dxlheadWrite n true v] ∨
     (s.dev.bit DXMCTL.USER_SEQ n 0 = false ∧ i = .dxlaunchWrite n true v) ∨
     (s.dev.bit DXMCTL.USER_GATES n 0 = false ∧ ∃ g, i = .dxgateWrite n true g v) ∨
     (s.dev.bit DXMCTL.USER_POST n 0 = false ∧ i = .dxpostRead n true)) →
    ∃ t, exec i s = .next t ∧ (t.dev.core n).cp.mcause = 2 ∧ (t.dev.core n).cp.mepc = (s.dev.core n).cp.pc ∧ (t.dev.core n).cp.user = false ∧
      (t.dev.core n).cp.pc = BitVec.ofNat 64 ((s.dev.core n).cp.mtvec.toNat / 4 * 4) ∧
      (t.dev.core n).lq = (s.dev.core n).lq ∧ (t.dev.core n).gates = (s.dev.core n).gates ∧ (t.dev.core n).postQ = (s.dev.core n).postQ ∧
      (t.dev.core n).mboxHead = (s.dev.core n).mboxHead ∧ t.dev.descs = s.dev.descs ∧ (∀ m, m ≠ n.val → t.dev.core m = s.dev.core m) ∧
      t.dev.regs = s.dev.regs ∧ t.dev.mem = s.dev.mem

/-- R117, R119, R122, R116: an entry held for a core in service enters its mailbox at the tail while the mailbox has fewer than 8; for a core fencing or fenced, it is reported with FENCED_UNIT, or RESET_ABORT while a reset covers the core, and both indices pass it; for a rejoining core it waits. An entry that hardware takes enters the launch queue and the head passes it. A pending and enabled machine timer interrupt ends WFI. -/
def Obligations.MailboxAndTimer : Prop :=
  ∀ (s : State) (n : CoreId),
    (let c := s.dev.core n
     (∀ e rest, c.mboxHeld = e :: rest → s.dev.inService n = true → c.mboxCount < 8 → ∃ t, exec (.mailboxDeliver n) s = .next t ∧
       t.dev = s.dev.setCore n { c with mboxHeld := rest, mbox := Tbl.set 0 c.mbox (c.mboxTail % 8) e, mboxTail := (c.mboxTail + 1) % 16 }) ∧
     (∀ e rest, c.mboxHeld = e :: rest → s.dev.fenceState n ≠ 0 → s.dev.fenceState n ≠ 3 → ∃ t, exec (.mailboxDeliver n) s = .next t ∧
       t.dev = (s.dev.setCore n { c with mboxHeld := rest, mboxHead := (c.mboxHead + 1) % 16, mboxTail := (c.mboxTail + 1) % 16 }).coreReport (mbTag e) n
         (if s.dev.rstCovers n then .resetAbort else .fencedUnit)) ∧
     (s.dev.fenceState n = 3 → ∃ t, exec (.mailboxDeliver n) s = .next t ∧ t = s) ∧
     (∀ e, c.mboxTop = some e → s.dev.mboxHw n = true → c.lq.length < 4 → c.prog.isSome = true →
       (∀ m, c.lq.getLast? = some m → (m.direct || m.attn) = true ∨ m.at' ≠ s.dev.cclk n) → ∃ t, exec (.directLaunch n) s = .next t ∧
       t.dev.core n = { c with mboxHead := (c.mboxHead + 1) % 16, lq := c.lq ++ [⟨bitsOf (mbEntry e) 3 19 * 8, mbTag e, mbUser e, true, s.dev.cclk n, false⟩] } ∧
       (∀ m, m ≠ n.val → t.dev.core m = s.dev.core m) ∧ t.dev.regs = s.dev.regs ∧ t.dev.mem = s.dev.mem ∧ t.dev.descs = s.dev.descs) ∧
     (c.timecmp.toNat ≤ s.dev.time → c.cp.mie.getLsbD 7 = true → ∃ t, exec (.machineTimer n) s = .next t ∧
       t.dev = s.dev.setCore n { c with cp := { c.cp with wfi := false } }))

/-- R126, R127: a write of CP_RUN by the management controller after STARTER step 9 starts the processor at address 0 in machine mode, or with LOAD_IMAGE begins the image copy, or with CP_RUN 0 returns it to reset; the write of another requester changes nothing. When the copy's 2,048 CCLK have passed and the image is intact, the stores hold it, I-store first, and the processor runs. -/
def Obligations.ProcessorStart : Prop :=
  ∀ (s : State) (n : CoreId) (v : Word),
    (9 ≤ s.dev.done → v.getLsbD 2 = false → s.dev.bit CORE_CTL.CP_RUN n 0 = false → v.getLsbD 0 = true → v.getLsbD 1 = false →
      ∃ t, exec (.cpStart .mgmt n v) s = .next t ∧ (t.dev.core n).cp = { Cp.init with st := .running } ∧ t.dev.bit CORE_CTL.CP_RUN n 0 = true) ∧
    (9 ≤ s.dev.done → v.getLsbD 2 = false → s.dev.bit CORE_CTL.CP_RUN n 0 = false → v.getLsbD 0 = true → v.getLsbD 1 = true →
      ∃ t, exec (.cpStart .mgmt n v) s = .next t ∧
        (t.dev.core n).cp = { Cp.init with st := .copying, copyAt := s.dev.clkSum (clusterOf n) } ∧ t.dev.fld CORE_CTL.IMG_GRAN n 0 = bitsOf v.toNat 16 16) ∧
    (9 ≤ s.dev.done → v.getLsbD 2 = false → v.getLsbD 0 = false →
      ∃ t, exec (.cpStart .mgmt n v) s = .next t ∧ (t.dev.core n).cp = Cp.init ∧ t.dev.bit CORE_CTL.CP_RUN n 0 = false) ∧
    (∀ r : Req, r ≠ .mgmt → ∃ t, exec (.cpStart r n v) s = .next t ∧ t = s) ∧
    (let src := 64 * s.dev.fld CORE_CTL.IMG_GRAN n 0
     (s.dev.core n).cp.st = .copying → (s.dev.core n).cp.copyAt + 2048 * 2000 ≤ s.dev.clkSum (clusterOf n) → src + 131072 ≤ lsSize →
     s.dev.intact (lsAddr n src) 131072 → ∃ t, exec (.imageCopyDone n) s = .next t ∧ (t.dev.core n).cp = { Cp.init with st := .running } ∧
       (∀ j, j < 65536 → t.dev.byte (storeKey n 0 j) = s.dev.byte (lsAddr n (src + j)) ∧
         t.dev.byte (storeKey n 1 j) = s.dev.byte (lsAddr n (src + 65536 + j))))

/-- R111, R112, R125: a processor whose fetch of a trap handler faults halts, is reported to the management controller, and where AUTO_FENCE is 0 nothing else follows. A device access of machine mode to an aligned address that has to wait for nothing (log 136) is made by the core: a load answers the value read, a store writes its bytes; a misaligned one traps with cause 4 or 6 and reads and writes nothing. -/
def Obligations.ProcessorHaltsAndAccesses : Prop :=
  ∀ (s : State) (n : CoreId),
    (let p := (s.dev.core n).cp
     (p.st = .running → p.trapFault = true → p.stopped = false → (0x10000 < p.pc.toNat + 2 ∨ (p.user = true ∧ p.pc.toNat < 0x8000)) →
       s.dev.bit RST_FENCE.AUTO_FENCE n 0 = false → ∃ t, exec (.cpHalt n) s = .next t ∧ (t.dev.core n).cp = { p with st := .halted } ∧
         t.dev.out = .coreFaulted n :: s.dev.out ∧ (s.dev.bit CORE_FAULT.VALID n 0 = false →
           t.dev.bit CORE_FAULT.VALID n 0 = true ∧ t.dev.fld CORE_FAULT.STATUS n 0 = Status.uncorr.code ∧ t.dev.fld CORE_FAULT.DETAIL n 0 = 0x70)) ∧
     (∀ (a : BitVec 52) (size : Nat) (v : Word) (ext : List PByte), size ∈ [1, 2, 4, 8] →
       (a.toNat % size = 0 →
         (let e := (s.dev.unasked.accWrite (endCore n) a.toNat (toPBytes size v.toNat) 0 (.cp n) ext).2
          e.waits = [] → ∃ t, exec (.cpDeviceAccess n false true a size v ext) s = .next t ∧ t.dev = s.dev.keep e) ∧
         (let r := s.dev.unasked.accRead (endCore n) a.toNat size 0 ext
          r.2.2.waits = [] → anyPoison r.1 = false → ∃ t, exec (.cpDeviceAccess n false false a size v ext) s = .next t ∧
            t.dev = s.dev.keep (r.2.2.emit (.regRead (.cp n) (BitVec.ofNat 64 (ofPBytes r.1)))))) ∧
       (∀ store, a.toNat % size ≠ 0 → ∃ t, exec (.cpDeviceAccess n false store a size v ext) s = .next t ∧
         t.dev = s.dev.setCore n { s.dev.core n with cp := p.trap false (if store then 6 else 4) (2 ^ 52 + a.toNat) })))

/-- R108 to R110: a request alone at a local-store bank, inside one 64 B line of that bank, is granted in its cycle: a write stores its bytes and leaves every other byte, a read of intact memory answers the stored bytes with status OK and changes no memory. -/
def Obligations.LocalStoreBankServes : Prop :=
  ∀ (s : State) (n : CoreId) (bank : Fin 32) (q : LsReq), q.addr + q.len ≤ lsSize → q.addr % 64 + q.len ≤ 64 → 1 ≤ q.len → lsBank q.addr = bank →
    (∀ x ∈ (s.dev.core n).lsQ, lsBank x.2.addr ≠ bank) → s.dev.intact (lsAddr n q.addr) q.len →
    (q.write = true → q.data.length = q.len → anyPoison q.data = false → ∃ t, exec (.lsAccess n bank [q]) s = .next t ∧
      s.dev.wrote t.dev (lsAddr n q.addr) q.data ∧ t.dev.out = .memResp (endCore n) .ok [] :: s.dev.out ∧ t.dev.core n = s.dev.core n) ∧
    (q.write = false → ∃ t, exec (.lsAccess n bank [q]) s = .next t ∧ t.dev.mem = s.dev.mem ∧ t.dev.core n = s.dev.core n ∧
      t.dev.out = .memResp (endCore n) .ok ((List.range q.len).map fun i => ⟨s.dev.byte (lsAddr n q.addr + i), false⟩) :: s.dev.out)

/-- R510, R511, R512: FENCE written 1 for a core in service begins FENCING: FENCE and STATE show it and the processor's clocks stop with its state kept. FENCING ends in QUIESCED once the DMA engine's requests have their responses or 5 µs have passed; the engine then completes what it holds and discards its streams. FENCE written 0 while QUIESCED, with the core's domain on, no reset covering it and step 9 done, begins REJOINING and the clocks run again; otherwise it is refused. REJOINING ends in service. -/
def Obligations.FenceStates : Prop :=
  ∀ (s : State) (n : CoreId) (r : Req),
    (s.dev.fenceState n = 0 → ∃ t, exec (.coreFence r n) s = .next t ∧ t.dev.fenceState n = 1 ∧ t.dev.bit RST_FENCE.FENCE n 0 = true ∧
      t.dev.bit RST_FENCE.AUTO n 0 = false ∧ (t.dev.core n).cp.stopped = true) ∧
    (s.dev.fenceState n = 1 → (s.dev.dmaWaits n = false ∨ (s.dev.core n).fenceAt + 5000 ≤ s.dev.ns) →
      ∃ t, exec (.coreQuiesced n) s = .next t ∧ t.dev.fenceState n = 2 ∧
        t.dev = s.dev.keep (((((s.dev.dmaStop n (s.dev.fenceStatus n)).arrOwnerFill n).rowDiscard n).setFld RST_FENCE.STATE n 0 2).partAgain)) ∧
    (s.dev.bit RST_FENCE.FENCE n 0 = true → s.dev.fenceState n = 2 → s.dev.domOn n = true → s.dev.rstCovers n = false → 9 ≤ s.dev.done →
      ∃ t, exec (.coreRejoin r n) s = .next t ∧ t.dev.fenceState n = 3 ∧ t.dev.bit RST_FENCE.FENCE n 0 = false ∧ (t.dev.core n).cp.stopped = false ∧ (t.dev.core n).fenceAt = s.dev.ns) ∧
    (s.dev.bit RST_FENCE.FENCE n 0 = true → s.dev.fenceState n ≠ 2 → ∃ t, exec (.coreRejoin r n) s = .next t ∧
      t.dev = s.dev.setBit RST_STATUS.FENCE_REFUSED 0 0 true) ∧
    (s.dev.fenceState n = 3 → s.dev.switched n = true → s.dev.bit RST_FENCE.FENCE n 0 = false → ∃ t, exec (.rejoinComplete n) s = .next t ∧
      t.dev = s.dev.setFld RST_FENCE.STATE n 0 0)

/-! Arrays and core DMA (R44 to R76, R129 to R147). -/

/-- R52 to R54, R68, R69: the LOAD that holds an array's load port, not starting in HOLD, once its tile has the group and every earlier run of the owner on its set has released it, writes that group of its weight set: planes, their parity, scale bytes and poison; group 0 first forgets the set's old contents. The fourth group marks the set loaded and ends the LOAD, which leaves the array. No register and no byte of memory changes. -/
def Obligations.ArrayLoads : Prop :=
  ∀ (s : State) (a : CoreId) (c : ArrCmd) (d1 : Dev) (t : Tile), s.dev.arrGrant a 4 0x10 (fun c => (s.dev.loadTile c).isSome) (fun c => ((s.dev.loadTile c).map fun t => t.at').getD 0) = some (c, d1) →
    s.dev.loadTile c = some t → (s.dev.held = false ∨ c.pos ≠ 0) → s.dev.released a c (s.dev.cmdSet a c) c.pos = true → c.pos < t.emitted →
    ∃ u, exec (.load a) s = .next u ∧
      (let old := (s.dev.arr a).set (s.dev.cmdSet a c)
       let w0 : WSet := if c.pos = 0 then { old with p := t.p, wmx := t.wmx, groups := 0, loaded := false, poison := false } else old
       (u.dev.arr a).set (s.dev.cmdSet a c) = { w0.writeGroup t c.pos with loaded := c.pos == 3 || (w0.writeGroup t c.pos).loaded }) ∧
      (∀ x, x ≠ s.dev.cmdSet a c → (u.dev.arr a).set x = (s.dev.arr a).set x) ∧
      (c.pos = 3 → ∀ y ∈ (u.dev.arr a).cmds, ¬(y.core = c.core ∧ y.id = c.id)) ∧
      (u.dev.arr a).acc = (s.dev.arr a).acc ∧ u.dev.regs = s.dev.regs ∧ u.dev.mem = s.dev.mem

/-- R50, R54, R60, R68: in the first cycle that R50 lets a run start, reached without a stall, the RUN that the port grants starts: it joins the runs in flight, on its set, with the first vector of its input stream, which leaves the stream; accumulators, sets and memory stand. -/
def Obligations.ArrayRunStarts : Prop :=
  ∀ (s : State) (a : CoreId) (c : ArrCmd) (d1 : Dev) (v : InVec) (rest : List InVec), (s.dev.arr a).reaches (s.dev.runCycle a) = true →
    (s.dev.arr a).run c = none → s.dev.arrGrant a 5 0x11 (s.dev.runReady a) = some (c, d1) → Tbl.get [] (s.dev.dma c.core).inputs (runStag c) = v :: rest →
    ∃ u, exec (.runStart a) s = .next u ∧
      (u.dev.arr a).runs = (s.dev.arr a).runs ++
        [⟨{ c with active := true }, s.dev.cmdSet a c, ((s.dev.arr a).set (s.dev.cmdSet a c)).p, s.dev.runCycle a, none, [v], 0, 0, 0, false⟩] ∧
      Tbl.get [] (u.dev.dma c.core).inputs (runStag c) = rest ∧
      (u.dev.arr a).acc = (s.dev.arr a).acc ∧ (u.dev.arr a).sets = (s.dev.arr a).sets ∧ u.dev.mem = s.dev.mem ∧
      (v.poisonRows = [] → u.dev.regs = s.dev.regs) ∧ (v.poisonRows ≠ [] → u.dev.bit ARR_ERR.IN_POISON c.core 0 = true)

/-- R54, R69, R76: with the input vectors taken that have arrived by the present ACLK cycle, where the first cycle up to it that lacks something lacks a group that its LOAD has not written, the array stalls for a cycle, which counts in LOAD_STALL; where it lacks an input vector, in INPUT_STALL; every cycle to come is one later. (Of a cycle that lacks both, LOAD_STALL is the model's choice, log 138.) The run whose turn it is, once the array reaches its cycle, releases its next group; where the group's parity holds nothing else changes of the run, where it does not the run is poisoned and WPARITY is set. -/
def Obligations.ArrayRunsProgress : Prop :=
  ∀ (s : State) (a : CoreId) (r : ArrRun),
    (let u := s.dev.arr a
     (let now := s.dev.clkSum (clusterOf a) / 1000
      let d := s.dev.pullTo a now
      ((d.arr a).stuck now = some (r, true) → ∃ t, exec (.arrayStall a) s = .next t ∧
         t.dev = s.dev.keep (((d.count ARR_STALL.LOAD_STALL a 0 1).pmcCore r.cmd.core 0x04 1).modArr a ArrayUnit.stalled)) ∧
      ((d.arr a).stuck now = some (r, false) → ∃ t, exec (.arrayStall a) s = .next t ∧
         t.dev = s.dev.keep (((d.count ARR_STALL.INPUT_STALL a 0 1).pmcCore r.cmd.core 0x05 1).modArr a ArrayUnit.stalled))) ∧
     (u.releasing = some r → u.run r.cmd = some r → u.reaches r.releaseAt = true → (u.runSet r).parityBad r.released = false →
       ∃ t, exec (.groupRelease a false) s = .next t ∧ (t.dev.arr a).run r.cmd = some { r with released := r.released + 1 } ∧
         (t.dev.arr a).acc = u.acc ∧ (t.dev.arr a).sets = u.sets ∧ t.dev.regs = s.dev.regs ∧ t.dev.mem = s.dev.mem) ∧
     (∀ e, u.releasing = some r → u.run r.cmd = some r → u.reaches r.releaseAt = true → (e || (u.runSet r).parityBad r.released) = true →
       ∃ t, exec (.groupRelease a e) s = .next t ∧ (t.dev.arr a).run r.cmd = some { r with released := r.released + 1, poison := true } ∧
         t.dev.bit ARR_ERR.WPARITY r.cmd.core 0 = true ∧ t.dev.mem = s.dev.mem))

/-- R46 to R48, R51, R55 to R59, R69: the results of the next vector of the oldest run in flight, in the cycle that writes them, enter its slot: entry n of the slot takes the sum of the vector, as the rows loaded it, with column n of the set over its old value, in the mode the word asks for; every other entry stands. Where the core asks for no fault on saturation (R72) no byte of memory changes. -/
def Obligations.AccumulatorWrites : Prop :=
  ∀ (s : State) (a : CoreId) (r : ArrRun) (v : InVec), (s.dev.arr a).runs.head? = some r → r.vecs[r.written]? = some v →
    (s.dev.arr a).reaches r.writeAt = true → r.written + 1 < r.m → s.dev.bit ARR_CFG.FAULT_ON_SAT r.cmd.core 0 = false →
    ∃ t, exec (.accumulatorWrite a) s = .next t ∧ t.dev.mem = s.dev.mem ∧
      (let u := s.dev.arr a
       let w := u.runSet r
       let slot := (cmdSlots r.cmd).1 + r.written
       (t.dev.arr a).run r.cmd = some { r with written := r.written + 1 } ∧ (t.dev.arr a).sets = u.sets ∧
       ∀ k, Tbl.get accEmpty (t.dev.arr a).acc k = if k / 256 = 128 * cmdBank r.cmd + slot
         then (addVector w r.cmd.word.toNat v (u.acts r r.written) (k % 256) (u.vecPoison r r.written) (AccE.dec (Tbl.get accEmpty u.acc k))).e.enc
         else Tbl.get accEmpty u.acc k)

/-- R60, R64, R65, R67, R87, R98: the DRAIN that holds the port, at its last slot and with that slot ready, reads it out, and completes. An accepted TARGET write takes effect once the core's commands have left both arrays: the register shows it, the core's array is empty, and bank 1 and set 1 of the partner's are given back. An array with no run in flight idles 16 ACLK after its last activity; with STATE_REQ set and no command it then sleeps and loses its accumulators; it wakes when its wake time has come (shown where no program waits to issue to it). -/
def Obligations.ArrayDrainsAndStates : Prop :=
  ∀ (s : State) (a : CoreId),
    (∀ (bad : List Nat) c d1, s.dev.arrGrant a 6 0x12 (s.dev.drainReady a) = some (c, d1) → (d1.arrActive a c).drainReady a c = true → c.pos + 1 = (cmdSlots c).2 →
      ∃ u, exec (.drain ⟨a, bad⟩) s = .next u ∧ u.dev = s.dev.keep ((((d1.arrActive a c).drainSlot a c bad).arrDone a { c with pos := c.pos + 1 }).arrUsed a)) ∧
    ((s.dev.arr a).targetTo = some false → ((s.dev.arr a).cmds.any fun c => c.core.val == a) = false →
      ((s.dev.arr (partnerOf a)).cmds.any fun c => c.core.val == a) = false →
      ∃ u, exec (.targetChange a) s = .next u ∧ u.dev.bit ARR_CFG.TARGET a 0 = false ∧ u.dev.bit ARR_CFG.TARGET_PENDING a 0 = false ∧
        (u.dev.arr a).acc = [] ∧ (u.dev.arr a).sets = [] ∧ u.dev.mem = s.dev.mem) ∧
    ((s.dev.arr a).power = .run → (s.dev.arr a).runs = [] → (s.dev.arr a).lastUse + 16000 ≤ s.dev.clkSum (clusterOf a) →
      ∃ u, exec (.arrayIdle a) s = .next u ∧ u.dev = s.dev.setArr a { s.dev.arr a with power := .idle }) ∧
    (s.dev.bit ARR_CFG.STATE_REQ a 0 = true → (s.dev.arr a).cmds = [] → (s.dev.arr a).power = .idle →
      ∃ u, exec (.arraySleep a) s = .next u ∧ u.dev = s.dev.setArr a { s.dev.arr a with power := .sleep, acc := [], woken := false, wakeAt := none }) ∧
    (∀ t, (s.dev.arr a).wakeAt = some t → t ≤ s.dev.ns → (s.dev.arr a).power = .sleep → (s.dev.core a).prog = none → (s.dev.core (partnerOf a)).prog = none →
      ∃ u, exec (.arrayWake a) s = .next u ∧
        u.dev = s.dev.setArr a { s.dev.arr a with power := .run, woken := true, wakeAt := none, lastUse := s.dev.clkSum (clusterOf a) })

/-- R131, R132, R136 to R139, R141, R143 to R145, R466: a COPY or REDUCE descriptor that is checked and holds its claim, on a general channel, whose accesses have to wait for nothing (log 136), moves all its units and finishes. In the same way the weight channel converts the tile of the next LOAD without one, the input channel the next vector of a stream that a run still needs. The oldest tile not all emitted sends its next group; one that the column link spoils is poisoned and counted (R69, R486). A finished descriptor with no write outstanding writes DONE and its status to its last byte. While a cluster's check unit is held or snoops, claims of it arrive and wait. Free, it goes to the engine whose claim arrived first, between claims of one instant by the photo-finish rule (R29). -/
def Obligations.DmaRuns : Prop :=
  ∀ (s : State) (n : CoreId),
    (∀ (ch : Fin 2) (ext : List PByte) (x : DmaDesc), ((s.dev.dma n).held.find? fun y => y.stage == .onChannel ch && dKind y == 1) = some x →
      s.dev.dmaLive n = true → x.checked = true → dmaClaimed x = true → (s.dev.dma n).startable x = true →
      (let e := (s.dev.unasked.dmaUnits n x ext).dmaFinish n x.id .ok
       e.waits = [] → ∃ t, exec (.dmaCopy n ch ext) s = .next t ∧ t.dev = s.dev.keep e)) ∧
    (∀ (ch : Fin 2) (ext : List PByte) (x : DmaDesc), ((s.dev.dma n).held.find? fun y => y.stage == .onChannel ch && dKind y == 4) = some x →
      s.dev.dmaLive n = true → x.checked = true → dmaClaimed x = true → (s.dev.dma n).startable x = true →
      (let e := (s.dev.unasked.dmaUnits n x ext).dmaFinish n x.id .ok
       e.waits = [] → ∃ t, exec (.dmaReduce n ch ext) s = .next t ∧ t.dev = s.dev.keep e)) ∧
    (∀ (ext : List PByte) (c : ArrCmd) (x : DmaDesc), (((s.dev.coreLoads n 0x10).take 2).find? fun c => !((s.dev.dma n).tiles.any fun t => t.loadId == c.id)) = some c →
      s.dev.dmaLive n = true → (s.dev.dma n).tiles.length < 2 → (s.dev.dma n).head 2 (bitsOf c.word.toNat 23 3) = some x → x.checked = true → dmaClaimed x = true →
      (let e := s.dev.unasked.weightTile n c x ext
       e.waits = [] → ∃ t, exec (.dmaWeight n ext) s = .next t ∧ t.dev = s.dev.keep e)) ∧
    (∀ (ext : List PByte) (bad : List (Fin 128)) (k : Nat) (x : DmaDesc), s.dev.dmaLive n = true → ((s.dev.dma n).inputs.map fun p => p.2.length).sum < 256 →
      inputNext (s.dev.dma n).inputs (s.dev.vecsTaken n) (s.dev.coreLoads n 0x11) [] = some k → (s.dev.dma n).head 3 k = some x →
      x.checked = true → dmaClaimed x = true →
      (let e := s.dev.unasked.inputVec n k x ext bad
       e.waits = [] → ∃ t, exec (.dmaInput n ⟨ext, bad⟩) s = .next t ∧ t.dev = s.dev.keep e)) ∧
    (∀ t, ((s.dev.dma n).tiles.find? fun t => decide (t.emitted < 4)) = some t →
      (∀ bad, bad = false ∨ s.dev.arrOf n = n.val → ∃ u, exec (.tileEmit ⟨n, bad⟩) s = .next u ∧
        u.dev = s.dev.setDma n { s.dev.dma n with tiles := (s.dev.dma n).tiles.map fun q => if q.loadId = t.loadId then
          { q with emitted := q.emitted + 1, poison := t.poison, at' := if q.emitted = 0 then s.dev.ns else q.at' } else q }) ∧
      (s.dev.arrOf n ≠ n.val → ∃ u, exec (.tileEmit ⟨n, true⟩) s = .next u ∧
        u.dev = s.dev.keep ((s.dev.count LNK_COLUMN.COLLINK (n.val % 128) 0 1).setDma n { s.dev.dma n with tiles := (s.dev.dma n).tiles.map fun q =>
          if q.loadId = t.loadId then { q with emitted := q.emitted + 1, poison := t.emitted :: t.poison, at' := if q.emitted = 0 then s.dev.ns else q.at' } else q }))) ∧
    (∀ (id : Nat) (x : DmaDesc), s.dev.dmaLive n = true → s.dev.dmaDesc n id = some x → dKind x ≠ 3 → descReady x = true →
      (s.dev.uio.any fun u => u.owner == .dma n id) = false → x.chk = false →
      ∃ t, exec (.descriptorComplete n id) s = .next t ∧
        (let d1 := (s.dev.lsWrite n (64 * x.gran + 63) (toPBytes 1 (0x80 + x.status.code))).modDesc n id fun x => { x with stage := .finished, chk := false, written := true }
         t.dev = s.dev.keep ((((d1.setDma n (d1.dma n).assign).pmcCore n 0x09 1).dmaWordDone n x.cmdId)))) ∧
    (∀ (id j : Nat) (x : DmaDesc) (d1 : Dev), let k := clusterOf n
      s.dev.dmaLive n = true → (∃ y ∈ (s.dev.dma n).chkWaiting, y.id = id) →
      ((s.dev.bit CHK_CFG.CLAIMED k 0 || s.dev.bit CHK_SNOOP.EN k 0) = true → s.dev.chkFresh k = false → ∃ t, exec (.chkClaim n id) s = .next t ∧ t.dev = s.dev.keep (s.dev.chkArrive k)) ∧
      (s.dev.bit CHK_CFG.CLAIMED k 0 = false → s.dev.bit CHK_SNOOP.EN k 0 = false →
        (s.dev.chkArrive k).tie (arbKey 14 k) ((s.dev.chkArrive k).chkFirst k) = some (j, d1) → (d1.dma (8 * k + j)).claimant = some x →
        ∃ t, exec (.chkClaim n id) s = .next t ∧ t.dev = s.dev.keep ((d1.chkTake k j).modDesc (8 * k + j) x.id fun x => { x with chk := true })))

/-! Slices (R152 to R180). -/

/-- R155 to R157, R162, R163, R171: what the row slot goes to is done. ACT opens the row and counts in the windows, its bank is next ready 40 SCLK later, 80 where a read-merge-write begins (R165), and a row opened for a write leaves WB; RD moves a row opened for reading 12 SCLK ago towards the controller; WR writes the codewords of one opened for a write, or discards them with a violation where its bank was busy, and counts a row move (R528); REFpb refreshes the next 8 rows of its bank; MRW sets the next layer's mode. -/
def Obligations.SliceRowCommands : Prop :=
  ∀ (s : State) (n : CoreId),
    (∀ c d1, s.dev.rowSlot n = (.act c, d1) → ∃ t, exec (.act n) s = .next t ∧
      (let sl := d1.slice n
       t.dev = s.dev.keep (d1.setSlice n { (sl.tookSlot d1.ns).activated d1.ns c.row (if c.wb = none ∧ sl.mergesNow c.row = true then 80 else 40) with
         opens := sl.opens ++ [⟨c.row, d1.ns, c.wb, sl.busyAt (rowBank c.row) (d1.ns + 2), sl.seq⟩]
         wb := (c.wb.map fun w => sl.wb.filter fun v => v.seq != w.seq).getD sl.wb }))) ∧
    (∀ o, ((s.dev.slice n).opens.find? fun o => o.write.isNone && decide (o.at' + 12 ≤ s.dev.ns)) = some o → ∃ t, exec (.rd n) s = .next t ∧
      t.dev = s.dev.setSlice n { s.dev.slice n with
        opens := (s.dev.slice n).opens.filter (· != o), moves := (s.dev.slice n).moves ++ [⟨o.row, o.at' + 12, o.busy, o.seq⟩] }) ∧
    (∀ o w, ((s.dev.slice n).opens.find? fun o => o.write.isSome && decide (o.at' + 12 ≤ s.dev.ns)) = some o → o.write = some w →
      ∃ t, exec (.wr n) s = .next t ∧
        (let d1 := (s.dev.setSlice n { s.dev.slice n with opens := (s.dev.slice n).opens.filter (· != o) }).pmcCore n 0x0C 1
         t.dev = s.dev.keep ((if o.busy then d1.violation n o.row else d1.wbCommit n w).netAdmit n))) ∧
    (∀ b d1, s.dev.rowSlot n = (.refresh b, d1) → ∃ t, exec (.refpb n) s = .next t ∧
      (let sl := ((d1.slice n).tookSlot d1.ns).refreshed d1.ns b
       t.dev = s.dev.keep ((d1.setSlice n { sl with hist := d1.ns :: sl.hist.filter fun t => decide (d1.ns < t + 32) }).pmcCore n 0x0D 1))) ∧
    (∀ d1 l rest h, s.dev.rowSlot n = (.mrw, d1) → (d1.slice n).mrwLeft = l :: rest → (d1.slice n).narrowHalf = some h →
      ∃ t, exec (.mrw n) s = .next t ∧
        t.dev = s.dev.keep (d1.setSlice n { d1.slice n with
          lastSlot := some d1.ns, mrwLeft := rest, layerMode := Tbl.set 0 (d1.slice n).layerMode l (h + 1)
          mode := if rest = [] then .switching else (d1.slice n).mode }))

/-- R156, R159, R160, R162, R174, R175: a request within one row enters NET while it has room, last in the slice's order unless a request of another class reached the slice in the same SCLK (R29), else the router holds it, and a die reset aborts it; a whole-row read enters ROW while that has room; a refresh that falls due is owed, up to 8. A row reaching the controller answers the whole-row read that waited for it with its bytes and status, and that read leaves ROW. -/
def Obligations.SliceQueues : Prop :=
  ∀ (s : State) (n : CoreId),
    (let sl := s.dev.slice n
     (∀ q, netFits n q = true → sl.resetting = false → sl.net.length < 64 → (q.write = true → sl.rivals s.dev.ns (stackRow q.addr) = []) →
       ∃ t, exec (.netRequest n q) s = .next t ∧
       t.dev = s.dev.keep (((s.dev.setSlice n { sl with seq := sl.seq + 1 }).setSlice n
         { sl with net := sl.net ++ [⟨q, s.dev.ns, sl.seq, false⟩], seq := sl.seq + 1 }).netAdmit n)) ∧
     (∀ q, netFits n q = true → sl.resetting = false → 64 ≤ sl.net.length → ∃ t, exec (.netRequest n q) s = .next t ∧
       t.dev = s.dev.setSlice n { sl with netHeld := sl.netHeld ++ [⟨q, s.dev.ns, sl.seq, false⟩] }) ∧
     (∀ q, netFits n q = true → sl.resetting = true → ∃ t, exec (.netRequest n q) s = .next t ∧
       t.dev = s.dev.keep (s.dev.memReply q.src .resetAbort (poisonBytes (if q.write then 0 else q.len)))) ∧
     (∀ row, row < 393216 → sl.rowQ.length < 32 → sl.rivals s.dev.ns row = [] → ∃ t, exec (.rowRequest n row) s = .next t ∧
       t.dev = (s.dev.setSlice n { sl with seq := sl.seq + 1 }).setSlice n { sl with rowQ := sl.rowQ ++ [⟨row, s.dev.ns, sl.seq, false⟩], seq := sl.seq + 1 }) ∧
     (∀ (layer : Fin 12) (bank : Fin 16), s.dev.refDue n (layer.val * 16 + bank.val) ≤ s.dev.ns → Tbl.get 0 sl.debt (layer.val * 16 + bank.val) < 8 → sl.srAt = none →
       ∃ t, exec (.refreshDue n layer bank) s = .next t ∧
         Tbl.get 0 (t.dev.slice n).debt (layer.val * 16 + bank.val) = Tbl.get 0 sl.debt (layer.val * 16 + bank.val) + 1 ∧
         t.dev.refDue n (layer.val * 16 + bank.val) = s.dev.refDue n (layer.val * 16 + bank.val) + s.dev.refInterval n ∧
         (∀ b, b ≠ layer.val * 16 + bank.val → Tbl.get 0 (t.dev.slice n).debt b = Tbl.get 0 sl.debt b) ∧ t.dev.mem = s.dev.mem ∧ t.dev.regs = s.dev.regs) ∧
     (∀ m rest e, sl.moves = m :: rest → m.at' + 6 ≤ s.dev.ns → m.busy = false → sl.net = [] → sl.rowQ = [e] → e.own = false → e.row = m.row → e.seq < m.seq → sl.writeBefore e.row e.seq = false →
       ∃ t, exec (.rowMoveComplete n []) s = .next t ∧
         (let cws := s.dev.rowDecode n m.row []
          let d1 := ((s.dev.setSlice n { sl with moves := rest }).pmcCore n 0x0C 1).rowEvents n m.row cws
          t.dev = s.dev.keep (((d1.setSlice n { d1.slice n with rowQ := (d1.slice n).rowQ.filter fun f => f.seq != e.seq }).emit
            (.memResp n (rowAnswer cws 0 1024).1 (rowAnswer cws 0 1024).2)).netAdmit n))))

/-- R155, R161, R170, R171, R173: a change of band or HOLD reaches the controller. Every 2^30 SCLK the tracker's counts halve. Once the row path is quiet the switch to narrow mode ends on the half chosen. A slice asked into self-refresh, once its queues and WB are empty, its bank-side operations ended and no REFpb postponed, enters it in a free row slot; after 1,000 SCLK and no longer asked it leaves in a row slot, with no ACT for 200 SCLK and its units at +0. -/
def Obligations.SliceStates : Prop :=
  ∀ (s : State) (n : CoreId),
    (let sl := s.dev.slice n
     (∃ t, exec (.bandApply n) s = .next t ∧ (t.dev.slice n).band = s.dev.bandOf (columnOf n) ∧ (t.dev.slice n).hold4x = s.dev.held ∧
       (t.dev.slice n).debt = sl.debt ∧ t.dev.mem = s.dev.mem ∧ t.dev.regs = s.dev.regs) ∧
     (sl.decayAt + 2 ^ 30 ≤ s.dev.ns → ∃ t, exec (.trackerDecay n) s = .next t ∧
       t.dev = s.dev.setSlice n { sl.decayed with decayAt := sl.decayAt + 2 ^ 30 }) ∧
     (∀ h, sl.mode = .switching → sl.opens = [] → sl.moves = [] → sl.narrowHalf = some h → (sl.dead.any fun v => v / 4352 == h) = false →
       ∃ t, exec (.narrowModeSwitch n) s = .next t ∧
         t.dev = s.dev.keep (((s.dev.setSlice n { sl with
           stopFree := s.dev.ns + 1000, mode := .narrow, half := h, narrowHalf := none, degraded := sl.degraded,
           resume := sl.resume || !sl.bq.isEmpty }).slcErr n SLC_ERR.NARROW).journal 0x05 [n, h])) ∧
     (sl.srWanted = true → sl.drained = true → sl.unitsQuiet s.dev.ns = true → sl.refreshPaid = true → s.dev.slotOpen n = true → ∃ t, exec (.sre n) s = .next t ∧
       t.dev = s.dev.setSlice n { sl.tookSlot s.dev.ns with debt := [], srAt := some s.dev.ns }) ∧
     (∀ at', sl.srAt = some at' → sl.srWanted = false → at' + 1000 ≤ s.dev.ns → sl.slotTaken s.dev.ns = false → ∃ t, exec (.srx n) s = .next t ∧
       (t.dev.slice n).srAt = none ∧ (t.dev.slice n).lastSlot = some s.dev.ns ∧ (t.dev.slice n).noActUntil = s.dev.ns + 200 ∧
       (t.dev.slice n).debt = [] ∧ (t.dev.slice n).units = [] ∧ (t.dev.slice n).wb = sl.wb ∧ t.dev.mem = s.dev.mem ∧ t.dev.regs = s.dev.regs))

/-! Rings, doorbells and descriptors (R280 to R302). -/

/-- R283, R292: ENABLE written 1 takes a DISABLED ring, both of whose rings can supply their indexes, to RUNNING with empty indexes; where one cannot, CFG_IGNORED is set. A draining ring remembers it. ENABLE written 0 makes a running or stopped ring drain; with nothing in flight it is DISABLED at once. -/
def Obligations.RingsEnableAndDrain : Prop :=
  ∀ (s : State) (r : Req) (i : RingId),
    ((s.dev.ring i).state = .disabled → s.dev.canSupply i = true → s.dev.canSupply (s.dev.cqOf i) = true →
      ∃ t, exec (.ringEnable r i) s = .next t ∧ (t.dev.ring i).state = .running ∧ (t.dev.ring i).sqHead = 0 ∧ (t.dev.ring i).sqTail = 0 ∧
        (t.dev.ring i).avail = [] ∧ (t.dev.ring i).fetched = [] ∧ t.dev.mem = s.dev.mem) ∧
    ((s.dev.ring i).state = .disabled → (s.dev.canSupply i && s.dev.canSupply (s.dev.cqOf i)) = false →
      ∃ t, exec (.ringEnable r i) s = .next t ∧ t.dev.bit RING_STATUS.CFG_IGNORED i 0 = true ∧ t.dev.rings = s.dev.rings) ∧
    ((s.dev.ring i).state = .draining → ∃ t, exec (.ringEnable r i) s = .next t ∧ t.dev.ring i = { s.dev.ring i with pendingEn := true }) ∧
    (((s.dev.ring i).state = .running ∨ (s.dev.ring i).state = .stopped) → s.dev.inflight i ≠ [] →
      ∃ t, exec (.ringDisable r i) s = .next t ∧ (t.dev.ring i).state = .draining ∧ t.dev.descs = s.dev.descs ∧ t.dev.mem = s.dev.mem) ∧
    (((s.dev.ring i).state = .running ∨ (s.dev.ring i).state = .stopped) → s.dev.inflight i = [] → (s.dev.ring i).pendingEn = false →
      ∃ t, exec (.ringDisable r i) s = .next t ∧ (t.dev.ring i).state = .disabled ∧ (t.dev.ring i).fetched = [] ∧ t.dev.mem = s.dev.mem)

/-- R289 to R292, R311, R325: a tail of at most the ring's length that the poll due brings makes the descriptors before it available to an enabled submission ring, and the next poll is due POLL_US later. A snooped line of the watch table is read again while CXL.cache is enabled; a snoop met while it is read asks for one read more. A line that returns leaves the table's entry idle, and every ring that uses the line takes its slot. R406: a tail that advances is a cause of the wake. -/
def Obligations.DoorbellsAreRead : Prop :=
  ∀ (s : State),
    (∀ (i : RingId) (slot : Word), s.dev.power ≠ .parked → s.dev.linkOn = true → (s.dev.ring i).on = true → s.dev.polls i = true → (s.dev.ring i).pollAt ≤ s.dev.ns →
      ((Tbl.get none s.dev.watch (s.dev.slotLine i)).any (·.reading)) = false →
      idxDiff (bitsOf slot.toNat 0 32) (s.dev.ring i).sqHead ≤ s.dev.sqLen i →
      idxDiff (((s.dev.ring i).avail.getLast?.map (·.1)).getD (s.dev.ring i).sqHead) (s.dev.ring i).sqHead < idxDiff (bitsOf slot.toNat 0 32) (s.dev.ring i).sqHead →
      ∃ t, exec (.doorbellPoll i (some slot)) s = .next t ∧ (t.dev.ring i).sqTail = bitsOf slot.toNat 0 32 ∧
        (t.dev.ring i).pollAt = s.dev.ns + s.dev.pollNs i ∧ (t.dev.ring i).avail = (s.dev.ring i).avail ++ [(bitsOf slot.toNat 0 32, s.dev.ns)] ∧ (t.dev.ring i).state = (s.dev.ring i).state ∧
        t.dev.mem = s.dev.mem ∧ t.dev.regs = s.dev.regs) ∧
    (∀ line w, Tbl.get none s.dev.watch line = some w → w.reading = true →
      ∃ t, exec (.doorbellSnoop line) s = .next t ∧ t.dev = { s.dev with watch := Tbl.set none s.dev.watch line (some ⟨true, true⟩) }) ∧
    (∀ line w, Tbl.get none s.dev.watch line = some w → w.reading = false → s.dev.cacheOn = true →
      ∃ t, exec (.doorbellSnoop line) s = .next t ∧ Tbl.get none t.dev.watch line = some ⟨true, false⟩ ∧ t.dev.out = .hostRead (64 * line) 64 :: s.dev.out ∧
        t.dev.rings = s.dev.rings ∧ t.dev.mem = s.dev.mem) ∧
    (∀ line w (data : List PByte), Tbl.get none s.dev.watch line = some w → w.reading = true → w.again = false → data.length = 64 → s.dev.linkOn = true →
      ∃ t, exec (.doorbellRead line data) s = .next t ∧ (s.dev.power ≠ .parked → Tbl.get none t.dev.watch line = some ⟨false, false⟩ ∧ t.dev.mem = s.dev.mem) ∧
        t.dev = s.dev.keep (s.dev.tailWake (((s.dev.rings.filter fun p => s.dev.slotLine p.1 == line && (s.dev.watches p.1 || s.dev.polls p.1) && (p.2.on || p.2.inUse)).map (·.1)).foldl
          (fun d i => d.slotSeen i (slotOf data (d.fld DB_ADDR.ADDR i 0 % 8 * 8)))
          { s.dev with watch := Tbl.set none s.dev.watch line (some ⟨false, false⟩) })))

/-- R280, R294: a running ring over the link reads its next available descriptor once, from host memory where its base is not LOCAL: the descriptor joins those fetched, and the head moves on. The engine starts one fetched descriptor: it is numbered and checked, and a failed check ends it with its status; a plan its checks read is there when they need wait for nothing more. -/
def Obligations.DescriptorsStart : Prop :=
  ∀ (s : State),
    (∀ (i : RingId) (ext : List PByte) (upto age : Nat) (rest : List (Nat × Nat)), (s.dev.ring i).avail = (upto, age) :: rest → (s.dev.ring i).state = .running →
      s.dev.linkOn = true → s.dev.power = .run → s.dev.bit SQ_BASE.LOCAL i 0 = false → ext.length = 64 →
      ∃ t, exec (.descriptorFetch i ext) s = .next t ∧
        t.dev.ring i = { s.dev.ring i with
          sqHead := ((s.dev.ring i).sqHead + 1) % 2 ^ 32
          avail := if ((s.dev.ring i).sqHead + 1) % 2 ^ 32 = upto then rest else (s.dev.ring i).avail
          fetched := (s.dev.ring i).fetched ++ [⟨(s.dev.ring i).sqHead, BitVec.ofNat 512 (ofPBytes ext), anyPoison ext, age⟩] } ∧
        t.dev.mem = s.dev.mem ∧ t.dev.regs = s.dev.regs ∧ t.dev.descs = s.dev.descs) ∧
    (s.dev.descs.length < 1024 → s.dev.power = .run → s.dev.bit LNK_STATUS.D2D_FATAL 0 0 = false →
      ∀ i d1 f rest, s.dev.unasked.ringPick = some (i, d1) → (d1.ring i).fetched = f :: rest → f.poison = false →
      (∀ d2, (d1.descPlace i f f.body rest).dqCheck i f.body = (none, d2) → dqOp f.body ≠ 0x7E → d2.waits = [] →
        ∃ t, exec .descriptorStart s = .next t ∧ t.dev = s.dev.keep d2) ∧
      (∀ d2, (d1.descPlace i f f.body rest).dqCheck i f.body = (none, d2) → dqOp f.body = 0x7E → (d2.descDone (d1.nextDesc) .ok 0 0).waits = [] →
        ∃ t, exec .descriptorStart s = .next t ∧ t.dev = s.dev.keep (d2.descDone (d1.nextDesc) .ok 0 0)) ∧
      (∀ st k d2, (d1.descPlace i f f.body rest).dqCheck i f.body = (some (st, k), d2) → (d2.descDone (d1.nextDesc) st k 0).waits = [] →
        ∃ t, exec .descriptorStart s = .next t ∧ t.dev = s.dev.keep (d2.descDone (d1.nextDesc) st k 0)))

/-- R117, R121, R280, R297, R310: what a started descriptor with its opcode does whose work has not gone out. COPY moves its bytes and COPY_CONVERT the converted elements to the destination, REDUCE_INTO reduces them there, each, once it lacks nothing it must wait for, then waiting for the answers of the port. TILE_LAUNCH gives every core of its set one mailbox entry, and ends when each has reported. BSU_BROADCAST goes to every slice of its set. NOP ends at once, FENCE once nothing it waits for is in flight. -/
def Obligations.DescriptorsMoveData : Prop :=
  ∀ (s : State) (id : Nat) (x : Desc), s.dev.flight id = some x → x.sent = false → x.fin = none →
    (∀ ext : List PByte, dqOp x.body = 0x01 →
      (let r := s.dev.unasked.dqRead (dq x.body 8 0 1 == 1) (dq x.body 16 0 64) (copyLens x.body).1 (dq x.body 8 2 2) ext
       let w := r.2.2.1.dqWrite (dq x.body 8 1 1 == 1) id (dq x.body 24 0 64) (dq x.body 8 4 2) r.1 r.2.2.2
       let e := w.2.descSent id (r.2.1.first w.1)
       e.waits = [] → ∃ t, exec (.copy id ext) s = .next t ∧ t.dev = s.dev.keep e)) ∧
    (∀ ext : List PByte, dqOp x.body = 0x02 →
      (let r := s.dev.unasked.dqRead (dq x.body 8 0 1 == 1) (dq x.body 16 0 64) (copyLens x.body).1 (dq x.body 8 2 2) ext
       let w := r.2.2.1.dqWrite (dq x.body 8 1 1 == 1) id (dq x.body 24 0 64) (dq x.body 8 4 2) (convElems (dq x.body 9 0 3) (dq x.body 10 0 3) (dq x.body 32 0 40) r.1) r.2.2.2
       let e := w.2.descSent id (r.2.1.first w.1)
       e.waits = [] → ∃ t, exec (.copyConvert id ext) s = .next t ∧ t.dev = s.dev.keep e)) ∧
    (∀ ext : List PByte, dqOp x.body = 0x38 →
      (let r := s.dev.unasked.dqRead false (dq x.body 16 0 52) (dq x.body 32 0 32) 0 ext
       let w := r.2.2.1.accRed endQueue (dq x.body 8 0 2) (dq x.body 24 0 52) r.1 0 r.2.2.2
       let e := w.2.descSent id (r.2.1.first w.1)
       e.waits = [] → ∃ t, exec (.reduceInto id ext) s = .next t ∧ t.dev = s.dev.keep e)) ∧
    (dqOp x.body = 0x10 → (s.dev.descs.any fun y : Desc => decide (y.seq < x.seq) && dqOp y.body == 0x10 && !y.sent && y.fin.isNone) = false →
      ∃ t, exec (.tileLaunch id) s = .next t ∧ t.dev.flight id = some { x with sent := true, cores := dqSet x.body } ∧ t.dev.mem = s.dev.mem ∧
        (∀ n ∈ dqSet x.body, (t.dev.core n).mboxHeld = (s.dev.core n).mboxHeld ++ [launchEntry x (s.dev.fld RING_CFG.PARTITION x.ring 0)]) ∧
        (∀ n, n ∉ dqSet x.body → t.dev.core n = s.dev.core n)) ∧
    (dqOp x.body = 0x60 → ∃ t, exec (.bsuBroadcast id) s = .next t ∧
      t.dev = s.dev.keep ((dqSet x.body).foldl (fun d n => if d.sliceReach n then d.bsuDeliver n 1 (some id) (BitVec.ofNat 256 (dq x.body 8 0 192 + id % 2 ^ 32 * 2 ^ 192)) else d.descReport id n .fencedUnit 0)
        (s.dev.modFlight id fun y => { y with sent := true, cores := dqSet x.body }))) ∧
    (dqOp x.body = 0x7E → ∃ t, exec (.queueNop id) s = .next t ∧ t.dev = s.dev.keep (s.dev.descDone id .ok 0 0)) ∧
    (dqOp x.body = 0x7F → (s.dev.descs.any fun y : Desc => decide (y.seq < x.seq) && (y.ring == x.ring || (dq x.body 8 0 1 == 1 && s.dev.fld RING_CFG.PARTITION y.ring 0 == s.dev.fld RING_CFG.PARTITION x.ring 0))) = false →
      ∃ t, exec (.fence id) s = .next t ∧ t.dev = s.dev.keep (s.dev.descDone id .ok 0 0))

/-- R121, R222, R223, R304, R307, R468, R469: CACHE_RANGE sends its line operation to the home region of every line of its range. CHK_RUN on a free unit, once its bytes are there, ends with the low half of its check value, or the status of its reads, or CRC_MISMATCH where an expected value differs. A baton command goes to its baton's unit when that is reached. -/
def Obligations.DescriptorsAct : Prop :=
  ∀ (s : State) (id : Nat) (x : Desc), s.dev.flight id = some x → x.sent = false → x.fin = none →
    (∀ ext : List PByte, dqOp x.body = 0x30 → ∃ t, exec (.cacheRange id ext) s = .next t ∧
      (let ls := linesOf (dq x.body 16 0 52) (dq x.body 24 0 40)
       t.dev = s.dev.keep ((ls.foldl (fun (p : Dev × List PByte) l =>
         (p.1.cacheLine id (lineOpOf (dq x.body 8 0 3)) (Fin.ofNat 4 (dq x.body 9 0 2)) l (p.2.take (p.1.extLen (l * 4096) 4096)), p.2.drop (p.1.extLen (l * 4096) 4096)))
         (s.dev.modFlight id fun y => { y with sent := true, cores := ls }, ext)).1))) ∧
    (∀ ext : List PByte, dqOp x.body = 0x40 → ((List.range 4).any fun u => s.dev.domOn (443 + u) && !s.dev.bit CHK_CFG.CLAIMED (32 + u) 0) = true →
      dq x.body 56 0 52 = 0 →
      (let r := s.dev.unasked.dqRead false (dq x.body 16 0 52) (dq x.body 24 0 40) 0 ext
       let poly := dq x.body 8 0 1 == 1
       let c : ChkStream := ⟨poly, dq x.body 8 1 2, if dq x.body 8 4 1 = 1 then BitVec.ofNat 64 (dq x.body 32 0 64) else crcInit poly, BitVec.ofNat 64 (dq x.body 48 0 64), []⟩
       let v := (crcFinal poly (c.feed (dq x.body 16 0 52) r.1).reg).toNat
       let e := (r.2.2.1.modFlight id fun y => { y with sent := true }).descDone id
         (if r.2.1 ≠ .ok then r.2.1 else if dq x.body 8 3 1 = 1 ∧ v ≠ dq x.body 40 0 64 then .crcMismatch else .ok) 0 (v % 2 ^ 32)
       e.waits = [] → ∃ t, exec (.chkRun id ext) s = .next t ∧ t.dev = s.dev.keep e)) ∧
    (s.dev.remoteFid (dq x.body 16 0 64) = false → s.dev.regionReach (batonRegion ((dq x.body 16 0 64 % 2 ^ 52 - batonBase) / 64)) = true →
      (let k := (dq x.body 16 0 64 % 2 ^ 52 - batonBase) / 64
       let d1 := s.dev.modFlight id fun y => { y with sent := true }
       let op (kind : BtnKind) (lim : Option Nat) : BtnOp := { kind := kind, baton := k, v := dq x.body 12 0 32, src := .desc id, port := ioPort (batonRegion k), arr := s.dev.ns, limit := lim }
       let lim : Option Nat := if dq x.body 24 0 32 = 0 then none else some (s.dev.ns + 1000 * dq x.body 24 0 32)
       (dqOp x.body = 0x20 → s.dev.ringQuietBefore x = true → dq x.body 8 0 1 = 0 →
         ∃ t, exec (.batonSignalAdd id) s = .next t ∧ t.dev = s.dev.keep (d1.btnSend (op .add none))) ∧
       (dqOp x.body = 0x20 → s.dev.ringQuietBefore x = true → dq x.body 8 0 1 = 1 →
         ∃ t, exec (.batonSignalSet id) s = .next t ∧ t.dev = s.dev.keep (d1.btnSend (op .set none))) ∧
       (dqOp x.body = 0x21 → dq x.body 8 0 1 = 0 → ∃ t, exec (.batonWait id) s = .next t ∧ t.dev = s.dev.keep (d1.btnSend (op .wait lim))) ∧
       (dqOp x.body = 0x21 → dq x.body 8 0 1 = 1 → ∃ t, exec (.batonWaitHandoff id) s = .next t ∧ t.dev = s.dev.keep (d1.btnSend (op .handoff lim)))))

/-- R121, R298, R301, R302, R317: a launch whose cores have all reported ends with the status of the lowest-numbered core that did not report OK, and that core, or with OK. The next ready record of a completion ring with a free entry is written, with the phase of its turn round the ring, to host memory when that accepts it; the ring's tail moves on and its message counts it. A refused write sets WRITE_FAIL and stops its submission rings. A message that is due, by count or at once, is sent to its vector. Unmasking a vector, where MSI-X is enabled and its function not masked, sends what is pending. -/
def Obligations.CompletionsPost : Prop :=
  ∀ (s : State) (j : RingId),
    (∀ c d1, s.dev.unasked.cplPick j = some (c, d1) → d1.bit CQ_BASE.LOCAL j 0 = false →
      (let e := ((((d1.emit (.hostWrite (d1.cplAddr j) (d1.cplBytes j c))).cplLeave j c).cplWritten j c).ringSettle c.ring).cqRelease j
       e.waits = [] → ∃ t, exec (.completionPost j true) s = .next t ∧ t.dev = s.dev.keep e) ∧
      (let e := (((d1.cplLeave j c).cplRefused j).ringSettle c.ring).cqRelease j
       e.waits = [] → ∃ t, exec (.completionPost j false) s = .next t ∧ t.dev = s.dev.keep e)) ∧
    (s.dev.bit IRQ_CFG.IRQ_EN j 0 = true → (s.dev.ring j).since ≠ 0 → ((s.dev.ring j).urgent = true ∨ max 1 (s.dev.fld IRQ_CFG.COAL_COUNT j 0) ≤ (s.dev.ring j).since) →
      ∃ t, exec (.msixSend j) s = .next t ∧
        t.dev = s.dev.keep ((s.dev.modRing j fun r => { r with since := 0, firstAt := none, urgent := false }).msixFire (s.dev.fld IRQ_CFG.VECTOR j 0))) ∧
    (∀ v : Fin 2048, s.dev.cfg.msixEn = true → s.dev.cfg.msixMask = false → ∃ t, exec (.msixUnmask v) s = .next t ∧ t.dev.msixMasked v = false ∧
      (s.dev.msixPending v = true → t.dev.out = .msix v :: s.dev.out ∧ t.dev.msixPending v = false)) ∧
    (∀ tag x n st, (s.dev.descs.find? fun y : Desc => y.id % 65536 == tag && dqOp y.body == 0x10 && y.sent && y.fin.isNone) = some x → x.cores = [] →
      (x.worst = some (n, st) → ∃ t, exec (.launchReport tag) s = .next t ∧ t.dev = s.dev.keep (s.dev.descDone x.id st 0 n)) ∧
      (x.worst = none → ∃ t, exec (.launchReport tag) s = .next t ∧ t.dev = s.dev.keep (s.dev.descDone x.id .ok 0 0)))

/-! Batons and board memory (R303 to R313, R356 to R376). -/

/-- R303 to R306, R309: with no release first and its baton's state good, the operation that is next at a region is performed: ADD adds its value to VALUE, SET replaces it, a WAIT or HANDOFF that VALUE satisfies is granted, else it is registered while fewer than 64 are; HANDOFF increments VALUE; loads that are next are answered after it. The oldest registration satisfied is released; one whose time is up ends with DEADLINE. A load of a record returns VALUE and its count of waiters. -/
def Obligations.BatonOperations : Prop :=
  ∀ (s : State) (c : RegionId),
    (∀ o d1, s.dev.btnSat c = none → s.dev.btnNext c = some (o, d1) → d1.btnBad.contains o.baton = false → o.poison = false → batonRegion o.baton = c →
      (let d0 := d1.setBq c (btnLeave d1.ns (d1.bq c) o)
       let d2 := d0.btnOps c
       let after (d : Dev) : Dev := s.dev.keep (d.btnLoads c (d0.bq c).length)
       let old := (d1.baton o.baton).toNat
       (o.kind = .add → ∃ t, exec (.batonAdd c false) s = .next t ∧ t.dev = after ((d2.setBaton o.baton (old + o.v)).btnAck o .ok 0 old)) ∧
       (o.kind = .set → ∃ t, exec (.batonSet c false) s = .next t ∧ t.dev = after ((d2.setBaton o.baton o.v).btnAck o .ok 0 old)) ∧
       (o.kind = .wait → btnMet .wait old o.v = true → ∃ t, exec (.batonWaitOp c false) s = .next t ∧ t.dev = after (d2.btnAck o .ok 0 old)) ∧
       (o.kind = .wait → btnMet .wait old o.v = false → (d1.bw c).length < 64 →
         ∃ t, exec (.batonWaitOp c false) s = .next t ∧ t.dev = after (d2.setBw c (d1.bw c ++ [o]))) ∧
       (o.kind = .handoff → old = o.v % 2 ^ 32 → ∃ t, exec (.batonHandoff c false) s = .next t ∧
         t.dev = after ((d2.setBaton o.baton (old + 1)).btnAck o .ok 0 ((old + 1) % 2 ^ 32))) ∧
       (o.kind = .handoff → old ≠ o.v % 2 ^ 32 → (d1.bw c).length < 64 →
         ∃ t, exec (.batonHandoff c false) s = .next t ∧ t.dev = after (d2.setBw c (d1.bw c ++ [o]))))) ∧
    (∀ o, s.dev.btnSat c = some o → ∃ t, exec (.batonRelease c) s = .next t ∧ t.dev = s.dev.keep (((s.dev.setBw c ((s.dev.bw c).erase o)).btnOps c).btnGrant o)) ∧
    (∀ o rest u, s.dev.bw c = o :: rest → o.limit = some u → u ≤ s.dev.ns → s.dev.btnSat c ≠ some o →
      ∃ t, exec (.batonTimeout c) s = .next t ∧ t.dev = s.dev.keep (((s.dev.setBw c rest).count BTN_REGION.TIMEOUTS c 0 1).btnAck o .deadline 0 0)) ∧
    (∀ (src a : Nat), batonBase ≤ a → a + 8 ≤ batonEnd → a % 64 = 0 → s.dev.bq (batonRegion ((a - batonBase) / 64)) = [] → s.dev.btnSat (batonRegion ((a - batonBase) / 64)) = none →
      s.dev.btnBad.contains ((a - batonBase) / 64) = false → src < 65536 →
      ∃ t, exec (.batonRecordLoad src a 8 false) s = .next t ∧ t.dev.out = .memResp src .ok (toPBytes 8 (s.dev.btnWord ((a - batonBase) / 64))) :: s.dev.out ∧
        t.dev.btnVal = s.dev.btnVal ∧ t.dev.btnW = s.dev.btnW ∧ t.dev.mem = s.dev.mem ∧ t.dev.regs = s.dev.regs)

/-- R360 to R363, R365 to R367: a write within the usable capacity is merged into its channel's buffer and answered. A read that finds its channel idle, with a slot free, no drain pressing before a READ and no write of this SCLK to its sectors, is answered with memory's bytes and the buffer's in their place. Outside the capacity a read is answered with poison. An entry that may drain does so in a slot that no read goes ahead of. RETRY trains the channels again before step 6. A channel in use refreshes; an idle channel retrains when its period or a move of 5 °C asks for it, which stops it for 1,200 ns. -/
def Obligations.BoardMemory : Prop :=
  ∀ (s : State),
    (∀ q : MemReq, s.dev.gddrHas q.addr q.data.length = true → ∃ t, exec (.gddrWrite q) s = .next t ∧
      t.dev = s.dev.keep ((s.dev.gddrWrite q.addr q.data).emit (.memResp q.src .ok []))) ∧
    (∀ (q : MemReq) (crit : Bool) (fl : List BitFlip),
      (let c := s.dev.gdrChan (q.addr - gddrBase)
       let r := s.dev.gddrRead q.addr q.len fl
       s.dev.gddrHas q.addr q.len = true → q.src < 65536 → s.dev.gdrQueue c = [] → Tbl.get [] s.dev.gddr.link c = [] → s.dev.gdrSlots c ≠ 0 →
       (crit = true ∨ s.dev.gdrPress c = false) → s.dev.gdrMet c ⟨q.src, q.addr, q.len, crit, fl, s.dev.ns, none, none⟩ = false →
       ∃ t, exec (.gddrRead q crit fl) s = .next t ∧ Output.memResp q.src r.2.1 r.1 ∈ t.dev.out)) ∧
    (∀ (q : MemReq) (crit : Bool) (fl : List BitFlip), s.dev.gddrHas q.addr q.len = false → ∃ t, exec (.gddrRead q crit fl) s = .next t ∧
      t.dev = s.dev.keep ((s.dev.hole q.src q.addr false).emit (.memResp q.src .poisonRead (poisonBytes q.len)))) ∧
    (∀ (ch : Fin 8) (blk : Nat) (needed : Bool) (e : WcbEnt), ((s.dev.wcbOf ch).find? fun e => e.blk == blk) = some e → s.dev.wcbMay ch e needed = true →
      s.dev.wcbFree ch = true → ∃ t, exec (.wcbDrain ch blk needed) s = .next t ∧ t.dev = s.dev.keep (s.dev.gdrDrain ch e)) ∧
    (∀ (r : Req) (pass : BitVec 8), s.dev.done = 5 → s.dev.fld STARTER_STATUS.RUNNING 0 0 = 0 → s.dev.fld STARTER_STATUS.RESULT 0 0 ≠ 3 →
      ∃ t, exec (.gddrRetry r pass) s = .next t ∧ t.dev = s.dev.keep (s.dev.gddrTrain pass.toNat)) ∧
    (∀ (ch : Fin 8) (all : Bool), s.dev.gdrChans.contains ch.val = true → ∃ t, exec (.gddrRefresh ch all) s = .next t ∧
      Tbl.get 0 t.dev.gddr.refreshed ch = Tbl.get 0 s.dev.gddr.refreshed ch + 1 ∧
      (all = true → Tbl.get 0 t.dev.gddr.stopUntil ch = max (Tbl.get 0 s.dev.gddr.stopUntil ch) (s.dev.ns + 380)) ∧
      t.dev.mem = s.dev.mem ∧ t.dev.regs = s.dev.regs) ∧
    (∀ at' : ChanTemp, s.dev.gddr.state = .ready → s.dev.gdrChans.contains at'.chan.val = true → (s.dev.retrainDue at'.chan ≤ s.dev.ns ∨ s.dev.retrainMoved at'.chan at'.temp = true) →
      s.dev.gdrQueue at'.chan = [] → s.dev.gdrPress at'.chan = false → ∃ t, exec (.gddrRetrain at' true) s = .next t ∧
      Tbl.get 0 t.dev.gddr.failsInRow at'.chan = 0 ∧ Tbl.get none t.dev.gddr.trainedAt at'.chan = some s.dev.ns ∧ Tbl.get none t.dev.gddr.trainTemp at'.chan = some at'.temp ∧
      Tbl.get 0 t.dev.gddr.stopUntil at'.chan = s.dev.ns + 1200 ∧ t.dev.mem = s.dev.mem)

/-! Bank-side units (R181 to R210). -/

/-- R182 to R184, R197, R198: an operation that has arrived in the unit of a bank is carried out on its row: FILL and SVWR write codewords, RMAX and RSUM put one result a segment into the unit's registers, EXPS and SCALE write elements, SVSET sets registers. The four that read the row count its code events first. What the operation leaves is put: registers, codewords, flag, failures. R185 to R188, R196, R199, R202, R203: a sound command that a slice has room for, with no rival of this SCLK, joins its queue; one that fails the checks is reported BAD_DESCRIPTOR and sets BAD_CMD. The row slot given to a start starts its target and others of its layer. A command whose targets have all been started and have ended is reported with its lowest failing target's status. One held up for STALL_LIMIT is reported THERMAL_HOLD. -/
def Obligations.BankSideUnits : Prop :=
  (∀ (s : State) (n : CoreId) (layer : Fin 12) (bank : Fin 16) (l : OpLatch) (c : BsuCmd),
     (let b := 16 * layer.val + bank.val
      let u := (s.dev.slice n).unit b
      let els := bElems (bFp32 c.cmd) ((s.dev.bankRow n l.row).flatMap fun p => p.2.map (·.v))
      let bad := (s.dev.bankRow n l.row).map fun p => !p.1.status.isOk
      let fails := ((s.dev.bankRow n l.row).map fun p => p.1.status).filter fun st => !st.isOk
      u.latch = some l → l.done = false → l.op = bOp c.cmd → ((s.dev.slice n).bq.find? fun c => c.seq == l.cmdSeq) = some c →
      (bOp c.cmd = 0x01 → l.endAt ≤ s.dev.ns + bBusy 0x01 → ∃ t, exec (.bsuFill n layer bank) s = .next t ∧ t.dev = s.dev.keep (s.dev.bankPut n b l (bankFill u c.cmd))) ∧
      (bOp c.cmd = 0x02 → l.endAt ≤ s.dev.ns + bBusy 0x02 → ∃ t, exec (.bsuRmax n layer bank) s = .next t ∧
        t.dev = s.dev.keep ((s.dev.bankEvents n l.row).bankPut n b l (bankReduce f32Max u c.cmd els bad fails))) ∧
      (bOp c.cmd = 0x03 → l.endAt ≤ s.dev.ns + bBusy 0x03 → ∃ t, exec (.bsuRsum n layer bank) s = .next t ∧
        t.dev = s.dev.keep ((s.dev.bankEvents n l.row).bankPut n b l (bankReduce f32Add u c.cmd els bad fails))) ∧
      (bOp c.cmd = 0x04 → l.endAt ≤ s.dev.ns + bBusy 0x04 → ∃ t, exec (.bsuExps n layer bank) s = .next t ∧
        t.dev = s.dev.keep ((s.dev.bankEvents n l.row).bankPut n b l (bankExps u c.cmd els bad fails))) ∧
      (bOp c.cmd = 0x05 → l.endAt ≤ s.dev.ns + bBusy 0x05 → ∃ t, exec (.bsuScale n layer bank) s = .next t ∧
        t.dev = s.dev.keep ((s.dev.bankEvents n l.row).bankPut n b l (bankScale u c.cmd els bad fails))) ∧
      (bOp c.cmd = 0x06 → l.endAt ≤ s.dev.ns + bBusy 0x06 → ∃ t, exec (.bsuSvwr n layer bank) s = .next t ∧ t.dev = s.dev.keep (s.dev.bankPut n b l (bankSvwr u c.cmd))) ∧
      (bOp c.cmd = 0x07 → l.endAt ≤ s.dev.ns + bBusy 0x07 → ∃ t, exec (.bsuSvset n layer bank) s = .next t ∧ t.dev = s.dev.keep (s.dev.bankPut n b l (bankSvset u c.cmd))))) ∧
  (∀ (s : State) (n : CoreId),
     (∀ (src : Fin 3) (cmd : BitVec 256), (s.dev.slice n).bsuFull = false → (src = 2 → (s.dev.slice n).bsuPending = false) → (s.dev.slice n).resetting = false →
       (s.dev.slice n).srAt = none → (s.dev.slice n).srWanted = false →
       (bBad cmd = false → ((s.dev.slice n).bq.filter fun e => e.arr == s.dev.ns && e.src != src && e.started.isEmpty) = [] →
         (∀ i < bCount cmd, (s.dev.slice n).rivals s.dev.ns (bRow cmd i) = []) → ∃ t, exec (.bsuCommand n src cmd) s = .next t ∧
         t.dev.slice n = { s.dev.slice n with
           bq := bqInsert ⟨src, none, cmd, s.dev.ns, (s.dev.slice n).seq, [], none, s.dev.ns⟩ (s.dev.slice n).bq, seq := (s.dev.slice n).seq + 1 } ∧
         t.dev.mem = s.dev.mem ∧ t.dev.regs = s.dev.regs) ∧
       (bBad cmd = true → ∃ t, exec (.bsuCommand n src cmd) s = .next t ∧
         t.dev = s.dev.keep ((s.dev.bsuErr n BSU_ERR.BAD_CMD (bFirst cmd)).bsuReport n ⟨src, none, cmd, s.dev.ns, 0, [], none, s.dev.ns⟩ .badDescriptor 0))) ∧
     (∀ seq i d1 c, s.dev.rowSlot n = (.start seq i, d1) → ((d1.slice n).bq.find? fun c => c.seq == seq) = some c →
       ∃ t, exec (.bsuStart n) s = .next t ∧
         t.dev = s.dev.keep (((d1.setSlice n { d1.slice n with lastSlot := some d1.ns }).bsuStartOne n seq i).bsuStartMore n seq (rowLayer (bRow c.cmd i))
           (List.range (bCount c.cmd)) (d1.hurdleLayer n - 1))) ∧
     (∀ c, ((s.dev.slice n).bq.find? fun c => c.started.length == bCount c.cmd && (s.dev.slice n).bsuEnded c s.dev.ns) = some c →
       ∃ t, exec (.bsuComplete n) s = .next t ∧
         t.dev = s.dev.keep (((s.dev.setSlice n ((s.dev.slice n).bsuDrop c.seq)).bsuReport n c ((c.fail.map (·.2)).getD .ok) (bCount c.cmd)).bsuNext n)) ∧
     (∀ h c, s.dev.haltSince n = some h → ((s.dev.slice n).bq.find? fun c => s.dev.fld BSU_CFG.STALL_LIMIT n 0 * 1000000 != 0 &&
         decide (max (max c.arr c.lastStart) h + s.dev.fld BSU_CFG.STALL_LIMIT n 0 * 1000000 ≤ s.dev.ns) && (s.dev.slice n).bsuEnded c s.dev.ns && c.started.length != bCount c.cmd) = some c →
       ∃ t, exec (.stallLimitExpire n) s = .next t ∧
         t.dev = s.dev.keep ((((s.dev.setSlice n ((s.dev.slice n).bsuDrop c.seq)).bsuErr n BSU_ERR.STALLED (bFirst c.cmd)).bsuReport n c .thermalHold c.started.length).bsuNext n)))

/-! Base-cache regions (R211 to R241). -/

/-- R27, R211, R214, R217, R224, R225, R230, R231: a read or write within one line that reaches its region is put in the controller's queue with the bank accesses it needs, and the controller grants what it can; a reduction of 4-byte elements within one 64 B span, that the reduction unit has room for, joins its queue, or where its sectors have to be fetched the miss table. R211, R214, R224, R229: at an idle region a read of backed base scratch answers with its bytes, a write stores its bytes, and a reduction combines each 4-byte element: FP32 addition, 32-bit addition that wraps, FP32 maximum, signed maximum that keeps the stored element unless the arriving one is larger. -/
def Obligations.RegionAccesses : Prop :=
  (∀ (s : State) (c : RegionId), s.dev.regionReach c = true →
     (∀ q : MemReq, inLine q.addr q.len = true →
       (let w := Waiter.read { q with addr := s.dev.served q.addr }
        ∃ t, exec (.regionRead c q) s = .next t ∧ t.dev = s.dev.keep (s.dev.regPut c (s.dev.served q.addr / 4096) 0 (s.dev.banksFor c 0 w) (.acc w))) ∧
       (let w := Waiter.write { q with addr := s.dev.served q.addr }
        q.data.length = q.len → s.dev.ownRo 64 q.addr = false → s.dev.roWin (s.dev.served q.addr) = false → ∃ t, exec (.regionWrite c q) s = .next t ∧
          t.dev = s.dev.keep (s.dev.regPut c (s.dev.served q.addr / 4096) 0 (s.dev.banksFor c 0 w) (.acc w)))) ∧
     (∀ (src at' : Nat) (b : List PByte) (hint : Fin 4), redFits at' b = true → (s.dev.region c).held = [] → (s.dev.region c).takesRed (s.dev.served at' / 4096) = true →
       (∃ t, exec (.addFp32 c src at' b hint) s = .next t ∧ t.dev = s.dev.keep (s.dev.redPut c (.red 0 src (s.dev.served at') b hint))) ∧
       (∃ t, exec (.addInt32 c src at' b hint) s = .next t ∧ t.dev = s.dev.keep (s.dev.redPut c (.red 1 src (s.dev.served at') b hint))) ∧
       (∃ t, exec (.maxFp32 c src at' b hint) s = .next t ∧ t.dev = s.dev.keep (s.dev.redPut c (.red 2 src (s.dev.served at') b hint))) ∧
       (∃ t, exec (.maxInt32 c src at' b hint) s = .next t ∧ t.dev = s.dev.keep (s.dev.redPut c (.red 3 src (s.dev.served at') b hint))))) ∧
  (∀ (s : State) (c : RegionId), s.dev.regionReach c = true → (s.dev.region c).idle s.dev.ns = true →
     (∀ q : MemReq, s.dev.served q.addr = q.addr → s.dev.scratchBacked q.addr q.len = true →
        scratchRegion q.addr = c.val → inLine q.addr q.len = true → q.addr % 64 + q.len ≤ 1536 → q.src < 65536 →
        (∃ t, exec (.regionRead c q) s = .next t ∧ Output.memResp q.src (s.dev.dataRead c q.addr q.len).2.1 (s.dev.dataRead c q.addr q.len).1 ∈ t.dev.out ∧
          t.dev.mem = (s.dev.dataRead c q.addr q.len).2.2.mem) ∧
        (q.data.length = q.len → s.dev.ownRo 64 q.addr = false → s.dev.roWin q.addr = false → ∃ t, exec (.regionWrite c q) s = .next t ∧
          Output.memResp q.src (s.dev.dataWrite c q.addr q.data).1 [] ∈ t.dev.out ∧ t.dev.mem = (s.dev.dataWrite c q.addr q.data).2.mem)) ∧
     (∀ (src a : Nat) (b : List PByte) (hint : Fin 4), s.dev.served a = a →
        s.dev.scratchBacked a b.length = true → s.dev.cacheable a b.length = false → scratchRegion a = c.val → redFits a b = true →
        (∃ t, exec (.addFp32 c src a b hint) s = .next t ∧ Output.redAck src (s.dev.redApply c 0 a b).1 ∈ t.dev.out ∧ t.dev.mem = (s.dev.redApply c 0 a b).2.mem) ∧
        (∃ t, exec (.addInt32 c src a b hint) s = .next t ∧ Output.redAck src (s.dev.redApply c 1 a b).1 ∈ t.dev.out ∧ t.dev.mem = (s.dev.redApply c 1 a b).2.mem) ∧
        (∃ t, exec (.maxFp32 c src a b hint) s = .next t ∧ Output.redAck src (s.dev.redApply c 2 a b).1 ∈ t.dev.out ∧ t.dev.mem = (s.dev.redApply c 2 a b).2.mem) ∧
        (∃ t, exec (.maxInt32 c src a b hint) s = .next t ∧ Output.redAck src (s.dev.redApply c 3 a b).1 ∈ t.dev.out ∧ t.dev.mem = (s.dev.redApply c 3 a b).2.mem))) ∧
  (∀ st x : BitVec 32, redElem 1 st.toNat x.toNat = (st + x).toNat ∧ redElem 3 st.toNat x.toNat = (if st.toInt < x.toInt then x else st).toNat ∧
     redElem 0 st.toNat x.toNat = f32Add st.toNat x.toNat ∧ redElem 2 st.toNat x.toNat = f32Max st.toNat x.toNat)

/-- R213, R219 to R223, R226, R231: a line operation joins the queue of its line's home region, which it starts in its turn. At an idle region, with no writeback to wait for, INVALIDATE drops the resident line, DISCARD makes it DEAD, SETHINT gives it the state of its hint, CLEAN leaves a line with no dirty sector as it is, FLUSH drops a DEAD one; each is then done. A fill's data that has come takes its turn at the data array. A change of BCR_PART is refused while another is in progress; else the mask is taken and the granules that join scratch wait. Such a change ends, 2,048 BCLK for each granule after its lines were gone, with its granules zero. TRAP_CLEAR empties a region's trap table. -/
def Obligations.LinesAndPartitions : Prop :=
  (∀ (s : State) (c : RegionId) (l : Nat), homeRegion (l * 4096) = c.val → s.dev.cacheable (l * 4096) 4096 = true → s.dev.regionReach c = true →
     (let go (o : LineOp) (h : Fin 4) : Dev := s.dev.keep (((s.dev.regPut c l 4 (s.dev.banksFor c l (.op o h none)) (.acc (.op o h none))).fillHost c l []).regWork c)
      (∃ t, exec (.clean c l) s = .next t ∧ t.dev = go .clean 0) ∧ (∃ t, exec (.flush c l) s = .next t ∧ t.dev = go .flush 0) ∧
      (∃ t, exec (.invalidate c l) s = .next t ∧ t.dev = go .invalidate 0) ∧ (∃ t, exec (.discard c l) s = .next t ∧ t.dev = go .discard 0) ∧
      (∀ h : Fin 4, ∃ t, exec (.sethint c l h) s = .next t ∧ t.dev = go .sethint h) ∧
      (∀ h : Fin 4, ∃ t, exec (.prefetch c l h []) s = .next t ∧ t.dev = go .prefetch h)) ∧
     (∀ i x, (s.dev.region c).idle s.dev.ns = true → (s.dev.region c).find l = some i → (s.dev.region c).line i = some x → (s.dev.uio.any fun u => u.owner == .op c l) = false →
       (∃ t, exec (.invalidate c l) s = .next t ∧ (t.dev.region c).line i = none ∧ Output.lineDone c l .invalidate .ok ∈ t.dev.out ∧ t.dev.mem = s.dev.mem) ∧
       (∃ t, exec (.discard c l) s = .next t ∧ (t.dev.region c).line i = some { x with st := .dead } ∧ Output.lineDone c l .discard .ok ∈ t.dev.out ∧ t.dev.mem = s.dev.mem) ∧
       (∀ h : Fin 4, ∃ t, exec (.sethint c l h) s = .next t ∧
         (t.dev.region c).line i = some { x with st := (match h with | 0 => .normal | 1 => .keep | 2 => .firstOut | 3 => .dead) } ∧
         Output.lineDone c l .sethint .ok ∈ t.dev.out ∧ t.dev.mem = s.dev.mem) ∧
       (x.dirty = 0 → ∃ t, exec (.clean c l) s = .next t ∧ (t.dev.region c).line i = some x ∧ Output.lineDone c l .clean .ok ∈ t.dev.out) ∧
       (x.st = .dead → ∃ t, exec (.flush c l) s = .next t ∧ (t.dev.region c).line i = none ∧ Output.lineDone c l .flush .ok ∈ t.dev.out)) ∧
     (∀ ext : List PByte, ((s.dev.region c).fill l).isSome = true →
       ∃ t, exec (.cacheFill c l ext) s = .next t ∧ t.dev = s.dev.keep (((s.dev.fillNear c l).fillHost c l ext).regWork c))) ∧
  (∀ (s : State) (c : RegionId),
     (∀ (r : Req) (m : BitVec 16), (s.dev.region c).zeroing = none → BitVec.ofNat 16 (s.dev.fld BCR_PART.SCRATCH_MASK c 0) ≠ m →
        (BitVec.ofNat 16 (s.dev.fld BCR_PART.SCRATCH_MASK c 0) &&& ~~~m = 0 ∨ (s.dev.region c).queue = []) →
       ∃ t, exec (.partitionChange r c m) s = .next t ∧ t.dev.fld BCR_PART.SCRATCH_MASK c 0 = m.toNat ∧
         (t.dev.region c).zeroing = some (m &&& ~~~(BitVec.ofNat 16 (s.dev.fld BCR_PART.SCRATCH_MASK c 0))) ∧ t.dev.mem = s.dev.mem) ∧
     (∀ (r : Req) (m : BitVec 16), (s.dev.region c).partBusy = true →
       ∃ t, exec (.partitionChange r c m) s = .next t ∧ t.dev.bit BCR_ERR.PART_REFUSED c 0 = true ∧ t.dev.region c = s.dev.region c ∧ t.dev.mem = s.dev.mem) ∧
     (∀ t0, (s.dev.region c).zeroAt = some t0 → t0 + 1024 * (s.dev.region c).granules.length ≤ s.dev.ns →
       ∃ t, exec (.partitionChangeDone c) s = .next t ∧ (t.dev.region c).zeroing = none ∧ (t.dev.region c).zeroAt = none ∧
         t.dev.mem = ((s.dev.region c).granules.foldl (fun d g => d.zeroSpan (scratchBase + c * 2 ^ 24 + g * 2 ^ 20) (2 ^ 20)) s.dev).mem) ∧
     (∀ r : Req, ∃ t, exec (.trapClear r c) s = .next t ∧ (t.dev.region c).traps = [] ∧ (t.dev.region c).waiting = (s.dev.region c).waiting ∧ t.dev.mem = s.dev.mem ∧ t.dev.regs = s.dev.regs))

/-! Page walkers and the attention step (R245 to R279). -/

/-- R247, R249, R253, R297: a KV_MAP that no step uses the slot of loads a sound context descriptor into the slot of every walker, and ends; one read with an error ends with its status, one that fails the checks with BAD_DESCRIPTOR. RELEASE empties the slot everywhere, INVAL discards its look-aside entries. LAB_INV empties a walker's look-aside buffer. A lookup of a page of a loaded context counts a hit or walks the tables. R255 to R257: an ATTN_STEP with no step running, none of its slot waiting before it, its slot loaded in every walker and its operands sound becomes the running step, in phase 1 when it appends and phase 2 when not, and its partial takes the initial values. A step whose phase 6 is reached ends with its status. R257 to R260, R263 to R267: the phases follow each other. APPEND leaves phase 1 for 2, or for the end with the partial poisoned when a frame is not mapped; SCORE scores the pages and leaves 2 for 3, when HOLD is off and its cores are free; the page maxima meet and 3 becomes 4, with the maximum of every column noted; NORMALISE sends each core's three commands; once they have all been reported, OUTPUT reduces every core's sums into the partial and leaves 5 for 6. What moves memory does so once it lacks nothing it must wait for. -/
def Obligations.AttentionSteps : Prop :=
  (∀ (s : State),
     (∀ (id : Nat) (x : Desc), s.dev.flight id = some x → x.sent = false → x.fin = none → dqOp x.body = 0x50 → (s.dev.attn.any fun a => dq a.body 8 0 4 == dq x.body 8 0 4) = false →
       (s.dev.descs.any fun y : Desc => decide (y.seq < x.seq) && (dqOp y.body == 0x51 || dqOp y.body == 0x50) && dq y.body 8 0 4 == dq x.body 8 0 4 && y.fin.isNone) = false →
       (let slot := dq x.body 8 0 4
        (∀ ext : List PByte, dq x.body 9 0 2 = 0 →
          (let r := s.dev.unasked.accRead endQueue (dq x.body 16 0 52) 64 0 ext
           let body := BitVec.ofNat 512 (ofPBytes r.1)
           let e := (((List.range 32).foldl (fun d k => d.setCtx k slot (some ⟨body, dq body 12 0 21, 0⟩)) (r.2.2.labDropSlot slot)).descDone id .ok 0 0)
           (r.2.1 = .ok → r.2.2.ctxBad body = false → e.waits = [] → ∃ t, exec (.kvMap id ext) s = .next t ∧ t.dev = s.dev.keep e) ∧
           (r.2.1 ≠ .ok → (r.2.2.descDone id r.2.1 0 0).waits = [] → ∃ t, exec (.kvMap id ext) s = .next t ∧ t.dev = s.dev.keep (r.2.2.descDone id r.2.1 0 0)) ∧
           (r.2.1 = .ok → r.2.2.ctxBad body = true → (r.2.2.descDone id .badDescriptor 0 0).waits = [] →
             ∃ t, exec (.kvMap id ext) s = .next t ∧ t.dev = s.dev.keep (r.2.2.descDone id .badDescriptor 0 0)))) ∧
        (dq x.body 9 0 1 = 1 → ∃ t, exec (.kvMapRelease id) s = .next t ∧
          t.dev = s.dev.keep (((List.range 32).foldl (fun d k => d.setCtx k slot none) s.dev).descDone id .ok 0 0)) ∧
        (dq x.body 9 0 2 = 2 → dq x.body 9 0 1 = 0 → ∃ t, exec (.kvMapInval id) s = .next t ∧ t.dev = s.dev.keep ((s.dev.labDropSlot slot).descDone id .ok 0 0)))) ∧
     (∀ (r : Req) (k : ClusterId), ∃ t, exec (.labInv r k) s = .next t ∧ (∀ i, i / 512 = k.val → ∀ e, (i, some e) ∉ t.dev.lab) ∧
       (∀ i e, i / 512 ≠ k.val → ((i, e) ∈ t.dev.lab ↔ (i, e) ∈ s.dev.lab)) ∧ t.dev.mem = s.dev.mem ∧ t.dev.regs = s.dev.regs) ∧
     (∀ (k : ClusterId) (slot : Fin 16) (layer head v : Nat) c, s.dev.ctx k slot = some c → layer ≤ c.f 20 0 8 → head < c.kvh →
       (s.dev.unasked.lookup k slot c layer head v).2.waits = [] → ∃ t, exec (.pageWalk k slot layer head v) s = .next t ∧ t.dev = s.dev.keep (s.dev.unasked.lookup k slot c layer head v).2)) ∧
  (∀ (s : State),
     (∀ (id : Nat) (x : Desc) (c : Ctx), s.dev.flight id = some x → x.sent = false → x.fin = none → dqOp x.body = 0x51 → s.dev.attn = none →
       (s.dev.descs.any fun y : Desc => decide (y.seq < x.seq) && y.fin.isNone && (dqOp y.body == 0x51 || (dqOp y.body == 0x50 && dq y.body 8 0 4 == dq x.body 8 0 4))) = false →
       s.dev.ctx 0 (dq x.body 8 0 4) = some c → ((List.range 32).any fun k => (s.dev.ctx k (dq x.body 8 0 4)).isNone) = false →
       (let app := dq x.body 13 1 1 == 1
        let a : Attn := ⟨id, x.body, c, if app || decide (dq x.body 9 0 8 < c.next) then c.len + 1 else c.len, if app then 1 else 2, [], .ok, [], [], none, []⟩
        let b := { a with pages := a.allPages }
        let init := (List.replicate b.cols (toPBytes 4 0xFF800000)).flatten ++ toPBytes (4 * b.cols) 0 ++ toPBytes (512 * b.cols) 0
        let d1 := ((s.dev.unasked.modFlight id fun y => { y with sent := true }).accWrite endQueue b.partial' init 0 .none []).2
        s.dev.attnBad a = none → d1.waits = [] →
        (app = true → ∃ t, exec (.attnStep id) s = .next t ∧ t.dev = s.dev.keep { d1 with attn := some b }) ∧
        (app = false → (Dev.attnEnter { d1 with attn := some b }).waits = [] → ∃ t, exec (.attnStep id) s = .next t ∧ t.dev = s.dev.keep (Dev.attnEnter { d1 with attn := some b })))) ∧
     (∀ a, s.dev.attn = some a → a.phase = 6 → ∃ t, exec .attnStepComplete s = .next t ∧ t.dev.attn = none ∧ t.dev = s.dev.keep ({ s.dev with attn := none }.descDone a.id a.st 0 0))) ∧
  (∀ (s : State) (a : Attn) (ext : List PByte),
     (s.dev.attn = some a → a.phase = 1 →
       (let r := s.dev.unasked.appendFrames a
        (r.1.any Option.isNone = false → (r.2.appendStore a r.1 ext).waits = [] → ∃ t, exec (.append ext) s = .next t ∧ t.dev = s.dev.keep (r.2.appendStore a r.1 ext)) ∧
        (r.1.any Option.isNone = true → (r.2.appendRefuse a).waits = [] → ∃ t, exec (.append ext) s = .next t ∧ t.dev = s.dev.keep (r.2.appendRefuse a)))) ∧
     (s.dev.attnEnter.attn = some a → a.phase = 2 → s.dev.attnEnter.held = false → s.dev.attnEnter.attnCoresFree a = true →
       (let r := a.pages.foldl (Dev.scorePage a ext) ([], s.dev.attnEnter.unasked)
        let e := (r.2.modAttn fun b => { b with pages := r.1, phase := 3 }).attnLeave a
        e.waits = [] → ∃ t, exec (.score ext) s = .next t ∧ t.dev = s.dev.keep e)) ∧
     (s.dev.attnLost.attn = some a → a.phase = 3 →
       (let r := (s.dev.attnLost.unasked.maxReduce a).accRead endQueue a.partial' (4 * a.cols) 0 []
        let e := r.2.2.modAttn fun x => { x with phase := 4, mref := (vElems a.cols 4 r.1).map fun e => (e.v, e.p) }
        e.waits = [] → ∃ t, exec .attnMax s = .next t ∧ t.dev = s.dev.keep e)) ∧
     (s.dev.attn = some a → a.phase = 4 → a.wait = none →
       (let cores := ((a.pages.filter fun p => !p.out && (s.dev.pageLost p).isNone).map (·.core)).dedup
        ∃ t, exec .normalise s = .next t ∧ t.dev = s.dev.keep (cores.foldl (fun d n => d.normSend a n)
          ((s.dev.normMark a (3 * cores.length)).modFlight a.id fun x => { x with reports := [] })))) ∧
     (s.dev.attnTurn.attnEnter.attn = some a → a.phase = 5 → s.dev.attnTurn.attnEnter.held = false → s.dev.attnTurn.attnEnter.attnCoresFree a = true →
       (let cores := (List.range 256).filter fun n => a.pages.any fun p => p.core == n && !p.out && !p.skip
        let r := cores.foldl (Dev.outCore a) ([], s.dev.attnTurn.attnEnter.unasked)
        let q := r.2.shuffle 256 cores
        let e := (q.1.foldl (fun d n => d.coreReduce a n (Tbl.get CoreOut.init r.1 n)) q.2).outEnd a
        e.waits = [] → ∃ t, exec .output s = .next t ∧ t.dev = s.dev.keep e)))

/-! The relay engine (R337 to R355). -/

/-- R337 to R339, R343, R344: a RELAY_STEP with none of its direction running or before it reads its plan and begins with the deadline its descriptor gives in microseconds, or DEF_DEADLINE. A chunk of another device that reaches the inbox behind nothing is answered as it was taken or refused, and counted when taken. R341, R345: the oldest chunk of a step that does not run is discarded once DEF_DEADLINE has passed since it came, and counted as stale with RELAY_LATE. A run whose deadline has passed, with nothing sent yet, is ended as one of its direction is: a DOWN with what has not arrived missing, an UP with the children that have not been merged missing. R342: of the steps of one RTAG only a later one is still taken: STEP, then LAYER, is compared with the last completed, STEP as baton values are. -/
def Obligations.RelaySteps : Prop :=
  (∀ (s : State),
     (∀ (id : Nat) (x : Desc), s.dev.flight id = some x → x.sent = false → x.fin = none → dqOp x.body = 0x70 →
       (let q := s.dev.unasked.planAt (dq x.body 16 0 52)
        let d1 := q.2.2
        let dl := if dq x.body 14 0 16 = 0 then d1.defDeadline else dq x.body 14 0 16
        let r : RelayRun := ⟨id, x.body, q.1, d1.ns + 1000 * dl, [], [], [], false, false, q.2.1, false⟩
        let begun (up : Bool) : Dev := (d1.setRelay up (some r)).modFlight id fun y => { y with sent := true }
        let free (up : Bool) : Prop := s.dev.relay up = none ∧
          (s.dev.descs.any fun y : Desc => decide (y.seq < x.seq) && dqOp y.body == 0x70 && (dq y.body 8 0 2 != 0) == up && !y.sent && y.fin.isNone) = false
        (dq x.body 8 0 2 = 0 → free false → ((begun false).downBegin r).waits = [] → ∃ t, exec (.relayDown id) s = .next t ∧ t.dev = s.dev.keep ((begun false).downBegin r)) ∧
        (dq x.body 8 0 2 = 1 → free true → ((begun true).upBegin r).waits = [] → ∃ t, exec (.relayUp id) s = .next t ∧ t.dev = s.dev.keep ((begun true).upBegin r)) ∧
        (dq x.body 8 0 2 = 2 → free true → ((begun true).upBegin r).waits = [] → ∃ t, exec (.relayUpEmpty id) s = .next t ∧ t.dev = s.dev.keep ((begun true).upBegin r)))) ∧
     (∀ (fid : BitVec 12) (chunk : List PByte), s.dev.linkOn = true → s.dev.inq = [] → fid.toNat ≠ s.dev.fld FAB_ID.FID 0 0 →
       (let r := s.dev.unasked.chunkArrive fid.toNat chunk
        let d1 := if r.1 = .ok then r.2.pmcDev 0x07 1 else r.2
        d1.fld FAB_ID.FID 0 0 = s.dev.fld FAB_ID.FID 0 0 → (d1.emit (.uioResp fid.toNat r.1 [])).waits = [] →
        ∃ t, exec (.relayChunk fid chunk) s = .next t ∧ t.dev = s.dev.keep (d1.emit (.uioResp fid.toNat r.1 []))))) ∧
  (∀ (s : State),
     (∀ c, (s.dev.chunks.find? fun c => !s.dev.tagRuns c.rtag && decide (c.at' + 1000 * s.dev.defDeadline ≤ s.dev.ns)) = some c → c.slot.isSome = true →
       ∃ t, exec .chunkExpire s = .next t ∧ t.dev.chunks = s.dev.chunks.erase c ∧ t.dev.bit FAB_ERR.RELAY_LATE 0 0 = true ∧ t.dev.mem = s.dev.mem ∧ t.dev.relays = s.dev.relays) ∧
     (∀ r, s.dev.relay false = some r → r.limit < s.dev.ns → r.sending = false → (s.dev.unasked.downLate r).waits = [] → ∃ t, exec (.relayDeadline false) s = .next t ∧ t.dev = s.dev.keep (s.dev.unasked.downLate r)) ∧
     (∀ r, s.dev.relay true = some r → r.limit < s.dev.ns → r.sending = false → (s.dev.unasked.upLate r).waits = [] → ∃ t, exec (.relayDeadline true) s = .next t ∧ t.dev = s.dev.keep (s.dev.unasked.upLate r))) ∧
  (∀ (d : Dev) (rtag st la step layer : Nat), (d.relayLast.find? fun e => e.1 == rtag) = some (rtag, st, la) → st < 2 ^ 32 → step < 2 ^ 32 →
     (d.lateness rtag st la = .equal) ∧ (layer < la → d.lateness rtag st layer = .older) ∧ (la < layer → d.lateness rtag st layer = .later) ∧
     (step ≠ st → (d.lateness rtag step layer = .later ↔ (step + 2 ^ 32 - st) % 2 ^ 32 < 2 ^ 31) ∧ d.lateness rtag step layer ≠ .equal))

/-! The CXL port: host requests and back-invalidation (R314 to R324, R334 to R336). -/

/-- R319 to R321, R323, R334: over the link, a host request of at most one line and a new tag is counted. Before MEM_ACTIVE a read returns poison and a write is completed and dropped, each counted as EARLY; an address that no decoder holds, or whose memory is not backed, as UNMAPPED. A request that is taken waits with its timer, 2,900 ns for board memory and 1,900 ns for other targets, and what need not wait is issued. Every request is a cause of the wake (R406). R323, R324, R334, R335, R353: a read whose timer expires completes with poison and is counted, a write with its completion, and neither is answered again. A recall's GO snoops every line of its range that was in the snoop filter as the cycle began and is not being recalled, and is BUSY while there is one; a host's answer takes its line out of the filter and the recalls, and BUSY clears with the last. -/
def Obligations.HostRequests : Prop :=
  (∀ (s : State) (tag hpa : Nat), s.dev.linkOn = true → s.dev.cfg.ideFailed = false → (s.dev.port.any fun r => r.tag == tag) = false →
     (∀ (len : Nat) (want : CohState), len ≠ 0 → hpa % 64 + len ≤ 64 →
       (s.dev.bit FAB_PORT.MEM_ACTIVE 0 0 = false → ∃ t, exec (.cxlMemRead tag hpa len want) s = .next t ∧
         t.dev = s.dev.keep ((((s.dev.pmcDev 0x05 1).count FAB_RESP.EARLY 0 0 1).emit (.memData tag true .inval (poisonBytes len))).wake .mem)) ∧
       (s.dev.bit FAB_PORT.MEM_ACTIVE 0 0 = true → (s.dev.pmcDev 0x05 1).hdmFind hpa = none → ∃ t, exec (.cxlMemRead tag hpa len want) s = .next t ∧
         t.dev = s.dev.keep ((((s.dev.pmcDev 0x05 1).count FAB_RESP.UNMAPPED 0 0 1).emit (.memData tag true .inval (poisonBytes len))).wake .mem)) ∧
       (∀ a st d1, s.dev.bit FAB_PORT.MEM_ACTIVE 0 0 = true → (s.dev.pmcDev 0x05 1).hdmFind hpa = some a → (s.dev.pmcDev 0x05 1).backed a len = true →
         (s.dev.pmcDev 0x05 1).sfGrant (a / 64) want = (st, d1) → ∃ t, exec (.cxlMemRead tag hpa len want) s = .next t ∧
           t.dev = s.dev.keep ((Dev.portPump { d1 with port := d1.port ++ [⟨tag, false, a, len, [], st, d1.ns + (if d1.gddrHas a len then 2900 else 1900), false, false⟩] }).wake .mem))) ∧
     (∀ data : List PByte, data ≠ [] → hpa % 64 + data.length ≤ 64 →
       (s.dev.bit FAB_PORT.MEM_ACTIVE 0 0 = false → ∃ t, exec (.cxlMemWrite tag hpa data) s = .next t ∧
         t.dev = s.dev.keep ((((s.dev.pmcDev 0x05 1).count FAB_RESP.EARLY 0 0 1).emit (.memCmp tag)).wake .mem) ∧ (s.dev.power ≠ .parked → t.dev.mem = s.dev.mem)) ∧
       (∀ a, s.dev.bit FAB_PORT.MEM_ACTIVE 0 0 = true → (s.dev.pmcDev 0x05 1).hdmFind hpa = some a → (s.dev.pmcDev 0x05 1).backed a data.length = true → s.dev.portHeld = false →
         ∃ t, exec (.cxlMemWrite tag hpa data) s = .next t ∧
           (let d1 := s.dev.pmcDev 0x05 1
            t.dev = s.dev.keep ((Dev.portPump { d1 with port := d1.port ++ [⟨tag, true, a, data.length, data, .inval, d1.ns + (if d1.gddrHas a data.length then 2900 else 1900), false, false⟩] }).wake .mem))))) ∧
  (∀ (s : State),
     (∀ tag r, (s.dev.port.find? fun r => r.tag == tag) = some r → r.answered = false → r.limit < s.dev.ns → s.dev.linkOn = true →
       ∃ t, exec (.portTimerExpire tag) s = .next t ∧
         (let d1 : Dev := { s.dev with port := (s.dev.port.map fun x : PortReq => if x.tag = tag then { x with answered := true } else x).filter fun x => !(x.tag == tag && !x.write && !x.sent) }
          (r.write = true → t.dev = s.dev.keep (d1.emit (.memCmp tag)).portPump) ∧
          (r.write = false → t.dev = s.dev.keep ((((d1.pmcDev 0x06 1).count FAB_RESP.TIMER_POISON 0 0 1).emit (.memData tag true r.state (poisonBytes r.len))).portPump)))) ∧
     (∀ line, s.dev.cfg.ideFailed = false → ∃ t, exec (.birspi line) s = .next t ∧ t.dev.recalls = s.dev.recalls.erase line ∧ t.dev.biOut = s.dev.biOut.erase line ∧
       t.dev.bit FAB_BI_CTL.BUSY 0 0 = !(s.dev.recalls.erase line).isEmpty ∧ t.dev.mem = s.dev.mem) ∧
     (s.dev.bit FAB_BI_CTL.BUSY 0 0 = false → ∃ t, exec .recallGo s = .next t ∧
       (let a := s.dev.fld FAB_BI_ADDR.ADDR 0 0
        let n := s.dev.fld FAB_BI_CTL.LINES 0 0
        let ls := sortAsc ((s.dev.sf.flatMap (·.2)).filter fun l => decide (a ≤ l) && decide (l < a + n) && s.dev.cyc.sf.any fun p => p.2.contains l)
        t.dev.recalls = ls ∧ t.dev.biOut = s.dev.biOut ++ ls.filter (fun l => !s.dev.biOut.contains l) ∧ t.dev.bit FAB_BI_CTL.BUSY 0 0 = !ls.isEmpty ∧ t.dev.mem = s.dev.mem)) ∧
     (∀ line, s.dev.linkOn = true → s.dev.cfg.ideFailed = false → Tbl.get none s.dev.watch line = none →
       ∃ t, exec (.cxlCacheSnoop line) s = .next t ∧ t.dev = s.dev.emit (.snpResp line false)) ∧
     (∀ line w, s.dev.linkOn = true → s.dev.cfg.ideFailed = false → Tbl.get none s.dev.watch line = some w →
       ∃ t, exec (.cxlCacheSnoop line) s = .next t ∧ t.dev = s.dev.keep ((s.dev.emit (.snpResp line (!w.reading && s.dev.cacheOn))).doorbellSnoop line)))

/-! The CXL port: UIO, decoders, configuration and the link (R318 to R336). -/

/-- R329: of an outstanding request, a completed write goes on with what it served, a refused one is sent again 1 µs later, and a read's data goes to the descriptor or the line fill that asked for it. A request without a completion for 50 µs fails with DEADLINE. R330, R341: an inbound request of 1 to 512 bytes over the link, with none waiting before it, is refused, and IN_REFUSED set, unless a window admits it or it is an access of baton records; one admitted is served and answered once it lacks nothing it must wait for, one of a reached baton at its unit. A write to the inbox is a relay chunk. R290, R316, R318, R320, R331, R336: decoders commit in ascending order, aligned to 256 MiB within one span. A configuration request before 200 ms is answered Retry, after it completed: a read with the bits that R314 to R318 state, a write with what it sets of them. The link comes up at its speed and width and every held doorbell line is read again; when it goes down it counts, and held requests and reads behind it are over. A MAC failure of CXL.cachemem IDE is Fatal and ends the stream: what the port holds is discarded in containment mode, and carried out unanswered in skid mode. Discovery lists the protocols. -/
def Obligations.UnorderedIoAndLink : Prop :=
  (∀ (s : State) (tag : Nat) (u : Uio), s.dev.uioFind tag = some u →
     (∀ t0, u.issued = some t0 → t0 + 50000 ≤ s.dev.ns → ∃ t, exec (.uioTimeout tag) s = .next t ∧ t.dev = s.dev.keep (s.dev.uioFail u .deadline)) ∧
     (∀ t0 r, u.issued = some t0 → s.dev.ns < t0 + 50000 → u.retryAt = some r → r ≤ s.dev.ns →
       ∃ t, exec (.uioRetry tag) s = .next t ∧ t.dev.out = .uio u.tag u.write u.addr u.len u.data :: s.dev.out ∧
         t.dev.uio = (s.dev.uio.map fun v : Uio => if v.tag = tag then { v with retryAt := none } else v) ∧ t.dev.mem = s.dev.mem ∧ t.dev.regs = s.dev.regs) ∧
     (s.dev.linkOn = true → u.retryAt = none → u.write = true →
       (∀ data, ∃ t, exec (.uioCompletion tag .ok data) s = .next t ∧ t.dev = s.dev.keep ((s.dev.uioDrop fun v => v.tag == tag).uioOver u.owner .ok)) ∧
       (∀ st data, st ≠ .ok → ∃ t, exec (.uioCompletion tag st data) s = .next t ∧
         t.dev = { s.dev with uio := s.dev.uio.map fun v : Uio => if v.tag = tag then { v with retryAt := some (s.dev.ns + 1000) } else v })) ∧
     (∀ (id : Nat) (data : List PByte), s.dev.linkOn = true → u.retryAt = none → u.write = false → u.owner = .desc id → data.length = u.len →
       ∃ t, exec (.uioCompletion tag .ok data) s = .next t ∧
         t.dev = s.dev.keep ((s.dev.uioDrop fun v => v.tag == u.tag).uioOver (.desc id) (if anyPoison data then .poisonRead else .ok))) ∧
     (∀ (c l : Nat) (data : List PByte), s.dev.linkOn = true → u.retryAt = none → u.write = false → u.owner = .line c l → data.length = u.len →
       ∃ t, exec (.uioCompletion tag .ok data) s = .next t ∧
         t.dev = s.dev.keep (((s.dev.uioDrop fun v => v.tag == u.tag).fillGot c l (u.addr % 4096 / 256) data (if anyPoison data then .poisonRead else .ok)).regWork c).portPump)) ∧
  (∀ (s : State) (fid : BitVec 12) (a : BitVec 52) (len : Nat), s.dev.linkOn = true → len ≠ 0 → len ≤ 512 → s.dev.inq = [] →
     (let wins (w : Bool) : Bool := (List.range 8).any fun i => s.dev.inWin i w a.toNat len
      let inbox : Prop := inboxBase ≤ a.toNat ∧ a.toNat + len ≤ fabBase
      (∀ data : List PByte, data.length = len → ¬inbox → inBaton true a.toNat len = false →
        (wins true = true → (let e := (s.dev.unasked.accWrite endPort a.toNat data 0 .none []).2.emit (.uioResp fid.toNat .ok [])
          e.waits = [] → ∃ t, exec (.inboundUio fid true a len data) s = .next t ∧ t.dev = s.dev.keep e)) ∧
        (wins true = false → ∃ t, exec (.inboundUio fid true a len data) s = .next t ∧
          t.dev = s.dev.keep ((s.dev.fabErr FAB_ERR.IN_REFUSED (some fid.toNat)).emit (.uioResp fid.toNat .unsupported [])) ∧ t.dev.mem = s.dev.mem)) ∧
      (∀ data : List PByte, data.length = len → inbox → (let e := s.dev.unasked.relayIn fid.toNat data
        e.waits = [] → ∃ t, exec (.inboundUio fid true a len data) s = .next t ∧ t.dev = s.dev.keep e)) ∧
      (∀ (w : Bool) (data : List PByte), (w = true → data.length = len) → ¬(w = true ∧ inbox) → inBaton w a.toNat len = true → s.dev.regionReach (batonRegion ((a.toNat - batonBase) / 64)) = true →
        (let c := batonRegion ((a.toNat - batonBase) / 64)
         let e := s.dev.unasked.btnAccess (.uio fid.toNat) (ioPort c) a.toNat len (if w then some data else none)
         e.waits = [] → ∃ t, exec (.inboundUio fid w a len data) s = .next t ∧ t.dev = s.dev.keep e)) ∧
      (∀ data : List PByte, wins false = true → inBaton false a.toNat len = false → (let r := s.dev.unasked.takeRead endPort a.toNat len
        (r.2.2.emit (.uioResp fid.toNat .ok r.1)).waits = [] → ∃ t, exec (.inboundUio fid false a len data) s = .next t ∧ t.dev = s.dev.keep (r.2.2.emit (.uioResp fid.toNat .ok r.1)))) ∧
      (∀ data : List PByte, wins false = false → inBaton false a.toNat len = false → ∃ t, exec (.inboundUio fid false a len data) s = .next t ∧
        t.dev = s.dev.keep ((s.dev.fabErr FAB_ERR.IN_REFUSED (some fid.toNat)).emit (.uioResp fid.toNat .unsupported []))))) ∧
  (∀ (s : State),
     (∀ (dec : Fin 8) (hpa size skip : Nat), (let a := ((s.dev.hdm.getLast?.map fun h => h.dpa + h.size).getD 0) + skip
         dec.val = s.dev.hdm.length → hpa % 2 ^ 28 = 0 → size % 2 ^ 28 = 0 → 0 < size → skip % 2 ^ 28 = 0 → hdmSpan a size = true →
         ¬(stackEnd ≤ a ∧ a < scratchBase ∧ (s.dev.gdrChans = [] ∨ s.dev.gddr.fitted = 0)) →
         ∃ t, exec (.hdmCommit dec hpa size skip) s = .next t ∧ t.dev.hdm = s.dev.hdm ++ [⟨hpa, size, a⟩] ∧ t.dev.out = .hdm true :: s.dev.out ∧ t.dev.mem = s.dev.mem ∧ t.dev.regs = s.dev.regs)) ∧
     (∀ (dec : Fin 8) (hpa size skip : Nat), dec.val ≠ s.dev.hdm.length → ∃ t, exec (.hdmCommit dec hpa size skip) s = .next t ∧ t.dev = s.dev.emit (.hdm false)) ∧
     (∀ (w : Bool) (reg : Nat) (v : BitVec 32), s.dev.linkOn = true → s.dev.sincePerst 200 = false → ∃ t, exec (.configRequest w reg v) s = .next t ∧ t.dev = s.dev.emit (.config true 0)) ∧
     (∀ (reg : Nat) (v : BitVec 32), s.dev.linkOn = true → s.dev.sincePerst 200 = true → ∃ t, exec (.configRequest true reg v) s = .next t ∧
       t.dev = s.dev.keep ((s.dev.cfgWrite reg v).emit (.config false 0))) ∧
     (∀ (reg : Nat) (v : BitVec 32), s.dev.linkOn = true → s.dev.sincePerst 200 = true → ∃ t x, exec (.configRequest false reg v) s = .next t ∧
       t.dev.out = .config false x :: s.dev.out ∧ x &&& BitVec.ofNat 32 (s.dev.cfgStated reg).1 = BitVec.ofNat 32 (s.dev.cfgStated reg).2 &&& BitVec.ofNat 32 (s.dev.cfgStated reg).1 ∧
       t.dev.regs = s.dev.regs ∧ t.dev.mem = s.dev.mem) ∧
     (∀ (g w c : Bool), s.dev.fld FAB_PORT.SPEED 0 0 = 0 → s.dev.perstAt ≠ none → s.dev.power ≠ .halt →
       ∃ t, exec (.linkUp g w c) s = .next t ∧ t.dev.fld FAB_PORT.SPEED 0 0 = (if g then 2 else 1) ∧ t.dev.fld FAB_PORT.WIDTH 0 0 = (if w then 8 else 4) ∧
         t.dev.bit FAB_PORT.CACHE_EN 0 0 = c ∧ t.dev.cfg.ideFailed = false ∧ t.dev.mem = s.dev.mem) ∧
     (s.dev.fld FAB_PORT.SPEED 0 0 ≠ 0 → ∃ t, exec .linkDown s = .next t ∧
       (let d1 := ((s.dev.setFld FAB_PORT.SPEED 0 0 0).setFld FAB_PORT.WIDTH 0 0 0).count FAB_PORT.LINK_DOWNS 0 0 1
        t.dev = s.dev.keep (Dev.portReadsFail (Dev.portDiscard { d1 with inq := d1.inq.filter fun q => q.fid == d1.fld FAB_ID.FID 0 0 })))) ∧
     (s.dev.bit FAB_PORT.IDE_CM 0 0 = true → ∃ t, exec .ideMacFail s = .next t ∧
       (let d1 := Dev.viralSig { (s.dev.setBit FAB_PORT.IDE_CM 0 0 false).event 3 .ideMac [] with fatal := true, cfg := { s.dev.cfg with ideFailed := true } }
        t.dev.fatal = true ∧ t.dev.cfg.ideFailed = true ∧ (s.dev.cfg.ideSkid = false → t.dev = s.dev.keep d1.portDiscard) ∧
        (s.dev.cfg.ideSkid = true → t.dev = s.dev.keep { d1 with port := d1.port.map fun r : PortReq => { r with answered := true } }))) ∧
     (s.dev.linkOn = true → s.dev.sincePerst 200 = true → ∃ t, exec .doeDiscovery s = .next t ∧ t.dev = s.dev.emit (.doe doeProtocols)))

/-! The mailbox, the call room and services (R314, R332, R502, R503). -/

/-- R314, R332: over the link, the mailbox that is ready answers each of its commands: Identify, the logs it supports, the portion asked for of the effects log, the records of an event log from the oldest on, the clearing of them, the event interrupt policy and the timestamp, each as last set, and the capacities. R502, R503: a request for a service that is not ready is held in the call room, and answered Busy where the service has failed, or at the end of its cycle where the room then holds 32 before it (R517); one that is ready serves it. A service that becomes ready at its time serves what the call room held for it, in order of arrival. One not ready 1 s after the start has failed: what was held for it is answered Busy and BOOT_FAULT is set. -/
def Obligations.MailboxAndCallRoom : Prop :=
  (∀ (s : State), s.dev.linkOn = true → s.dev.svc.contains .mailbox = true →
     (∃ t b, exec .identify s = .next t ∧ t.dev.out = .mailbox 0 b :: s.dev.out ∧ b.take 2 = toBytes 2 (s.dev.fld DEV_IDENT.VENDOR 0 0) ∧ t.dev.mem = s.dev.mem ∧ t.dev.regs = s.dev.regs) ∧
     (∃ t, exec .getSupportedLogs s = .next t ∧ t.dev = s.dev.emit (.mailbox 0 (toBytes 2 1 ++ toBytes 6 0 ++ toBytes 16 celUuid.toNat ++ toBytes 4 celLog.length))) ∧
     (∀ off len, off + len ≤ celLog.length → ∃ t, exec (.getLog celUuid off len) s = .next t ∧ t.dev = s.dev.emit (.mailbox 0 ((celLog.drop off).take len))) ∧
     (∀ uuid off len, uuid ≠ celUuid → ∃ t, exec (.getLog uuid off len) s = .next t ∧ t.dev = s.dev.emit (.mailbox 0x17 [])) ∧
     (∀ log : Fin 4, ∃ t, exec (.getEventRecords log) s = .next t ∧
       t.dev = s.dev.emit (.events log (Tbl.get 0 s.dev.evOver log) (Tbl.get [] s.dev.evLogs log).reverse)) ∧
     (∀ (log : Fin 4) hs, ∃ t, exec (.clearEventRecords log true hs) s = .next t ∧ Tbl.get [] t.dev.evLogs log = [] ∧ Tbl.get 0 t.dev.evOver log = 0 ∧
       t.dev.out = .mailbox 0 [] :: s.dev.out ∧ (∀ k, k ≠ log.val → Tbl.get [] t.dev.evLogs k = Tbl.get [] s.dev.evLogs k) ∧ t.dev.mem = s.dev.mem) ∧
     (∀ (log : Fin 4) hs, (hs.all fun h => (Tbl.get [] s.dev.evLogs log).any fun e => e.handle == h) = true → ∃ t, exec (.clearEventRecords log false hs) s = .next t ∧
       Tbl.get [] t.dev.evLogs log = ((Tbl.get [] s.dev.evLogs log).filter fun e => !hs.contains e.handle)) ∧
     (∃ t, exec .getEventInterruptPolicy s = .next t ∧ t.dev = s.dev.emit (.mailbox 0 (toBytes 4 s.dev.evPolicy.toNat))) ∧
     (∀ p, ∃ t, exec (.setEventInterruptPolicy p) s = .next t ∧ t.dev = { s.dev with evPolicy := p }.emit (.mailbox 0 [])) ∧
     (∃ t, exec .getTimestamp s = .next t ∧ t.dev = s.dev.emit (.mailbox 0 (toBytes 8 s.dev.stampNow))) ∧
     (∀ v : Word, ∃ t, exec (.setTimestamp v) s = .next t ∧ t.dev = { s.dev with stamp := some (v.toNat, s.dev.ns) }.emit (.mailbox 0 []) ∧ t.dev.stampNow = v.toNat) ∧
     (∃ t b, exec .identifyMemoryDevice s = .next t ∧ t.dev.out = .mailbox 0 b :: s.dev.out ∧
       (b.drop 16).take 8 = toBytes 8 ((stackEnd + s.dev.gddr.usableMib * 2 ^ 20) / 2 ^ 28) ∧ t.dev.mem = s.dev.mem)) ∧
  (∀ (s : State) (chan : Channel) (svc : Service) (body : List Byte),
     (s.dev.svc.contains svc = true → ∃ t, exec (.callRoom chan svc body) s = .next t ∧ t.dev = s.dev.emit (.served svc chan body)) ∧
     (s.dev.svc.contains svc = false → s.dev.perstAt ≠ none → s.dev.dead.contains svc = false →
       ∃ t, exec (.callRoom chan svc body) s = .next t ∧ t.dev = { s.dev with calls := s.dev.calls ++ [⟨chan, svc, .callRoom chan svc body, s.dev.ns⟩] }) ∧
     (s.dev.svc.contains svc = false → s.dev.perstAt ≠ none → s.dev.dead.contains svc = true →
       ∃ t, exec (.callRoom chan svc body) s = .next t ∧ t.dev = s.dev.emit (.busy svc chan)) ∧
     (s.dev.roomSettle.calls = s.dev.calls.take 32 ∧ s.dev.roomSettle.out = ((s.dev.calls.drop 32).map fun c => Output.busy c.svc c.chan).reverse ++ s.dev.out) ∧
     (s.dev.sincePerst (readyMs svc) = true → s.dev.svc.contains svc = false → s.dev.dead.contains svc = false → s.dev.mgmt = true →
       ∃ t, exec (.serviceReady svc) s = .next t ∧
         (let held := s.dev.calls.filter fun c => c.svc == svc
          let d1 : Dev := { s.dev with svc := s.dev.svc ++ [svc], calls := s.dev.calls.filter fun c => c.svc != svc }
          t.dev = s.dev.keep (d1.serveCalls held.length held))) ∧
     (s.dev.sincePerst 1000 = true → s.dev.svc.contains svc = false → s.dev.dead.contains svc = false →
       ∃ t, exec (.bootFault svc) s = .next t ∧ t.dev.dead = s.dev.dead ++ [svc] ∧ t.dev.calls = (s.dev.calls.filter fun c => c.svc != svc) ∧ t.dev.fatal = true ∧
         t.dev.bit STARTER_STATUS.BOOT_FAULT 0 0 = true) ∧
     (∀ entry, s.dev.linkOn = true → s.dev.svc.contains .cdat = true → ∃ t, exec (.cdatTableAccess entry) s = .next t ∧
       (∃ b, t.dev.out = .doe (toBytes 2 entry ++ b) :: s.dev.out) ∧ t.dev.mem = s.dev.mem ∧ t.dev.regs = s.dev.regs))

/-! SPDM, IDE keys and the security commands (R555 to R571). -/

/-- R561, R562: with SPDM ready and outside any session, a connection answers its requests in order: GET_VERSION begins it anew, capabilities and algorithms take it on; digests, certificates of slot 0, challenges, measurements and a key exchange follow. A response with a signature signs what went before. R562, R563: FINISH opens the session it is made in. Inside an open session, on a connection that has been set up, HEARTBEAT is answered, KEY_UPDATE advances the session's keys, END_SESSION ends it. Over DOE, the IDE requests inside it program a key set of one of the 4 streams, take it into use, and stop it, and FAB_PORT shows which IDE is on. -/
def Obligations.SpdmSessions : Prop :=
  (∀ (s : State) (q : SpdmReq), s.dev.svc.contains .spdm = true → q.session = none →
     (∃ t, exec (.spdmGetVersion q) s = .next t ∧ t.dev.spdmOf q.overDoe = ⟨1, q.body ++ [0x10, 0x04, 0, 0, 0, 1, 0, 0x12]⟩ ∧
       t.dev.out = .spdm q.overDoe none [0x10, 0x04, 0, 0, 0, 1, 0, 0x12] :: s.dev.out ∧ t.dev.mem = s.dev.mem) ∧
     (1 ≤ (s.dev.spdmOf q.overDoe).stage → ∃ t, exec (.spdmGetCapabilities q) s = .next t ∧ (t.dev.spdmOf q.overDoe).stage = 2 ∧ t.dev.mem = s.dev.mem) ∧
     (2 ≤ (s.dev.spdmOf q.overDoe).stage → ∃ t, exec (.spdmNegotiateAlgorithms q) s = .next t ∧ (t.dev.spdmOf q.overDoe).stage = 3 ∧ t.dev.mem = s.dev.mem) ∧
     (3 ≤ (s.dev.spdmOf q.overDoe).stage →
       (∃ t, exec (.spdmGetDigests q) s = .next t ∧ t.dev = s.dev.keep (s.dev.spdmSay q ([0x12, 0x01, 0, 1] ++ sha512 Config.certChain))) ∧
       (∀ off len, off ≤ Config.certChain.length → ∃ t, exec (.spdmGetCertificate q 0 off len) s = .next t ∧
         (let b := (Config.certChain.drop off).take len
          t.dev = s.dev.keep (s.dev.spdmSay q ([0x12, 0x02, 0, 0] ++ toBytes 2 b.length ++ toBytes 2 (Config.certChain.length - off - b.length) ++ b)))) ∧
       (∃ t, exec (.spdmChallenge q 0) s = .next t ∧
         t.dev = s.dev.keep ((s.dev.draw 32).2.spdmSigned q ([0x12, 0x03, 0, 1] ++ sha512 Config.certChain ++ (s.dev.draw 32).1 ++ toBytes 2 0))) ∧
       (∃ t, exec (.spdmGetMeasurements q 0 false) s = .next t ∧ t.dev.draws = s.dev.draws + 4 ∧ (t.dev.spdmOf q.overDoe).stage = (s.dev.spdmOf q.overDoe).stage ∧ t.dev.mem = s.dev.mem) ∧
       (∀ i, s.dev.sessions.length < 4 → ((([0, 1, 2, 3, 4].map (· + 1)).find? fun i => !(s.dev.sessions.any fun x => x.id == i)) = some i) →
         ∃ t, exec (.spdmKeyExchange q) s = .next t ∧ t.dev.sessions = s.dev.sessions ++ [⟨i, q.overDoe, false, 0⟩] ∧ t.dev.draws = s.dev.draws + 16))) ∧
  (∀ (s : State) (q : SpdmReq) (i : Nat) (x : Session), s.dev.svc.contains .spdm = true → q.session = some i → s.dev.sessionOf q = some x →
     (x.open' = false → ∃ t, exec (.spdmFinish q) s = .next t ∧ t.dev = s.dev.keep ((s.dev.modSession q fun x => { x with open' := true }).spdmSay q [0x12, 0x65, 0, 0])) ∧
     (x.open' = true → 3 ≤ (s.dev.spdmOf q.overDoe).stage →
       (∃ t, exec (.spdmHeartbeat q) s = .next t ∧ t.dev = s.dev.keep (s.dev.spdmSay q [0x12, 0x68, 0, 0])) ∧
       (∃ t, exec (.spdmKeyUpdate q) s = .next t ∧ t.dev = s.dev.keep ((s.dev.modSession q fun x => { x with gen := x.gen + 1 }).spdmSay q [0x12, 0x69, 0, 0])) ∧
       (∃ t, exec (.spdmEndSession q) s = .next t ∧ t.dev.sessionOf q = none ∧ t.dev.mem = s.dev.mem) ∧
       (q.overDoe = true →
         (∃ t, exec (.ideQuery q) s = .next t ∧ t.dev = s.dev.keep (s.dev.spdmSay q [0x01, 1, 2])) ∧
         (∀ stream ks key, stream < 4 → ∃ t, exec (.ideKeyProg q stream ks key) s = .next t ∧
           t.dev.ide = (s.dev.ide.filter fun k => !(k.stream == stream && k.keySet == ks)) ++ [⟨stream, ks, key, false⟩] ∧
           t.dev.bit FAB_PORT.IDE_CM 0 0 = t.dev.ide.any (fun k => k.go && k.stream == 3) ∧ t.dev.mem = s.dev.mem) ∧
         (∀ stream ks, (s.dev.ide.any fun k => k.stream == stream && k.keySet == ks) = true → ∃ t, exec (.ideKSetGo q stream ks) s = .next t ∧
           t.dev.ide = (s.dev.ide.map fun k : IdeKey => if k.stream = stream then { k with go := k.keySet == ks } else k) ∧
           t.dev.bit FAB_PORT.IDE_CM 0 0 = t.dev.ide.any (fun k => k.go && k.stream == 3)) ∧
         (∀ stream ks, ∃ t, exec (.ideKSetStop q stream ks) s = .next t ∧
           t.dev.ide = (s.dev.ide.map fun k : IdeKey => if k.stream = stream ∧ k.keySet = ks then { k with go := false } else k) ∧
           t.dev.bit FAB_PORT.IDE_CM 0 0 = t.dev.ide.any (fun k => k.go && k.stream == 3)))))

/-- R557 to R560, R565, R569 to R571: with management firmware running, SEC_CMD idle and what the command reads there, FW_UPDATE of an image that fails its checks ends with the failure and writes nothing; a sound one is written to the slot that did not boot, which is then checked. COMMIT_SVN raises the fused least version to that of the running firmware, with no supply sag; a count that has reached it stands. REVOKE of a key other than the token's revokes it. DEBUG_UNLOCK with a sound token opens debug with the token's permissions, ends every session and erases every IDE key. A new nonce is 32 fresh random bytes. -/
def Obligations.SecurityCommands : Prop :=
  ∀ (s : State) (r : Req),
    (s.dev.mgmt = true → s.dev.bit SEC_CMDST.BUSY 0 0 = false →
      (∀ (a : BitVec 52) st h b d1, s.dev.unasked.imageAt 1 a.toNat = (st, h, b, d1) → st ≠ .ok → d1.waits = [] → ∃ t, exec (.fwUpdate r a) s = .next t ∧ t.dev.mem = d1.mem ∧
        t.dev.bit SEC_CMDST.DONE 0 0 = true ∧ t.dev.fld SEC_CMDST.STATUS 0 0 = st.code) ∧
      (∀ (a : BitVec 52) h b d1, s.dev.unasked.imageAt 1 a.toNat = (.ok, h, b, d1) → d1.nvmBlocked = false → d1.waits = [] →
        (let d2 : Dev := { d1 with mem := storeBytes d1.mem (fwKey ((1 - d1.fld SEC_STATUS.BOOT_SLOT 0 0) * 0x400000)) (h ++ b) }
         let p := d2.fwSlot (1 - d1.fld SEC_STATUS.BOOT_SLOT 0 0)
         ∃ t, exec (.fwUpdate r a) s = .next t ∧ t.dev.mem = d2.mem ∧ t.dev.bit SEC_CMDST.DONE 0 0 = true ∧
           t.dev.fld SEC_CMDST.STATUS 0 0 = (if d2.imageCheck 1 p.1 p.2 = .ok then SecStatus.ok else SecStatus.store).code)) ∧
      (s.dev.fuse.svnMgmt < s.dev.fld SEC_STATUS.RUN_SVN_MGMT 0 0 → s.dev.fld SEC_STATUS.RUN_SVN_MGMT 0 0 ≤ 63 → s.dev.nvmBlocked = false →
        ∃ t, exec (.commitSvn r 1) s = .next t ∧ t.dev.fuse = { s.dev.fuse with svnMgmt := s.dev.fld SEC_STATUS.RUN_SVN_MGMT 0 0 } ∧
          t.dev.bit SEC_CMDST.DONE 0 0 = true ∧ t.dev.fld SEC_CMDST.STATUS 0 0 = 0) ∧
      (s.dev.fld SEC_STATUS.RUN_SVN_CORE 0 0 ≤ s.dev.fuse.svnCore → ∃ t, exec (.commitSvn r 2) s = .next t ∧ t.dev.fuse.svnCore = s.dev.fuse.svnCore ∧
          t.dev.fld SEC_CMDST.STATUS 0 0 = 0) ∧
      (∀ (a : BitVec 52) tk d1, s.dev.unasked.tokenAt a.toNat true = (.ok, tk, d1) → d1.waits = [] → hdrNum tk 56 2 < 2 → d1.fuse.revoked.contains (1 - hdrNum tk 56 2) = false → hdrNum tk 4 1 ≠ hdrNum tk 56 2 →
        d1.nvmBlocked = false → d1.fuse = s.dev.fuse → ∃ t, exec (.revoke r a) s = .next t ∧ t.dev.fuse.revoked.contains (hdrNum tk 56 2) = true ∧ t.dev.bit SEC_CMDST.DONE 0 0 = true) ∧
      (∀ (a : BitVec 52) tk d1, s.dev.unasked.tokenAt a.toNat false = (.ok, tk, d1) → d1.waits = [] → ∃ t, exec (.debugUnlock r a) s = .next t ∧ t.dev.bit SEC_STATUS.DEBUG_UNLOCKED 0 0 = true ∧
        t.dev.fld SEC_STATUS.PERMS 0 0 = hdrNum tk 48 1 % 8 ∧ t.dev.sessions = [] ∧ t.dev.ide = [] ∧ t.dev.fld SEC_CMDST.STATUS 0 0 = 0)) ∧
    (∃ t, exec .nonceGen s = .next t ∧ t.dev.draws = s.dev.draws + 4 ∧ (∀ i, i < 4 → t.dev.fld SEC_DBG_NONCE.NONCE 0 i = (Config.random (s.dev.draws + i)).toNat) ∧ t.dev.mem = s.dev.mem)

/-! The package (R380 to R398, R540). -/

/-- R381, R384, R385, R387, R444: as 3V3_AUX rises the always-on domain starts, with the fused trim, once. Its fall keeps only the MRAM, the firmware store and the fuses. Straps are sampled once, 10 ms after it rose. R378, R384 to R386, R398: 20 ms after 3V3_AUX, with the module there, 12 V above 11.4 V and no trip, MOD_EN rises; PWR_GOOD then shows, or after 5 ms without it MOD_EN drops for good. PWR_GOOD lost while PERST_N is low takes the rails; a module that is gone takes MOD_EN. R385 to R387, R398, R502: PERST_N high starts the device, unless a trip is latched; PERST_N low, with the buffers drained and the life log updated, resets it and drops MOD_EN. A junction at 120 °C trips it: the trip is latched and recorded and MOD_EN drops. The trip clears when PERST_N has been low for 100 ms and every sensor reads below 100 °C. -/
def Obligations.SuppliesAndResetPin : Prop :=
  (∀ (s : State),
     (s.dev.auxAt = none → ∃ t, exec .auxPowerUp s = .next t ∧ t.dev.auxAt = some s.dev.ns ∧
       t.dev = s.dev.keep ((({ s.dev with auxAt := some s.dev.ns, perstLow := s.dev.ns } : Dev).setFld TK_OSC.TRIM 0 0 s.dev.fuse.trim).lifeLoad)) ∧
     (∃ t, exec .auxPowerDown s = .next t ∧ t.dev.auxAt = none ∧ t.dev.fuse = s.dev.fuse ∧ t.dev.regs = Dev.reset.regs ∧
       t.dev.mem = (s.dev.mem.filter fun c => decide (2 ^ 54 ≤ c.1) && decide (c.1 < histKey 0))) ∧
     (∀ (sel : BitVec 2) (smbus : Bool) t0, s.dev.auxAt = some t0 → t0 + 10000000 ≤ s.dev.ns → s.dev.strapped = false →
       ∃ t, exec (.strapSample sel smbus) s = .next t ∧ t.dev.strapped = true ∧ t.dev.fld DEV_PINS.ADDR_SEL 0 0 = sel.toNat ∧ t.dev.bit DEV_PINS.MGMT_MODE 0 0 = smbus ∧
         t.dev.mem = s.dev.mem)) ∧
  (∀ (s : State),
     (∀ mv t0, s.dev.auxAt = some t0 → t0 + 20000000 ≤ s.dev.ns → s.dev.modEn = false → s.dev.modFail = false → s.dev.power ≠ .halt → 11400 < mv → s.dev.bit DEV_PINS.TRIPPED 0 0 = false →
       ∃ t, exec (.modEn true mv) s = .next t ∧ t.dev.modEn = true ∧ t.dev.modEnAt = s.dev.ns ∧ t.dev.bit DEV_PINS.MOD_PRESENT 0 0 = true ∧ t.dev.mem = s.dev.mem) ∧
     (s.dev.modEn = true → ∃ t, exec .pwrGoodRise s = .next t ∧ t.dev = s.dev.keep (s.dev.setBit DEV_PINS.PWR_GOOD 0 0 true)) ∧
     (s.dev.modEn = true → s.dev.bit DEV_PINS.PWR_GOOD 0 0 = false → s.dev.modEnAt + 5000000 ≤ s.dev.ns →
       ∃ t, exec .pwrGoodTimeout s = .next t ∧ t.dev.modEn = false ∧ t.dev.modFail = true ∧ t.dev = s.dev.keep ({ s.dev with modEn := false, modFail := true }.journal 0x08 [])) ∧
     (s.dev.bit DEV_PINS.PWR_GOOD 0 0 = true → s.dev.bit DEV_PINS.PERST 0 0 = false →
       ∃ t, exec .pwrGoodFall s = .next t ∧ t.dev = s.dev.keep (s.dev.setBit DEV_PINS.PWR_GOOD 0 0 false).railsOff) ∧
     (s.dev.bit DEV_PINS.PWR_GOOD 0 0 = true → s.dev.bit DEV_PINS.PERST 0 0 = true → s.dev.power ≠ .halt →
       ∃ t, exec .pwrGoodFall s = .next t ∧
         t.dev = s.dev.keep (s.dev.setBit DEV_PINS.PWR_GOOD 0 0 false).sagForce) ∧
     (s.dev.modEn = true → ∃ t, exec .modIdHigh s = .next t ∧ t.dev = s.dev.keep ({ s.dev.setBit DEV_PINS.MOD_PRESENT 0 0 false with modEn := false }.vinDown))) ∧
  (∀ (s : State),
     (s.dev.auxAt ≠ none → s.dev.bit DEV_PINS.PERST 0 0 = false → s.dev.bit DEV_PINS.TRIPPED 0 0 = false →
       ∃ t, exec .perstDeassert s = .next t ∧ t.dev = s.dev.keep (s.dev.setBit DEV_PINS.PERST 0 0 true).bringUp) ∧
     (s.dev.auxAt ≠ none → s.dev.bit DEV_PINS.PERST 0 0 = false → s.dev.bit DEV_PINS.TRIPPED 0 0 = true →
       ∃ t, exec .perstDeassert s = .next t ∧ t.dev = s.dev.keep (s.dev.setBit DEV_PINS.PERST 0 0 true)) ∧
     (s.dev.bit DEV_PINS.PERST 0 0 = true → ∃ t, exec .perstAssert s = .next t ∧ t.dev.bit DEV_PINS.PERST 0 0 = false ∧ t.dev.modEn = false ∧
       t.dev.perstAt = none ∧ t.dev.descs = [] ∧ t.dev.svc = [] ∧ t.dev.done = 0 ∧ t.dev.fuse = s.dev.fuse) ∧
     (∀ (die : Fin 4) (unit : Nat) (reading : Int), s.dev.auxAt ≠ none → 960 ≤ reading → s.dev.bit DEV_PINS.TRIPPED 0 0 = false →
       ∃ t, exec (.thermtrip die unit reading) s = .next t ∧ t.dev.bit DEV_PINS.TRIPPED 0 0 = true ∧ t.dev.modEn = false ∧ t.dev.tripRec = some (unit % 256 + 256 * die.val) ∧
         t.dev.descs = []) ∧
     (s.dev.bit DEV_PINS.TRIPPED 0 0 = true → s.dev.bit DEV_PINS.PERST 0 0 = false → s.dev.perstLow + 100000000 ≤ s.dev.ns →
       (s.dev.therm.hist.all fun p => decide (p.2.headD 0 < 800)) = true →
       ∃ t, exec .tripClear s = .next t ∧ t.dev.bit DEV_PINS.TRIPPED 0 0 = false ∧ t.dev.mem = s.dev.mem))

/-- R381, R388, R389, R395: in SMBus mode a device that asserts ALERT_N answers with its address. With 3V3_AUX the JTAG port passes one bit through BYPASS, gives its IDCODE least significant bit first, takes the pins into the boundary register and drives it out. A poll of the module takes its readings, and its alert is shown with the status word. R393, R394, R396, R540: with 3V3_AUX on the bus binding, a ready service answers: an MCTP message of an unknown type is an error, Set Endpoint ID takes the ID, a PLDM base request lists the types, a monitored sensor gives its value and state, and effecters 1 and 2 write the inlet and the flow of THM_COOLANT. -/
def Obligations.BoardPorts : Prop :=
  (∀ (s : State),
     (s.dev.strapped = true → s.dev.bit DEV_PINS.MGMT_MODE 0 0 = true → s.dev.alert = true →
       ∃ t, exec .alertResponse s = .next t ∧ t.dev = s.dev.emit (.smbAddress (0x60 + s.dev.fld DEV_PINS.ADDR_SEL 0 0))) ∧
     (s.dev.auxAt ≠ none →
       (∀ tdi, s.dev.jtagIr = .bypass → ∃ t, exec (.jtagBypass tdi) s = .next t ∧ t.dev = { s.dev with jtagBypass := tdi }.emit (.jtag [s.dev.jtagBypass])) ∧
       (∃ t, exec .jtagIdcode s = .next t ∧ t.dev = { s.dev with jtagIr := .idcode }.emit (.jtag ((List.range 32).map fun i => bitOf 0x00D964E5 i))) ∧
       (∀ pins, ∃ t, exec (.jtagSamplePreload pins) s = .next t ∧ t.dev = { s.dev with jtagIr := .sample, boundary := pins }.emit (.jtag pins)) ∧
       (∃ t, exec .jtagExtest s = .next t ∧ t.dev.jtagIr = .extest ∧ t.dev.boundary = s.dev.boundary ∧
         t.dev.out = ((s.dev.boundary.zipIdx).map fun p => Output.pin p.2 p.1).reverse ++ s.dev.out ∧ t.dev.mem = s.dev.mem ∧ t.dev.regs = s.dev.regs) ∧
       (∀ vin iout vout temp, ∃ t, exec (.pmbusPoll vin iout vout temp) s = .next t ∧
         t.dev = { s.dev with pmb := { s.dev.pmb with vin := vin, iout := iout, vout := vout, temp := temp } }) ∧
       (∀ on w, ∃ t, exec (.pmbAlert on w) s = .next t ∧ t.dev.bit DEV_PINS.SRC_MODULE 0 0 = on ∧ t.dev.pmbStatus = (if on then w else s.dev.pmbStatus)))) ∧
  (∀ (s : State), s.dev.auxAt ≠ none →
     (∀ (type : BitVec 8) body, s.dev.svc.contains .mctp = true → 6 < type.toNat → ∃ t, exec (.mctpMessage false type body) s = .next t ∧ t.dev = s.dev.emit (.mctpReply false 0 [1])) ∧
     (∀ e, s.dev.svc.contains .mctp = true → ∃ t, exec (.setEndpointId false e) s = .next t ∧ Tbl.get 0 t.dev.eid 0 = e ∧ t.dev.out = .mctpReply false 0 [0, 0, e, 0] :: s.dev.out ∧
       t.dev.mem = s.dev.mem ∧ t.dev.regs = s.dev.regs) ∧
     (s.dev.svc.contains .pldm = true →
       (∀ sensor, ∃ t, exec (.pldmRequest false 0 sensor) s = .next t ∧ t.dev = s.dev.emit (.mctpReply false 1 [0, 0x05])) ∧
       (∀ sensor v, 1 ≤ sensor → sensor ≤ 19 → Tbl.get none s.dev.pldm sensor = some v →
         ∃ t, exec (.pldmRequest false 2 sensor) s = .next t ∧ t.dev = s.dev.emit (.pldmValue sensor (some v) (s.dev.sensorState sensor v))) ∧
       (∀ sensor, (sensor = 0 ∨ 19 < sensor) → ∃ t, exec (.pldmRequest false 2 sensor) s = .next t ∧ t.dev = s.dev.emit (.mctpReply false 1 [0x80])) ∧
       (∀ v : BitVec 12, s.dev.therm.coolBy ≠ some (s.dev.ns, 0) → ∃ t, exec (.pldmEffecter false 1 v) s = .next t ∧ t.dev.fld THM_COOLANT.INLET 0 0 = v.toNat ∧ t.dev.bit THM_COOLANT.INLET_VALID 0 0 = true ∧
         t.dev.fld THM_COOLANT.FLOW 0 0 = s.dev.fld THM_COOLANT.FLOW 0 0 ∧ t.dev.therm.coolAt = s.dev.ns ∧ t.dev.mem = s.dev.mem) ∧
       (∀ v : BitVec 12, s.dev.therm.coolBy ≠ some (s.dev.ns, 0) → ∃ t, exec (.pldmEffecter false 2 v) s = .next t ∧ t.dev.fld THM_COOLANT.FLOW 0 0 = v.toNat ∧ t.dev.bit THM_COOLANT.FLOW_VALID 0 0 = true ∧
         t.dev.fld THM_COOLANT.INLET 0 0 = s.dev.fld THM_COOLANT.INLET 0 0 ∧ t.dev.therm.coolAt = s.dev.ns ∧ t.dev.mem = s.dev.mem)))

/-! Power (R399 to R417). -/

/-- R401 to R404: a domain that software may switch drains when it asks it OFF and waits for a place when it asks it ON; any other request that would switch a domain is refused. The domain granted a place ramps up; done, it is ON and counted, and drains at once where it is no longer wanted; a failed ramp sets RAMP_FAIL, takes back the request and ramps down. A drain whose work is complete ramps down; one past its bound ends what is left with RESET_ABORT and sets DRAIN_LATE; 1 µs after RAMP_DOWN began the domain is OFF. R404 to R406, R433: PARK with work in flight, before step 10 or outside RUN sets PARK_FAIL. Else the device parks: the through-domains are asked OFF, every cluster clock stops and every slice is asked into self-refresh. A cause that counts takes it to waking and asks the through-domains ON. R412: of a PARK write and a wake cause in one cycle the wake stands, with PARK_FAIL. R400, R407 to R411: an operating point change takes a cluster's clock to the frequency of its point, its rail to follow where the point is lower; for a higher point the rail is set first, and the clock changes once it is there. A power sample joins the last 100 of each pool. A pool above its cap, above its floor and due is trimmed by one step. A preset loads its phase and caps. A supply sample with no level crossed lowers the least value seen of each supply. 50 µs after HALT the module is switched off. -/
def Obligations.DomainsAndPower : Prop :=
  (∀ (s : State) (r : Req) (k : DomId),
     (1 ≤ s.dev.done → s.dev.domSoft k = true → s.dev.domState k = 2 → s.dev.bit PWR_DOM.REQ k 0 = true →
       ∃ t, exec (.domainRequest r k false) s = .next t ∧ t.dev.domState k = 3 ∧ t.dev.bit PWR_DOM.REQ k 0 = false ∧ Tbl.get 0 t.dev.domAt k = s.dev.ns ∧ t.dev.mem = s.dev.mem) ∧
     (1 ≤ s.dev.done → s.dev.domSoft k = true → s.dev.domState k = 0 → s.dev.bit PWR_DOM.REQ k 0 = false →
       ∃ t, exec (.domainRequest r k true) s = .next t ∧ t.dev.domState k = 0 ∧ t.dev.bit PWR_DOM.REQ k 0 = true ∧ Tbl.get 0 t.dev.domAsked k = s.dev.ns ∧ t.dev.mem = s.dev.mem) ∧
     (∀ on, s.dev.bit PWR_DOM.REQ k 0 = !on → (s.dev.done < 1 ∨ s.dev.domSoft k = false) →
       ∃ t, exec (.domainRequest r k on) s = .next t ∧ t.dev.bit PWR_DOM.REFUSED k 0 = true ∧ t.dev.domState k = s.dev.domState k ∧ t.dev.bit PWR_DOM.REQ k 0 = !on ∧ t.dev.mem = s.dev.mem) ∧
     (∀ j d1, s.dev.rampPick = some (j, d1) → ∃ t, exec .rampGrant s = .next t ∧ t.dev = s.dev.keep (d1.domGo j 1)) ∧
     (s.dev.domState k = 1 → s.dev.bit PWR_DOM.REQ k 0 = true → s.dev.power ≠ .waking →
       ∃ t, exec (.rampUpDone k true) s = .next t ∧ t.dev.domState k = 2 ∧ t.dev.mem = s.dev.mem) ∧
     (s.dev.domState k = 1 → Tbl.get 0 s.dev.domAt k + 1000 ≤ s.dev.ns → ∃ t, exec (.rampUpDone k false) s = .next t ∧ t.dev.domState k = 4 ∧ t.dev.bit PWR_DOM.RAMP_FAIL k 0 = true ∧ t.dev.bit PWR_DOM.REQ k 0 = false ∧
       t.dev.mem = s.dev.mem) ∧
     (∀ late, s.dev.domState k = 3 → s.dev.domQuiet k = true → ∃ t, exec (.domainDrainEnd k late) s = .next t ∧ t.dev.domState k = 4 ∧ t.dev.mem = s.dev.mem) ∧
     (∀ b, s.dev.domState k = 3 → s.dev.domQuiet k = false → domBound k = some b → Tbl.get 0 s.dev.domAt k + b ≤ s.dev.ns → ∃ t, exec (.domainDrainEnd k true) s = .next t ∧ t.dev = s.dev.keep (((s.dev.domAbort k).setBit PWR_DOM.DRAIN_LATE k 0 true).domGo k 4)) ∧
     (s.dev.domState k = 4 → Tbl.get 0 s.dev.domAt k + 1000 ≤ s.dev.ns → 256 ≤ k.val → k.val ≠ 442 → ∃ t, exec (.rampDownDone k) s = .next t ∧ t.dev.domState k = 0 ∧ t.dev.mem = s.dev.mem) ∧
     (s.dev.domState k = 4 → Tbl.get 0 s.dev.domAt k + 1000 ≤ s.dev.ns → k.val < 256 → ∃ t, exec (.rampDownDone k) s = .next t ∧ t.dev = s.dev.keep ((s.dev.coreLost k).domGo k 0))) ∧
  (∀ (s : State),
     ((s.dev.done < 10 ∨ s.dev.power ≠ .run) → ∃ t, exec .park s = .next t ∧ t.dev.bit PWR_PARK.PARK_FAIL 0 0 = true ∧ t.dev.power = s.dev.power ∧ t.dev.mem = s.dev.mem) ∧
     ((∀ p ∈ s.dev.regions, p.2.quiet = true) → s.dev.inFlight = true → ∃ t, exec .park s = .next t ∧ t.dev.bit PWR_PARK.PARK_FAIL 0 0 = true ∧ t.dev.power = s.dev.power ∧ t.dev.mem = s.dev.mem) ∧
     (10 ≤ s.dev.done → s.dev.power = .run → (∀ p ∈ s.dev.regions, p.2.quiet = true) → s.dev.inFlight = false → s.dev.pwr.wakeAt ≠ some s.dev.ns → ∃ t, exec .park s = .next t ∧ t.dev.power = .parked ∧
       t.dev.bit PWR_DOM.REQ 288 0 = false ∧ t.dev.bit PWR_DOM.REQ 289 0 = false ∧ (∀ n, n < 256 → (t.dev.slice n).srWanted = true)) ∧
     (s.dev.power = .run → s.dev.pwr.wakeAt = some s.dev.ns → (∀ p ∈ s.dev.regions, p.2.quiet = true) → ∃ t, exec .park s = .next t ∧ t.dev.bit PWR_PARK.PARK_FAIL 0 0 = true ∧
       t.dev.power = .run ∧ t.dev.mem = s.dev.mem) ∧
     (s.dev.power = .parked → s.dev.pwr.parkAt = some s.dev.ns → ∃ t, exec (.wake .write) s = .next t ∧ t.dev = s.dev.keep s.dev.unpark) ∧
     (s.dev.power = .parked → s.dev.pwr.parkAt ≠ some s.dev.ns → s.dev.therm.later = [] → s.dev.domOn 288 = false → ∃ t, exec (.wake .write) s = .next t ∧ t.dev.power = .waking ∧
       t.dev.bit PWR_DOM.REQ 288 0 = true ∧ t.dev.bit PWR_DOM.REQ 289 0 = true ∧ (∀ n, n < 256 → (t.dev.slice n).srWanted = false) ∧ t.dev.mem = s.dev.mem) ∧
     (s.dev.power = .parked → s.dev.bit PWR_PARK.WAKE_ON_MEM 0 0 = false → ∃ t, exec (.wake .mem) s = .next t ∧ t.dev = s.dev)) ∧
  (∀ (s : State),
     (∀ k : ClusterId, s.dev.power = .run → Tbl.get 8 s.dev.points k ≠ 8 → Tbl.get 8 s.dev.points k ≠ s.dev.pointTarget k →
       (let p := s.dev.pointTarget k
        ((p < Tbl.get 8 s.dev.points k ∨ pointMv p ≤ s.dev.railNow k) → ∃ t, exec (.operatingPointChange k) s = .next t ∧
          t.dev = s.dev.keep ((({ s.dev with points := Tbl.set 8 s.dev.points k p } : Dev).clkSet k (pointMhz p)).railGo k (pointMv p))) ∧
        (Tbl.get 8 s.dev.points k < p → s.dev.railNow k < pointMv p → (Tbl.get ⟨900, 0, 900⟩ s.dev.rails k).goal ≠ pointMv p →
          ∃ t, exec (.operatingPointChange k) s = .next t ∧ t.dev = { s.dev with rails := Tbl.set ⟨900, 0, 900⟩ s.dev.rails k ⟨s.dev.railNow k, s.dev.ns, pointMv p⟩ }) ∧
        (Tbl.get 8 s.dev.points k < p → s.dev.railNow k < pointMv p → (Tbl.get ⟨900, 0, 900⟩ s.dev.rails k).goal = pointMv p →
          ∃ t, exec (.operatingPointChange k) s = .next t ∧ t.dev = s.dev))) ∧
     (∀ total array stack, s.dev.auxAt ≠ none → ∃ t, exec (.powerSample total array stack) s = .next t ∧ t.dev.pwr.tot = (total :: s.dev.pwr.tot).take 100 ∧
       t.dev.pwr.arr = (array :: s.dev.pwr.arr).take 100 ∧ t.dev.pwr.stk = (stack :: s.dev.pwr.stk).take 100) ∧
     (s.dev.arrCap < mean s.dev.pwr.arr → s.dev.pwr.arrAt + 2000 ≤ s.dev.ns → s.dev.arrFloor = false → ∃ t, exec .budgetTrimStep s = .next t ∧
       t.dev.pwr.arrTrim = s.dev.pwr.arrTrim + 1 ∧ t.dev.pwr.arrAt = s.dev.ns ∧ t.dev.bit PWR_STATUS.ARRAY_TRIM 0 0 = true ∧ t.dev.mem = s.dev.mem) ∧
     (s.dev.stkCap < mean s.dev.pwr.stk → s.dev.pwr.stkAt + 10000 ≤ s.dev.ns → s.dev.stkFloor = false → ∃ t, exec .budgetTrimStep s = .next t ∧
       t.dev.pwr.stkTrim = s.dev.pwr.stkTrim + 1 ∧ t.dev.pwr.stkAt = s.dev.ns ∧ t.dev.bit PWR_STATUS.STACK_TRIM 0 0 = true) ∧
     (∀ r : Req, s.dev.pwr.presetBy ≠ some (s.dev.ns, 1) → ∃ t, exec (.presetWrite r 2) s = .next t ∧ t.dev.fld PWR_LIMIT.PHASE 0 0 = 1 ∧ t.dev.fld PWR_LIMIT.ARRAY_CAP 0 0 = 400 ∧ t.dev.fld PWR_LIMIT.STACK_CAP 0 0 = 100 ∧
       t.dev.mem = s.dev.mem) ∧
     (∀ r : Req, s.dev.pwr.presetBy ≠ some (s.dev.ns, 1) → ∃ t, exec (.presetWrite r 1) s = .next t ∧ t.dev.fld PWR_LIMIT.PHASE 0 0 = 0 ∧ t.dev.fld PWR_LIMIT.ARRAY_CAP 0 0 = 110 ∧ t.dev.fld PWR_LIMIT.STACK_CAP 0 0 = 350) ∧
     (∀ mv aon, s.dev.auxAt ≠ none → 11400 ≤ mv → 7600 ≤ aon → ∃ t, exec (.sagSample mv aon) s = .next t ∧
       (mv / 5 < s.dev.fld PWR_SAG.MIN_12V 0 0 → t.dev.fld PWR_SAG.MIN_12V 0 0 = mv / 5) ∧ (s.dev.fld PWR_SAG.MIN_12V 0 0 ≤ mv / 5 → t.dev.fld PWR_SAG.MIN_12V 0 0 = s.dev.fld PWR_SAG.MIN_12V 0 0) ∧
       t.dev.power = s.dev.power) ∧
     (s.dev.power = .halt → s.dev.pwr.haltAt + 50000 ≤ s.dev.ns → s.dev.modEn = true → ∃ t, exec .haltModuleOff s = .next t ∧ t.dev.modEn = false ∧ (∀ k, k < 452 → t.dev.domState k = 0)))

/-! Temperature, HOLD and the timekeeper (R391, R392, R418 to R448). -/

/-- R419, R420, R422, R424 to R428: a housekeeping round adds its readings to the last of each sensor and judges the sensors. A cluster at 100 °C throttles a step at once and one more each 100 µs, and below 97 °C steps back after 10 ms. The coolant model's delayed power follows the last millisecond's with its time constant. A second's rate is taken from the residual. While cooling is degraded the thermal limit falls by a step, to 600 W at least; after it it rises, to 1,200 W at most. -/
def Obligations.TemperatureControl : Prop :=
  ∀ (s : State), s.dev.auxAt ≠ none →
    (∀ r : Round, ∃ t, exec (.housekeepingRound r) s = .next t ∧ t.dev.therm.hist = (s.dev.therm.read r).hist ∧ t.dev.therm.failed = (s.dev.therm.read r).judge.failed ∧
      t.dev.therm.dead = (s.dev.therm.read r).judge.dead) ∧
    (∀ (k : ClusterId) n v, s.dev.therm.hottest (clusterSensors k) = some (n, v) →
      (800 ≤ v → Tbl.get 0 s.dev.therm.down k = 0 → ∃ t, exec (.throttleStep k) s = .next t ∧ Tbl.get 0 t.dev.therm.down k = 1 ∧ Tbl.get 0 t.dev.therm.downAt k = s.dev.ns) ∧
      (800 ≤ v → 0 < Tbl.get 0 s.dev.therm.down k → Tbl.get 0 s.dev.therm.down k < 6 → Tbl.get 0 s.dev.therm.downAt k + 100000 ≤ s.dev.ns →
        ∃ t, exec (.throttleStep k) s = .next t ∧ Tbl.get 0 t.dev.therm.down k = Tbl.get 0 s.dev.therm.down k + 1 ∧ t.dev.mem = s.dev.mem ∧ t.dev.regs = s.dev.regs) ∧
      (v < 776 → 0 < Tbl.get 0 s.dev.therm.down k → Tbl.get 0 s.dev.therm.downAt k + 10000000 ≤ s.dev.ns →
        ∃ t, exec (.throttleStep k) s = .next t ∧ Tbl.get 0 t.dev.therm.down k = Tbl.get 0 s.dev.therm.down k - 1 ∧ t.dev.mem = s.dev.mem ∧ t.dev.regs = s.dev.regs)) ∧
    (∀ p, ∃ t, exec (.modelUpdate p) s = .next t ∧
      t.dev.therm.pLag = s.dev.therm.pLag + ((s.dev.pwr.bins.headD p : Int) * 65536 - s.dev.therm.pLag) / (max 1 (s.dev.fld THM_CFG.TAU_MS 0 0) : Nat) ∧ t.dev.regs = s.dev.regs ∧ t.dev.mem = s.dev.mem) ∧
    (∃ t, exec .rate1sUpdate s = .next t ∧ t.dev.therm.x1s = (s.dev.therm.msAvg 0).getD s.dev.therm.x1s ∧ t.dev.therm.tj1s = sx 12 (s.dev.fld THM_STATUS.TJ_MAX 0 0)) ∧
    (s.dev.therm.stepAt ≤ s.dev.ns →
      (s.dev.therm.degraded = true → ∃ t, exec .coolingDegraded s = .next t ∧ t.dev.therm.limit = max 600 (s.dev.therm.limit - max 1 (s.dev.fld THM_CFG.STEP_W 0 0)) ∧
        t.dev.therm.stepAt = s.dev.ns + max 1 (s.dev.fld THM_CFG.STEP_S 0 0) * 1000000000) ∧
      (s.dev.therm.degraded = false → s.dev.therm.limit < 1200 → s.dev.therm.baseAt = none → ∃ t, exec .coolingDegraded s = .next t ∧
        t.dev.therm.limit = min 1200 (s.dev.therm.limit + max 1 (s.dev.fld THM_CFG.STEP_W 0 0)) ∧ t.dev.mem = s.dev.mem))

/-- R391, R392, R430 to R432, R445, R446: a write of THM_COOLANT sets its fields and its age to 0; data older than STALE seconds loses its VALID bits. Before step 10, FORCE puts the device into HOLD, and its clearing clears that reason. A KCLK count of 32,000,000 shows no error and a disciplined clock; SLOWCLK lost leaves the fused trim. R434, R435, R447, R448: with EN and a valid entry 0 the pacer starts it at the next millisecond. LEAD_MS before a running entry's end the coming entry's preset is written. A spread takes its eighth part of the rise of each cap. At its end the next valid entry begins, at the time the last one ended; after the last the plan has ended. -/
def Obligations.TimekeeperAndPacer : Prop :=
  (∀ (s : State), s.dev.auxAt ≠ none →
     (∀ (r : Req) (v : Word), (∀ j, s.dev.therm.coolBy = some (s.dev.ns, j) → j = Req.path r) → ∃ t, exec (.coolantWrite r v) s = .next t ∧ t.dev.fld THM_COOLANT.INLET 0 0 = bitsOf v.toNat 0 12 ∧
       t.dev.bit THM_COOLANT.INLET_VALID 0 0 = bitOf v.toNat 12 ∧ t.dev.fld THM_COOLANT.FLOW 0 0 = bitsOf v.toNat 16 12 ∧ t.dev.bit THM_COOLANT.FLOW_VALID 0 0 = bitOf v.toNat 28 ∧
       t.dev.fld THM_COOLANT.STALE 0 0 = bitsOf v.toNat 32 8 ∧ t.dev.coolAge = 0 ∧ t.dev.mem = s.dev.mem) ∧
     (s.dev.fld THM_COOLANT.STALE 0 0 ≠ 0 → s.dev.fld THM_COOLANT.STALE 0 0 ≤ s.dev.coolAge → (s.dev.bit THM_COOLANT.INLET_VALID 0 0 || s.dev.bit THM_COOLANT.FLOW_VALID 0 0) = true →
       ∃ t, exec .coolantStale s = .next t ∧ t.dev.bit THM_COOLANT.INLET_VALID 0 0 = false ∧ t.dev.bit THM_COOLANT.FLOW_VALID 0 0 = false) ∧
     (∀ r : Req, s.dev.done < 10 → s.dev.power = .run → bitOf (s.dev.fld TK_HOLD.REASON 0 0) 3 = false → ∃ t, exec (.forceHold r true) s = .next t ∧
       t.dev.bit TK_HOLD.FORCE 0 0 = true ∧ t.dev.bit TK_HOLD.HELD 0 0 = true ∧ bitOf (t.dev.fld TK_HOLD.REASON 0 0) 3 = true) ∧
     (∀ r : Req, s.dev.done < 10 → s.dev.fld TK_HOLD.REASON 0 0 = 8 → ∃ t, exec (.forceHold r false) s = .next t ∧ t.dev.bit TK_HOLD.FORCE 0 0 = false ∧
       t.dev.bit TK_HOLD.HELD 0 0 = false ∧ t.dev.fld TK_HOLD.REASON 0 0 = 0) ∧
     (∃ t, exec (.slowclkCount 32000000) s = .next t ∧ t.dev.fld TK_OSC.TRIM 0 0 = s.dev.fld TK_OSC.TRIM 0 0 ∧ t.dev.fld TK_OSC.ERR_PPM 0 0 = 0 ∧
       t.dev.bit TK_OSC.DISCIPLINED 0 0 = true ∧ t.dev.bit TK_OSC.NO_SLOWCLK 0 0 = false ∧ t.dev.bit DEV_PINS.SLOWCLK_OK 0 0 = true ∧ t.dev.mem = s.dev.mem) ∧
     (s.dev.bit DEV_PINS.SLOWCLK_OK 0 0 = true → s.dev.fuse.trim < 2 ^ TK_OSC.TRIM.w → ∃ t, exec .slowclkLost s = .next t ∧ t.dev.bit DEV_PINS.SLOWCLK_OK 0 0 = false ∧
       t.dev.bit TK_OSC.NO_SLOWCLK 0 0 = true ∧ t.dev.bit TK_OSC.DISCIPLINED 0 0 = false ∧ t.dev.fld TK_OSC.TRIM 0 0 = s.dev.fuse.trim)) ∧
  (∀ (s : State), s.dev.auxAt ≠ none →
     (∀ t0, s.dev.auxAt = some t0 → s.dev.bit TK_PACE.EN 0 0 = true → planBits (s.dev.planEntry 0) 2 1 = 1 → ∃ t, exec .paceStart s = .next t ∧ t.dev.bit TK_PACE.RUNNING 0 0 = true ∧
       t.dev.fld TK_PACE.CUR 0 0 = 0 ∧ t.dev.pace = ⟨s.dev.planEntry 0, t0 + ((s.dev.ns - t0) / 1000000 + 1) * 1000000, false, none⟩) ∧
     (s.dev.bit TK_PACE.EN 0 0 = true → planBits (s.dev.planEntry 0) 2 1 = 0 → ∃ t, exec .paceStart s = .next t ∧ t.dev.bit TK_PACE.RUNNING 0 0 = false ∧ t.dev.mem = s.dev.mem) ∧
     (s.dev.bit TK_PACE.RUNNING 0 0 = true → s.dev.pace.led = false → s.dev.paceEndAt ≤ s.dev.ns + s.dev.fld TK_PACE.LEAD_MS 0 0 * 1000000 →
       ∃ t, exec .pacePreset s = .next t ∧ t.dev = s.dev.keep s.dev.paceLead ∧ t.dev.pace.led = true) ∧
     (∀ a a' b b' k, s.dev.pace.spread = some ((a, a'), (b, b'), k) → s.dev.bit TK_PACE.RUNNING 0 0 = true → s.dev.pace.led = false →
       s.dev.pace.at' + s.dev.fld TK_PACE.SPREAD_MS 0 0 * 1000000 * k / 8 ≤ s.dev.ns → s.dev.pwr.presetBy ≠ some (s.dev.ns, 0) → a ≤ a' → a' < 1024 → b ≤ b' → b' < 1024 → k < 8 → ∃ t, exec .paceSpreadStep s = .next t ∧
       t.dev.fld PWR_LIMIT.ARRAY_CAP 0 0 = a + (a' - a) * (k + 1) / 8 ∧ t.dev.fld PWR_LIMIT.STACK_CAP 0 0 = b + (b' - b) * (k + 1) / 8 ∧
       t.dev.pace.spread = (if k = 7 then none else some ((a, a'), (b, b'), k + 1)) ∧ t.dev.mem = s.dev.mem) ∧
     (s.dev.bit TK_PACE.RUNNING 0 0 = true → s.dev.paceEndAt ≤ s.dev.ns → s.dev.pace.led = true → s.dev.fld TK_PACE.CUR 0 0 < 15 →
       planBits (s.dev.planEntry (s.dev.fld TK_PACE.CUR 0 0 + 1)) 2 1 = 1 → ∃ t, exec .paceEntryEnd s = .next t ∧ t.dev.fld TK_PACE.CUR 0 0 = s.dev.fld TK_PACE.CUR 0 0 + 1 ∧
       t.dev.pace = { s.dev.pace with entry := s.dev.planEntry (s.dev.fld TK_PACE.CUR 0 0 + 1), at' := s.dev.paceEndAt, led := false } ∧ t.dev.mem = s.dev.mem) ∧
     (s.dev.bit TK_PACE.RUNNING 0 0 = true → s.dev.paceEndAt ≤ s.dev.ns → s.dev.pace.led = true → s.dev.fld TK_PACE.CUR 0 0 = 15 →
       ∃ t, exec .paceEntryEnd s = .next t ∧ t.dev.bit TK_PACE.RUNNING 0 0 = false ∧ t.dev.mem = s.dev.mem))

/-! Integrity, repair and the lap counter (R449 to R501, R544). -/

/-- R459, R474: while split mode is open, and the target lies in a store it reaches, GO makes DATA write the 32 data bytes, CHECK the 16 check bits, RAW both, of the codeword ADDR names, and READ show them with the syndrome; elsewhere it sets ERR. The mode is the one written. R461, R462, R466, R470, R475: while the device runs, a scrub read of a store, for which the stack has a row slot and GDDR an idle channel, ends a pass by counting it and showing no progress and whether it was late. A snoop that is enabled in a check-value unit shows EN, once the unit has settled; where a DMA claim took the unit in the same cycle the two are arbitrated. -/
def Obligations.ErrorChecks : Prop :=
  (∀ (s : State),
     (let a := 32 * s.dev.fld ECC_SPLIT_ADDR.ADDR 0 0
      (s.dev.splitOpen && s.dev.splitHas a) = true →
      (let d (m : Nat) : Dev := (s.dev.setFld ECC_SPLIT_CTL.MODE 0 0 m).splitSettle a
       (∃ t, exec .splitData s = .next t ∧ t.dev = s.dev.keep ((d 0).putRaw a (d 0).splitBytes ((d 0).rawCheck a))) ∧
       (∃ t, exec .splitCheck s = .next t ∧ t.dev = s.dev.keep ((d 1).putRaw a ((d 1).cwData (a / 32)) (d 1).splitCheckWord)) ∧
       (∃ t, exec .splitRaw s = .next t ∧ t.dev = s.dev.keep ((d 2).putRaw a (d 2).splitBytes (d 2).splitCheckWord)) ∧
       (∃ t, exec .splitRead s = .next t ∧ t.dev = s.dev.keep ((d 3).splitReport a) ∧
         t.dev.fld ECC_SPLIT_CTL.CLASS 0 0 = (hxClass (Tbl.get 0 (d 3).chk (a / 32))).code))) ∧
     ((s.dev.splitOpen && s.dev.splitHas (32 * s.dev.fld ECC_SPLIT_ADDR.ADDR 0 0)) = false →
       (∃ t, exec .splitData s = .next t ∧ t.dev.bit ECC_SPLIT_CTL.ERR 0 0 = true ∧ t.dev.mem = s.dev.mem) ∧
       (∃ t, exec .splitRead s = .next t ∧ t.dev.bit ECC_SPLIT_CTL.ERR 0 0 = true ∧ t.dev.mem = s.dev.mem))) ∧
  (∀ (s : State),
     (∀ (a : Nat) (fl : List BitFlip) (late : Bool), s.dev.power = .run →
       (let passed (d : Dev) (st : Nat) : Dev := ((d.count ECC_SCRUB.PASSES 0 st 1).setFld ECC_SCRUB.PROGRESS 0 st 0).setBit ECC_SCRUB.BEHIND 0 st late
        (a < stackEnd → s.dev.scrubFree (stackCore a) (stackRow a) = true → ∃ t, exec (.patrolScrub 0 a fl true late) s = .next t ∧ t.dev = s.dev.keep (passed (s.dev.scrubRow a fl) 0)) ∧
        (∃ t, exec (.patrolScrub 1 a fl true late) s = .next t ∧ t.dev = s.dev.keep (passed (s.dev.scrubCache a fl) 1)) ∧
        (∃ t, exec (.patrolScrub 2 a fl true late) s = .next t ∧ t.dev = s.dev.keep (passed (s.dev.scrubLs a fl) 2)) ∧
        ((s.dev.gddrHas (a / 32 * 32) 32 = true → s.dev.gdrIdle (s.dev.gdrChan (a - gddrBase)) = true) → ∃ t, exec (.patrolScrub 3 a fl true late) s = .next t ∧ t.dev = s.dev.keep (passed (s.dev.scrubGddr a fl) 3)))) ∧
     (∀ (r : Req) (u : Fin 36), ((s.dev.bit CHK_SNOOP.EN u 0 = true ∨ s.dev.chkFresh u = false) → ∃ t, exec (.chkSnoopEnable r u) s = .next t ∧
         t.dev = s.dev.keep ((s.dev.setBit CHK_SNOOP.EN u 0 true).chkSnoopSettle u)) ∧
       (s.dev.bit CHK_SNOOP.EN u 0 = false → s.dev.chkFresh u = true → ∃ t, exec (.chkSnoopEnable r u) s = .next t ∧
         t.dev = s.dev.keep ((s.dev.setBit CHK_SNOOP.EN u 0 true).chkSnoopOn u))))

/-- R480, R482 to R485: the oldest connection declared failed in a slice is replaced by its group's free spare while swaps are enabled: twelve MRW stage it, after the last of them no ACT issues, and with the row path quiet it commits. The swap is counted, the row path resumes after 7 SCLK and stops no more for 1,000. With no spare free the connection is dead. A layer that missed a command gets it again, its ACT with it, in the first row slot the windows leave; missed twice, a write goes back to WB. A layer calibration takes a row slot that no request and no refresh takes, for 80 SCLK. R482, R486, R488 to R492, R495: an input lane with 16 mismatches within 1 ms is retired while another of its port is in use. A NAK with the frame before the one expected has the sender replay, which is counted. A lane that has lost lock takes the die-to-die link down for good: D2D_FATAL with the lane and why, a Fatal record, and everything that waits on the link ends. Each interface of the lap counter takes its input. -/
def Obligations.ConnectionRepair : Prop :=
  (∀ (s : State) (n : CoreId),
     (let sl := s.dev.slice n
      (∀ v rest, sl.swapReq = v :: rest → sl.swapStep = .idle →
        (s.dev.grpState n (v / 32) = 0 → s.dev.bit LNK_CFG.SWAP_EN 0 0 = true → sl.mode ≠ .switching → sl.narrowHalf = none →
          ∃ t, exec (.spareSwap n) s = .next t ∧ t.dev = s.dev.setSlice n { sl with swapStep := .staging, mrwLeft := List.range 12 }) ∧
        ((s.dev.grpState n (v / 32) ≠ 0 ∨ s.dev.bit LNK_CFG.SWAP_EN 0 0 = false) → ∃ t, exec (.spareSwap n) s = .next t ∧
          t.dev = s.dev.keep (((((s.dev.setSlice n { sl with swapReq := rest }).lnkErr LNK_ERR.NOSPARE n v).grpLost n (v / 32)).journal 0x04 [n, 0, v]).connDead n v))) ∧
      (∀ d1 l rest, s.dev.rowSlot n = (.mrw, d1) → (d1.slice n).mrwLeft = l :: rest → (d1.slice n).narrowHalf = none → ∃ t, exec (.mrw n) s = .next t ∧
        t.dev = s.dev.keep (d1.setSlice n { d1.slice n with lastSlot := some d1.ns, mrwLeft := rest, swapStep := if rest = [] then .stopped else (d1.slice n).swapStep })) ∧
      (∀ v rest, sl.swapReq = v :: rest → sl.swapStep = .stopped → sl.opens = [] → sl.moves = [] → ∃ t, exec (.spareSwap n) s = .next t ∧
        t.dev.slice n = { sl with swapReq := rest, swapStep := .idle, swapped := sl.swapped ++ [v], stopFree := s.dev.ns + 1007, noActUntil := max sl.noActUntil (s.dev.ns + 7) } ∧
        t.dev.repairAt n (v / 32) = v % 32 ∧ t.dev.bit LNK_ERR.SWAP 0 0 = true) ∧
      (∀ (g : Fin 9) o, sl.opens = [o] → ∃ t, exec (.parityAlert n g false) s = .next t ∧
        (let at1 := s.dev.bookAt n o.row 128 (max s.dev.ns (max sl.noActUntil sl.calibAt))
         t.dev.slice n = { sl.booked s.dev.ns at1 o.row 40 with opens := [{ o with at' := at1 }] }) ∧ t.dev.mem = s.dev.mem ∧ t.dev.regs = s.dev.regs) ∧
      (∀ (g : Fin 9) o w, sl.opens = [o] → o.write = some w → ∃ t, exec (.parityAlert n g true) s = .next t ∧ t.dev.slice n = { sl with opens := [], wb := w :: sl.wb } ∧ t.dev.mem = s.dev.mem) ∧
      (∀ d1, (s.dev.rowSlot n = (.none, d1) ∨ s.dev.rowSlot n = (.mrw, d1)) → d1.slotOpen n = true → ∃ t, exec (.layerCalibration n []) s = .next t ∧
        t.dev = s.dev.keep (d1.setSlice n { d1.slice n with lastSlot := some d1.ns, calibAt := d1.ns + 80 })))) ∧
  (∀ (s : State),
     (∀ (id : RouterId) (port lane : Nat), s.dev.laneBad (routerNo id) port lane = true → (s.dev.lanesUp (routerNo id) port).contains lane = true → s.dev.bit LNK_CFG.RETIRE_EN 0 0 = true →
       s.dev.lanesUp (routerNo id) port ≠ [lane] → ∃ t, exec (.laneRetire id port lane) s = .next t ∧ t.dev.laneOff = s.dev.laneOff ++ [(routerNo id, port, lane)] ∧
         (t.dev.lanesUp (routerNo id) port).contains lane = false ∧ t.dev.bit LNK_ERR.LANE_RETIRED 0 0 = true) ∧
     (∀ (g : Fin 16) (last : BitVec 12), s.dev.bit LNK_STATUS.D2D_UP 0 0 = true → (s.dev.grp g).nak = true → (last.toNat + 1) % 4096 = (s.dev.grp g).next →
       ∃ t, exec (.d2dReplay g last) s = .next t ∧ t.dev.grp g = { s.dev.grp g with nak := false, replays := (s.dev.grp g).replays + 1, at' := s.dev.ns } ∧
         (∀ k, k ≠ g.val → t.dev.grp k = s.dev.grp k)) ∧
     (∀ (g : Fin 16) (lane : Fin 13), s.dev.bit LNK_STATUS.D2D_UP 0 0 = true → ∃ t, exec (.d2dHardFault g lane true) s = .next t ∧
       (let code := lane.val + 16 * (g.val % 8) + 128 * (g.val / 8)
        let d1 := (s.dev.setBit LNK_STATUS.D2D_UP 0 0 false).setBit LNK_STATUS.D2D_FATAL 0 0 true
        let d2 := (d1.setFld LNK_D2D.FATAL_LANE 0 0 code).setFld LNK_D2D.FATAL_WHY 0 0 1
        let d3 : Dev := { (d2.lnkErr LNK_ERR.D2D_FATAL g lane).event 3 .d2dFatal [code, 1] with fatal := true }
        t.dev = s.dev.keep (((d3.journal 0x06 [code, 1]).viralSig).linkLost))) ∧
     (∃ t, exec .lapSample s = .next t ∧
       t.dev = s.dev.keep ((List.range 16).foldl (fun d i => (d.therm.lapInput i).elim d (fun x => d.lapSample i x)) s.dev)))

/-! Bring-up (R502 to R509). -/

/-- R505, R506: STARTER_CTL takes the step after the last one done, while none runs and its precondition holds: RUNNING shows it, and the step does what R506 gives it; the board memory's training goes on until step 5 ends. Steps 3, 4, 5 and 9 will end in failure where their own check fails, steps 4, 5 and 7 may end degraded. While a step runs another is a FALSE_START. R505, R506, R548: within its bound, a running step 2 to 10 that has not failed its own check passes: DONE is the step, RESULT 1, or 2 where it is degraded or training disabled the board memory, RUNNING 0; step 8 makes the memory active. One that has failed ends with RESULT 3, its step and its code. One past its bound ends with code 0xFF. -/
def Obligations.StarterSequence : Prop :=
  (∀ (s : State) (r : Req), s.dev.svc.contains .bar0 = true →
     (let d (k : Nat) : Dev := s.dev.setFld STARTER_STATUS.RUNNING 0 0 k
      let turn (k : Nat) : Prop := s.dev.step = none ∧ s.dev.done + 1 = k ∧ s.dev.stepMay k = true
      let goes (c : Instr) (e : Dev) (fail : Option Nat) (deg : Bool) (train : Option Nat := none) : Prop := ∃ t, exec c s = .next t ∧ t.dev = s.dev.keep { e with step := some ⟨s.dev.ns, fail, deg, train⟩ }
      (turn 1 → goes .stepRails (d 1).railsUp none false) ∧
      (turn 2 → goes .stepClocks (d 2).clocksUp none false) ∧
      (∀ bad, turn 3 → goes (.stepD2dTraining r bad) ((d 3).d2dTrain bad).1 (if ((d 3).d2dTrain bad).2 then none else some 2) false) ∧
      (∀ bc bm bl bk, turn 4 → goes (.stepVerticalTest r bc bm bl bk) ((d 4).vertTest bc bm bl bk).1 (if ((d 4).vertTest bc bm bl bk).2.1 then none else some 2) ((d 4).vertTest bc bm bl bk).2.2) ∧
      (∀ uncal (pass : BitVec 8), turn 5 → goes (.stepStackCalibration r uncal pass) (d 5).gddrTrainBegin (if uncal.isEmpty then none else some 2) false (some pass.toNat)) ∧
      (turn 6 → goes .stepFill (d 6).fill none false) ∧
      (∀ defects, turn 7 → goes (.stepMemoryTest r defects) ((d 7).memTest defects) none (defects.any fun p => p.2.isNone)) ∧
      (turn 8 → goes .stepCacheInit (d 8).cacheInit none false) ∧
      (turn 9 → (let e : Dev := ({ s.dev with waits := [] } : Dev).setFld STARTER_STATUS.RUNNING 0 0 9
        let f : Dev := { e.release.1 with step := some ⟨s.dev.ns, if e.release.2 then none else some 3, false, none⟩ }
        f.waits = [] → ∃ t, exec .stepFirmwareLoad s = .next t ∧ t.dev = s.dev.keep f)) ∧
      (turn 10 → goes .stepFabricJoin (d 10) none false) ∧
      (s.dev.step ≠ none → ∃ t, exec .stepFill s = .next t ∧ t.dev = s.dev.keep (s.dev.setBit STARTER_STATUS.FALSE_START 0 0 true)))) ∧
  (∀ (s : State) (r : StepRun), s.dev.step = some r →
     (let k := s.dev.fld STARTER_STATUS.RUNNING 0 0
      (s.dev.ns ≤ r.at' + s.dev.stepBound k * 1000000 → r.fail = none → 2 ≤ k → k ≤ 10 → ∃ t, exec (.stepComplete true) s = .next t ∧ t.dev.done = k ∧ t.dev.step = none ∧
        t.dev.fld STARTER_STATUS.RESULT 0 0 = (if r.degraded || r.train.isSome && s.dev.stepTrain.gddr.state == .disabled then 2 else 1) ∧ t.dev.fld STARTER_STATUS.RUNNING 0 0 = 0 ∧ (k = 8 → t.dev.bit FAB_PORT.MEM_ACTIVE 0 0 = true) ∧
        t.dev.mem = s.dev.mem) ∧
      (∀ c, c < 256 → s.dev.ns ≤ r.at' + s.dev.stepBound k * 1000000 → r.fail = some c → 2 ≤ k → k ≤ 10 → ∃ t, exec (.stepComplete true) s = .next t ∧ t.dev.done = s.dev.done ∧ t.dev.step = none ∧
        t.dev.fld STARTER_STATUS.RESULT 0 0 = 3 ∧ t.dev.fld STARTER_STATUS.FAIL_STEP 0 0 = k ∧ t.dev.fld STARTER_STATUS.FAIL_CODE 0 0 = c) ∧
      (r.at' + s.dev.stepBound k * 1000000 < s.dev.ns → ∃ t, exec .stepTimeout s = .next t ∧ t.dev.step = none ∧ t.dev.fld STARTER_STATUS.RESULT 0 0 = 3 ∧
        t.dev.fld STARTER_STATUS.FAIL_STEP 0 0 = k ∧ t.dev.fld STARTER_STATUS.FAIL_CODE 0 0 = 0xFF)))

/-- R504, R513, R514: after step 2, with no reset in progress, a core, cluster, partition or die reset begins: it is BUSY and every core it covers is fenced; the rings of a partition stop, their started work ending with RESET_ABORT, and a die's slices refuse and finish, the waits of rings ending with RESET_ABORT. It is refused while one is in progress or before step 2. It is applied once every core it covers is QUIESCED: BUSY clears. R502, R509, R514, R516, R522: a device reset by RST_DEV takes effect with its key and BAR0 served, and by the link from the start of R502 on; not in HALT. The buffers of the board memory drain, it leaves what a reset leaves, and R502 starts again. A partition takes a set of clusters that no other has, that keeps each pair k, k + 16 together, and whose changed clusters are QUIESCED; else PART_REFUSED is set. -/
def Obligations.Resets : Prop :=
  (∀ (s : State) (r : Req),
     (2 ≤ s.dev.done → s.dev.rst = none → s.dev.perstAt ≠ some s.dev.ns →
       (let began (sc tg t0 : Nat) : Dev := (({ ((s.dev.setFld RST_CTL.SCOPE 0 0 sc).setFld RST_CTL.TARGET 0 0 tg) with rst := some ⟨sc, t0, s.dev.ns⟩ } : Dev).setBit RST_STATUS.BUSY 0 0 true)
        let fenced (d : Dev) (sc t0 : Nat) : Dev := (d.scopeCores sc t0).foldl (fun d n => (d.fenceUndo n).fenceSet n true) d
        (∀ n : CoreId, ∃ t, exec (.coreReset r n) s = .next t ∧ t.dev = s.dev.keep (fenced (began 0 n n) 0 n)) ∧
        (∀ k : ClusterId, ∃ t, exec (.clusterReset r k) s = .next t ∧ t.dev = s.dev.keep (fenced (began 1 k k) 1 k)) ∧
        (∀ p : Fin 8, ∃ t, exec (.partitionReset r p) s = .next t ∧
          t.dev = s.dev.keep (((fenced (began 2 p p) 2 p).rings.map (·.1)).foldl (fun d i =>
            if d.fld RING_CFG.PARTITION i 0 = p ∧ (d.ring i).on then
              let d := d.ringUnstart i
              (((d.setBit RING_CFG.ENABLE i 0 false).setRing i { d.ring i with state := .draining, pendingEn := false, fetched := [] }).ringAbort i .resetAbort).ringSettle i
            else d)
            (fenced (began 2 p p) 2 p))) ∧
        (∀ up : Bool, ∃ t, exec (.dieReset r up) s = .next t ∧
          (let tg := if up then 2 else 1
           let e := fenced (began 3 tg (tg - 1)) 3 (tg - 1)
           t.dev = s.dev.keep ((e.scopeCores 3 (tg - 1)).foldl (fun d n => d.slcReset n) (e.btnWithdraw (fun o => match o with | .desc _ => true | _ => false) .resetAbort)))))) ∧
     (∀ n : CoreId, s.dev.perstAt ≠ some s.dev.ns → (s.dev.done < 2 ∨ s.dev.rst ≠ none) → ∃ t, exec (.coreReset r n) s = .next t ∧ t.dev.bit RST_STATUS.REFUSED 0 0 = true ∧ t.dev.rst = s.dev.rst ∧ t.dev.cores = s.dev.cores ∧
       t.dev.mem = s.dev.mem) ∧
     (∀ x, s.dev.rst = some x → x.scope = 0 → (s.dev.scopeCores 0 x.target).all (fun n => s.dev.fenceState n == 2) = true → ∃ t, exec .resetApplied s = .next t ∧ t.dev.rst = none ∧
       t.dev.bit RST_STATUS.BUSY 0 0 = false)) ∧
  (∀ (s : State),
     (∀ r : Req, s.dev.svc.contains .bar0 = true → s.dev.power ≠ .halt → ∃ t, exec (.deviceReset (.rstDev r 0x0D96#16)) s = .next t ∧ t.dev = s.dev.keep s.dev.gddrDrainAll.cleared.bringUp) ∧
     (∀ cause : ResetCause, (∀ r key, cause ≠ .rstDev r key) → s.dev.perstAt ≠ none → s.dev.power ≠ .halt → ∃ t, exec (.deviceReset cause) s = .next t ∧ t.dev = s.dev.keep s.dev.gddrDrainAll.cleared.bringUp) ∧
     (∀ (r : Req) (key : BitVec 16), key ≠ 0x0D96#16 → ∃ t, exec (.deviceReset (.rstDev r key)) s = .next t ∧ t.dev = s.dev) ∧
     (∀ (r : Req) (p : Fin 8) (cl : BitVec 32),
       (let has (q k : Nat) : Bool := if q = p.val then bitOf cl.toNat k else bitOf (s.dev.fld RST_PART.CLUSTERS q 0) k
        let twice := (List.range 32).any fun k => bitOf cl.toNat k && (List.range 8).any fun q => q != p.val && has q k
        let split := (List.range 16).any fun k => (List.range 8).any fun q => has q k != has q (k + 16)
        let moved := (List.range 32).any fun k => (bitOf cl.toNat k != bitOf (s.dev.fld RST_PART.CLUSTERS p 0) k) && (List.range 8).any fun j => s.dev.fenceState (8 * k + j) != 2
        ((twice || split || moved) = false → ∃ t, exec (.partitionWrite r p cl) s = .next t ∧ t.dev.fld RST_PART.CLUSTERS p 0 = cl.toNat ∧
          (∀ q, q ≠ p.val → t.dev.fld RST_PART.CLUSTERS q 0 = s.dev.fld RST_PART.CLUSTERS q 0) ∧ t.dev.mem = s.dev.mem) ∧
        ((twice || split || moved) = true → ∃ t, exec (.partitionWrite r p cl) s = .next t ∧ t.dev.bit RST_STATUS.PART_REFUSED 0 0 = true ∧
          t.dev.fld RST_PART.CLUSTERS p 0 = s.dev.fld RST_PART.CLUSTERS p 0 ∧ t.dev.mem = s.dev.mem))))

/-! Counters of events, sensors and the life log (R527 to R549). -/

/-- R528, R529, R532, R538: FREEZE holds a cluster's counters and the counters of its cores from one moment, or lets them count on. A counter at 2^48 − 1 that is enabled and not frozen takes one more of its events: it wraps to 0 and its sticky bit is set; of a core's counters with SAMPLE and IRQ clear, nothing else happens. R540, R542, R543, R546, R547, R549: while the always-on domain has power: a sensor refresh takes the junction maximum, the highest band, the thermal limit, the inlet where it is valid; a second of life adds 1 to LIFE_S and counts each thermal region and the power state; the log is saved 10 minutes after the last update and at FLUSH, but once where the two meet in one cycle (R550); at the end of a week, and only there, each die-to-die group is checked. -/
def Obligations.CountersAndLifeLog : Prop :=
  (∀ (s : State),
     (∀ (r : Req) (k : ClusterId) (on : Bool), ∃ t, exec (.freeze r k on) s = .next t ∧ t.dev = s.dev.keep ((s.dev.pmcSettleAll k).setBit PERF_CLCTL.FREEZE k 0 on) ∧
       t.dev.bit PERF_CLCTL.FREEZE k 0 = on) ∧
     (∀ (n : CoreId) (i : Fin 8), i.val < 6 → s.dev.fld PERF_CNT.COUNT n i = 2 ^ 48 - 1 → s.dev.bit PERF_CTL.EN n i = true → s.dev.bit PERF_CLCTL.FREEZE (n.val / 8) 0 = false →
       ∃ t, exec (.pmcWrap (.core n) i) s = .next t ∧ t.dev.fld PERF_CNT.COUNT n i = 0 ∧ t.dev.fld PERF_OVF.OVF n 0 = (s.dev.fld PERF_OVF.OVF n 0 ||| 2 ^ i.val) ∧ t.dev.mem = s.dev.mem ∧
         t.dev.arbs = s.dev.arbs ∧
         (((s.dev.bit PERF_CTL.SAMPLE n i && s.dev.bit PERF_CTL.IRQ n i) = false ∨ s.dev.bit PERF_SAMPLE.VALID n 0 = true) → t.dev.cores = s.dev.cores) ∧
         (s.dev.bit PERF_CTL.SAMPLE n i = true → s.dev.bit PERF_CTL.IRQ n i = true → s.dev.bit PERF_SAMPLE.VALID n 0 = false → (s.dev.core n).sampleArm = none →
           t.dev.core n = { s.dev.core n with sampleArm := some (i.val, s.dev.ns) })) ∧
     (∀ (k : ClusterId) (i : Fin 8), s.dev.fld PERF_CLCNT.COUNT k i = 2 ^ 48 - 1 → s.dev.bit PERF_CLSEL.EN k i = true → s.dev.bit PERF_CLCTL.FREEZE k 0 = false →
       ∃ t, exec (.pmcWrap (.cluster k) i) s = .next t ∧ t.dev.fld PERF_CLCNT.COUNT k i = 0 ∧ t.dev.fld PERF_CLOVF.OVF k 0 = (s.dev.fld PERF_CLOVF.OVF k 0 ||| 2 ^ i.val) ∧
         t.dev.mem = s.dev.mem ∧ t.dev.cores = s.dev.cores) ∧
     (∀ (i : Fin 8), s.dev.fld DEV_PCNT.COUNT 0 i = 2 ^ 48 - 1 → s.dev.bit DEV_PCTL.EN 0 i = true →
       ∃ t, exec (.pmcWrap .device i) s = .next t ∧ t.dev.fld DEV_PCNT.COUNT 0 i = 0 ∧ t.dev.fld DEV_POVF.OVF 0 0 = (s.dev.fld DEV_POVF.OVF 0 0 ||| 2 ^ i.val) ∧
         t.dev.mem = s.dev.mem ∧ t.dev.cores = s.dev.cores)) ∧
  (∀ (s : State), s.dev.auxAt ≠ none →
     (∃ t, exec .sensorRefresh s = .next t ∧ Tbl.get none t.dev.pldm 1 = some (sx 12 (s.dev.fld THM_STATUS.TJ_MAX 0 0)) ∧ Tbl.get none t.dev.pldm 3 = some (s.dev.fld THM_STATUS.BAND_MAX 0 0 : Int) ∧
       Tbl.get none t.dev.pldm 5 = some (s.dev.therm.limit : Int) ∧
       Tbl.get none t.dev.pldm 14 = (if s.dev.bit THM_COOLANT.INLET_VALID 0 0 then some (sx 12 (s.dev.fld THM_COOLANT.INLET 0 0)) else none) ∧
       (∀ i, 15 < i → Tbl.get none t.dev.pldm i = Tbl.get none s.dev.pldm i) ∧ t.dev.regs = s.dev.regs ∧ t.dev.mem = s.dev.mem ∧ t.dev.out = s.dev.out) ∧
     (∃ t, exec .lifeSecond s = .next t ∧ t.dev = s.dev.keep s.dev.lifeSecond ∧ t.dev.regs = s.dev.regs ∧
       (memoryWf s.dev.mem = true → s.dev.lifeS < 2 ^ 64 - 1 → t.dev.lifeS = s.dev.lifeS + 1)) ∧
     (s.dev.lifeAt + 600000000 ≤ s.dev.us → ∃ t, exec .lifeUpdate s = .next t ∧ t.dev = s.dev.keep { s.dev.lifeSave with cyc := { s.dev.lifeSave.cyc with saved := true } }) ∧
     (s.dev.us < s.dev.lifeAt + 600000000 → exec .lifeUpdate s = .next s) ∧
     (s.dev.cyc.saved = false → ∃ t, exec .lifeFlush s = .next t ∧ t.dev = s.dev.keep s.dev.lifeSave) ∧
     (s.dev.cyc.saved = true → exec .lifeFlush s = .next s) ∧
     (s.dev.lifeS ≠ 0 → s.dev.lifeS % 604800 = 0 →
       (∀ g, g < 16 → (s.dev.retriesBack g 0).getD 0 ≤ s.dev.fld LIFE_CTL.RETRY_WARN 0 0 ∧ s.dev.retriesRise g (max 1 (s.dev.fld LIFE_CTL.RETRY_WEEKS 0 0)) = false) → exec .weekEnd s = .next s) ∧
     ((s.dev.lifeS = 0 ∨ s.dev.lifeS % 604800 ≠ 0) → exec .weekEnd s = .next s) ∧
     (∀ g, g < 16 → s.dev.lifeS ≠ 0 → s.dev.lifeS % 604800 = 0 → s.dev.fld LIFE_CTL.RETRY_WARN 0 0 < (s.dev.retriesBack g 0).getD 0 →
       (∀ h, h < 16 → h ≠ g → (s.dev.retriesBack h 0).getD 0 ≤ s.dev.fld LIFE_CTL.RETRY_WARN 0 0 ∧ s.dev.retriesRise h (max 1 (s.dev.fld LIFE_CTL.RETRY_WEEKS 0 0)) = false) →
       ∃ t, exec .weekEnd s = .next t ∧ t.dev = s.dev.keep (s.dev.event 1 .retries [g, (s.dev.retriesBack g 0).getD 0])))

/-! The network, register accesses and the control processor's instructions (R10 to R13, R21 to R27, R35 to R38, R111 to R116, R176, R488 to R490). -/

/-- R18, R21, R24, R25: a router whose domain is OFF does nothing. At an idle router that is ON, a one-flit packet whose FCHECK matches, for an endpoint elsewhere or one that takes it, leaves in the cycle by its route, on the first lane of that port still in use, as it arrived. R488 to R490: with the die-to-die link up and no NAK outstanding, a frame with a good CRC and the sequence number expected is acknowledged, the next one is expected, and its flits enter the network on the far side; any other frame has the receiver answer NAK with the last good number, and nothing of it is taken. -/
def Obligations.NetworkMoves : Prop :=
  (∀ (s : State) (id : RouterId),
     (s.dev.routerOn (routerNo id) = false → ∀ arr, exec (.flitForward id arr) s = .next s) ∧
     (s.dev.routerOn (routerNo id) = true → ∀ (port lane : Nat) (f : Flit) (l : Nat) (ls : List Nat), port < portCount (routerNo id) → (s.dev.lanesUp (routerNo id) port).contains lane = true →
       flitOk f = true → flitHead f = true → flitTail f = true →
       (s.dev.router (routerNo id)).bufs = [] → (s.dev.router (routerNo id)).inp = [] → (s.dev.router (routerNo id)).outp = [] → (s.dev.router (routerNo id)).offers = [] →
       (serves (routerNo id) (flitDest f) = true → (if flitClass f = 1 then s.dev.takesResponse (flitDest f) else s.dev.destReady (flitDest f)) = true) →
       s.dev.outLanes (routerNo id) (route (routerNo id) port (flitDest f)) = l :: ls →
       ∃ t, exec (.flitForward id [⟨port, lane, f⟩]) s = .next t ∧ t.dev.out.head? = some (.flit id (route (routerNo id) port (flitDest f)) l f))) ∧
  (∀ (s : State) (g : Fin 16) (seq : BitVec 12) (ok : Bool) (flits : List Flit), s.dev.bit LNK_STATUS.D2D_UP 0 0 = true → (s.dev.grp g).nak = false →
     (ok = true → seq.toNat = (s.dev.grp g).next → ∃ t, exec (.d2dFrame g seq ok flits) s = .next t ∧
       t.dev = s.dev.keep (((s.dev.setD2d g ⟨((s.dev.grp g).next + 1) % 4096, false, 0, 0⟩).emit (.d2dAck g seq.toNat false)).d2dEnter g flits)) ∧
     ((ok = false ∨ seq.toNat ≠ (s.dev.grp g).next) → ∃ t, exec (.d2dFrame g seq ok flits) s = .next t ∧ t.dev.out = .d2dAck g (((s.dev.grp g).next + 4095) % 4096) true :: s.dev.out ∧
       t.dev.grp g = { s.dev.grp g with nak := true } ∧ t.dev.noc = s.dev.noc ∧ t.dev.mem = s.dev.mem ∧ t.dev.regs = s.dev.regs))

/-- R10 to R13, R36 to R38: an access of BAR0 that the bus takes. One of a wrong size or alignment sets BAD_ACCESS, one where no register lies UNMAPPED, and neither changes anything but DEV_ERR. A write of a register without an effect of its own reaches each field by its access code: RW takes the value, W1C clears the bits written 1 that the block has not set in the same cycle (R13), W1S sets those written 1, a read-only one stays; a field it does not reach stays. A write of another register does what its block does. R10 to R12, R113: a read of a register that the bus takes delivers the fields it reaches, and clears those of them that a read clears (RC), to their reset value where no event of the cycle has moved them, and no others. A CSR that the mode may reach is read and written; one it may not reach raises an illegal-instruction exception. R11, R170, R171, R176: before step 10, a write of 1 to FORCE_NARROW that holds 0 sets it, and has a slice in full mode switch to narrow; at any other time it does nothing. TRACK_CLEAR frees every entry of the slice's tracker and touches nothing else. -/
def Obligations.RegisterAccesses : Prop :=
  (∀ (s : State) (r : Req) (off size : Nat) (v : Word), s.dev.busOpen r off = true → s.dev.busWaits off = false → s.dev.regHeld = [] →
     (((size ≠ 4 ∧ size ≠ 8) ∨ off % size ≠ 0) → ∃ t, exec (.registerWrite r (.bar0 off size) v) s = .next t ∧ t.dev = s.dev.keep (s.dev.barError DEV_ERR.BAD_ACCESS off)) ∧
     ((size = 4 ∨ size = 8) → off % size = 0 → (cxlRange off || pbaRange off || lifeRange off) = false → msixRange off = false →
       (regAt (off / 8 * 8) = none → ∃ t, exec (.registerWrite r (.bar0 off size) v) s = .next t ∧ t.dev = s.dev.keep (s.dev.barError DEV_ERR.UNMAPPED off)) ∧
       (∀ g u i, regAt (off / 8 * 8) = some (g, u, i) → s.dev.busReach off = true →
         (let m := accessMask off size
          let w := v.toNat * 2 ^ (8 * (off % 8)) &&& m
          (targetBurns (.bar0 off size) = false → ∃ t, exec (.registerWrite r (.bar0 off size) v) s = .next t ∧ t.dev = s.dev.keep ((s.dev.regWrite r g u i w m).softMark (off / 8 * 8) m)) ∧
          (targetBurns (.bar0 off size) = true → ∃ t, exec (.registerWrite r (.bar0 off size) v) s = .next t ∧ t.dev = s.dev.keepClock ((s.dev.regWrite r g u i w m).softMark (off / 8 * 8) m)) ∧
          (s.dev.clusterWrite r g u i w m = none → s.dev.sharedWrite g u i w m = none → s.dev.boardWrite g u i w m = none → s.dev.manageWrite r g u i w m = none →
            targetBurns (.bar0 off size) = false → ∃ t, exec (.registerWrite r (.bar0 off size) v) s = .next t ∧ t.dev.mem = s.dev.mem ∧
              (∀ f ∈ g.fields, let k := bitsOf m f.lo f.w
                let x := bitsOf w f.lo f.w
                let all := 2 ^ f.w - 1
                (f.acc = .rw → t.dev.fld f u i = (s.dev.fld f u i &&& (all ^^^ k)) ||| x) ∧
                (f.acc = .rwl → t.dev.fld f u i = if 10 ≤ s.dev.done then s.dev.fld f u i else (s.dev.fld f u i &&& (all ^^^ k)) ||| x) ∧
                (f.acc = .w1c → t.dev.fld f u i = s.dev.fld f u i &&& ((all ^^^ x) ||| s.dev.setNow f u i)) ∧
                (f.acc = .w1s → t.dev.fld f u i = s.dev.fld f u i ||| x) ∧
                (f.acc = .ro → t.dev.fld f u i = s.dev.fld f u i))))))) ∧
  (∀ (s : State) (r : Req),
     (∀ (off size : Nat) g u i, s.dev.busOpen r off = true → s.dev.busWaits off = false → s.dev.regHeld = [] → (size = 4 ∨ size = 8) → off % size = 0 →
       (cxlRange off || pbaRange off || lifeRange off || msixRange off) = false → regAt (off / 8 * 8) = some (g, u, i) → s.dev.busReach off = true →
       ∃ t, exec (.clearingRead r (.bar0 off size)) s = .next t ∧
         t.dev.out = .regRead r (BitVec.ofNat 64 (((s.dev.readSettle g u i).regRead g u i &&& accessMask off size) / 2 ^ (8 * (off % 8)))) :: s.dev.out ∧ t.dev.mem = s.dev.mem ∧
         (∀ f ∈ g.fields, let e := s.dev.readSettle g u i
           let k := bitsOf (accessMask off size) f.lo f.w
           (f.acc = .rc → t.dev.fld f u i = (e.fld f u i &&& ((2 ^ f.w - 1) ^^^ k)) ||| (e.rcLeft f u i &&& k) ∧
             (e.fld f u i = e.begun.fld f u i → e.setNow f u i = 0 → k = 2 ^ f.w - 1 → t.dev.fld f u i = f.rst)) ∧
           (f.acc ≠ .rc → t.dev.fld f u i = e.fld f u i))) ∧
     (∀ (n : CoreId) (num : Nat) (user : Bool) (v : Word),
       (s.dev.csrMay n num user false = true → ∀ x d1, s.dev.csrGet n num = (x, d1) → ∃ t, exec (.clearingRead r (.csr n num user)) s = .next t ∧
         t.dev = s.dev.keep (d1.emit (.regRead (.cp n) (BitVec.ofNat 64 x)))) ∧
       (s.dev.csrMay n num user true = true → ∃ t, exec (.registerWrite r (.csr n num user) v) s = .next t ∧ t.dev = s.dev.keep (s.dev.csrPut n num user v.toNat)) ∧
       (s.dev.csrMay n num user false = false → ∃ t, exec (.clearingRead r (.csr n num user)) s = .next t ∧ t.dev = s.dev.keep (s.dev.cpTrap n 2 0)) ∧
       (s.dev.csrMay n num user true = false → ∃ t, exec (.registerWrite r (.csr n num user) v) s = .next t ∧ t.dev = s.dev.keep (s.dev.cpTrap n 2 0)))) ∧
  (∀ (s : State) (r : Req) (n : CoreId),
     (s.dev.done < 10 → s.dev.bit SLC_CFG.FORCE_NARROW n 0 = false → ∃ t, exec (.forceNarrow r n) s = .next t ∧ t.dev.bit SLC_CFG.FORCE_NARROW n 0 = true ∧ t.dev.mem = s.dev.mem ∧
       ((s.dev.slice n).mode = .full → (s.dev.slice n).narrowHalf = none → t.dev.slice n = (s.dev.slice n).askNarrow (s.dev.fld SLC_CFG.HALF_SEL n 0))) ∧
     ((10 ≤ s.dev.done ∨ s.dev.bit SLC_CFG.FORCE_NARROW n 0 = true) → exec (.forceNarrow r n) s = .next s) ∧
     (∃ t, exec (.trackClear r n) s = .next t ∧ t.dev.slice n = { s.dev.slice n with tracker := [] } ∧ (∀ k, k ≠ n.val → t.dev.slice k = s.dev.slice k) ∧ t.dev.mem = s.dev.mem ∧ t.dev.regs = s.dev.regs))

/-- R111, R112, R116, R528: a processor that runs takes an interrupt that is pending and enabled; waits in WFI while none is pending that mie enables; else fetches and carries out an instruction: one that retires moves the pc and counts, one that traps leaves what its trap leaves. ADD adds its registers; ECALL traps with cause 8 or 11; an undefined compressed word is illegal; a fetch fault traps with cause 1, in a trap's first instruction it halts the processor. -/
def Obligations.ProcessorInstructions : Prop :=
  ∀ (s : State) (n : CoreId) (ext : List PByte), s.dev.cpRuns n = true →
    (∀ i, s.dev.cpIrqs n = [i] → ∃ t, exec (.cpInstruction n ext) s = .next t ∧ (t.dev.core n).cp = (s.dev.core n).cp.trap true i 0 ∧ t.dev.mem = s.dev.mem ∧ t.dev.regs = s.dev.regs) ∧
    (s.dev.cpIrqs n = [] →
      ((s.dev.core n).cp.wfi = true → s.dev.mip n &&& (s.dev.core n).cp.mie.toNat = 0 → exec (.cpInstruction n ext) s = .next s) ∧
      ((s.dev.core n).cp.wfi = false →
        (∀ a d1, s.dev.cpFetch n = (.error a, d1) →
          ((s.dev.core n).cp.trapFault = true → ∃ t, exec (.cpInstruction n ext) s = .next t ∧ t.dev = s.dev.keep (d1.cpHalted n)) ∧
          ((s.dev.core n).cp.trapFault = false → ∃ t, exec (.cpInstruction n ext) s = .next t ∧ t.dev = s.dev.keep (d1.cpTrap n 1 a))) ∧
        (∀ h len d1, s.dev.cpFetch n = (.ok (h, len), d1) →
          (let d2 := d1.modCp n fun p => { p with trapFault := false, wfi := false }
           (∀ w pc d3, (if len = 2 then rvcExpand h else some h) = some w → d2.cpExec n w len ext = (some pc, d3) →
             ∃ t, exec (.cpInstruction n ext) s = .next t ∧ t.dev = s.dev.keep (d3.cpRetire n w pc)) ∧
           (∀ w d3, (if len = 2 then rvcExpand h else some h) = some w → d2.cpExec n w len ext = (none, d3) → ∃ t, exec (.cpInstruction n ext) s = .next t ∧ t.dev = s.dev.keep d3) ∧
           (len = 2 → rvcExpand h = none → ∃ t, exec (.cpInstruction n ext) s = .next t ∧ t.dev = s.dev.keep (d2.cpTrap n 2 0)) ∧
           (len = 4 → h = 0x73 → ∃ t, exec (.cpInstruction n ext) s = .next t ∧ (t.dev.core n).cp = (d2.core n).cp.trap false (if (d2.core n).cp.user then 8 else 11) 0) ∧
           (len = 4 → rvOp h = 0x33 → rvF7 h = 0 → rvF3 h = 0 → rvRd h ≠ 0 → ∃ t, exec (.cpInstruction n ext) s = .next t ∧
             (t.dev.core n).cp.xr (rvRd h) = ((d2.core n).cp.xr (rvRs1 h) + (d2.core n).cp.xr (rvRs2 h)) % 2 ^ 64 ∧ (t.dev.core n).cp.pc = (s.dev.core n).cp.pc + 4)))))
end

