-- ==== Sys2Proof/Laws/Tbl.lean ====
section
/-! SUPPORT. Tables: what a read after a write gives, and that a write keeps the canonical form. -/

namespace Sys2Proof

variable {α : Type}

theorem Tbl.get_put (d v : α) (t : Tbl α) (k j : Nat) : Tbl.get d (Tbl.put t k v) j = if j = k then v else Tbl.get d t j := by
  induction t with
  | nil => simp [Tbl.put, Tbl.get, eq_comm]
  | cons e t ih =>
    obtain ⟨i, w⟩ := e
    by_cases hj : j = k
    · subst hj
      by_cases h1 : j < i
      · simp [Tbl.put, Tbl.get, h1]
      · by_cases h2 : j = i
        · simp [Tbl.put, Tbl.get, h2]
        · simp [Tbl.put, Tbl.get, h1, h2, ih, Ne.symm h2]
    · by_cases h1 : k < i
      · simp [Tbl.put, Tbl.get, h1, hj, Ne.symm hj]
      · by_cases h2 : k = i
        · subst h2; simp [Tbl.put, Tbl.get, hj, Ne.symm hj]
        · simp [Tbl.put, Tbl.get, h1, h2, ih, hj]

theorem Tbl.get_filter_ne (d : α) (t : Tbl α) (k j : Nat) :
    Tbl.get d (t.filter (fun e => e.1 != k)) j = if j = k then d else Tbl.get d t j := by
  induction t with
  | nil => simp [Tbl.get]
  | cons e t ih =>
    obtain ⟨i, w⟩ := e
    by_cases h : i = k
    · subst h
      by_cases hj : j = i
      · simpa [Tbl.get, hj] using ih
      · simpa [Tbl.get, hj, Ne.symm hj] using ih
    · by_cases hj : j = k
      · subst hj; simpa [Tbl.get, h] using ih
      · simp [Tbl.get, h, ih, hj]

variable [DecidableEq α]

/-- A read after a write: the value written at its key, what was there elsewhere. -/
theorem Tbl.get_set (d v : α) (t : Tbl α) (k j : Nat) : Tbl.get d (Tbl.set d t k v) j = if j = k then v else Tbl.get d t j := by
  unfold Tbl.set
  split
  · rename_i h; rw [Tbl.get_filter_ne, h]
  · rw [Tbl.get_put]

@[simp] theorem Tbl.get_set_same (d v : α) (t : Tbl α) (k : Nat) : Tbl.get d (Tbl.set d t k v) k = v := by
  simp [Tbl.get_set]

theorem Tbl.get_set_ne (d v : α) (t : Tbl α) {k j : Nat} (h : j ≠ k) : Tbl.get d (Tbl.set d t k v) j = Tbl.get d t j := by
  simp [Tbl.get_set, h]

/-- The canonical form in Mathlib's words: keys strictly rising, no default. -/
theorem Tbl.wf_iff (d : α) (t : Tbl α) :
    Tbl.wf d t = true ↔ t.Pairwise (fun a b => a.1 < b.1) ∧ ∀ e ∈ t, e.2 ≠ d := by
  induction t with
  | nil => simp [Tbl.wf]
  | cons e t ih =>
    obtain ⟨i, v⟩ := e
    cases t with
    | nil => simp [Tbl.wf]
    | cons e' t' =>
      obtain ⟨j, w⟩ := e'
      rw [Tbl.wf, Bool.and_eq_true, Bool.and_eq_true, ih, decide_eq_true_eq, decide_eq_true_eq]
      constructor
      · rintro ⟨⟨hv, hij⟩, hp, hd⟩
        refine ⟨List.pairwise_cons.2 ⟨?_, hp⟩, ?_⟩
        · intro a ha
          rcases List.mem_cons.1 ha with rfl | ha
          · exact hij
          · exact lt_trans hij ((List.pairwise_cons.1 hp).1 a ha)
        · intro a ha
          rcases List.mem_cons.1 ha with rfl | ha
          · exact hv
          · exact hd a ha
      · rintro ⟨hp, hd⟩
        exact ⟨⟨hd (i, v) (by simp), (List.pairwise_cons.1 hp).1 (j, w) (by simp)⟩, (List.pairwise_cons.1 hp).2, fun a ha => hd a (by simp [ha])⟩

omit [DecidableEq α] in
theorem Tbl.mem_put (t : Tbl α) (k : Nat) (v : α) (e : Nat × α) (h : e ∈ Tbl.put t k v) : e = (k, v) ∨ e ∈ t := by
  induction t with
  | nil => simpa [Tbl.put] using h
  | cons a t ih =>
    obtain ⟨i, w⟩ := a
    unfold Tbl.put at h
    split at h
    · simpa using h
    · split at h
      · rename_i hk
        rcases List.mem_cons.1 h with h | h
        · left; rw [h, hk]
        · right; simp [h]
      · rcases List.mem_cons.1 h with h | h
        · right; simp [h]
        · rcases ih h with h | h
          · left; exact h
          · right; simp [h]

omit [DecidableEq α] in
theorem Tbl.pairwise_put (t : Tbl α) (k : Nat) (v : α) (h : t.Pairwise (fun a b => a.1 < b.1)) :
    (Tbl.put t k v).Pairwise (fun a b => a.1 < b.1) := by
  induction t with
  | nil => simp [Tbl.put]
  | cons a t ih =>
    obtain ⟨i, w⟩ := a
    have ha := (List.pairwise_cons.1 h).1
    have ht := (List.pairwise_cons.1 h).2
    unfold Tbl.put
    split
    · rename_i hk
      refine List.pairwise_cons.2 ⟨?_, h⟩
      intro b hb
      rcases List.mem_cons.1 hb with rfl | hb
      · exact hk
      · exact lt_trans hk (ha b hb)
    · rename_i hk
      split
      · exact List.pairwise_cons.2 ⟨ha, ht⟩
      · rename_i hne
        refine List.pairwise_cons.2 ⟨?_, ih ht⟩
        intro b hb
        rcases Tbl.mem_put t k v b hb with rfl | hb
        · show i < k; omega
        · exact ha b hb

/-- A write keeps the canonical form. -/
theorem Tbl.wf_set (d v : α) (t : Tbl α) (k : Nat) (h : Tbl.wf d t = true) : Tbl.wf d (Tbl.set d t k v) = true := by
  rw [Tbl.wf_iff] at h ⊢
  unfold Tbl.set
  split
  · exact ⟨h.1.sublist List.filter_sublist, fun e he => h.2 e (List.mem_of_mem_filter he)⟩
  · rename_i hv
    refine ⟨Tbl.pairwise_put t k v h.1, fun e he => ?_⟩
    rcases Tbl.mem_put t k v e he with rfl | he
    · exact hv
    · exact h.2 e he

/-- Entries left out of a canonical table leave a canonical table. -/
theorem Tbl.wf_filter (d : α) (t : Tbl α) (p : Nat × α → Bool) (h : Tbl.wf d t = true) : Tbl.wf d (t.filter p) = true := by
  rw [Tbl.wf_iff] at h ⊢
  exact ⟨h.1.sublist List.filter_sublist, fun e he => h.2 e (List.mem_of_mem_filter he)⟩

end Sys2Proof
end

