-- ==== Sys2Proof/Laws/State.lean ====
section
/-! SUPPORT. The state: what each basic update leaves unchanged, field by field, and what it changes. -/

namespace Sys2Proof.Machine

/-! putFld. -/
@[simp] theorem Dev.putFld_ns (d : Dev) (g : Fld) (v j w : Nat) : (d.putFld g v j w).ns = d.ns := rfl
@[simp] theorem Dev.putFld_fresh (d : Dev) (g : Fld) (v j w : Nat) : (d.putFld g v j w).fresh = d.fresh := rfl
@[simp] theorem Dev.putFld_out (d : Dev) (g : Fld) (v j w : Nat) : (d.putFld g v j w).out = d.out := rfl
@[simp] theorem Dev.putFld_arbs (d : Dev) (g : Fld) (v j w : Nat) : (d.putFld g v j w).arbs = d.arbs := rfl
@[simp] theorem Dev.putFld_mem (d : Dev) (g : Fld) (v j w : Nat) : (d.putFld g v j w).mem = d.mem := rfl
@[simp] theorem Dev.putFld_chk (d : Dev) (g : Fld) (v j w : Nat) : (d.putFld g v j w).chk = d.chk := rfl
@[simp] theorem Dev.putFld_slices (d : Dev) (g : Fld) (v j w : Nat) : (d.putFld g v j w).slices = d.slices := rfl
@[simp] theorem Dev.putFld_regions (d : Dev) (g : Fld) (v j w : Nat) : (d.putFld g v j w).regions = d.regions := rfl
@[simp] theorem Dev.putFld_gddr (d : Dev) (g : Fld) (v j w : Nat) : (d.putFld g v j w).gddr = d.gddr := rfl
@[simp] theorem Dev.putFld_cores (d : Dev) (g : Fld) (v j w : Nat) : (d.putFld g v j w).cores = d.cores := rfl
@[simp] theorem Dev.putFld_cycBase (d : Dev) (g : Fld) (v j w : Nat) : (d.putFld g v j w).cycBase = d.cycBase := rfl
@[simp] theorem Dev.putFld_rst (d : Dev) (g : Fld) (v j w : Nat) : (d.putFld g v j w).rst = d.rst := rfl
@[simp] theorem Dev.putFld_clks (d : Dev) (g : Fld) (v j w : Nat) : (d.putFld g v j w).clks = d.clks := rfl
@[simp] theorem Dev.putFld_rings (d : Dev) (g : Fld) (v j w : Nat) : (d.putFld g v j w).rings = d.rings := rfl
@[simp] theorem Dev.putFld_descs (d : Dev) (g : Fld) (v j w : Nat) : (d.putFld g v j w).descs = d.descs := rfl
@[simp] theorem Dev.putFld_descSeq (d : Dev) (g : Fld) (v j w : Nat) : (d.putFld g v j w).descSeq = d.descSeq := rfl
@[simp] theorem Dev.putFld_watch (d : Dev) (g : Fld) (v j w : Nat) : (d.putFld g v j w).watch = d.watch := rfl
@[simp] theorem Dev.putFld_btnVal (d : Dev) (g : Fld) (v j w : Nat) : (d.putFld g v j w).btnVal = d.btnVal := rfl
@[simp] theorem Dev.putFld_ctxs (d : Dev) (g : Fld) (v j w : Nat) : (d.putFld g v j w).ctxs = d.ctxs := rfl
@[simp] theorem Dev.putFld_lab (d : Dev) (g : Fld) (v j w : Nat) : (d.putFld g v j w).lab = d.lab := rfl
@[simp] theorem Dev.putFld_labStamp (d : Dev) (g : Fld) (v j w : Nat) : (d.putFld g v j w).labStamp = d.labStamp := rfl
@[simp] theorem Dev.putFld_attn (d : Dev) (g : Fld) (v j w : Nat) : (d.putFld g v j w).attn = d.attn := rfl
@[simp] theorem Dev.putFld_btnBad (d : Dev) (g : Fld) (v j w : Nat) : (d.putFld g v j w).btnBad = d.btnBad := rfl
@[simp] theorem Dev.putFld_btnQ (d : Dev) (g : Fld) (v j w : Nat) : (d.putFld g v j w).btnQ = d.btnQ := rfl
@[simp] theorem Dev.putFld_btnW (d : Dev) (g : Fld) (v j w : Nat) : (d.putFld g v j w).btnW = d.btnW := rfl
@[simp] theorem Dev.putFld_uio (d : Dev) (g : Fld) (v j w : Nat) : (d.putFld g v j w).uio = d.uio := rfl
@[simp] theorem Dev.putFld_uioTag (d : Dev) (g : Fld) (v j w : Nat) : (d.putFld g v j w).uioTag = d.uioTag := rfl
@[simp] theorem Dev.putFld_waits (d : Dev) (g : Fld) (v j w : Nat) : (d.putFld g v j w).waits = d.waits := rfl
@[simp] theorem Dev.putFld_port (d : Dev) (g : Fld) (v j w : Nat) : (d.putFld g v j w).port = d.port := rfl
@[simp] theorem Dev.putFld_hdm (d : Dev) (g : Fld) (v j w : Nat) : (d.putFld g v j w).hdm = d.hdm := rfl
@[simp] theorem Dev.putFld_sf (d : Dev) (g : Fld) (v j w : Nat) : (d.putFld g v j w).sf = d.sf := rfl
@[simp] theorem Dev.putFld_biOut (d : Dev) (g : Fld) (v j w : Nat) : (d.putFld g v j w).biOut = d.biOut := rfl
@[simp] theorem Dev.putFld_recalls (d : Dev) (g : Fld) (v j w : Nat) : (d.putFld g v j w).recalls = d.recalls := rfl
@[simp] theorem Dev.putFld_perstAt (d : Dev) (g : Fld) (v j w : Nat) : (d.putFld g v j w).perstAt = d.perstAt := rfl
@[simp] theorem Dev.putFld_power (d : Dev) (g : Fld) (v j w : Nat) : (d.putFld g v j w).power = d.power := rfl
@[simp] theorem Dev.putFld_auxAt (d : Dev) (g : Fld) (v j w : Nat) : (d.putFld g v j w).auxAt = d.auxAt := rfl
@[simp] theorem Dev.putFld_pwr (d : Dev) (g : Fld) (v j w : Nat) : (d.putFld g v j w).pwr = d.pwr := rfl
@[simp] theorem Dev.putFld_domAt (d : Dev) (g : Fld) (v j w : Nat) : (d.putFld g v j w).domAt = d.domAt := rfl
@[simp] theorem Dev.putFld_domAsked (d : Dev) (g : Fld) (v j w : Nat) : (d.putFld g v j w).domAsked = d.domAsked := rfl
@[simp] theorem Dev.putFld_points (d : Dev) (g : Fld) (v j w : Nat) : (d.putFld g v j w).points = d.points := rfl
@[simp] theorem Dev.putFld_rails (d : Dev) (g : Fld) (v j w : Nat) : (d.putFld g v j w).rails = d.rails := rfl
@[simp] theorem Dev.putFld_therm (d : Dev) (g : Fld) (v j w : Nat) : (d.putFld g v j w).therm = d.therm := rfl
@[simp] theorem Dev.putFld_pace (d : Dev) (g : Fld) (v j w : Nat) : (d.putFld g v j w).pace = d.pace := rfl
@[simp] theorem Dev.putFld_modEn (d : Dev) (g : Fld) (v j w : Nat) : (d.putFld g v j w).modEn = d.modEn := rfl
@[simp] theorem Dev.putFld_modEnAt (d : Dev) (g : Fld) (v j w : Nat) : (d.putFld g v j w).modEnAt = d.modEnAt := rfl
@[simp] theorem Dev.putFld_modFail (d : Dev) (g : Fld) (v j w : Nat) : (d.putFld g v j w).modFail = d.modFail := rfl
@[simp] theorem Dev.putFld_svc (d : Dev) (g : Fld) (v j w : Nat) : (d.putFld g v j w).svc = d.svc := rfl
@[simp] theorem Dev.putFld_stamp (d : Dev) (g : Fld) (v j w : Nat) : (d.putFld g v j w).stamp = d.stamp := rfl
@[simp] theorem Dev.putFld_relays (d : Dev) (g : Fld) (v j w : Nat) : (d.putFld g v j w).relays = d.relays := rfl
@[simp] theorem Dev.putFld_chunks (d : Dev) (g : Fld) (v j w : Nat) : (d.putFld g v j w).chunks = d.chunks := rfl
@[simp] theorem Dev.putFld_relayLast (d : Dev) (g : Fld) (v j w : Nat) : (d.putFld g v j w).relayLast = d.relayLast := rfl
@[simp] theorem Dev.putFld_chkSeen (d : Dev) (g : Fld) (v j w : Nat) : (d.putFld g v j w).chkSeen = d.chkSeen := rfl
@[simp] theorem Dev.putFld_chkWhen (d : Dev) (g : Fld) (v j w : Nat) : (d.putFld g v j w).chkWhen = d.chkWhen := rfl
@[simp] theorem Dev.putFld_chkWas (d : Dev) (g : Fld) (v j w : Nat) : (d.putFld g v j w).chkWas = d.chkWas := rfl
@[simp] theorem Dev.putFld_evLogs (d : Dev) (g : Fld) (v j w : Nat) : (d.putFld g v j w).evLogs = d.evLogs := rfl
@[simp] theorem Dev.putFld_evOver (d : Dev) (g : Fld) (v j w : Nat) : (d.putFld g v j w).evOver = d.evOver := rfl
@[simp] theorem Dev.putFld_evHandle (d : Dev) (g : Fld) (v j w : Nat) : (d.putFld g v j w).evHandle = d.evHandle := rfl
@[simp] theorem Dev.putFld_evPolicy (d : Dev) (g : Fld) (v j w : Nat) : (d.putFld g v j w).evPolicy = d.evPolicy := rfl
@[simp] theorem Dev.putFld_evPending (d : Dev) (g : Fld) (v j w : Nat) : (d.putFld g v j w).evPending = d.evPending := rfl
@[simp] theorem Dev.putFld_lifeSeq (d : Dev) (g : Fld) (v j w : Nat) : (d.putFld g v j w).lifeSeq = d.lifeSeq := rfl
@[simp] theorem Dev.putFld_lifePend (d : Dev) (g : Fld) (v j w : Nat) : (d.putFld g v j w).lifePend = d.lifePend := rfl
@[simp] theorem Dev.putFld_repair (d : Dev) (g : Fld) (v j w : Nat) : (d.putFld g v j w).repair = d.repair := rfl
@[simp] theorem Dev.putFld_caGrp (d : Dev) (g : Fld) (v j w : Nat) : (d.putFld g v j w).caGrp = d.caGrp := rfl
@[simp] theorem Dev.putFld_laneOff (d : Dev) (g : Fld) (v j w : Nat) : (d.putFld g v j w).laneOff = d.laneOff := rfl
@[simp] theorem Dev.putFld_laneErr (d : Dev) (g : Fld) (v j w : Nat) : (d.putFld g v j w).laneErr = d.laneErr := rfl
@[simp] theorem Dev.putFld_d2d (d : Dev) (g : Fld) (v j w : Nat) : (d.putFld g v j w).d2d = d.d2d := rfl
@[simp] theorem Dev.putFld_noc (d : Dev) (g : Fld) (v j w : Nat) : (d.putFld g v j w).noc = d.noc := rfl
@[simp] theorem Dev.putFld_laps (d : Dev) (g : Fld) (v j w : Nat) : (d.putFld g v j w).laps = d.laps := rfl
@[simp] theorem Dev.putFld_lapInlet (d : Dev) (g : Fld) (v j w : Nat) : (d.putFld g v j w).lapInlet = d.lapInlet := rfl
@[simp] theorem Dev.putFld_pmcAt (d : Dev) (g : Fld) (v j w : Nat) : (d.putFld g v j w).pmcAt = d.pmcAt := rfl
@[simp] theorem Dev.putFld_lifeAt (d : Dev) (g : Fld) (v j w : Nat) : (d.putFld g v j w).lifeAt = d.lifeAt := rfl
@[simp] theorem Dev.putFld_imgPend (d : Dev) (g : Fld) (v j w : Nat) : (d.putFld g v j w).imgPend = d.imgPend := rfl
@[simp] theorem Dev.putFld_worn (d : Dev) (g : Fld) (v j w : Nat) : (d.putFld g v j w).worn = d.worn := rfl
@[simp] theorem Dev.putFld_pldm (d : Dev) (g : Fld) (v j w : Nat) : (d.putFld g v j w).pldm = d.pldm := rfl
@[simp] theorem Dev.putFld_pmb (d : Dev) (g : Fld) (v j w : Nat) : (d.putFld g v j w).pmb = d.pmb := rfl
@[simp] theorem Dev.putFld_pmbStatus (d : Dev) (g : Fld) (v j w : Nat) : (d.putFld g v j w).pmbStatus = d.pmbStatus := rfl
@[simp] theorem Dev.putFld_calls (d : Dev) (g : Fld) (v j w : Nat) : (d.putFld g v j w).calls = d.calls := rfl
@[simp] theorem Dev.putFld_dead (d : Dev) (g : Fld) (v j w : Nat) : (d.putFld g v j w).dead = d.dead := rfl
@[simp] theorem Dev.putFld_eid (d : Dev) (g : Fld) (v j w : Nat) : (d.putFld g v j w).eid = d.eid := rfl
@[simp] theorem Dev.putFld_step (d : Dev) (g : Fld) (v j w : Nat) : (d.putFld g v j w).step = d.step := rfl
@[simp] theorem Dev.putFld_perstLow (d : Dev) (g : Fld) (v j w : Nat) : (d.putFld g v j w).perstLow = d.perstLow := rfl
@[simp] theorem Dev.putFld_tripRec (d : Dev) (g : Fld) (v j w : Nat) : (d.putFld g v j w).tripRec = d.tripRec := rfl
@[simp] theorem Dev.putFld_strapped (d : Dev) (g : Fld) (v j w : Nat) : (d.putFld g v j w).strapped = d.strapped := rfl
@[simp] theorem Dev.putFld_jtagIr (d : Dev) (g : Fld) (v j w : Nat) : (d.putFld g v j w).jtagIr = d.jtagIr := rfl
@[simp] theorem Dev.putFld_jtagBypass (d : Dev) (g : Fld) (v j w : Nat) : (d.putFld g v j w).jtagBypass = d.jtagBypass := rfl
@[simp] theorem Dev.putFld_boundary (d : Dev) (g : Fld) (v j w : Nat) : (d.putFld g v j w).boundary = d.boundary := rfl
@[simp] theorem Dev.putFld_mgmt (d : Dev) (g : Fld) (v j w : Nat) : (d.putFld g v j w).mgmt = d.mgmt := rfl
@[simp] theorem Dev.putFld_meas (d : Dev) (g : Fld) (v j w : Nat) : (d.putFld g v j w).meas = d.meas := rfl
@[simp] theorem Dev.putFld_spdm (d : Dev) (g : Fld) (v j w : Nat) : (d.putFld g v j w).spdm = d.spdm := rfl
@[simp] theorem Dev.putFld_sessions (d : Dev) (g : Fld) (v j w : Nat) : (d.putFld g v j w).sessions = d.sessions := rfl
@[simp] theorem Dev.putFld_ide (d : Dev) (g : Fld) (v j w : Nat) : (d.putFld g v j w).ide = d.ide := rfl
@[simp] theorem Dev.putFld_draws (d : Dev) (g : Fld) (v j w : Nat) : (d.putFld g v j w).draws = d.draws := rfl
@[simp] theorem Dev.putFld_regHeld (d : Dev) (g : Fld) (v j w : Nat) : (d.putFld g v j w).regHeld = d.regHeld := rfl
@[simp] theorem Dev.putFld_fatal (d : Dev) (g : Fld) (v j w : Nat) : (d.putFld g v j w).fatal = d.fatal := rfl
@[simp] theorem Dev.putFld_cyc (d : Dev) (g : Fld) (v j w : Nat) : (d.putFld g v j w).cyc = d.cyc := rfl
@[simp] theorem Dev.putFld_inq (d : Dev) (g : Fld) (v j w : Nat) : (d.putFld g v j w).inq = d.inq := rfl
@[simp] theorem Dev.putFld_cfg (d : Dev) (g : Fld) (v j w : Nat) : (d.putFld g v j w).cfg = d.cfg := rfl
@[simp] theorem Dev.putFld_alerted (d : Dev) (g : Fld) (v j w : Nat) : (d.putFld g v j w).alerted = d.alerted := rfl
@[simp] theorem Dev.putFld_fuse (d : Dev) (g : Fld) (v j w : Nat) : (d.putFld g v j w).fuse = d.fuse := rfl
@[simp] theorem Dev.putFld_slice (d : Dev) (g : Fld) (v j w : Nat) (n : Nat) : (d.putFld g v j w).slice n = d.slice n := rfl
@[simp] theorem Dev.putFld_region (d : Dev) (g : Fld) (v j w : Nat) (n : Nat) : (d.putFld g v j w).region n = d.region n := rfl
@[simp] theorem Dev.putFld_core (d : Dev) (g : Fld) (v j w : Nat) (n : Nat) : (d.putFld g v j w).core n = d.core n := rfl
@[simp] theorem Dev.putFld_arr (d : Dev) (g : Fld) (v j w : Nat) (n : Nat) : (d.putFld g v j w).arr n = d.arr n := rfl
@[simp] theorem Dev.putFld_dma (d : Dev) (g : Fld) (v j w : Nat) (n : Nat) : (d.putFld g v j w).dma n = d.dma n := rfl
@[simp] theorem Dev.putFld_ring (d : Dev) (g : Fld) (v j w : Nat) (n : Nat) : (d.putFld g v j w).ring n = d.ring n := rfl
@[simp] theorem Dev.putFld_arb (d : Dev) (g : Fld) (v j w : Nat) (k : Nat) : (d.putFld g v j w).arb k = d.arb k := rfl
@[simp] theorem Dev.putFld_clk (d : Dev) (g : Fld) (v j w : Nat) (k : Nat) : (d.putFld g v j w).clk k = d.clk k := rfl
@[simp] theorem Dev.putFld_clkSum (d : Dev) (g : Fld) (v j w : Nat) (k : Nat) : (d.putFld g v j w).clkSum k = d.clkSum k := rfl
@[simp] theorem Dev.putFld_byte (d : Dev) (g : Fld) (v j w : Nat) (k : Nat) : (d.putFld g v j w).byte k = d.byte k := rfl
@[simp] theorem Dev.putFld_readCw (d : Dev) (g : Fld) (v j w : Nat) (k : Nat) (l : List Nat) : (d.putFld g v j w).readCw k l = d.readCw k l := rfl
@[simp] theorem Dev.putFld_us (d : Dev) (g : Fld) (v j w : Nat)  : (d.putFld g v j w).us  = d.us  := rfl

/-! setFld. -/
@[simp] theorem Dev.setFld_ns (d : Dev) (g : Fld) (v j w : Nat) : (d.setFld g v j w).ns = d.ns := rfl
@[simp] theorem Dev.setFld_fresh (d : Dev) (g : Fld) (v j w : Nat) : (d.setFld g v j w).fresh = d.fresh := rfl
@[simp] theorem Dev.setFld_out (d : Dev) (g : Fld) (v j w : Nat) : (d.setFld g v j w).out = d.out := rfl
@[simp] theorem Dev.setFld_arbs (d : Dev) (g : Fld) (v j w : Nat) : (d.setFld g v j w).arbs = d.arbs := rfl
@[simp] theorem Dev.setFld_mem (d : Dev) (g : Fld) (v j w : Nat) : (d.setFld g v j w).mem = d.mem := rfl
@[simp] theorem Dev.setFld_chk (d : Dev) (g : Fld) (v j w : Nat) : (d.setFld g v j w).chk = d.chk := rfl
@[simp] theorem Dev.setFld_slices (d : Dev) (g : Fld) (v j w : Nat) : (d.setFld g v j w).slices = d.slices := rfl
@[simp] theorem Dev.setFld_regions (d : Dev) (g : Fld) (v j w : Nat) : (d.setFld g v j w).regions = d.regions := rfl
@[simp] theorem Dev.setFld_gddr (d : Dev) (g : Fld) (v j w : Nat) : (d.setFld g v j w).gddr = d.gddr := rfl
@[simp] theorem Dev.setFld_cores (d : Dev) (g : Fld) (v j w : Nat) : (d.setFld g v j w).cores = d.cores := rfl
@[simp] theorem Dev.setFld_cycBase (d : Dev) (g : Fld) (v j w : Nat) : (d.setFld g v j w).cycBase = d.cycBase := rfl
@[simp] theorem Dev.setFld_rst (d : Dev) (g : Fld) (v j w : Nat) : (d.setFld g v j w).rst = d.rst := rfl
@[simp] theorem Dev.setFld_clks (d : Dev) (g : Fld) (v j w : Nat) : (d.setFld g v j w).clks = d.clks := rfl
@[simp] theorem Dev.setFld_rings (d : Dev) (g : Fld) (v j w : Nat) : (d.setFld g v j w).rings = d.rings := rfl
@[simp] theorem Dev.setFld_descs (d : Dev) (g : Fld) (v j w : Nat) : (d.setFld g v j w).descs = d.descs := rfl
@[simp] theorem Dev.setFld_descSeq (d : Dev) (g : Fld) (v j w : Nat) : (d.setFld g v j w).descSeq = d.descSeq := rfl
@[simp] theorem Dev.setFld_watch (d : Dev) (g : Fld) (v j w : Nat) : (d.setFld g v j w).watch = d.watch := rfl
@[simp] theorem Dev.setFld_btnVal (d : Dev) (g : Fld) (v j w : Nat) : (d.setFld g v j w).btnVal = d.btnVal := rfl
@[simp] theorem Dev.setFld_ctxs (d : Dev) (g : Fld) (v j w : Nat) : (d.setFld g v j w).ctxs = d.ctxs := rfl
@[simp] theorem Dev.setFld_lab (d : Dev) (g : Fld) (v j w : Nat) : (d.setFld g v j w).lab = d.lab := rfl
@[simp] theorem Dev.setFld_labStamp (d : Dev) (g : Fld) (v j w : Nat) : (d.setFld g v j w).labStamp = d.labStamp := rfl
@[simp] theorem Dev.setFld_attn (d : Dev) (g : Fld) (v j w : Nat) : (d.setFld g v j w).attn = d.attn := rfl
@[simp] theorem Dev.setFld_btnBad (d : Dev) (g : Fld) (v j w : Nat) : (d.setFld g v j w).btnBad = d.btnBad := rfl
@[simp] theorem Dev.setFld_btnQ (d : Dev) (g : Fld) (v j w : Nat) : (d.setFld g v j w).btnQ = d.btnQ := rfl
@[simp] theorem Dev.setFld_btnW (d : Dev) (g : Fld) (v j w : Nat) : (d.setFld g v j w).btnW = d.btnW := rfl
@[simp] theorem Dev.setFld_uio (d : Dev) (g : Fld) (v j w : Nat) : (d.setFld g v j w).uio = d.uio := rfl
@[simp] theorem Dev.setFld_uioTag (d : Dev) (g : Fld) (v j w : Nat) : (d.setFld g v j w).uioTag = d.uioTag := rfl
@[simp] theorem Dev.setFld_waits (d : Dev) (g : Fld) (v j w : Nat) : (d.setFld g v j w).waits = d.waits := rfl
@[simp] theorem Dev.setFld_port (d : Dev) (g : Fld) (v j w : Nat) : (d.setFld g v j w).port = d.port := rfl
@[simp] theorem Dev.setFld_hdm (d : Dev) (g : Fld) (v j w : Nat) : (d.setFld g v j w).hdm = d.hdm := rfl
@[simp] theorem Dev.setFld_sf (d : Dev) (g : Fld) (v j w : Nat) : (d.setFld g v j w).sf = d.sf := rfl
@[simp] theorem Dev.setFld_biOut (d : Dev) (g : Fld) (v j w : Nat) : (d.setFld g v j w).biOut = d.biOut := rfl
@[simp] theorem Dev.setFld_recalls (d : Dev) (g : Fld) (v j w : Nat) : (d.setFld g v j w).recalls = d.recalls := rfl
@[simp] theorem Dev.setFld_perstAt (d : Dev) (g : Fld) (v j w : Nat) : (d.setFld g v j w).perstAt = d.perstAt := rfl
@[simp] theorem Dev.setFld_power (d : Dev) (g : Fld) (v j w : Nat) : (d.setFld g v j w).power = d.power := rfl
@[simp] theorem Dev.setFld_auxAt (d : Dev) (g : Fld) (v j w : Nat) : (d.setFld g v j w).auxAt = d.auxAt := rfl
@[simp] theorem Dev.setFld_pwr (d : Dev) (g : Fld) (v j w : Nat) : (d.setFld g v j w).pwr = d.pwr := rfl
@[simp] theorem Dev.setFld_domAt (d : Dev) (g : Fld) (v j w : Nat) : (d.setFld g v j w).domAt = d.domAt := rfl
@[simp] theorem Dev.setFld_domAsked (d : Dev) (g : Fld) (v j w : Nat) : (d.setFld g v j w).domAsked = d.domAsked := rfl
@[simp] theorem Dev.setFld_points (d : Dev) (g : Fld) (v j w : Nat) : (d.setFld g v j w).points = d.points := rfl
@[simp] theorem Dev.setFld_rails (d : Dev) (g : Fld) (v j w : Nat) : (d.setFld g v j w).rails = d.rails := rfl
@[simp] theorem Dev.setFld_therm (d : Dev) (g : Fld) (v j w : Nat) : (d.setFld g v j w).therm = d.therm := rfl
@[simp] theorem Dev.setFld_pace (d : Dev) (g : Fld) (v j w : Nat) : (d.setFld g v j w).pace = d.pace := rfl
@[simp] theorem Dev.setFld_modEn (d : Dev) (g : Fld) (v j w : Nat) : (d.setFld g v j w).modEn = d.modEn := rfl
@[simp] theorem Dev.setFld_modEnAt (d : Dev) (g : Fld) (v j w : Nat) : (d.setFld g v j w).modEnAt = d.modEnAt := rfl
@[simp] theorem Dev.setFld_modFail (d : Dev) (g : Fld) (v j w : Nat) : (d.setFld g v j w).modFail = d.modFail := rfl
@[simp] theorem Dev.setFld_svc (d : Dev) (g : Fld) (v j w : Nat) : (d.setFld g v j w).svc = d.svc := rfl
@[simp] theorem Dev.setFld_stamp (d : Dev) (g : Fld) (v j w : Nat) : (d.setFld g v j w).stamp = d.stamp := rfl
@[simp] theorem Dev.setFld_relays (d : Dev) (g : Fld) (v j w : Nat) : (d.setFld g v j w).relays = d.relays := rfl
@[simp] theorem Dev.setFld_chunks (d : Dev) (g : Fld) (v j w : Nat) : (d.setFld g v j w).chunks = d.chunks := rfl
@[simp] theorem Dev.setFld_relayLast (d : Dev) (g : Fld) (v j w : Nat) : (d.setFld g v j w).relayLast = d.relayLast := rfl
@[simp] theorem Dev.setFld_chkSeen (d : Dev) (g : Fld) (v j w : Nat) : (d.setFld g v j w).chkSeen = d.chkSeen := rfl
@[simp] theorem Dev.setFld_chkWhen (d : Dev) (g : Fld) (v j w : Nat) : (d.setFld g v j w).chkWhen = d.chkWhen := rfl
@[simp] theorem Dev.setFld_chkWas (d : Dev) (g : Fld) (v j w : Nat) : (d.setFld g v j w).chkWas = d.chkWas := rfl
@[simp] theorem Dev.setFld_evLogs (d : Dev) (g : Fld) (v j w : Nat) : (d.setFld g v j w).evLogs = d.evLogs := rfl
@[simp] theorem Dev.setFld_evOver (d : Dev) (g : Fld) (v j w : Nat) : (d.setFld g v j w).evOver = d.evOver := rfl
@[simp] theorem Dev.setFld_evHandle (d : Dev) (g : Fld) (v j w : Nat) : (d.setFld g v j w).evHandle = d.evHandle := rfl
@[simp] theorem Dev.setFld_evPolicy (d : Dev) (g : Fld) (v j w : Nat) : (d.setFld g v j w).evPolicy = d.evPolicy := rfl
@[simp] theorem Dev.setFld_evPending (d : Dev) (g : Fld) (v j w : Nat) : (d.setFld g v j w).evPending = d.evPending := rfl
@[simp] theorem Dev.setFld_lifeSeq (d : Dev) (g : Fld) (v j w : Nat) : (d.setFld g v j w).lifeSeq = d.lifeSeq := rfl
@[simp] theorem Dev.setFld_lifePend (d : Dev) (g : Fld) (v j w : Nat) : (d.setFld g v j w).lifePend = d.lifePend := rfl
@[simp] theorem Dev.setFld_repair (d : Dev) (g : Fld) (v j w : Nat) : (d.setFld g v j w).repair = d.repair := rfl
@[simp] theorem Dev.setFld_caGrp (d : Dev) (g : Fld) (v j w : Nat) : (d.setFld g v j w).caGrp = d.caGrp := rfl
@[simp] theorem Dev.setFld_laneOff (d : Dev) (g : Fld) (v j w : Nat) : (d.setFld g v j w).laneOff = d.laneOff := rfl
@[simp] theorem Dev.setFld_laneErr (d : Dev) (g : Fld) (v j w : Nat) : (d.setFld g v j w).laneErr = d.laneErr := rfl
@[simp] theorem Dev.setFld_d2d (d : Dev) (g : Fld) (v j w : Nat) : (d.setFld g v j w).d2d = d.d2d := rfl
@[simp] theorem Dev.setFld_noc (d : Dev) (g : Fld) (v j w : Nat) : (d.setFld g v j w).noc = d.noc := rfl
@[simp] theorem Dev.setFld_laps (d : Dev) (g : Fld) (v j w : Nat) : (d.setFld g v j w).laps = d.laps := rfl
@[simp] theorem Dev.setFld_lapInlet (d : Dev) (g : Fld) (v j w : Nat) : (d.setFld g v j w).lapInlet = d.lapInlet := rfl
@[simp] theorem Dev.setFld_pmcAt (d : Dev) (g : Fld) (v j w : Nat) : (d.setFld g v j w).pmcAt = d.pmcAt := rfl
@[simp] theorem Dev.setFld_lifeAt (d : Dev) (g : Fld) (v j w : Nat) : (d.setFld g v j w).lifeAt = d.lifeAt := rfl
@[simp] theorem Dev.setFld_imgPend (d : Dev) (g : Fld) (v j w : Nat) : (d.setFld g v j w).imgPend = d.imgPend := rfl
@[simp] theorem Dev.setFld_worn (d : Dev) (g : Fld) (v j w : Nat) : (d.setFld g v j w).worn = d.worn := rfl
@[simp] theorem Dev.setFld_pldm (d : Dev) (g : Fld) (v j w : Nat) : (d.setFld g v j w).pldm = d.pldm := rfl
@[simp] theorem Dev.setFld_pmb (d : Dev) (g : Fld) (v j w : Nat) : (d.setFld g v j w).pmb = d.pmb := rfl
@[simp] theorem Dev.setFld_pmbStatus (d : Dev) (g : Fld) (v j w : Nat) : (d.setFld g v j w).pmbStatus = d.pmbStatus := rfl
@[simp] theorem Dev.setFld_calls (d : Dev) (g : Fld) (v j w : Nat) : (d.setFld g v j w).calls = d.calls := rfl
@[simp] theorem Dev.setFld_dead (d : Dev) (g : Fld) (v j w : Nat) : (d.setFld g v j w).dead = d.dead := rfl
@[simp] theorem Dev.setFld_eid (d : Dev) (g : Fld) (v j w : Nat) : (d.setFld g v j w).eid = d.eid := rfl
@[simp] theorem Dev.setFld_step (d : Dev) (g : Fld) (v j w : Nat) : (d.setFld g v j w).step = d.step := rfl
@[simp] theorem Dev.setFld_perstLow (d : Dev) (g : Fld) (v j w : Nat) : (d.setFld g v j w).perstLow = d.perstLow := rfl
@[simp] theorem Dev.setFld_tripRec (d : Dev) (g : Fld) (v j w : Nat) : (d.setFld g v j w).tripRec = d.tripRec := rfl
@[simp] theorem Dev.setFld_strapped (d : Dev) (g : Fld) (v j w : Nat) : (d.setFld g v j w).strapped = d.strapped := rfl
@[simp] theorem Dev.setFld_jtagIr (d : Dev) (g : Fld) (v j w : Nat) : (d.setFld g v j w).jtagIr = d.jtagIr := rfl
@[simp] theorem Dev.setFld_jtagBypass (d : Dev) (g : Fld) (v j w : Nat) : (d.setFld g v j w).jtagBypass = d.jtagBypass := rfl
@[simp] theorem Dev.setFld_boundary (d : Dev) (g : Fld) (v j w : Nat) : (d.setFld g v j w).boundary = d.boundary := rfl
@[simp] theorem Dev.setFld_mgmt (d : Dev) (g : Fld) (v j w : Nat) : (d.setFld g v j w).mgmt = d.mgmt := rfl
@[simp] theorem Dev.setFld_meas (d : Dev) (g : Fld) (v j w : Nat) : (d.setFld g v j w).meas = d.meas := rfl
@[simp] theorem Dev.setFld_spdm (d : Dev) (g : Fld) (v j w : Nat) : (d.setFld g v j w).spdm = d.spdm := rfl
@[simp] theorem Dev.setFld_sessions (d : Dev) (g : Fld) (v j w : Nat) : (d.setFld g v j w).sessions = d.sessions := rfl
@[simp] theorem Dev.setFld_ide (d : Dev) (g : Fld) (v j w : Nat) : (d.setFld g v j w).ide = d.ide := rfl
@[simp] theorem Dev.setFld_draws (d : Dev) (g : Fld) (v j w : Nat) : (d.setFld g v j w).draws = d.draws := rfl
@[simp] theorem Dev.setFld_regHeld (d : Dev) (g : Fld) (v j w : Nat) : (d.setFld g v j w).regHeld = d.regHeld := rfl
@[simp] theorem Dev.setFld_fatal (d : Dev) (g : Fld) (v j w : Nat) : (d.setFld g v j w).fatal = d.fatal := rfl
@[simp] theorem Dev.setFld_inq (d : Dev) (g : Fld) (v j w : Nat) : (d.setFld g v j w).inq = d.inq := rfl
@[simp] theorem Dev.setFld_cfg (d : Dev) (g : Fld) (v j w : Nat) : (d.setFld g v j w).cfg = d.cfg := rfl
@[simp] theorem Dev.setFld_alerted (d : Dev) (g : Fld) (v j w : Nat) : (d.setFld g v j w).alerted = d.alerted := rfl
@[simp] theorem Dev.setFld_fuse (d : Dev) (g : Fld) (v j w : Nat) : (d.setFld g v j w).fuse = d.fuse := rfl
@[simp] theorem Dev.setFld_slice (d : Dev) (g : Fld) (v j w : Nat) (n : Nat) : (d.setFld g v j w).slice n = d.slice n := rfl
@[simp] theorem Dev.setFld_region (d : Dev) (g : Fld) (v j w : Nat) (n : Nat) : (d.setFld g v j w).region n = d.region n := rfl
@[simp] theorem Dev.setFld_core (d : Dev) (g : Fld) (v j w : Nat) (n : Nat) : (d.setFld g v j w).core n = d.core n := rfl
@[simp] theorem Dev.setFld_arr (d : Dev) (g : Fld) (v j w : Nat) (n : Nat) : (d.setFld g v j w).arr n = d.arr n := rfl
@[simp] theorem Dev.setFld_dma (d : Dev) (g : Fld) (v j w : Nat) (n : Nat) : (d.setFld g v j w).dma n = d.dma n := rfl
@[simp] theorem Dev.setFld_ring (d : Dev) (g : Fld) (v j w : Nat) (n : Nat) : (d.setFld g v j w).ring n = d.ring n := rfl
@[simp] theorem Dev.setFld_arb (d : Dev) (g : Fld) (v j w : Nat) (k : Nat) : (d.setFld g v j w).arb k = d.arb k := rfl
@[simp] theorem Dev.setFld_clk (d : Dev) (g : Fld) (v j w : Nat) (k : Nat) : (d.setFld g v j w).clk k = d.clk k := rfl
@[simp] theorem Dev.setFld_clkSum (d : Dev) (g : Fld) (v j w : Nat) (k : Nat) : (d.setFld g v j w).clkSum k = d.clkSum k := rfl
@[simp] theorem Dev.setFld_byte (d : Dev) (g : Fld) (v j w : Nat) (k : Nat) : (d.setFld g v j w).byte k = d.byte k := rfl
@[simp] theorem Dev.setFld_readCw (d : Dev) (g : Fld) (v j w : Nat) (k : Nat) (l : List Nat) : (d.setFld g v j w).readCw k l = d.readCw k l := rfl
@[simp] theorem Dev.setFld_us (d : Dev) (g : Fld) (v j w : Nat)  : (d.setFld g v j w).us  = d.us  := rfl

/-! setBit. -/
@[simp] theorem Dev.setBit_ns (d : Dev) (g : Fld) (v j : Nat) (w : Bool) : (d.setBit g v j w).ns = d.ns := rfl
@[simp] theorem Dev.setBit_fresh (d : Dev) (g : Fld) (v j : Nat) (w : Bool) : (d.setBit g v j w).fresh = d.fresh := rfl
@[simp] theorem Dev.setBit_out (d : Dev) (g : Fld) (v j : Nat) (w : Bool) : (d.setBit g v j w).out = d.out := rfl
@[simp] theorem Dev.setBit_arbs (d : Dev) (g : Fld) (v j : Nat) (w : Bool) : (d.setBit g v j w).arbs = d.arbs := rfl
@[simp] theorem Dev.setBit_mem (d : Dev) (g : Fld) (v j : Nat) (w : Bool) : (d.setBit g v j w).mem = d.mem := rfl
@[simp] theorem Dev.setBit_chk (d : Dev) (g : Fld) (v j : Nat) (w : Bool) : (d.setBit g v j w).chk = d.chk := rfl
@[simp] theorem Dev.setBit_slices (d : Dev) (g : Fld) (v j : Nat) (w : Bool) : (d.setBit g v j w).slices = d.slices := rfl
@[simp] theorem Dev.setBit_regions (d : Dev) (g : Fld) (v j : Nat) (w : Bool) : (d.setBit g v j w).regions = d.regions := rfl
@[simp] theorem Dev.setBit_gddr (d : Dev) (g : Fld) (v j : Nat) (w : Bool) : (d.setBit g v j w).gddr = d.gddr := rfl
@[simp] theorem Dev.setBit_cores (d : Dev) (g : Fld) (v j : Nat) (w : Bool) : (d.setBit g v j w).cores = d.cores := rfl
@[simp] theorem Dev.setBit_cycBase (d : Dev) (g : Fld) (v j : Nat) (w : Bool) : (d.setBit g v j w).cycBase = d.cycBase := rfl
@[simp] theorem Dev.setBit_rst (d : Dev) (g : Fld) (v j : Nat) (w : Bool) : (d.setBit g v j w).rst = d.rst := rfl
@[simp] theorem Dev.setBit_clks (d : Dev) (g : Fld) (v j : Nat) (w : Bool) : (d.setBit g v j w).clks = d.clks := rfl
@[simp] theorem Dev.setBit_rings (d : Dev) (g : Fld) (v j : Nat) (w : Bool) : (d.setBit g v j w).rings = d.rings := rfl
@[simp] theorem Dev.setBit_descs (d : Dev) (g : Fld) (v j : Nat) (w : Bool) : (d.setBit g v j w).descs = d.descs := rfl
@[simp] theorem Dev.setBit_descSeq (d : Dev) (g : Fld) (v j : Nat) (w : Bool) : (d.setBit g v j w).descSeq = d.descSeq := rfl
@[simp] theorem Dev.setBit_watch (d : Dev) (g : Fld) (v j : Nat) (w : Bool) : (d.setBit g v j w).watch = d.watch := rfl
@[simp] theorem Dev.setBit_btnVal (d : Dev) (g : Fld) (v j : Nat) (w : Bool) : (d.setBit g v j w).btnVal = d.btnVal := rfl
@[simp] theorem Dev.setBit_ctxs (d : Dev) (g : Fld) (v j : Nat) (w : Bool) : (d.setBit g v j w).ctxs = d.ctxs := rfl
@[simp] theorem Dev.setBit_lab (d : Dev) (g : Fld) (v j : Nat) (w : Bool) : (d.setBit g v j w).lab = d.lab := rfl
@[simp] theorem Dev.setBit_labStamp (d : Dev) (g : Fld) (v j : Nat) (w : Bool) : (d.setBit g v j w).labStamp = d.labStamp := rfl
@[simp] theorem Dev.setBit_attn (d : Dev) (g : Fld) (v j : Nat) (w : Bool) : (d.setBit g v j w).attn = d.attn := rfl
@[simp] theorem Dev.setBit_btnBad (d : Dev) (g : Fld) (v j : Nat) (w : Bool) : (d.setBit g v j w).btnBad = d.btnBad := rfl
@[simp] theorem Dev.setBit_btnQ (d : Dev) (g : Fld) (v j : Nat) (w : Bool) : (d.setBit g v j w).btnQ = d.btnQ := rfl
@[simp] theorem Dev.setBit_btnW (d : Dev) (g : Fld) (v j : Nat) (w : Bool) : (d.setBit g v j w).btnW = d.btnW := rfl
@[simp] theorem Dev.setBit_uio (d : Dev) (g : Fld) (v j : Nat) (w : Bool) : (d.setBit g v j w).uio = d.uio := rfl
@[simp] theorem Dev.setBit_uioTag (d : Dev) (g : Fld) (v j : Nat) (w : Bool) : (d.setBit g v j w).uioTag = d.uioTag := rfl
@[simp] theorem Dev.setBit_waits (d : Dev) (g : Fld) (v j : Nat) (w : Bool) : (d.setBit g v j w).waits = d.waits := rfl
@[simp] theorem Dev.setBit_port (d : Dev) (g : Fld) (v j : Nat) (w : Bool) : (d.setBit g v j w).port = d.port := rfl
@[simp] theorem Dev.setBit_hdm (d : Dev) (g : Fld) (v j : Nat) (w : Bool) : (d.setBit g v j w).hdm = d.hdm := rfl
@[simp] theorem Dev.setBit_sf (d : Dev) (g : Fld) (v j : Nat) (w : Bool) : (d.setBit g v j w).sf = d.sf := rfl
@[simp] theorem Dev.setBit_biOut (d : Dev) (g : Fld) (v j : Nat) (w : Bool) : (d.setBit g v j w).biOut = d.biOut := rfl
@[simp] theorem Dev.setBit_recalls (d : Dev) (g : Fld) (v j : Nat) (w : Bool) : (d.setBit g v j w).recalls = d.recalls := rfl
@[simp] theorem Dev.setBit_perstAt (d : Dev) (g : Fld) (v j : Nat) (w : Bool) : (d.setBit g v j w).perstAt = d.perstAt := rfl
@[simp] theorem Dev.setBit_power (d : Dev) (g : Fld) (v j : Nat) (w : Bool) : (d.setBit g v j w).power = d.power := rfl
@[simp] theorem Dev.setBit_auxAt (d : Dev) (g : Fld) (v j : Nat) (w : Bool) : (d.setBit g v j w).auxAt = d.auxAt := rfl
@[simp] theorem Dev.setBit_pwr (d : Dev) (g : Fld) (v j : Nat) (w : Bool) : (d.setBit g v j w).pwr = d.pwr := rfl
@[simp] theorem Dev.setBit_domAt (d : Dev) (g : Fld) (v j : Nat) (w : Bool) : (d.setBit g v j w).domAt = d.domAt := rfl
@[simp] theorem Dev.setBit_domAsked (d : Dev) (g : Fld) (v j : Nat) (w : Bool) : (d.setBit g v j w).domAsked = d.domAsked := rfl
@[simp] theorem Dev.setBit_points (d : Dev) (g : Fld) (v j : Nat) (w : Bool) : (d.setBit g v j w).points = d.points := rfl
@[simp] theorem Dev.setBit_rails (d : Dev) (g : Fld) (v j : Nat) (w : Bool) : (d.setBit g v j w).rails = d.rails := rfl
@[simp] theorem Dev.setBit_therm (d : Dev) (g : Fld) (v j : Nat) (w : Bool) : (d.setBit g v j w).therm = d.therm := rfl
@[simp] theorem Dev.setBit_pace (d : Dev) (g : Fld) (v j : Nat) (w : Bool) : (d.setBit g v j w).pace = d.pace := rfl
@[simp] theorem Dev.setBit_modEn (d : Dev) (g : Fld) (v j : Nat) (w : Bool) : (d.setBit g v j w).modEn = d.modEn := rfl
@[simp] theorem Dev.setBit_modEnAt (d : Dev) (g : Fld) (v j : Nat) (w : Bool) : (d.setBit g v j w).modEnAt = d.modEnAt := rfl
@[simp] theorem Dev.setBit_modFail (d : Dev) (g : Fld) (v j : Nat) (w : Bool) : (d.setBit g v j w).modFail = d.modFail := rfl
@[simp] theorem Dev.setBit_svc (d : Dev) (g : Fld) (v j : Nat) (w : Bool) : (d.setBit g v j w).svc = d.svc := rfl
@[simp] theorem Dev.setBit_stamp (d : Dev) (g : Fld) (v j : Nat) (w : Bool) : (d.setBit g v j w).stamp = d.stamp := rfl
@[simp] theorem Dev.setBit_relays (d : Dev) (g : Fld) (v j : Nat) (w : Bool) : (d.setBit g v j w).relays = d.relays := rfl
@[simp] theorem Dev.setBit_chunks (d : Dev) (g : Fld) (v j : Nat) (w : Bool) : (d.setBit g v j w).chunks = d.chunks := rfl
@[simp] theorem Dev.setBit_relayLast (d : Dev) (g : Fld) (v j : Nat) (w : Bool) : (d.setBit g v j w).relayLast = d.relayLast := rfl
@[simp] theorem Dev.setBit_chkSeen (d : Dev) (g : Fld) (v j : Nat) (w : Bool) : (d.setBit g v j w).chkSeen = d.chkSeen := rfl
@[simp] theorem Dev.setBit_chkWhen (d : Dev) (g : Fld) (v j : Nat) (w : Bool) : (d.setBit g v j w).chkWhen = d.chkWhen := rfl
@[simp] theorem Dev.setBit_chkWas (d : Dev) (g : Fld) (v j : Nat) (w : Bool) : (d.setBit g v j w).chkWas = d.chkWas := rfl
@[simp] theorem Dev.setBit_evLogs (d : Dev) (g : Fld) (v j : Nat) (w : Bool) : (d.setBit g v j w).evLogs = d.evLogs := rfl
@[simp] theorem Dev.setBit_evOver (d : Dev) (g : Fld) (v j : Nat) (w : Bool) : (d.setBit g v j w).evOver = d.evOver := rfl
@[simp] theorem Dev.setBit_evHandle (d : Dev) (g : Fld) (v j : Nat) (w : Bool) : (d.setBit g v j w).evHandle = d.evHandle := rfl
@[simp] theorem Dev.setBit_evPolicy (d : Dev) (g : Fld) (v j : Nat) (w : Bool) : (d.setBit g v j w).evPolicy = d.evPolicy := rfl
@[simp] theorem Dev.setBit_evPending (d : Dev) (g : Fld) (v j : Nat) (w : Bool) : (d.setBit g v j w).evPending = d.evPending := rfl
@[simp] theorem Dev.setBit_lifeSeq (d : Dev) (g : Fld) (v j : Nat) (w : Bool) : (d.setBit g v j w).lifeSeq = d.lifeSeq := rfl
@[simp] theorem Dev.setBit_lifePend (d : Dev) (g : Fld) (v j : Nat) (w : Bool) : (d.setBit g v j w).lifePend = d.lifePend := rfl
@[simp] theorem Dev.setBit_repair (d : Dev) (g : Fld) (v j : Nat) (w : Bool) : (d.setBit g v j w).repair = d.repair := rfl
@[simp] theorem Dev.setBit_caGrp (d : Dev) (g : Fld) (v j : Nat) (w : Bool) : (d.setBit g v j w).caGrp = d.caGrp := rfl
@[simp] theorem Dev.setBit_laneOff (d : Dev) (g : Fld) (v j : Nat) (w : Bool) : (d.setBit g v j w).laneOff = d.laneOff := rfl
@[simp] theorem Dev.setBit_laneErr (d : Dev) (g : Fld) (v j : Nat) (w : Bool) : (d.setBit g v j w).laneErr = d.laneErr := rfl
@[simp] theorem Dev.setBit_d2d (d : Dev) (g : Fld) (v j : Nat) (w : Bool) : (d.setBit g v j w).d2d = d.d2d := rfl
@[simp] theorem Dev.setBit_noc (d : Dev) (g : Fld) (v j : Nat) (w : Bool) : (d.setBit g v j w).noc = d.noc := rfl
@[simp] theorem Dev.setBit_laps (d : Dev) (g : Fld) (v j : Nat) (w : Bool) : (d.setBit g v j w).laps = d.laps := rfl
@[simp] theorem Dev.setBit_lapInlet (d : Dev) (g : Fld) (v j : Nat) (w : Bool) : (d.setBit g v j w).lapInlet = d.lapInlet := rfl
@[simp] theorem Dev.setBit_pmcAt (d : Dev) (g : Fld) (v j : Nat) (w : Bool) : (d.setBit g v j w).pmcAt = d.pmcAt := rfl
@[simp] theorem Dev.setBit_lifeAt (d : Dev) (g : Fld) (v j : Nat) (w : Bool) : (d.setBit g v j w).lifeAt = d.lifeAt := rfl
@[simp] theorem Dev.setBit_imgPend (d : Dev) (g : Fld) (v j : Nat) (w : Bool) : (d.setBit g v j w).imgPend = d.imgPend := rfl
@[simp] theorem Dev.setBit_worn (d : Dev) (g : Fld) (v j : Nat) (w : Bool) : (d.setBit g v j w).worn = d.worn := rfl
@[simp] theorem Dev.setBit_pldm (d : Dev) (g : Fld) (v j : Nat) (w : Bool) : (d.setBit g v j w).pldm = d.pldm := rfl
@[simp] theorem Dev.setBit_pmb (d : Dev) (g : Fld) (v j : Nat) (w : Bool) : (d.setBit g v j w).pmb = d.pmb := rfl
@[simp] theorem Dev.setBit_pmbStatus (d : Dev) (g : Fld) (v j : Nat) (w : Bool) : (d.setBit g v j w).pmbStatus = d.pmbStatus := rfl
@[simp] theorem Dev.setBit_calls (d : Dev) (g : Fld) (v j : Nat) (w : Bool) : (d.setBit g v j w).calls = d.calls := rfl
@[simp] theorem Dev.setBit_dead (d : Dev) (g : Fld) (v j : Nat) (w : Bool) : (d.setBit g v j w).dead = d.dead := rfl
@[simp] theorem Dev.setBit_eid (d : Dev) (g : Fld) (v j : Nat) (w : Bool) : (d.setBit g v j w).eid = d.eid := rfl
@[simp] theorem Dev.setBit_step (d : Dev) (g : Fld) (v j : Nat) (w : Bool) : (d.setBit g v j w).step = d.step := rfl
@[simp] theorem Dev.setBit_perstLow (d : Dev) (g : Fld) (v j : Nat) (w : Bool) : (d.setBit g v j w).perstLow = d.perstLow := rfl
@[simp] theorem Dev.setBit_tripRec (d : Dev) (g : Fld) (v j : Nat) (w : Bool) : (d.setBit g v j w).tripRec = d.tripRec := rfl
@[simp] theorem Dev.setBit_strapped (d : Dev) (g : Fld) (v j : Nat) (w : Bool) : (d.setBit g v j w).strapped = d.strapped := rfl
@[simp] theorem Dev.setBit_jtagIr (d : Dev) (g : Fld) (v j : Nat) (w : Bool) : (d.setBit g v j w).jtagIr = d.jtagIr := rfl
@[simp] theorem Dev.setBit_jtagBypass (d : Dev) (g : Fld) (v j : Nat) (w : Bool) : (d.setBit g v j w).jtagBypass = d.jtagBypass := rfl
@[simp] theorem Dev.setBit_boundary (d : Dev) (g : Fld) (v j : Nat) (w : Bool) : (d.setBit g v j w).boundary = d.boundary := rfl
@[simp] theorem Dev.setBit_mgmt (d : Dev) (g : Fld) (v j : Nat) (w : Bool) : (d.setBit g v j w).mgmt = d.mgmt := rfl
@[simp] theorem Dev.setBit_meas (d : Dev) (g : Fld) (v j : Nat) (w : Bool) : (d.setBit g v j w).meas = d.meas := rfl
@[simp] theorem Dev.setBit_spdm (d : Dev) (g : Fld) (v j : Nat) (w : Bool) : (d.setBit g v j w).spdm = d.spdm := rfl
@[simp] theorem Dev.setBit_sessions (d : Dev) (g : Fld) (v j : Nat) (w : Bool) : (d.setBit g v j w).sessions = d.sessions := rfl
@[simp] theorem Dev.setBit_ide (d : Dev) (g : Fld) (v j : Nat) (w : Bool) : (d.setBit g v j w).ide = d.ide := rfl
@[simp] theorem Dev.setBit_draws (d : Dev) (g : Fld) (v j : Nat) (w : Bool) : (d.setBit g v j w).draws = d.draws := rfl
@[simp] theorem Dev.setBit_regHeld (d : Dev) (g : Fld) (v j : Nat) (w : Bool) : (d.setBit g v j w).regHeld = d.regHeld := rfl
@[simp] theorem Dev.setBit_fatal (d : Dev) (g : Fld) (v j : Nat) (w : Bool) : (d.setBit g v j w).fatal = d.fatal := rfl
@[simp] theorem Dev.setBit_inq (d : Dev) (g : Fld) (v j : Nat) (w : Bool) : (d.setBit g v j w).inq = d.inq := rfl
@[simp] theorem Dev.setBit_cfg (d : Dev) (g : Fld) (v j : Nat) (w : Bool) : (d.setBit g v j w).cfg = d.cfg := rfl
@[simp] theorem Dev.setBit_alerted (d : Dev) (g : Fld) (v j : Nat) (w : Bool) : (d.setBit g v j w).alerted = d.alerted := rfl
@[simp] theorem Dev.setBit_fuse (d : Dev) (g : Fld) (v j : Nat) (w : Bool) : (d.setBit g v j w).fuse = d.fuse := rfl
@[simp] theorem Dev.setBit_slice (d : Dev) (g : Fld) (v j : Nat) (w : Bool) (n : Nat) : (d.setBit g v j w).slice n = d.slice n := rfl
@[simp] theorem Dev.setBit_region (d : Dev) (g : Fld) (v j : Nat) (w : Bool) (n : Nat) : (d.setBit g v j w).region n = d.region n := rfl
@[simp] theorem Dev.setBit_core (d : Dev) (g : Fld) (v j : Nat) (w : Bool) (n : Nat) : (d.setBit g v j w).core n = d.core n := rfl
@[simp] theorem Dev.setBit_arr (d : Dev) (g : Fld) (v j : Nat) (w : Bool) (n : Nat) : (d.setBit g v j w).arr n = d.arr n := rfl
@[simp] theorem Dev.setBit_dma (d : Dev) (g : Fld) (v j : Nat) (w : Bool) (n : Nat) : (d.setBit g v j w).dma n = d.dma n := rfl
@[simp] theorem Dev.setBit_ring (d : Dev) (g : Fld) (v j : Nat) (w : Bool) (n : Nat) : (d.setBit g v j w).ring n = d.ring n := rfl
@[simp] theorem Dev.setBit_arb (d : Dev) (g : Fld) (v j : Nat) (w : Bool) (k : Nat) : (d.setBit g v j w).arb k = d.arb k := rfl
@[simp] theorem Dev.setBit_clk (d : Dev) (g : Fld) (v j : Nat) (w : Bool) (k : Nat) : (d.setBit g v j w).clk k = d.clk k := rfl
@[simp] theorem Dev.setBit_clkSum (d : Dev) (g : Fld) (v j : Nat) (w : Bool) (k : Nat) : (d.setBit g v j w).clkSum k = d.clkSum k := rfl
@[simp] theorem Dev.setBit_byte (d : Dev) (g : Fld) (v j : Nat) (w : Bool) (k : Nat) : (d.setBit g v j w).byte k = d.byte k := rfl
@[simp] theorem Dev.setBit_readCw (d : Dev) (g : Fld) (v j : Nat) (w : Bool) (k : Nat) (l : List Nat) : (d.setBit g v j w).readCw k l = d.readCw k l := rfl
@[simp] theorem Dev.setBit_us (d : Dev) (g : Fld) (v j : Nat) (w : Bool)  : (d.setBit g v j w).us  = d.us  := rfl

/-! clrReg. -/
@[simp] theorem Dev.clrReg_ns (d : Dev) (g : Reg) (v j : Nat) : (d.clrReg g v j).ns = d.ns := rfl
@[simp] theorem Dev.clrReg_fresh (d : Dev) (g : Reg) (v j : Nat) : (d.clrReg g v j).fresh = d.fresh := rfl
@[simp] theorem Dev.clrReg_out (d : Dev) (g : Reg) (v j : Nat) : (d.clrReg g v j).out = d.out := rfl
@[simp] theorem Dev.clrReg_arbs (d : Dev) (g : Reg) (v j : Nat) : (d.clrReg g v j).arbs = d.arbs := rfl
@[simp] theorem Dev.clrReg_mem (d : Dev) (g : Reg) (v j : Nat) : (d.clrReg g v j).mem = d.mem := rfl
@[simp] theorem Dev.clrReg_chk (d : Dev) (g : Reg) (v j : Nat) : (d.clrReg g v j).chk = d.chk := rfl
@[simp] theorem Dev.clrReg_slices (d : Dev) (g : Reg) (v j : Nat) : (d.clrReg g v j).slices = d.slices := rfl
@[simp] theorem Dev.clrReg_regions (d : Dev) (g : Reg) (v j : Nat) : (d.clrReg g v j).regions = d.regions := rfl
@[simp] theorem Dev.clrReg_gddr (d : Dev) (g : Reg) (v j : Nat) : (d.clrReg g v j).gddr = d.gddr := rfl
@[simp] theorem Dev.clrReg_cores (d : Dev) (g : Reg) (v j : Nat) : (d.clrReg g v j).cores = d.cores := rfl
@[simp] theorem Dev.clrReg_cycBase (d : Dev) (g : Reg) (v j : Nat) : (d.clrReg g v j).cycBase = d.cycBase := rfl
@[simp] theorem Dev.clrReg_rst (d : Dev) (g : Reg) (v j : Nat) : (d.clrReg g v j).rst = d.rst := rfl
@[simp] theorem Dev.clrReg_clks (d : Dev) (g : Reg) (v j : Nat) : (d.clrReg g v j).clks = d.clks := rfl
@[simp] theorem Dev.clrReg_rings (d : Dev) (g : Reg) (v j : Nat) : (d.clrReg g v j).rings = d.rings := rfl
@[simp] theorem Dev.clrReg_descs (d : Dev) (g : Reg) (v j : Nat) : (d.clrReg g v j).descs = d.descs := rfl
@[simp] theorem Dev.clrReg_descSeq (d : Dev) (g : Reg) (v j : Nat) : (d.clrReg g v j).descSeq = d.descSeq := rfl
@[simp] theorem Dev.clrReg_watch (d : Dev) (g : Reg) (v j : Nat) : (d.clrReg g v j).watch = d.watch := rfl
@[simp] theorem Dev.clrReg_btnVal (d : Dev) (g : Reg) (v j : Nat) : (d.clrReg g v j).btnVal = d.btnVal := rfl
@[simp] theorem Dev.clrReg_ctxs (d : Dev) (g : Reg) (v j : Nat) : (d.clrReg g v j).ctxs = d.ctxs := rfl
@[simp] theorem Dev.clrReg_lab (d : Dev) (g : Reg) (v j : Nat) : (d.clrReg g v j).lab = d.lab := rfl
@[simp] theorem Dev.clrReg_labStamp (d : Dev) (g : Reg) (v j : Nat) : (d.clrReg g v j).labStamp = d.labStamp := rfl
@[simp] theorem Dev.clrReg_attn (d : Dev) (g : Reg) (v j : Nat) : (d.clrReg g v j).attn = d.attn := rfl
@[simp] theorem Dev.clrReg_btnBad (d : Dev) (g : Reg) (v j : Nat) : (d.clrReg g v j).btnBad = d.btnBad := rfl
@[simp] theorem Dev.clrReg_btnQ (d : Dev) (g : Reg) (v j : Nat) : (d.clrReg g v j).btnQ = d.btnQ := rfl
@[simp] theorem Dev.clrReg_btnW (d : Dev) (g : Reg) (v j : Nat) : (d.clrReg g v j).btnW = d.btnW := rfl
@[simp] theorem Dev.clrReg_uio (d : Dev) (g : Reg) (v j : Nat) : (d.clrReg g v j).uio = d.uio := rfl
@[simp] theorem Dev.clrReg_uioTag (d : Dev) (g : Reg) (v j : Nat) : (d.clrReg g v j).uioTag = d.uioTag := rfl
@[simp] theorem Dev.clrReg_waits (d : Dev) (g : Reg) (v j : Nat) : (d.clrReg g v j).waits = d.waits := rfl
@[simp] theorem Dev.clrReg_port (d : Dev) (g : Reg) (v j : Nat) : (d.clrReg g v j).port = d.port := rfl
@[simp] theorem Dev.clrReg_hdm (d : Dev) (g : Reg) (v j : Nat) : (d.clrReg g v j).hdm = d.hdm := rfl
@[simp] theorem Dev.clrReg_sf (d : Dev) (g : Reg) (v j : Nat) : (d.clrReg g v j).sf = d.sf := rfl
@[simp] theorem Dev.clrReg_biOut (d : Dev) (g : Reg) (v j : Nat) : (d.clrReg g v j).biOut = d.biOut := rfl
@[simp] theorem Dev.clrReg_recalls (d : Dev) (g : Reg) (v j : Nat) : (d.clrReg g v j).recalls = d.recalls := rfl
@[simp] theorem Dev.clrReg_perstAt (d : Dev) (g : Reg) (v j : Nat) : (d.clrReg g v j).perstAt = d.perstAt := rfl
@[simp] theorem Dev.clrReg_power (d : Dev) (g : Reg) (v j : Nat) : (d.clrReg g v j).power = d.power := rfl
@[simp] theorem Dev.clrReg_auxAt (d : Dev) (g : Reg) (v j : Nat) : (d.clrReg g v j).auxAt = d.auxAt := rfl
@[simp] theorem Dev.clrReg_pwr (d : Dev) (g : Reg) (v j : Nat) : (d.clrReg g v j).pwr = d.pwr := rfl
@[simp] theorem Dev.clrReg_domAt (d : Dev) (g : Reg) (v j : Nat) : (d.clrReg g v j).domAt = d.domAt := rfl
@[simp] theorem Dev.clrReg_domAsked (d : Dev) (g : Reg) (v j : Nat) : (d.clrReg g v j).domAsked = d.domAsked := rfl
@[simp] theorem Dev.clrReg_points (d : Dev) (g : Reg) (v j : Nat) : (d.clrReg g v j).points = d.points := rfl
@[simp] theorem Dev.clrReg_rails (d : Dev) (g : Reg) (v j : Nat) : (d.clrReg g v j).rails = d.rails := rfl
@[simp] theorem Dev.clrReg_therm (d : Dev) (g : Reg) (v j : Nat) : (d.clrReg g v j).therm = d.therm := rfl
@[simp] theorem Dev.clrReg_pace (d : Dev) (g : Reg) (v j : Nat) : (d.clrReg g v j).pace = d.pace := rfl
@[simp] theorem Dev.clrReg_modEn (d : Dev) (g : Reg) (v j : Nat) : (d.clrReg g v j).modEn = d.modEn := rfl
@[simp] theorem Dev.clrReg_modEnAt (d : Dev) (g : Reg) (v j : Nat) : (d.clrReg g v j).modEnAt = d.modEnAt := rfl
@[simp] theorem Dev.clrReg_modFail (d : Dev) (g : Reg) (v j : Nat) : (d.clrReg g v j).modFail = d.modFail := rfl
@[simp] theorem Dev.clrReg_svc (d : Dev) (g : Reg) (v j : Nat) : (d.clrReg g v j).svc = d.svc := rfl
@[simp] theorem Dev.clrReg_stamp (d : Dev) (g : Reg) (v j : Nat) : (d.clrReg g v j).stamp = d.stamp := rfl
@[simp] theorem Dev.clrReg_relays (d : Dev) (g : Reg) (v j : Nat) : (d.clrReg g v j).relays = d.relays := rfl
@[simp] theorem Dev.clrReg_chunks (d : Dev) (g : Reg) (v j : Nat) : (d.clrReg g v j).chunks = d.chunks := rfl
@[simp] theorem Dev.clrReg_relayLast (d : Dev) (g : Reg) (v j : Nat) : (d.clrReg g v j).relayLast = d.relayLast := rfl
@[simp] theorem Dev.clrReg_chkSeen (d : Dev) (g : Reg) (v j : Nat) : (d.clrReg g v j).chkSeen = d.chkSeen := rfl
@[simp] theorem Dev.clrReg_chkWhen (d : Dev) (g : Reg) (v j : Nat) : (d.clrReg g v j).chkWhen = d.chkWhen := rfl
@[simp] theorem Dev.clrReg_chkWas (d : Dev) (g : Reg) (v j : Nat) : (d.clrReg g v j).chkWas = d.chkWas := rfl
@[simp] theorem Dev.clrReg_evLogs (d : Dev) (g : Reg) (v j : Nat) : (d.clrReg g v j).evLogs = d.evLogs := rfl
@[simp] theorem Dev.clrReg_evOver (d : Dev) (g : Reg) (v j : Nat) : (d.clrReg g v j).evOver = d.evOver := rfl
@[simp] theorem Dev.clrReg_evHandle (d : Dev) (g : Reg) (v j : Nat) : (d.clrReg g v j).evHandle = d.evHandle := rfl
@[simp] theorem Dev.clrReg_evPolicy (d : Dev) (g : Reg) (v j : Nat) : (d.clrReg g v j).evPolicy = d.evPolicy := rfl
@[simp] theorem Dev.clrReg_evPending (d : Dev) (g : Reg) (v j : Nat) : (d.clrReg g v j).evPending = d.evPending := rfl
@[simp] theorem Dev.clrReg_lifeSeq (d : Dev) (g : Reg) (v j : Nat) : (d.clrReg g v j).lifeSeq = d.lifeSeq := rfl
@[simp] theorem Dev.clrReg_lifePend (d : Dev) (g : Reg) (v j : Nat) : (d.clrReg g v j).lifePend = d.lifePend := rfl
@[simp] theorem Dev.clrReg_repair (d : Dev) (g : Reg) (v j : Nat) : (d.clrReg g v j).repair = d.repair := rfl
@[simp] theorem Dev.clrReg_caGrp (d : Dev) (g : Reg) (v j : Nat) : (d.clrReg g v j).caGrp = d.caGrp := rfl
@[simp] theorem Dev.clrReg_laneOff (d : Dev) (g : Reg) (v j : Nat) : (d.clrReg g v j).laneOff = d.laneOff := rfl
@[simp] theorem Dev.clrReg_laneErr (d : Dev) (g : Reg) (v j : Nat) : (d.clrReg g v j).laneErr = d.laneErr := rfl
@[simp] theorem Dev.clrReg_d2d (d : Dev) (g : Reg) (v j : Nat) : (d.clrReg g v j).d2d = d.d2d := rfl
@[simp] theorem Dev.clrReg_noc (d : Dev) (g : Reg) (v j : Nat) : (d.clrReg g v j).noc = d.noc := rfl
@[simp] theorem Dev.clrReg_laps (d : Dev) (g : Reg) (v j : Nat) : (d.clrReg g v j).laps = d.laps := rfl
@[simp] theorem Dev.clrReg_lapInlet (d : Dev) (g : Reg) (v j : Nat) : (d.clrReg g v j).lapInlet = d.lapInlet := rfl
@[simp] theorem Dev.clrReg_pmcAt (d : Dev) (g : Reg) (v j : Nat) : (d.clrReg g v j).pmcAt = d.pmcAt := rfl
@[simp] theorem Dev.clrReg_lifeAt (d : Dev) (g : Reg) (v j : Nat) : (d.clrReg g v j).lifeAt = d.lifeAt := rfl
@[simp] theorem Dev.clrReg_imgPend (d : Dev) (g : Reg) (v j : Nat) : (d.clrReg g v j).imgPend = d.imgPend := rfl
@[simp] theorem Dev.clrReg_worn (d : Dev) (g : Reg) (v j : Nat) : (d.clrReg g v j).worn = d.worn := rfl
@[simp] theorem Dev.clrReg_pldm (d : Dev) (g : Reg) (v j : Nat) : (d.clrReg g v j).pldm = d.pldm := rfl
@[simp] theorem Dev.clrReg_pmb (d : Dev) (g : Reg) (v j : Nat) : (d.clrReg g v j).pmb = d.pmb := rfl
@[simp] theorem Dev.clrReg_pmbStatus (d : Dev) (g : Reg) (v j : Nat) : (d.clrReg g v j).pmbStatus = d.pmbStatus := rfl
@[simp] theorem Dev.clrReg_calls (d : Dev) (g : Reg) (v j : Nat) : (d.clrReg g v j).calls = d.calls := rfl
@[simp] theorem Dev.clrReg_dead (d : Dev) (g : Reg) (v j : Nat) : (d.clrReg g v j).dead = d.dead := rfl
@[simp] theorem Dev.clrReg_eid (d : Dev) (g : Reg) (v j : Nat) : (d.clrReg g v j).eid = d.eid := rfl
@[simp] theorem Dev.clrReg_step (d : Dev) (g : Reg) (v j : Nat) : (d.clrReg g v j).step = d.step := rfl
@[simp] theorem Dev.clrReg_perstLow (d : Dev) (g : Reg) (v j : Nat) : (d.clrReg g v j).perstLow = d.perstLow := rfl
@[simp] theorem Dev.clrReg_tripRec (d : Dev) (g : Reg) (v j : Nat) : (d.clrReg g v j).tripRec = d.tripRec := rfl
@[simp] theorem Dev.clrReg_strapped (d : Dev) (g : Reg) (v j : Nat) : (d.clrReg g v j).strapped = d.strapped := rfl
@[simp] theorem Dev.clrReg_jtagIr (d : Dev) (g : Reg) (v j : Nat) : (d.clrReg g v j).jtagIr = d.jtagIr := rfl
@[simp] theorem Dev.clrReg_jtagBypass (d : Dev) (g : Reg) (v j : Nat) : (d.clrReg g v j).jtagBypass = d.jtagBypass := rfl
@[simp] theorem Dev.clrReg_boundary (d : Dev) (g : Reg) (v j : Nat) : (d.clrReg g v j).boundary = d.boundary := rfl
@[simp] theorem Dev.clrReg_mgmt (d : Dev) (g : Reg) (v j : Nat) : (d.clrReg g v j).mgmt = d.mgmt := rfl
@[simp] theorem Dev.clrReg_meas (d : Dev) (g : Reg) (v j : Nat) : (d.clrReg g v j).meas = d.meas := rfl
@[simp] theorem Dev.clrReg_spdm (d : Dev) (g : Reg) (v j : Nat) : (d.clrReg g v j).spdm = d.spdm := rfl
@[simp] theorem Dev.clrReg_sessions (d : Dev) (g : Reg) (v j : Nat) : (d.clrReg g v j).sessions = d.sessions := rfl
@[simp] theorem Dev.clrReg_ide (d : Dev) (g : Reg) (v j : Nat) : (d.clrReg g v j).ide = d.ide := rfl
@[simp] theorem Dev.clrReg_draws (d : Dev) (g : Reg) (v j : Nat) : (d.clrReg g v j).draws = d.draws := rfl
@[simp] theorem Dev.clrReg_regHeld (d : Dev) (g : Reg) (v j : Nat) : (d.clrReg g v j).regHeld = d.regHeld := rfl
@[simp] theorem Dev.clrReg_fatal (d : Dev) (g : Reg) (v j : Nat) : (d.clrReg g v j).fatal = d.fatal := rfl
@[simp] theorem Dev.clrReg_cyc (d : Dev) (g : Reg) (v j : Nat) : (d.clrReg g v j).cyc = d.cyc := rfl
@[simp] theorem Dev.clrReg_inq (d : Dev) (g : Reg) (v j : Nat) : (d.clrReg g v j).inq = d.inq := rfl
@[simp] theorem Dev.clrReg_cfg (d : Dev) (g : Reg) (v j : Nat) : (d.clrReg g v j).cfg = d.cfg := rfl
@[simp] theorem Dev.clrReg_alerted (d : Dev) (g : Reg) (v j : Nat) : (d.clrReg g v j).alerted = d.alerted := rfl
@[simp] theorem Dev.clrReg_fuse (d : Dev) (g : Reg) (v j : Nat) : (d.clrReg g v j).fuse = d.fuse := rfl
@[simp] theorem Dev.clrReg_slice (d : Dev) (g : Reg) (v j : Nat) (n : Nat) : (d.clrReg g v j).slice n = d.slice n := rfl
@[simp] theorem Dev.clrReg_region (d : Dev) (g : Reg) (v j : Nat) (n : Nat) : (d.clrReg g v j).region n = d.region n := rfl
@[simp] theorem Dev.clrReg_core (d : Dev) (g : Reg) (v j : Nat) (n : Nat) : (d.clrReg g v j).core n = d.core n := rfl
@[simp] theorem Dev.clrReg_arr (d : Dev) (g : Reg) (v j : Nat) (n : Nat) : (d.clrReg g v j).arr n = d.arr n := rfl
@[simp] theorem Dev.clrReg_dma (d : Dev) (g : Reg) (v j : Nat) (n : Nat) : (d.clrReg g v j).dma n = d.dma n := rfl
@[simp] theorem Dev.clrReg_ring (d : Dev) (g : Reg) (v j : Nat) (n : Nat) : (d.clrReg g v j).ring n = d.ring n := rfl
@[simp] theorem Dev.clrReg_arb (d : Dev) (g : Reg) (v j : Nat) (k : Nat) : (d.clrReg g v j).arb k = d.arb k := rfl
@[simp] theorem Dev.clrReg_clk (d : Dev) (g : Reg) (v j : Nat) (k : Nat) : (d.clrReg g v j).clk k = d.clk k := rfl
@[simp] theorem Dev.clrReg_clkSum (d : Dev) (g : Reg) (v j : Nat) (k : Nat) : (d.clrReg g v j).clkSum k = d.clkSum k := rfl
@[simp] theorem Dev.clrReg_byte (d : Dev) (g : Reg) (v j : Nat) (k : Nat) : (d.clrReg g v j).byte k = d.byte k := rfl
@[simp] theorem Dev.clrReg_readCw (d : Dev) (g : Reg) (v j : Nat) (k : Nat) (l : List Nat) : (d.clrReg g v j).readCw k l = d.readCw k l := rfl
@[simp] theorem Dev.clrReg_us (d : Dev) (g : Reg) (v j : Nat)  : (d.clrReg g v j).us  = d.us  := rfl

/-! setSlice. -/
@[simp] theorem Dev.setSlice_ns (d : Dev) (x : Nat) (s : Slice) : (d.setSlice x s).ns = d.ns := rfl
@[simp] theorem Dev.setSlice_fresh (d : Dev) (x : Nat) (s : Slice) : (d.setSlice x s).fresh = d.fresh := rfl
@[simp] theorem Dev.setSlice_out (d : Dev) (x : Nat) (s : Slice) : (d.setSlice x s).out = d.out := rfl
@[simp] theorem Dev.setSlice_regs (d : Dev) (x : Nat) (s : Slice) : (d.setSlice x s).regs = d.regs := rfl
@[simp] theorem Dev.setSlice_arbs (d : Dev) (x : Nat) (s : Slice) : (d.setSlice x s).arbs = d.arbs := rfl
@[simp] theorem Dev.setSlice_mem (d : Dev) (x : Nat) (s : Slice) : (d.setSlice x s).mem = d.mem := rfl
@[simp] theorem Dev.setSlice_chk (d : Dev) (x : Nat) (s : Slice) : (d.setSlice x s).chk = d.chk := rfl
@[simp] theorem Dev.setSlice_regions (d : Dev) (x : Nat) (s : Slice) : (d.setSlice x s).regions = d.regions := rfl
@[simp] theorem Dev.setSlice_gddr (d : Dev) (x : Nat) (s : Slice) : (d.setSlice x s).gddr = d.gddr := rfl
@[simp] theorem Dev.setSlice_cores (d : Dev) (x : Nat) (s : Slice) : (d.setSlice x s).cores = d.cores := rfl
@[simp] theorem Dev.setSlice_cycBase (d : Dev) (x : Nat) (s : Slice) : (d.setSlice x s).cycBase = d.cycBase := rfl
@[simp] theorem Dev.setSlice_rst (d : Dev) (x : Nat) (s : Slice) : (d.setSlice x s).rst = d.rst := rfl
@[simp] theorem Dev.setSlice_clks (d : Dev) (x : Nat) (s : Slice) : (d.setSlice x s).clks = d.clks := rfl
@[simp] theorem Dev.setSlice_rings (d : Dev) (x : Nat) (s : Slice) : (d.setSlice x s).rings = d.rings := rfl
@[simp] theorem Dev.setSlice_descs (d : Dev) (x : Nat) (s : Slice) : (d.setSlice x s).descs = d.descs := rfl
@[simp] theorem Dev.setSlice_descSeq (d : Dev) (x : Nat) (s : Slice) : (d.setSlice x s).descSeq = d.descSeq := rfl
@[simp] theorem Dev.setSlice_watch (d : Dev) (x : Nat) (s : Slice) : (d.setSlice x s).watch = d.watch := rfl
@[simp] theorem Dev.setSlice_btnVal (d : Dev) (x : Nat) (s : Slice) : (d.setSlice x s).btnVal = d.btnVal := rfl
@[simp] theorem Dev.setSlice_ctxs (d : Dev) (x : Nat) (s : Slice) : (d.setSlice x s).ctxs = d.ctxs := rfl
@[simp] theorem Dev.setSlice_lab (d : Dev) (x : Nat) (s : Slice) : (d.setSlice x s).lab = d.lab := rfl
@[simp] theorem Dev.setSlice_labStamp (d : Dev) (x : Nat) (s : Slice) : (d.setSlice x s).labStamp = d.labStamp := rfl
@[simp] theorem Dev.setSlice_attn (d : Dev) (x : Nat) (s : Slice) : (d.setSlice x s).attn = d.attn := rfl
@[simp] theorem Dev.setSlice_btnBad (d : Dev) (x : Nat) (s : Slice) : (d.setSlice x s).btnBad = d.btnBad := rfl
@[simp] theorem Dev.setSlice_btnQ (d : Dev) (x : Nat) (s : Slice) : (d.setSlice x s).btnQ = d.btnQ := rfl
@[simp] theorem Dev.setSlice_btnW (d : Dev) (x : Nat) (s : Slice) : (d.setSlice x s).btnW = d.btnW := rfl
@[simp] theorem Dev.setSlice_uio (d : Dev) (x : Nat) (s : Slice) : (d.setSlice x s).uio = d.uio := rfl
@[simp] theorem Dev.setSlice_uioTag (d : Dev) (x : Nat) (s : Slice) : (d.setSlice x s).uioTag = d.uioTag := rfl
@[simp] theorem Dev.setSlice_waits (d : Dev) (x : Nat) (s : Slice) : (d.setSlice x s).waits = d.waits := rfl
@[simp] theorem Dev.setSlice_port (d : Dev) (x : Nat) (s : Slice) : (d.setSlice x s).port = d.port := rfl
@[simp] theorem Dev.setSlice_hdm (d : Dev) (x : Nat) (s : Slice) : (d.setSlice x s).hdm = d.hdm := rfl
@[simp] theorem Dev.setSlice_sf (d : Dev) (x : Nat) (s : Slice) : (d.setSlice x s).sf = d.sf := rfl
@[simp] theorem Dev.setSlice_biOut (d : Dev) (x : Nat) (s : Slice) : (d.setSlice x s).biOut = d.biOut := rfl
@[simp] theorem Dev.setSlice_recalls (d : Dev) (x : Nat) (s : Slice) : (d.setSlice x s).recalls = d.recalls := rfl
@[simp] theorem Dev.setSlice_perstAt (d : Dev) (x : Nat) (s : Slice) : (d.setSlice x s).perstAt = d.perstAt := rfl
@[simp] theorem Dev.setSlice_power (d : Dev) (x : Nat) (s : Slice) : (d.setSlice x s).power = d.power := rfl
@[simp] theorem Dev.setSlice_auxAt (d : Dev) (x : Nat) (s : Slice) : (d.setSlice x s).auxAt = d.auxAt := rfl
@[simp] theorem Dev.setSlice_pwr (d : Dev) (x : Nat) (s : Slice) : (d.setSlice x s).pwr = d.pwr := rfl
@[simp] theorem Dev.setSlice_domAt (d : Dev) (x : Nat) (s : Slice) : (d.setSlice x s).domAt = d.domAt := rfl
@[simp] theorem Dev.setSlice_domAsked (d : Dev) (x : Nat) (s : Slice) : (d.setSlice x s).domAsked = d.domAsked := rfl
@[simp] theorem Dev.setSlice_points (d : Dev) (x : Nat) (s : Slice) : (d.setSlice x s).points = d.points := rfl
@[simp] theorem Dev.setSlice_rails (d : Dev) (x : Nat) (s : Slice) : (d.setSlice x s).rails = d.rails := rfl
@[simp] theorem Dev.setSlice_therm (d : Dev) (x : Nat) (s : Slice) : (d.setSlice x s).therm = d.therm := rfl
@[simp] theorem Dev.setSlice_pace (d : Dev) (x : Nat) (s : Slice) : (d.setSlice x s).pace = d.pace := rfl
@[simp] theorem Dev.setSlice_modEn (d : Dev) (x : Nat) (s : Slice) : (d.setSlice x s).modEn = d.modEn := rfl
@[simp] theorem Dev.setSlice_modEnAt (d : Dev) (x : Nat) (s : Slice) : (d.setSlice x s).modEnAt = d.modEnAt := rfl
@[simp] theorem Dev.setSlice_modFail (d : Dev) (x : Nat) (s : Slice) : (d.setSlice x s).modFail = d.modFail := rfl
@[simp] theorem Dev.setSlice_svc (d : Dev) (x : Nat) (s : Slice) : (d.setSlice x s).svc = d.svc := rfl
@[simp] theorem Dev.setSlice_stamp (d : Dev) (x : Nat) (s : Slice) : (d.setSlice x s).stamp = d.stamp := rfl
@[simp] theorem Dev.setSlice_relays (d : Dev) (x : Nat) (s : Slice) : (d.setSlice x s).relays = d.relays := rfl
@[simp] theorem Dev.setSlice_chunks (d : Dev) (x : Nat) (s : Slice) : (d.setSlice x s).chunks = d.chunks := rfl
@[simp] theorem Dev.setSlice_relayLast (d : Dev) (x : Nat) (s : Slice) : (d.setSlice x s).relayLast = d.relayLast := rfl
@[simp] theorem Dev.setSlice_chkSeen (d : Dev) (x : Nat) (s : Slice) : (d.setSlice x s).chkSeen = d.chkSeen := rfl
@[simp] theorem Dev.setSlice_chkWhen (d : Dev) (x : Nat) (s : Slice) : (d.setSlice x s).chkWhen = d.chkWhen := rfl
@[simp] theorem Dev.setSlice_chkWas (d : Dev) (x : Nat) (s : Slice) : (d.setSlice x s).chkWas = d.chkWas := rfl
@[simp] theorem Dev.setSlice_evLogs (d : Dev) (x : Nat) (s : Slice) : (d.setSlice x s).evLogs = d.evLogs := rfl
@[simp] theorem Dev.setSlice_evOver (d : Dev) (x : Nat) (s : Slice) : (d.setSlice x s).evOver = d.evOver := rfl
@[simp] theorem Dev.setSlice_evHandle (d : Dev) (x : Nat) (s : Slice) : (d.setSlice x s).evHandle = d.evHandle := rfl
@[simp] theorem Dev.setSlice_evPolicy (d : Dev) (x : Nat) (s : Slice) : (d.setSlice x s).evPolicy = d.evPolicy := rfl
@[simp] theorem Dev.setSlice_evPending (d : Dev) (x : Nat) (s : Slice) : (d.setSlice x s).evPending = d.evPending := rfl
@[simp] theorem Dev.setSlice_lifeSeq (d : Dev) (x : Nat) (s : Slice) : (d.setSlice x s).lifeSeq = d.lifeSeq := rfl
@[simp] theorem Dev.setSlice_lifePend (d : Dev) (x : Nat) (s : Slice) : (d.setSlice x s).lifePend = d.lifePend := rfl
@[simp] theorem Dev.setSlice_repair (d : Dev) (x : Nat) (s : Slice) : (d.setSlice x s).repair = d.repair := rfl
@[simp] theorem Dev.setSlice_caGrp (d : Dev) (x : Nat) (s : Slice) : (d.setSlice x s).caGrp = d.caGrp := rfl
@[simp] theorem Dev.setSlice_laneOff (d : Dev) (x : Nat) (s : Slice) : (d.setSlice x s).laneOff = d.laneOff := rfl
@[simp] theorem Dev.setSlice_laneErr (d : Dev) (x : Nat) (s : Slice) : (d.setSlice x s).laneErr = d.laneErr := rfl
@[simp] theorem Dev.setSlice_d2d (d : Dev) (x : Nat) (s : Slice) : (d.setSlice x s).d2d = d.d2d := rfl
@[simp] theorem Dev.setSlice_noc (d : Dev) (x : Nat) (s : Slice) : (d.setSlice x s).noc = d.noc := rfl
@[simp] theorem Dev.setSlice_laps (d : Dev) (x : Nat) (s : Slice) : (d.setSlice x s).laps = d.laps := rfl
@[simp] theorem Dev.setSlice_lapInlet (d : Dev) (x : Nat) (s : Slice) : (d.setSlice x s).lapInlet = d.lapInlet := rfl
@[simp] theorem Dev.setSlice_pmcAt (d : Dev) (x : Nat) (s : Slice) : (d.setSlice x s).pmcAt = d.pmcAt := rfl
@[simp] theorem Dev.setSlice_lifeAt (d : Dev) (x : Nat) (s : Slice) : (d.setSlice x s).lifeAt = d.lifeAt := rfl
@[simp] theorem Dev.setSlice_imgPend (d : Dev) (x : Nat) (s : Slice) : (d.setSlice x s).imgPend = d.imgPend := rfl
@[simp] theorem Dev.setSlice_worn (d : Dev) (x : Nat) (s : Slice) : (d.setSlice x s).worn = d.worn := rfl
@[simp] theorem Dev.setSlice_pldm (d : Dev) (x : Nat) (s : Slice) : (d.setSlice x s).pldm = d.pldm := rfl
@[simp] theorem Dev.setSlice_pmb (d : Dev) (x : Nat) (s : Slice) : (d.setSlice x s).pmb = d.pmb := rfl
@[simp] theorem Dev.setSlice_pmbStatus (d : Dev) (x : Nat) (s : Slice) : (d.setSlice x s).pmbStatus = d.pmbStatus := rfl
@[simp] theorem Dev.setSlice_calls (d : Dev) (x : Nat) (s : Slice) : (d.setSlice x s).calls = d.calls := rfl
@[simp] theorem Dev.setSlice_dead (d : Dev) (x : Nat) (s : Slice) : (d.setSlice x s).dead = d.dead := rfl
@[simp] theorem Dev.setSlice_eid (d : Dev) (x : Nat) (s : Slice) : (d.setSlice x s).eid = d.eid := rfl
@[simp] theorem Dev.setSlice_step (d : Dev) (x : Nat) (s : Slice) : (d.setSlice x s).step = d.step := rfl
@[simp] theorem Dev.setSlice_perstLow (d : Dev) (x : Nat) (s : Slice) : (d.setSlice x s).perstLow = d.perstLow := rfl
@[simp] theorem Dev.setSlice_tripRec (d : Dev) (x : Nat) (s : Slice) : (d.setSlice x s).tripRec = d.tripRec := rfl
@[simp] theorem Dev.setSlice_strapped (d : Dev) (x : Nat) (s : Slice) : (d.setSlice x s).strapped = d.strapped := rfl
@[simp] theorem Dev.setSlice_jtagIr (d : Dev) (x : Nat) (s : Slice) : (d.setSlice x s).jtagIr = d.jtagIr := rfl
@[simp] theorem Dev.setSlice_jtagBypass (d : Dev) (x : Nat) (s : Slice) : (d.setSlice x s).jtagBypass = d.jtagBypass := rfl
@[simp] theorem Dev.setSlice_boundary (d : Dev) (x : Nat) (s : Slice) : (d.setSlice x s).boundary = d.boundary := rfl
@[simp] theorem Dev.setSlice_mgmt (d : Dev) (x : Nat) (s : Slice) : (d.setSlice x s).mgmt = d.mgmt := rfl
@[simp] theorem Dev.setSlice_meas (d : Dev) (x : Nat) (s : Slice) : (d.setSlice x s).meas = d.meas := rfl
@[simp] theorem Dev.setSlice_spdm (d : Dev) (x : Nat) (s : Slice) : (d.setSlice x s).spdm = d.spdm := rfl
@[simp] theorem Dev.setSlice_sessions (d : Dev) (x : Nat) (s : Slice) : (d.setSlice x s).sessions = d.sessions := rfl
@[simp] theorem Dev.setSlice_ide (d : Dev) (x : Nat) (s : Slice) : (d.setSlice x s).ide = d.ide := rfl
@[simp] theorem Dev.setSlice_draws (d : Dev) (x : Nat) (s : Slice) : (d.setSlice x s).draws = d.draws := rfl
@[simp] theorem Dev.setSlice_regHeld (d : Dev) (x : Nat) (s : Slice) : (d.setSlice x s).regHeld = d.regHeld := rfl
@[simp] theorem Dev.setSlice_fatal (d : Dev) (x : Nat) (s : Slice) : (d.setSlice x s).fatal = d.fatal := rfl
@[simp] theorem Dev.setSlice_cyc (d : Dev) (x : Nat) (s : Slice) : (d.setSlice x s).cyc = d.cyc := rfl
@[simp] theorem Dev.setSlice_inq (d : Dev) (x : Nat) (s : Slice) : (d.setSlice x s).inq = d.inq := rfl
@[simp] theorem Dev.setSlice_cfg (d : Dev) (x : Nat) (s : Slice) : (d.setSlice x s).cfg = d.cfg := rfl
@[simp] theorem Dev.setSlice_alerted (d : Dev) (x : Nat) (s : Slice) : (d.setSlice x s).alerted = d.alerted := rfl
@[simp] theorem Dev.setSlice_fuse (d : Dev) (x : Nat) (s : Slice) : (d.setSlice x s).fuse = d.fuse := rfl
@[simp] theorem Dev.setSlice_word (d : Dev) (x : Nat) (s : Slice) (f : Fld) (u i : Nat) : (d.setSlice x s).word f u i = d.word f u i := rfl
@[simp] theorem Dev.setSlice_fld (d : Dev) (x : Nat) (s : Slice) (f : Fld) (u i : Nat) : (d.setSlice x s).fld f u i = d.fld f u i := rfl
@[simp] theorem Dev.setSlice_bit (d : Dev) (x : Nat) (s : Slice) (f : Fld) (u i : Nat) : (d.setSlice x s).bit f u i = d.bit f u i := rfl
@[simp] theorem Dev.setSlice_region (d : Dev) (x : Nat) (s : Slice) (n : Nat) : (d.setSlice x s).region n = d.region n := rfl
@[simp] theorem Dev.setSlice_core (d : Dev) (x : Nat) (s : Slice) (n : Nat) : (d.setSlice x s).core n = d.core n := rfl
@[simp] theorem Dev.setSlice_arr (d : Dev) (x : Nat) (s : Slice) (n : Nat) : (d.setSlice x s).arr n = d.arr n := rfl
@[simp] theorem Dev.setSlice_dma (d : Dev) (x : Nat) (s : Slice) (n : Nat) : (d.setSlice x s).dma n = d.dma n := rfl
@[simp] theorem Dev.setSlice_ring (d : Dev) (x : Nat) (s : Slice) (n : Nat) : (d.setSlice x s).ring n = d.ring n := rfl
@[simp] theorem Dev.setSlice_arb (d : Dev) (x : Nat) (s : Slice) (k : Nat) : (d.setSlice x s).arb k = d.arb k := rfl
@[simp] theorem Dev.setSlice_clk (d : Dev) (x : Nat) (s : Slice) (k : Nat) : (d.setSlice x s).clk k = d.clk k := rfl
@[simp] theorem Dev.setSlice_clkSum (d : Dev) (x : Nat) (s : Slice) (k : Nat) : (d.setSlice x s).clkSum k = d.clkSum k := rfl
@[simp] theorem Dev.setSlice_clkLive (d : Dev) (x : Nat) (s : Slice) (k : Nat) : (d.setSlice x s).clkLive k = d.clkLive k := rfl
@[simp] theorem Dev.setSlice_byte (d : Dev) (x : Nat) (s : Slice) (k : Nat) : (d.setSlice x s).byte k = d.byte k := rfl
@[simp] theorem Dev.setSlice_readCw (d : Dev) (x : Nat) (s : Slice) (k : Nat) (l : List Nat) : (d.setSlice x s).readCw k l = d.readCw k l := rfl
@[simp] theorem Dev.setSlice_us (d : Dev) (x : Nat) (s : Slice)  : (d.setSlice x s).us  = d.us  := rfl
@[simp] theorem Dev.setSlice_held (d : Dev) (x : Nat) (s : Slice)  : (d.setSlice x s).held  = d.held  := rfl
@[simp] theorem Dev.setSlice_done (d : Dev) (x : Nat) (s : Slice)  : (d.setSlice x s).done  = d.done  := rfl
@[simp] theorem Dev.setSlice_domOn (d : Dev) (x : Nat) (s : Slice) (k : Nat) : (d.setSlice x s).domOn k = d.domOn k := rfl
@[simp] theorem Dev.setSlice_fenceState (d : Dev) (x : Nat) (s : Slice) (k : Nat) : (d.setSlice x s).fenceState k = d.fenceState k := rfl
@[simp] theorem Dev.setSlice_inService (d : Dev) (x : Nat) (s : Slice) (k : Nat) : (d.setSlice x s).inService k = d.inService k := rfl
@[simp] theorem Dev.setSlice_bandOf (d : Dev) (x : Nat) (s : Slice) (k : Nat) : (d.setSlice x s).bandOf k = d.bandOf k := rfl

/-! setRegion. -/
@[simp] theorem Dev.setRegion_ns (d : Dev) (x : Nat) (s : Region) : (d.setRegion x s).ns = d.ns := rfl
@[simp] theorem Dev.setRegion_fresh (d : Dev) (x : Nat) (s : Region) : (d.setRegion x s).fresh = d.fresh := rfl
@[simp] theorem Dev.setRegion_out (d : Dev) (x : Nat) (s : Region) : (d.setRegion x s).out = d.out := rfl
@[simp] theorem Dev.setRegion_regs (d : Dev) (x : Nat) (s : Region) : (d.setRegion x s).regs = d.regs := rfl
@[simp] theorem Dev.setRegion_arbs (d : Dev) (x : Nat) (s : Region) : (d.setRegion x s).arbs = d.arbs := rfl
@[simp] theorem Dev.setRegion_mem (d : Dev) (x : Nat) (s : Region) : (d.setRegion x s).mem = d.mem := rfl
@[simp] theorem Dev.setRegion_chk (d : Dev) (x : Nat) (s : Region) : (d.setRegion x s).chk = d.chk := rfl
@[simp] theorem Dev.setRegion_slices (d : Dev) (x : Nat) (s : Region) : (d.setRegion x s).slices = d.slices := rfl
@[simp] theorem Dev.setRegion_gddr (d : Dev) (x : Nat) (s : Region) : (d.setRegion x s).gddr = d.gddr := rfl
@[simp] theorem Dev.setRegion_cores (d : Dev) (x : Nat) (s : Region) : (d.setRegion x s).cores = d.cores := rfl
@[simp] theorem Dev.setRegion_cycBase (d : Dev) (x : Nat) (s : Region) : (d.setRegion x s).cycBase = d.cycBase := rfl
@[simp] theorem Dev.setRegion_rst (d : Dev) (x : Nat) (s : Region) : (d.setRegion x s).rst = d.rst := rfl
@[simp] theorem Dev.setRegion_clks (d : Dev) (x : Nat) (s : Region) : (d.setRegion x s).clks = d.clks := rfl
@[simp] theorem Dev.setRegion_rings (d : Dev) (x : Nat) (s : Region) : (d.setRegion x s).rings = d.rings := rfl
@[simp] theorem Dev.setRegion_descs (d : Dev) (x : Nat) (s : Region) : (d.setRegion x s).descs = d.descs := rfl
@[simp] theorem Dev.setRegion_descSeq (d : Dev) (x : Nat) (s : Region) : (d.setRegion x s).descSeq = d.descSeq := rfl
@[simp] theorem Dev.setRegion_watch (d : Dev) (x : Nat) (s : Region) : (d.setRegion x s).watch = d.watch := rfl
@[simp] theorem Dev.setRegion_btnVal (d : Dev) (x : Nat) (s : Region) : (d.setRegion x s).btnVal = d.btnVal := rfl
@[simp] theorem Dev.setRegion_ctxs (d : Dev) (x : Nat) (s : Region) : (d.setRegion x s).ctxs = d.ctxs := rfl
@[simp] theorem Dev.setRegion_lab (d : Dev) (x : Nat) (s : Region) : (d.setRegion x s).lab = d.lab := rfl
@[simp] theorem Dev.setRegion_labStamp (d : Dev) (x : Nat) (s : Region) : (d.setRegion x s).labStamp = d.labStamp := rfl
@[simp] theorem Dev.setRegion_attn (d : Dev) (x : Nat) (s : Region) : (d.setRegion x s).attn = d.attn := rfl
@[simp] theorem Dev.setRegion_btnBad (d : Dev) (x : Nat) (s : Region) : (d.setRegion x s).btnBad = d.btnBad := rfl
@[simp] theorem Dev.setRegion_btnQ (d : Dev) (x : Nat) (s : Region) : (d.setRegion x s).btnQ = d.btnQ := rfl
@[simp] theorem Dev.setRegion_btnW (d : Dev) (x : Nat) (s : Region) : (d.setRegion x s).btnW = d.btnW := rfl
@[simp] theorem Dev.setRegion_uio (d : Dev) (x : Nat) (s : Region) : (d.setRegion x s).uio = d.uio := rfl
@[simp] theorem Dev.setRegion_uioTag (d : Dev) (x : Nat) (s : Region) : (d.setRegion x s).uioTag = d.uioTag := rfl
@[simp] theorem Dev.setRegion_waits (d : Dev) (x : Nat) (s : Region) : (d.setRegion x s).waits = d.waits := rfl
@[simp] theorem Dev.setRegion_port (d : Dev) (x : Nat) (s : Region) : (d.setRegion x s).port = d.port := rfl
@[simp] theorem Dev.setRegion_hdm (d : Dev) (x : Nat) (s : Region) : (d.setRegion x s).hdm = d.hdm := rfl
@[simp] theorem Dev.setRegion_sf (d : Dev) (x : Nat) (s : Region) : (d.setRegion x s).sf = d.sf := rfl
@[simp] theorem Dev.setRegion_biOut (d : Dev) (x : Nat) (s : Region) : (d.setRegion x s).biOut = d.biOut := rfl
@[simp] theorem Dev.setRegion_recalls (d : Dev) (x : Nat) (s : Region) : (d.setRegion x s).recalls = d.recalls := rfl
@[simp] theorem Dev.setRegion_perstAt (d : Dev) (x : Nat) (s : Region) : (d.setRegion x s).perstAt = d.perstAt := rfl
@[simp] theorem Dev.setRegion_power (d : Dev) (x : Nat) (s : Region) : (d.setRegion x s).power = d.power := rfl
@[simp] theorem Dev.setRegion_auxAt (d : Dev) (x : Nat) (s : Region) : (d.setRegion x s).auxAt = d.auxAt := rfl
@[simp] theorem Dev.setRegion_pwr (d : Dev) (x : Nat) (s : Region) : (d.setRegion x s).pwr = d.pwr := rfl
@[simp] theorem Dev.setRegion_domAt (d : Dev) (x : Nat) (s : Region) : (d.setRegion x s).domAt = d.domAt := rfl
@[simp] theorem Dev.setRegion_domAsked (d : Dev) (x : Nat) (s : Region) : (d.setRegion x s).domAsked = d.domAsked := rfl
@[simp] theorem Dev.setRegion_points (d : Dev) (x : Nat) (s : Region) : (d.setRegion x s).points = d.points := rfl
@[simp] theorem Dev.setRegion_rails (d : Dev) (x : Nat) (s : Region) : (d.setRegion x s).rails = d.rails := rfl
@[simp] theorem Dev.setRegion_therm (d : Dev) (x : Nat) (s : Region) : (d.setRegion x s).therm = d.therm := rfl
@[simp] theorem Dev.setRegion_pace (d : Dev) (x : Nat) (s : Region) : (d.setRegion x s).pace = d.pace := rfl
@[simp] theorem Dev.setRegion_modEn (d : Dev) (x : Nat) (s : Region) : (d.setRegion x s).modEn = d.modEn := rfl
@[simp] theorem Dev.setRegion_modEnAt (d : Dev) (x : Nat) (s : Region) : (d.setRegion x s).modEnAt = d.modEnAt := rfl
@[simp] theorem Dev.setRegion_modFail (d : Dev) (x : Nat) (s : Region) : (d.setRegion x s).modFail = d.modFail := rfl
@[simp] theorem Dev.setRegion_svc (d : Dev) (x : Nat) (s : Region) : (d.setRegion x s).svc = d.svc := rfl
@[simp] theorem Dev.setRegion_stamp (d : Dev) (x : Nat) (s : Region) : (d.setRegion x s).stamp = d.stamp := rfl
@[simp] theorem Dev.setRegion_relays (d : Dev) (x : Nat) (s : Region) : (d.setRegion x s).relays = d.relays := rfl
@[simp] theorem Dev.setRegion_chunks (d : Dev) (x : Nat) (s : Region) : (d.setRegion x s).chunks = d.chunks := rfl
@[simp] theorem Dev.setRegion_relayLast (d : Dev) (x : Nat) (s : Region) : (d.setRegion x s).relayLast = d.relayLast := rfl
@[simp] theorem Dev.setRegion_chkSeen (d : Dev) (x : Nat) (s : Region) : (d.setRegion x s).chkSeen = d.chkSeen := rfl
@[simp] theorem Dev.setRegion_chkWhen (d : Dev) (x : Nat) (s : Region) : (d.setRegion x s).chkWhen = d.chkWhen := rfl
@[simp] theorem Dev.setRegion_chkWas (d : Dev) (x : Nat) (s : Region) : (d.setRegion x s).chkWas = d.chkWas := rfl
@[simp] theorem Dev.setRegion_evLogs (d : Dev) (x : Nat) (s : Region) : (d.setRegion x s).evLogs = d.evLogs := rfl
@[simp] theorem Dev.setRegion_evOver (d : Dev) (x : Nat) (s : Region) : (d.setRegion x s).evOver = d.evOver := rfl
@[simp] theorem Dev.setRegion_evHandle (d : Dev) (x : Nat) (s : Region) : (d.setRegion x s).evHandle = d.evHandle := rfl
@[simp] theorem Dev.setRegion_evPolicy (d : Dev) (x : Nat) (s : Region) : (d.setRegion x s).evPolicy = d.evPolicy := rfl
@[simp] theorem Dev.setRegion_evPending (d : Dev) (x : Nat) (s : Region) : (d.setRegion x s).evPending = d.evPending := rfl
@[simp] theorem Dev.setRegion_lifeSeq (d : Dev) (x : Nat) (s : Region) : (d.setRegion x s).lifeSeq = d.lifeSeq := rfl
@[simp] theorem Dev.setRegion_lifePend (d : Dev) (x : Nat) (s : Region) : (d.setRegion x s).lifePend = d.lifePend := rfl
@[simp] theorem Dev.setRegion_repair (d : Dev) (x : Nat) (s : Region) : (d.setRegion x s).repair = d.repair := rfl
@[simp] theorem Dev.setRegion_caGrp (d : Dev) (x : Nat) (s : Region) : (d.setRegion x s).caGrp = d.caGrp := rfl
@[simp] theorem Dev.setRegion_laneOff (d : Dev) (x : Nat) (s : Region) : (d.setRegion x s).laneOff = d.laneOff := rfl
@[simp] theorem Dev.setRegion_laneErr (d : Dev) (x : Nat) (s : Region) : (d.setRegion x s).laneErr = d.laneErr := rfl
@[simp] theorem Dev.setRegion_d2d (d : Dev) (x : Nat) (s : Region) : (d.setRegion x s).d2d = d.d2d := rfl
@[simp] theorem Dev.setRegion_noc (d : Dev) (x : Nat) (s : Region) : (d.setRegion x s).noc = d.noc := rfl
@[simp] theorem Dev.setRegion_laps (d : Dev) (x : Nat) (s : Region) : (d.setRegion x s).laps = d.laps := rfl
@[simp] theorem Dev.setRegion_lapInlet (d : Dev) (x : Nat) (s : Region) : (d.setRegion x s).lapInlet = d.lapInlet := rfl
@[simp] theorem Dev.setRegion_pmcAt (d : Dev) (x : Nat) (s : Region) : (d.setRegion x s).pmcAt = d.pmcAt := rfl
@[simp] theorem Dev.setRegion_lifeAt (d : Dev) (x : Nat) (s : Region) : (d.setRegion x s).lifeAt = d.lifeAt := rfl
@[simp] theorem Dev.setRegion_imgPend (d : Dev) (x : Nat) (s : Region) : (d.setRegion x s).imgPend = d.imgPend := rfl
@[simp] theorem Dev.setRegion_worn (d : Dev) (x : Nat) (s : Region) : (d.setRegion x s).worn = d.worn := rfl
@[simp] theorem Dev.setRegion_pldm (d : Dev) (x : Nat) (s : Region) : (d.setRegion x s).pldm = d.pldm := rfl
@[simp] theorem Dev.setRegion_pmb (d : Dev) (x : Nat) (s : Region) : (d.setRegion x s).pmb = d.pmb := rfl
@[simp] theorem Dev.setRegion_pmbStatus (d : Dev) (x : Nat) (s : Region) : (d.setRegion x s).pmbStatus = d.pmbStatus := rfl
@[simp] theorem Dev.setRegion_calls (d : Dev) (x : Nat) (s : Region) : (d.setRegion x s).calls = d.calls := rfl
@[simp] theorem Dev.setRegion_dead (d : Dev) (x : Nat) (s : Region) : (d.setRegion x s).dead = d.dead := rfl
@[simp] theorem Dev.setRegion_eid (d : Dev) (x : Nat) (s : Region) : (d.setRegion x s).eid = d.eid := rfl
@[simp] theorem Dev.setRegion_step (d : Dev) (x : Nat) (s : Region) : (d.setRegion x s).step = d.step := rfl
@[simp] theorem Dev.setRegion_perstLow (d : Dev) (x : Nat) (s : Region) : (d.setRegion x s).perstLow = d.perstLow := rfl
@[simp] theorem Dev.setRegion_tripRec (d : Dev) (x : Nat) (s : Region) : (d.setRegion x s).tripRec = d.tripRec := rfl
@[simp] theorem Dev.setRegion_strapped (d : Dev) (x : Nat) (s : Region) : (d.setRegion x s).strapped = d.strapped := rfl
@[simp] theorem Dev.setRegion_jtagIr (d : Dev) (x : Nat) (s : Region) : (d.setRegion x s).jtagIr = d.jtagIr := rfl
@[simp] theorem Dev.setRegion_jtagBypass (d : Dev) (x : Nat) (s : Region) : (d.setRegion x s).jtagBypass = d.jtagBypass := rfl
@[simp] theorem Dev.setRegion_boundary (d : Dev) (x : Nat) (s : Region) : (d.setRegion x s).boundary = d.boundary := rfl
@[simp] theorem Dev.setRegion_mgmt (d : Dev) (x : Nat) (s : Region) : (d.setRegion x s).mgmt = d.mgmt := rfl
@[simp] theorem Dev.setRegion_meas (d : Dev) (x : Nat) (s : Region) : (d.setRegion x s).meas = d.meas := rfl
@[simp] theorem Dev.setRegion_spdm (d : Dev) (x : Nat) (s : Region) : (d.setRegion x s).spdm = d.spdm := rfl
@[simp] theorem Dev.setRegion_sessions (d : Dev) (x : Nat) (s : Region) : (d.setRegion x s).sessions = d.sessions := rfl
@[simp] theorem Dev.setRegion_ide (d : Dev) (x : Nat) (s : Region) : (d.setRegion x s).ide = d.ide := rfl
@[simp] theorem Dev.setRegion_draws (d : Dev) (x : Nat) (s : Region) : (d.setRegion x s).draws = d.draws := rfl
@[simp] theorem Dev.setRegion_regHeld (d : Dev) (x : Nat) (s : Region) : (d.setRegion x s).regHeld = d.regHeld := rfl
@[simp] theorem Dev.setRegion_fatal (d : Dev) (x : Nat) (s : Region) : (d.setRegion x s).fatal = d.fatal := rfl
@[simp] theorem Dev.setRegion_cyc (d : Dev) (x : Nat) (s : Region) : (d.setRegion x s).cyc = d.cyc := rfl
@[simp] theorem Dev.setRegion_inq (d : Dev) (x : Nat) (s : Region) : (d.setRegion x s).inq = d.inq := rfl
@[simp] theorem Dev.setRegion_cfg (d : Dev) (x : Nat) (s : Region) : (d.setRegion x s).cfg = d.cfg := rfl
@[simp] theorem Dev.setRegion_alerted (d : Dev) (x : Nat) (s : Region) : (d.setRegion x s).alerted = d.alerted := rfl
@[simp] theorem Dev.setRegion_fuse (d : Dev) (x : Nat) (s : Region) : (d.setRegion x s).fuse = d.fuse := rfl
@[simp] theorem Dev.setRegion_word (d : Dev) (x : Nat) (s : Region) (f : Fld) (u i : Nat) : (d.setRegion x s).word f u i = d.word f u i := rfl
@[simp] theorem Dev.setRegion_fld (d : Dev) (x : Nat) (s : Region) (f : Fld) (u i : Nat) : (d.setRegion x s).fld f u i = d.fld f u i := rfl
@[simp] theorem Dev.setRegion_bit (d : Dev) (x : Nat) (s : Region) (f : Fld) (u i : Nat) : (d.setRegion x s).bit f u i = d.bit f u i := rfl
@[simp] theorem Dev.setRegion_slice (d : Dev) (x : Nat) (s : Region) (n : Nat) : (d.setRegion x s).slice n = d.slice n := rfl
@[simp] theorem Dev.setRegion_core (d : Dev) (x : Nat) (s : Region) (n : Nat) : (d.setRegion x s).core n = d.core n := rfl
@[simp] theorem Dev.setRegion_arr (d : Dev) (x : Nat) (s : Region) (n : Nat) : (d.setRegion x s).arr n = d.arr n := rfl
@[simp] theorem Dev.setRegion_dma (d : Dev) (x : Nat) (s : Region) (n : Nat) : (d.setRegion x s).dma n = d.dma n := rfl
@[simp] theorem Dev.setRegion_ring (d : Dev) (x : Nat) (s : Region) (n : Nat) : (d.setRegion x s).ring n = d.ring n := rfl
@[simp] theorem Dev.setRegion_arb (d : Dev) (x : Nat) (s : Region) (k : Nat) : (d.setRegion x s).arb k = d.arb k := rfl
@[simp] theorem Dev.setRegion_clk (d : Dev) (x : Nat) (s : Region) (k : Nat) : (d.setRegion x s).clk k = d.clk k := rfl
@[simp] theorem Dev.setRegion_clkSum (d : Dev) (x : Nat) (s : Region) (k : Nat) : (d.setRegion x s).clkSum k = d.clkSum k := rfl
@[simp] theorem Dev.setRegion_clkLive (d : Dev) (x : Nat) (s : Region) (k : Nat) : (d.setRegion x s).clkLive k = d.clkLive k := rfl
@[simp] theorem Dev.setRegion_byte (d : Dev) (x : Nat) (s : Region) (k : Nat) : (d.setRegion x s).byte k = d.byte k := rfl
@[simp] theorem Dev.setRegion_readCw (d : Dev) (x : Nat) (s : Region) (k : Nat) (l : List Nat) : (d.setRegion x s).readCw k l = d.readCw k l := rfl
@[simp] theorem Dev.setRegion_us (d : Dev) (x : Nat) (s : Region)  : (d.setRegion x s).us  = d.us  := rfl
@[simp] theorem Dev.setRegion_held (d : Dev) (x : Nat) (s : Region)  : (d.setRegion x s).held  = d.held  := rfl
@[simp] theorem Dev.setRegion_done (d : Dev) (x : Nat) (s : Region)  : (d.setRegion x s).done  = d.done  := rfl
@[simp] theorem Dev.setRegion_domOn (d : Dev) (x : Nat) (s : Region) (k : Nat) : (d.setRegion x s).domOn k = d.domOn k := rfl
@[simp] theorem Dev.setRegion_fenceState (d : Dev) (x : Nat) (s : Region) (k : Nat) : (d.setRegion x s).fenceState k = d.fenceState k := rfl
@[simp] theorem Dev.setRegion_inService (d : Dev) (x : Nat) (s : Region) (k : Nat) : (d.setRegion x s).inService k = d.inService k := rfl
@[simp] theorem Dev.setRegion_bandOf (d : Dev) (x : Nat) (s : Region) (k : Nat) : (d.setRegion x s).bandOf k = d.bandOf k := rfl

/-! setCore. -/
@[simp] theorem Dev.setCore_ns (d : Dev) (x : Nat) (s : Core) : (d.setCore x s).ns = d.ns := rfl
@[simp] theorem Dev.setCore_fresh (d : Dev) (x : Nat) (s : Core) : (d.setCore x s).fresh = d.fresh := rfl
@[simp] theorem Dev.setCore_out (d : Dev) (x : Nat) (s : Core) : (d.setCore x s).out = d.out := rfl
@[simp] theorem Dev.setCore_regs (d : Dev) (x : Nat) (s : Core) : (d.setCore x s).regs = d.regs := rfl
@[simp] theorem Dev.setCore_arbs (d : Dev) (x : Nat) (s : Core) : (d.setCore x s).arbs = d.arbs := rfl
@[simp] theorem Dev.setCore_mem (d : Dev) (x : Nat) (s : Core) : (d.setCore x s).mem = d.mem := rfl
@[simp] theorem Dev.setCore_chk (d : Dev) (x : Nat) (s : Core) : (d.setCore x s).chk = d.chk := rfl
@[simp] theorem Dev.setCore_slices (d : Dev) (x : Nat) (s : Core) : (d.setCore x s).slices = d.slices := rfl
@[simp] theorem Dev.setCore_regions (d : Dev) (x : Nat) (s : Core) : (d.setCore x s).regions = d.regions := rfl
@[simp] theorem Dev.setCore_gddr (d : Dev) (x : Nat) (s : Core) : (d.setCore x s).gddr = d.gddr := rfl
@[simp] theorem Dev.setCore_cycBase (d : Dev) (x : Nat) (s : Core) : (d.setCore x s).cycBase = d.cycBase := rfl
@[simp] theorem Dev.setCore_rst (d : Dev) (x : Nat) (s : Core) : (d.setCore x s).rst = d.rst := rfl
@[simp] theorem Dev.setCore_clks (d : Dev) (x : Nat) (s : Core) : (d.setCore x s).clks = d.clks := rfl
@[simp] theorem Dev.setCore_rings (d : Dev) (x : Nat) (s : Core) : (d.setCore x s).rings = d.rings := rfl
@[simp] theorem Dev.setCore_descs (d : Dev) (x : Nat) (s : Core) : (d.setCore x s).descs = d.descs := rfl
@[simp] theorem Dev.setCore_descSeq (d : Dev) (x : Nat) (s : Core) : (d.setCore x s).descSeq = d.descSeq := rfl
@[simp] theorem Dev.setCore_watch (d : Dev) (x : Nat) (s : Core) : (d.setCore x s).watch = d.watch := rfl
@[simp] theorem Dev.setCore_btnVal (d : Dev) (x : Nat) (s : Core) : (d.setCore x s).btnVal = d.btnVal := rfl
@[simp] theorem Dev.setCore_ctxs (d : Dev) (x : Nat) (s : Core) : (d.setCore x s).ctxs = d.ctxs := rfl
@[simp] theorem Dev.setCore_lab (d : Dev) (x : Nat) (s : Core) : (d.setCore x s).lab = d.lab := rfl
@[simp] theorem Dev.setCore_labStamp (d : Dev) (x : Nat) (s : Core) : (d.setCore x s).labStamp = d.labStamp := rfl
@[simp] theorem Dev.setCore_attn (d : Dev) (x : Nat) (s : Core) : (d.setCore x s).attn = d.attn := rfl
@[simp] theorem Dev.setCore_btnBad (d : Dev) (x : Nat) (s : Core) : (d.setCore x s).btnBad = d.btnBad := rfl
@[simp] theorem Dev.setCore_btnQ (d : Dev) (x : Nat) (s : Core) : (d.setCore x s).btnQ = d.btnQ := rfl
@[simp] theorem Dev.setCore_btnW (d : Dev) (x : Nat) (s : Core) : (d.setCore x s).btnW = d.btnW := rfl
@[simp] theorem Dev.setCore_uio (d : Dev) (x : Nat) (s : Core) : (d.setCore x s).uio = d.uio := rfl
@[simp] theorem Dev.setCore_uioTag (d : Dev) (x : Nat) (s : Core) : (d.setCore x s).uioTag = d.uioTag := rfl
@[simp] theorem Dev.setCore_waits (d : Dev) (x : Nat) (s : Core) : (d.setCore x s).waits = d.waits := rfl
@[simp] theorem Dev.setCore_port (d : Dev) (x : Nat) (s : Core) : (d.setCore x s).port = d.port := rfl
@[simp] theorem Dev.setCore_hdm (d : Dev) (x : Nat) (s : Core) : (d.setCore x s).hdm = d.hdm := rfl
@[simp] theorem Dev.setCore_sf (d : Dev) (x : Nat) (s : Core) : (d.setCore x s).sf = d.sf := rfl
@[simp] theorem Dev.setCore_biOut (d : Dev) (x : Nat) (s : Core) : (d.setCore x s).biOut = d.biOut := rfl
@[simp] theorem Dev.setCore_recalls (d : Dev) (x : Nat) (s : Core) : (d.setCore x s).recalls = d.recalls := rfl
@[simp] theorem Dev.setCore_perstAt (d : Dev) (x : Nat) (s : Core) : (d.setCore x s).perstAt = d.perstAt := rfl
@[simp] theorem Dev.setCore_power (d : Dev) (x : Nat) (s : Core) : (d.setCore x s).power = d.power := rfl
@[simp] theorem Dev.setCore_auxAt (d : Dev) (x : Nat) (s : Core) : (d.setCore x s).auxAt = d.auxAt := rfl
@[simp] theorem Dev.setCore_pwr (d : Dev) (x : Nat) (s : Core) : (d.setCore x s).pwr = d.pwr := rfl
@[simp] theorem Dev.setCore_domAt (d : Dev) (x : Nat) (s : Core) : (d.setCore x s).domAt = d.domAt := rfl
@[simp] theorem Dev.setCore_domAsked (d : Dev) (x : Nat) (s : Core) : (d.setCore x s).domAsked = d.domAsked := rfl
@[simp] theorem Dev.setCore_points (d : Dev) (x : Nat) (s : Core) : (d.setCore x s).points = d.points := rfl
@[simp] theorem Dev.setCore_rails (d : Dev) (x : Nat) (s : Core) : (d.setCore x s).rails = d.rails := rfl
@[simp] theorem Dev.setCore_therm (d : Dev) (x : Nat) (s : Core) : (d.setCore x s).therm = d.therm := rfl
@[simp] theorem Dev.setCore_pace (d : Dev) (x : Nat) (s : Core) : (d.setCore x s).pace = d.pace := rfl
@[simp] theorem Dev.setCore_modEn (d : Dev) (x : Nat) (s : Core) : (d.setCore x s).modEn = d.modEn := rfl
@[simp] theorem Dev.setCore_modEnAt (d : Dev) (x : Nat) (s : Core) : (d.setCore x s).modEnAt = d.modEnAt := rfl
@[simp] theorem Dev.setCore_modFail (d : Dev) (x : Nat) (s : Core) : (d.setCore x s).modFail = d.modFail := rfl
@[simp] theorem Dev.setCore_svc (d : Dev) (x : Nat) (s : Core) : (d.setCore x s).svc = d.svc := rfl
@[simp] theorem Dev.setCore_stamp (d : Dev) (x : Nat) (s : Core) : (d.setCore x s).stamp = d.stamp := rfl
@[simp] theorem Dev.setCore_relays (d : Dev) (x : Nat) (s : Core) : (d.setCore x s).relays = d.relays := rfl
@[simp] theorem Dev.setCore_chunks (d : Dev) (x : Nat) (s : Core) : (d.setCore x s).chunks = d.chunks := rfl
@[simp] theorem Dev.setCore_relayLast (d : Dev) (x : Nat) (s : Core) : (d.setCore x s).relayLast = d.relayLast := rfl
@[simp] theorem Dev.setCore_chkSeen (d : Dev) (x : Nat) (s : Core) : (d.setCore x s).chkSeen = d.chkSeen := rfl
@[simp] theorem Dev.setCore_chkWhen (d : Dev) (x : Nat) (s : Core) : (d.setCore x s).chkWhen = d.chkWhen := rfl
@[simp] theorem Dev.setCore_chkWas (d : Dev) (x : Nat) (s : Core) : (d.setCore x s).chkWas = d.chkWas := rfl
@[simp] theorem Dev.setCore_evLogs (d : Dev) (x : Nat) (s : Core) : (d.setCore x s).evLogs = d.evLogs := rfl
@[simp] theorem Dev.setCore_evOver (d : Dev) (x : Nat) (s : Core) : (d.setCore x s).evOver = d.evOver := rfl
@[simp] theorem Dev.setCore_evHandle (d : Dev) (x : Nat) (s : Core) : (d.setCore x s).evHandle = d.evHandle := rfl
@[simp] theorem Dev.setCore_evPolicy (d : Dev) (x : Nat) (s : Core) : (d.setCore x s).evPolicy = d.evPolicy := rfl
@[simp] theorem Dev.setCore_evPending (d : Dev) (x : Nat) (s : Core) : (d.setCore x s).evPending = d.evPending := rfl
@[simp] theorem Dev.setCore_lifeSeq (d : Dev) (x : Nat) (s : Core) : (d.setCore x s).lifeSeq = d.lifeSeq := rfl
@[simp] theorem Dev.setCore_lifePend (d : Dev) (x : Nat) (s : Core) : (d.setCore x s).lifePend = d.lifePend := rfl
@[simp] theorem Dev.setCore_repair (d : Dev) (x : Nat) (s : Core) : (d.setCore x s).repair = d.repair := rfl
@[simp] theorem Dev.setCore_caGrp (d : Dev) (x : Nat) (s : Core) : (d.setCore x s).caGrp = d.caGrp := rfl
@[simp] theorem Dev.setCore_laneOff (d : Dev) (x : Nat) (s : Core) : (d.setCore x s).laneOff = d.laneOff := rfl
@[simp] theorem Dev.setCore_laneErr (d : Dev) (x : Nat) (s : Core) : (d.setCore x s).laneErr = d.laneErr := rfl
@[simp] theorem Dev.setCore_d2d (d : Dev) (x : Nat) (s : Core) : (d.setCore x s).d2d = d.d2d := rfl
@[simp] theorem Dev.setCore_noc (d : Dev) (x : Nat) (s : Core) : (d.setCore x s).noc = d.noc := rfl
@[simp] theorem Dev.setCore_laps (d : Dev) (x : Nat) (s : Core) : (d.setCore x s).laps = d.laps := rfl
@[simp] theorem Dev.setCore_lapInlet (d : Dev) (x : Nat) (s : Core) : (d.setCore x s).lapInlet = d.lapInlet := rfl
@[simp] theorem Dev.setCore_pmcAt (d : Dev) (x : Nat) (s : Core) : (d.setCore x s).pmcAt = d.pmcAt := rfl
@[simp] theorem Dev.setCore_lifeAt (d : Dev) (x : Nat) (s : Core) : (d.setCore x s).lifeAt = d.lifeAt := rfl
@[simp] theorem Dev.setCore_imgPend (d : Dev) (x : Nat) (s : Core) : (d.setCore x s).imgPend = d.imgPend := rfl
@[simp] theorem Dev.setCore_worn (d : Dev) (x : Nat) (s : Core) : (d.setCore x s).worn = d.worn := rfl
@[simp] theorem Dev.setCore_pldm (d : Dev) (x : Nat) (s : Core) : (d.setCore x s).pldm = d.pldm := rfl
@[simp] theorem Dev.setCore_pmb (d : Dev) (x : Nat) (s : Core) : (d.setCore x s).pmb = d.pmb := rfl
@[simp] theorem Dev.setCore_pmbStatus (d : Dev) (x : Nat) (s : Core) : (d.setCore x s).pmbStatus = d.pmbStatus := rfl
@[simp] theorem Dev.setCore_calls (d : Dev) (x : Nat) (s : Core) : (d.setCore x s).calls = d.calls := rfl
@[simp] theorem Dev.setCore_dead (d : Dev) (x : Nat) (s : Core) : (d.setCore x s).dead = d.dead := rfl
@[simp] theorem Dev.setCore_eid (d : Dev) (x : Nat) (s : Core) : (d.setCore x s).eid = d.eid := rfl
@[simp] theorem Dev.setCore_step (d : Dev) (x : Nat) (s : Core) : (d.setCore x s).step = d.step := rfl
@[simp] theorem Dev.setCore_perstLow (d : Dev) (x : Nat) (s : Core) : (d.setCore x s).perstLow = d.perstLow := rfl
@[simp] theorem Dev.setCore_tripRec (d : Dev) (x : Nat) (s : Core) : (d.setCore x s).tripRec = d.tripRec := rfl
@[simp] theorem Dev.setCore_strapped (d : Dev) (x : Nat) (s : Core) : (d.setCore x s).strapped = d.strapped := rfl
@[simp] theorem Dev.setCore_jtagIr (d : Dev) (x : Nat) (s : Core) : (d.setCore x s).jtagIr = d.jtagIr := rfl
@[simp] theorem Dev.setCore_jtagBypass (d : Dev) (x : Nat) (s : Core) : (d.setCore x s).jtagBypass = d.jtagBypass := rfl
@[simp] theorem Dev.setCore_boundary (d : Dev) (x : Nat) (s : Core) : (d.setCore x s).boundary = d.boundary := rfl
@[simp] theorem Dev.setCore_mgmt (d : Dev) (x : Nat) (s : Core) : (d.setCore x s).mgmt = d.mgmt := rfl
@[simp] theorem Dev.setCore_meas (d : Dev) (x : Nat) (s : Core) : (d.setCore x s).meas = d.meas := rfl
@[simp] theorem Dev.setCore_spdm (d : Dev) (x : Nat) (s : Core) : (d.setCore x s).spdm = d.spdm := rfl
@[simp] theorem Dev.setCore_sessions (d : Dev) (x : Nat) (s : Core) : (d.setCore x s).sessions = d.sessions := rfl
@[simp] theorem Dev.setCore_ide (d : Dev) (x : Nat) (s : Core) : (d.setCore x s).ide = d.ide := rfl
@[simp] theorem Dev.setCore_draws (d : Dev) (x : Nat) (s : Core) : (d.setCore x s).draws = d.draws := rfl
@[simp] theorem Dev.setCore_regHeld (d : Dev) (x : Nat) (s : Core) : (d.setCore x s).regHeld = d.regHeld := rfl
@[simp] theorem Dev.setCore_fatal (d : Dev) (x : Nat) (s : Core) : (d.setCore x s).fatal = d.fatal := rfl
@[simp] theorem Dev.setCore_cyc (d : Dev) (x : Nat) (s : Core) : (d.setCore x s).cyc = d.cyc := rfl
@[simp] theorem Dev.setCore_inq (d : Dev) (x : Nat) (s : Core) : (d.setCore x s).inq = d.inq := rfl
@[simp] theorem Dev.setCore_cfg (d : Dev) (x : Nat) (s : Core) : (d.setCore x s).cfg = d.cfg := rfl
@[simp] theorem Dev.setCore_alerted (d : Dev) (x : Nat) (s : Core) : (d.setCore x s).alerted = d.alerted := rfl
@[simp] theorem Dev.setCore_fuse (d : Dev) (x : Nat) (s : Core) : (d.setCore x s).fuse = d.fuse := rfl
@[simp] theorem Dev.setCore_word (d : Dev) (x : Nat) (s : Core) (f : Fld) (u i : Nat) : (d.setCore x s).word f u i = d.word f u i := rfl
@[simp] theorem Dev.setCore_fld (d : Dev) (x : Nat) (s : Core) (f : Fld) (u i : Nat) : (d.setCore x s).fld f u i = d.fld f u i := rfl
@[simp] theorem Dev.setCore_bit (d : Dev) (x : Nat) (s : Core) (f : Fld) (u i : Nat) : (d.setCore x s).bit f u i = d.bit f u i := rfl
@[simp] theorem Dev.setCore_slice (d : Dev) (x : Nat) (s : Core) (n : Nat) : (d.setCore x s).slice n = d.slice n := rfl
@[simp] theorem Dev.setCore_region (d : Dev) (x : Nat) (s : Core) (n : Nat) : (d.setCore x s).region n = d.region n := rfl
@[simp] theorem Dev.setCore_ring (d : Dev) (x : Nat) (s : Core) (n : Nat) : (d.setCore x s).ring n = d.ring n := rfl
@[simp] theorem Dev.setCore_arb (d : Dev) (x : Nat) (s : Core) (k : Nat) : (d.setCore x s).arb k = d.arb k := rfl
@[simp] theorem Dev.setCore_clk (d : Dev) (x : Nat) (s : Core) (k : Nat) : (d.setCore x s).clk k = d.clk k := rfl
@[simp] theorem Dev.setCore_clkSum (d : Dev) (x : Nat) (s : Core) (k : Nat) : (d.setCore x s).clkSum k = d.clkSum k := rfl
@[simp] theorem Dev.setCore_clkLive (d : Dev) (x : Nat) (s : Core) (k : Nat) : (d.setCore x s).clkLive k = d.clkLive k := rfl
@[simp] theorem Dev.setCore_byte (d : Dev) (x : Nat) (s : Core) (k : Nat) : (d.setCore x s).byte k = d.byte k := rfl
@[simp] theorem Dev.setCore_readCw (d : Dev) (x : Nat) (s : Core) (k : Nat) (l : List Nat) : (d.setCore x s).readCw k l = d.readCw k l := rfl
@[simp] theorem Dev.setCore_us (d : Dev) (x : Nat) (s : Core)  : (d.setCore x s).us  = d.us  := rfl
@[simp] theorem Dev.setCore_held (d : Dev) (x : Nat) (s : Core)  : (d.setCore x s).held  = d.held  := rfl
@[simp] theorem Dev.setCore_done (d : Dev) (x : Nat) (s : Core)  : (d.setCore x s).done  = d.done  := rfl
@[simp] theorem Dev.setCore_domOn (d : Dev) (x : Nat) (s : Core) (k : Nat) : (d.setCore x s).domOn k = d.domOn k := rfl
@[simp] theorem Dev.setCore_fenceState (d : Dev) (x : Nat) (s : Core) (k : Nat) : (d.setCore x s).fenceState k = d.fenceState k := rfl
@[simp] theorem Dev.setCore_inService (d : Dev) (x : Nat) (s : Core) (k : Nat) : (d.setCore x s).inService k = d.inService k := rfl
@[simp] theorem Dev.setCore_bandOf (d : Dev) (x : Nat) (s : Core) (k : Nat) : (d.setCore x s).bandOf k = d.bandOf k := rfl

/-! setRing. -/
@[simp] theorem Dev.setRing_ns (d : Dev) (x : Nat) (s : Ring) : (d.setRing x s).ns = d.ns := rfl
@[simp] theorem Dev.setRing_fresh (d : Dev) (x : Nat) (s : Ring) : (d.setRing x s).fresh = d.fresh := rfl
@[simp] theorem Dev.setRing_out (d : Dev) (x : Nat) (s : Ring) : (d.setRing x s).out = d.out := rfl
@[simp] theorem Dev.setRing_regs (d : Dev) (x : Nat) (s : Ring) : (d.setRing x s).regs = d.regs := rfl
@[simp] theorem Dev.setRing_arbs (d : Dev) (x : Nat) (s : Ring) : (d.setRing x s).arbs = d.arbs := rfl
@[simp] theorem Dev.setRing_mem (d : Dev) (x : Nat) (s : Ring) : (d.setRing x s).mem = d.mem := rfl
@[simp] theorem Dev.setRing_chk (d : Dev) (x : Nat) (s : Ring) : (d.setRing x s).chk = d.chk := rfl
@[simp] theorem Dev.setRing_slices (d : Dev) (x : Nat) (s : Ring) : (d.setRing x s).slices = d.slices := rfl
@[simp] theorem Dev.setRing_regions (d : Dev) (x : Nat) (s : Ring) : (d.setRing x s).regions = d.regions := rfl
@[simp] theorem Dev.setRing_gddr (d : Dev) (x : Nat) (s : Ring) : (d.setRing x s).gddr = d.gddr := rfl
@[simp] theorem Dev.setRing_cores (d : Dev) (x : Nat) (s : Ring) : (d.setRing x s).cores = d.cores := rfl
@[simp] theorem Dev.setRing_cycBase (d : Dev) (x : Nat) (s : Ring) : (d.setRing x s).cycBase = d.cycBase := rfl
@[simp] theorem Dev.setRing_rst (d : Dev) (x : Nat) (s : Ring) : (d.setRing x s).rst = d.rst := rfl
@[simp] theorem Dev.setRing_clks (d : Dev) (x : Nat) (s : Ring) : (d.setRing x s).clks = d.clks := rfl
@[simp] theorem Dev.setRing_descs (d : Dev) (x : Nat) (s : Ring) : (d.setRing x s).descs = d.descs := rfl
@[simp] theorem Dev.setRing_descSeq (d : Dev) (x : Nat) (s : Ring) : (d.setRing x s).descSeq = d.descSeq := rfl
@[simp] theorem Dev.setRing_watch (d : Dev) (x : Nat) (s : Ring) : (d.setRing x s).watch = d.watch := rfl
@[simp] theorem Dev.setRing_btnVal (d : Dev) (x : Nat) (s : Ring) : (d.setRing x s).btnVal = d.btnVal := rfl
@[simp] theorem Dev.setRing_ctxs (d : Dev) (x : Nat) (s : Ring) : (d.setRing x s).ctxs = d.ctxs := rfl
@[simp] theorem Dev.setRing_lab (d : Dev) (x : Nat) (s : Ring) : (d.setRing x s).lab = d.lab := rfl
@[simp] theorem Dev.setRing_labStamp (d : Dev) (x : Nat) (s : Ring) : (d.setRing x s).labStamp = d.labStamp := rfl
@[simp] theorem Dev.setRing_attn (d : Dev) (x : Nat) (s : Ring) : (d.setRing x s).attn = d.attn := rfl
@[simp] theorem Dev.setRing_btnBad (d : Dev) (x : Nat) (s : Ring) : (d.setRing x s).btnBad = d.btnBad := rfl
@[simp] theorem Dev.setRing_btnQ (d : Dev) (x : Nat) (s : Ring) : (d.setRing x s).btnQ = d.btnQ := rfl
@[simp] theorem Dev.setRing_btnW (d : Dev) (x : Nat) (s : Ring) : (d.setRing x s).btnW = d.btnW := rfl
@[simp] theorem Dev.setRing_uio (d : Dev) (x : Nat) (s : Ring) : (d.setRing x s).uio = d.uio := rfl
@[simp] theorem Dev.setRing_uioTag (d : Dev) (x : Nat) (s : Ring) : (d.setRing x s).uioTag = d.uioTag := rfl
@[simp] theorem Dev.setRing_waits (d : Dev) (x : Nat) (s : Ring) : (d.setRing x s).waits = d.waits := rfl
@[simp] theorem Dev.setRing_port (d : Dev) (x : Nat) (s : Ring) : (d.setRing x s).port = d.port := rfl
@[simp] theorem Dev.setRing_hdm (d : Dev) (x : Nat) (s : Ring) : (d.setRing x s).hdm = d.hdm := rfl
@[simp] theorem Dev.setRing_sf (d : Dev) (x : Nat) (s : Ring) : (d.setRing x s).sf = d.sf := rfl
@[simp] theorem Dev.setRing_biOut (d : Dev) (x : Nat) (s : Ring) : (d.setRing x s).biOut = d.biOut := rfl
@[simp] theorem Dev.setRing_recalls (d : Dev) (x : Nat) (s : Ring) : (d.setRing x s).recalls = d.recalls := rfl
@[simp] theorem Dev.setRing_perstAt (d : Dev) (x : Nat) (s : Ring) : (d.setRing x s).perstAt = d.perstAt := rfl
@[simp] theorem Dev.setRing_power (d : Dev) (x : Nat) (s : Ring) : (d.setRing x s).power = d.power := rfl
@[simp] theorem Dev.setRing_auxAt (d : Dev) (x : Nat) (s : Ring) : (d.setRing x s).auxAt = d.auxAt := rfl
@[simp] theorem Dev.setRing_pwr (d : Dev) (x : Nat) (s : Ring) : (d.setRing x s).pwr = d.pwr := rfl
@[simp] theorem Dev.setRing_domAt (d : Dev) (x : Nat) (s : Ring) : (d.setRing x s).domAt = d.domAt := rfl
@[simp] theorem Dev.setRing_domAsked (d : Dev) (x : Nat) (s : Ring) : (d.setRing x s).domAsked = d.domAsked := rfl
@[simp] theorem Dev.setRing_points (d : Dev) (x : Nat) (s : Ring) : (d.setRing x s).points = d.points := rfl
@[simp] theorem Dev.setRing_rails (d : Dev) (x : Nat) (s : Ring) : (d.setRing x s).rails = d.rails := rfl
@[simp] theorem Dev.setRing_therm (d : Dev) (x : Nat) (s : Ring) : (d.setRing x s).therm = d.therm := rfl
@[simp] theorem Dev.setRing_pace (d : Dev) (x : Nat) (s : Ring) : (d.setRing x s).pace = d.pace := rfl
@[simp] theorem Dev.setRing_modEn (d : Dev) (x : Nat) (s : Ring) : (d.setRing x s).modEn = d.modEn := rfl
@[simp] theorem Dev.setRing_modEnAt (d : Dev) (x : Nat) (s : Ring) : (d.setRing x s).modEnAt = d.modEnAt := rfl
@[simp] theorem Dev.setRing_modFail (d : Dev) (x : Nat) (s : Ring) : (d.setRing x s).modFail = d.modFail := rfl
@[simp] theorem Dev.setRing_svc (d : Dev) (x : Nat) (s : Ring) : (d.setRing x s).svc = d.svc := rfl
@[simp] theorem Dev.setRing_stamp (d : Dev) (x : Nat) (s : Ring) : (d.setRing x s).stamp = d.stamp := rfl
@[simp] theorem Dev.setRing_relays (d : Dev) (x : Nat) (s : Ring) : (d.setRing x s).relays = d.relays := rfl
@[simp] theorem Dev.setRing_chunks (d : Dev) (x : Nat) (s : Ring) : (d.setRing x s).chunks = d.chunks := rfl
@[simp] theorem Dev.setRing_relayLast (d : Dev) (x : Nat) (s : Ring) : (d.setRing x s).relayLast = d.relayLast := rfl
@[simp] theorem Dev.setRing_chkSeen (d : Dev) (x : Nat) (s : Ring) : (d.setRing x s).chkSeen = d.chkSeen := rfl
@[simp] theorem Dev.setRing_chkWhen (d : Dev) (x : Nat) (s : Ring) : (d.setRing x s).chkWhen = d.chkWhen := rfl
@[simp] theorem Dev.setRing_chkWas (d : Dev) (x : Nat) (s : Ring) : (d.setRing x s).chkWas = d.chkWas := rfl
@[simp] theorem Dev.setRing_evLogs (d : Dev) (x : Nat) (s : Ring) : (d.setRing x s).evLogs = d.evLogs := rfl
@[simp] theorem Dev.setRing_evOver (d : Dev) (x : Nat) (s : Ring) : (d.setRing x s).evOver = d.evOver := rfl
@[simp] theorem Dev.setRing_evHandle (d : Dev) (x : Nat) (s : Ring) : (d.setRing x s).evHandle = d.evHandle := rfl
@[simp] theorem Dev.setRing_evPolicy (d : Dev) (x : Nat) (s : Ring) : (d.setRing x s).evPolicy = d.evPolicy := rfl
@[simp] theorem Dev.setRing_evPending (d : Dev) (x : Nat) (s : Ring) : (d.setRing x s).evPending = d.evPending := rfl
@[simp] theorem Dev.setRing_lifeSeq (d : Dev) (x : Nat) (s : Ring) : (d.setRing x s).lifeSeq = d.lifeSeq := rfl
@[simp] theorem Dev.setRing_lifePend (d : Dev) (x : Nat) (s : Ring) : (d.setRing x s).lifePend = d.lifePend := rfl
@[simp] theorem Dev.setRing_repair (d : Dev) (x : Nat) (s : Ring) : (d.setRing x s).repair = d.repair := rfl
@[simp] theorem Dev.setRing_caGrp (d : Dev) (x : Nat) (s : Ring) : (d.setRing x s).caGrp = d.caGrp := rfl
@[simp] theorem Dev.setRing_laneOff (d : Dev) (x : Nat) (s : Ring) : (d.setRing x s).laneOff = d.laneOff := rfl
@[simp] theorem Dev.setRing_laneErr (d : Dev) (x : Nat) (s : Ring) : (d.setRing x s).laneErr = d.laneErr := rfl
@[simp] theorem Dev.setRing_d2d (d : Dev) (x : Nat) (s : Ring) : (d.setRing x s).d2d = d.d2d := rfl
@[simp] theorem Dev.setRing_noc (d : Dev) (x : Nat) (s : Ring) : (d.setRing x s).noc = d.noc := rfl
@[simp] theorem Dev.setRing_laps (d : Dev) (x : Nat) (s : Ring) : (d.setRing x s).laps = d.laps := rfl
@[simp] theorem Dev.setRing_lapInlet (d : Dev) (x : Nat) (s : Ring) : (d.setRing x s).lapInlet = d.lapInlet := rfl
@[simp] theorem Dev.setRing_pmcAt (d : Dev) (x : Nat) (s : Ring) : (d.setRing x s).pmcAt = d.pmcAt := rfl
@[simp] theorem Dev.setRing_lifeAt (d : Dev) (x : Nat) (s : Ring) : (d.setRing x s).lifeAt = d.lifeAt := rfl
@[simp] theorem Dev.setRing_imgPend (d : Dev) (x : Nat) (s : Ring) : (d.setRing x s).imgPend = d.imgPend := rfl
@[simp] theorem Dev.setRing_worn (d : Dev) (x : Nat) (s : Ring) : (d.setRing x s).worn = d.worn := rfl
@[simp] theorem Dev.setRing_pldm (d : Dev) (x : Nat) (s : Ring) : (d.setRing x s).pldm = d.pldm := rfl
@[simp] theorem Dev.setRing_pmb (d : Dev) (x : Nat) (s : Ring) : (d.setRing x s).pmb = d.pmb := rfl
@[simp] theorem Dev.setRing_pmbStatus (d : Dev) (x : Nat) (s : Ring) : (d.setRing x s).pmbStatus = d.pmbStatus := rfl
@[simp] theorem Dev.setRing_calls (d : Dev) (x : Nat) (s : Ring) : (d.setRing x s).calls = d.calls := rfl
@[simp] theorem Dev.setRing_dead (d : Dev) (x : Nat) (s : Ring) : (d.setRing x s).dead = d.dead := rfl
@[simp] theorem Dev.setRing_eid (d : Dev) (x : Nat) (s : Ring) : (d.setRing x s).eid = d.eid := rfl
@[simp] theorem Dev.setRing_step (d : Dev) (x : Nat) (s : Ring) : (d.setRing x s).step = d.step := rfl
@[simp] theorem Dev.setRing_perstLow (d : Dev) (x : Nat) (s : Ring) : (d.setRing x s).perstLow = d.perstLow := rfl
@[simp] theorem Dev.setRing_tripRec (d : Dev) (x : Nat) (s : Ring) : (d.setRing x s).tripRec = d.tripRec := rfl
@[simp] theorem Dev.setRing_strapped (d : Dev) (x : Nat) (s : Ring) : (d.setRing x s).strapped = d.strapped := rfl
@[simp] theorem Dev.setRing_jtagIr (d : Dev) (x : Nat) (s : Ring) : (d.setRing x s).jtagIr = d.jtagIr := rfl
@[simp] theorem Dev.setRing_jtagBypass (d : Dev) (x : Nat) (s : Ring) : (d.setRing x s).jtagBypass = d.jtagBypass := rfl
@[simp] theorem Dev.setRing_boundary (d : Dev) (x : Nat) (s : Ring) : (d.setRing x s).boundary = d.boundary := rfl
@[simp] theorem Dev.setRing_mgmt (d : Dev) (x : Nat) (s : Ring) : (d.setRing x s).mgmt = d.mgmt := rfl
@[simp] theorem Dev.setRing_meas (d : Dev) (x : Nat) (s : Ring) : (d.setRing x s).meas = d.meas := rfl
@[simp] theorem Dev.setRing_spdm (d : Dev) (x : Nat) (s : Ring) : (d.setRing x s).spdm = d.spdm := rfl
@[simp] theorem Dev.setRing_sessions (d : Dev) (x : Nat) (s : Ring) : (d.setRing x s).sessions = d.sessions := rfl
@[simp] theorem Dev.setRing_ide (d : Dev) (x : Nat) (s : Ring) : (d.setRing x s).ide = d.ide := rfl
@[simp] theorem Dev.setRing_draws (d : Dev) (x : Nat) (s : Ring) : (d.setRing x s).draws = d.draws := rfl
@[simp] theorem Dev.setRing_regHeld (d : Dev) (x : Nat) (s : Ring) : (d.setRing x s).regHeld = d.regHeld := rfl
@[simp] theorem Dev.setRing_fatal (d : Dev) (x : Nat) (s : Ring) : (d.setRing x s).fatal = d.fatal := rfl
@[simp] theorem Dev.setRing_cyc (d : Dev) (x : Nat) (s : Ring) : (d.setRing x s).cyc = d.cyc := rfl
@[simp] theorem Dev.setRing_inq (d : Dev) (x : Nat) (s : Ring) : (d.setRing x s).inq = d.inq := rfl
@[simp] theorem Dev.setRing_cfg (d : Dev) (x : Nat) (s : Ring) : (d.setRing x s).cfg = d.cfg := rfl
@[simp] theorem Dev.setRing_alerted (d : Dev) (x : Nat) (s : Ring) : (d.setRing x s).alerted = d.alerted := rfl
@[simp] theorem Dev.setRing_fuse (d : Dev) (x : Nat) (s : Ring) : (d.setRing x s).fuse = d.fuse := rfl
@[simp] theorem Dev.setRing_word (d : Dev) (x : Nat) (s : Ring) (f : Fld) (u i : Nat) : (d.setRing x s).word f u i = d.word f u i := rfl
@[simp] theorem Dev.setRing_fld (d : Dev) (x : Nat) (s : Ring) (f : Fld) (u i : Nat) : (d.setRing x s).fld f u i = d.fld f u i := rfl
@[simp] theorem Dev.setRing_bit (d : Dev) (x : Nat) (s : Ring) (f : Fld) (u i : Nat) : (d.setRing x s).bit f u i = d.bit f u i := rfl
@[simp] theorem Dev.setRing_slice (d : Dev) (x : Nat) (s : Ring) (n : Nat) : (d.setRing x s).slice n = d.slice n := rfl
@[simp] theorem Dev.setRing_region (d : Dev) (x : Nat) (s : Ring) (n : Nat) : (d.setRing x s).region n = d.region n := rfl
@[simp] theorem Dev.setRing_core (d : Dev) (x : Nat) (s : Ring) (n : Nat) : (d.setRing x s).core n = d.core n := rfl
@[simp] theorem Dev.setRing_arr (d : Dev) (x : Nat) (s : Ring) (n : Nat) : (d.setRing x s).arr n = d.arr n := rfl
@[simp] theorem Dev.setRing_dma (d : Dev) (x : Nat) (s : Ring) (n : Nat) : (d.setRing x s).dma n = d.dma n := rfl
@[simp] theorem Dev.setRing_arb (d : Dev) (x : Nat) (s : Ring) (k : Nat) : (d.setRing x s).arb k = d.arb k := rfl
@[simp] theorem Dev.setRing_clk (d : Dev) (x : Nat) (s : Ring) (k : Nat) : (d.setRing x s).clk k = d.clk k := rfl
@[simp] theorem Dev.setRing_clkSum (d : Dev) (x : Nat) (s : Ring) (k : Nat) : (d.setRing x s).clkSum k = d.clkSum k := rfl
@[simp] theorem Dev.setRing_clkLive (d : Dev) (x : Nat) (s : Ring) (k : Nat) : (d.setRing x s).clkLive k = d.clkLive k := rfl
@[simp] theorem Dev.setRing_byte (d : Dev) (x : Nat) (s : Ring) (k : Nat) : (d.setRing x s).byte k = d.byte k := rfl
@[simp] theorem Dev.setRing_readCw (d : Dev) (x : Nat) (s : Ring) (k : Nat) (l : List Nat) : (d.setRing x s).readCw k l = d.readCw k l := rfl
@[simp] theorem Dev.setRing_us (d : Dev) (x : Nat) (s : Ring)  : (d.setRing x s).us  = d.us  := rfl
@[simp] theorem Dev.setRing_held (d : Dev) (x : Nat) (s : Ring)  : (d.setRing x s).held  = d.held  := rfl
@[simp] theorem Dev.setRing_done (d : Dev) (x : Nat) (s : Ring)  : (d.setRing x s).done  = d.done  := rfl
@[simp] theorem Dev.setRing_domOn (d : Dev) (x : Nat) (s : Ring) (k : Nat) : (d.setRing x s).domOn k = d.domOn k := rfl
@[simp] theorem Dev.setRing_fenceState (d : Dev) (x : Nat) (s : Ring) (k : Nat) : (d.setRing x s).fenceState k = d.fenceState k := rfl
@[simp] theorem Dev.setRing_inService (d : Dev) (x : Nat) (s : Ring) (k : Nat) : (d.setRing x s).inService k = d.inService k := rfl
@[simp] theorem Dev.setRing_bandOf (d : Dev) (x : Nat) (s : Ring) (k : Nat) : (d.setRing x s).bandOf k = d.bandOf k := rfl

/-! emit. -/
@[simp] theorem Dev.emit_ns (d : Dev) (o : Output) : (d.emit o).ns = d.ns := rfl
@[simp] theorem Dev.emit_fresh (d : Dev) (o : Output) : (d.emit o).fresh = d.fresh := rfl
@[simp] theorem Dev.emit_regs (d : Dev) (o : Output) : (d.emit o).regs = d.regs := rfl
@[simp] theorem Dev.emit_arbs (d : Dev) (o : Output) : (d.emit o).arbs = d.arbs := rfl
@[simp] theorem Dev.emit_mem (d : Dev) (o : Output) : (d.emit o).mem = d.mem := rfl
@[simp] theorem Dev.emit_chk (d : Dev) (o : Output) : (d.emit o).chk = d.chk := rfl
@[simp] theorem Dev.emit_slices (d : Dev) (o : Output) : (d.emit o).slices = d.slices := rfl
@[simp] theorem Dev.emit_regions (d : Dev) (o : Output) : (d.emit o).regions = d.regions := rfl
@[simp] theorem Dev.emit_gddr (d : Dev) (o : Output) : (d.emit o).gddr = d.gddr := rfl
@[simp] theorem Dev.emit_cores (d : Dev) (o : Output) : (d.emit o).cores = d.cores := rfl
@[simp] theorem Dev.emit_cycBase (d : Dev) (o : Output) : (d.emit o).cycBase = d.cycBase := rfl
@[simp] theorem Dev.emit_rst (d : Dev) (o : Output) : (d.emit o).rst = d.rst := rfl
@[simp] theorem Dev.emit_clks (d : Dev) (o : Output) : (d.emit o).clks = d.clks := rfl
@[simp] theorem Dev.emit_rings (d : Dev) (o : Output) : (d.emit o).rings = d.rings := rfl
@[simp] theorem Dev.emit_descs (d : Dev) (o : Output) : (d.emit o).descs = d.descs := rfl
@[simp] theorem Dev.emit_descSeq (d : Dev) (o : Output) : (d.emit o).descSeq = d.descSeq := rfl
@[simp] theorem Dev.emit_watch (d : Dev) (o : Output) : (d.emit o).watch = d.watch := rfl
@[simp] theorem Dev.emit_btnVal (d : Dev) (o : Output) : (d.emit o).btnVal = d.btnVal := rfl
@[simp] theorem Dev.emit_ctxs (d : Dev) (o : Output) : (d.emit o).ctxs = d.ctxs := rfl
@[simp] theorem Dev.emit_lab (d : Dev) (o : Output) : (d.emit o).lab = d.lab := rfl
@[simp] theorem Dev.emit_labStamp (d : Dev) (o : Output) : (d.emit o).labStamp = d.labStamp := rfl
@[simp] theorem Dev.emit_attn (d : Dev) (o : Output) : (d.emit o).attn = d.attn := rfl
@[simp] theorem Dev.emit_btnBad (d : Dev) (o : Output) : (d.emit o).btnBad = d.btnBad := rfl
@[simp] theorem Dev.emit_btnQ (d : Dev) (o : Output) : (d.emit o).btnQ = d.btnQ := rfl
@[simp] theorem Dev.emit_btnW (d : Dev) (o : Output) : (d.emit o).btnW = d.btnW := rfl
@[simp] theorem Dev.emit_uio (d : Dev) (o : Output) : (d.emit o).uio = d.uio := rfl
@[simp] theorem Dev.emit_uioTag (d : Dev) (o : Output) : (d.emit o).uioTag = d.uioTag := rfl
@[simp] theorem Dev.emit_waits (d : Dev) (o : Output) : (d.emit o).waits = d.waits := rfl
@[simp] theorem Dev.emit_port (d : Dev) (o : Output) : (d.emit o).port = d.port := rfl
@[simp] theorem Dev.emit_hdm (d : Dev) (o : Output) : (d.emit o).hdm = d.hdm := rfl
@[simp] theorem Dev.emit_sf (d : Dev) (o : Output) : (d.emit o).sf = d.sf := rfl
@[simp] theorem Dev.emit_biOut (d : Dev) (o : Output) : (d.emit o).biOut = d.biOut := rfl
@[simp] theorem Dev.emit_recalls (d : Dev) (o : Output) : (d.emit o).recalls = d.recalls := rfl
@[simp] theorem Dev.emit_perstAt (d : Dev) (o : Output) : (d.emit o).perstAt = d.perstAt := rfl
@[simp] theorem Dev.emit_power (d : Dev) (o : Output) : (d.emit o).power = d.power := rfl
@[simp] theorem Dev.emit_auxAt (d : Dev) (o : Output) : (d.emit o).auxAt = d.auxAt := rfl
@[simp] theorem Dev.emit_pwr (d : Dev) (o : Output) : (d.emit o).pwr = d.pwr := rfl
@[simp] theorem Dev.emit_domAt (d : Dev) (o : Output) : (d.emit o).domAt = d.domAt := rfl
@[simp] theorem Dev.emit_domAsked (d : Dev) (o : Output) : (d.emit o).domAsked = d.domAsked := rfl
@[simp] theorem Dev.emit_points (d : Dev) (o : Output) : (d.emit o).points = d.points := rfl
@[simp] theorem Dev.emit_rails (d : Dev) (o : Output) : (d.emit o).rails = d.rails := rfl
@[simp] theorem Dev.emit_therm (d : Dev) (o : Output) : (d.emit o).therm = d.therm := rfl
@[simp] theorem Dev.emit_pace (d : Dev) (o : Output) : (d.emit o).pace = d.pace := rfl
@[simp] theorem Dev.emit_modEn (d : Dev) (o : Output) : (d.emit o).modEn = d.modEn := rfl
@[simp] theorem Dev.emit_modEnAt (d : Dev) (o : Output) : (d.emit o).modEnAt = d.modEnAt := rfl
@[simp] theorem Dev.emit_modFail (d : Dev) (o : Output) : (d.emit o).modFail = d.modFail := rfl
@[simp] theorem Dev.emit_svc (d : Dev) (o : Output) : (d.emit o).svc = d.svc := rfl
@[simp] theorem Dev.emit_stamp (d : Dev) (o : Output) : (d.emit o).stamp = d.stamp := rfl
@[simp] theorem Dev.emit_relays (d : Dev) (o : Output) : (d.emit o).relays = d.relays := rfl
@[simp] theorem Dev.emit_chunks (d : Dev) (o : Output) : (d.emit o).chunks = d.chunks := rfl
@[simp] theorem Dev.emit_relayLast (d : Dev) (o : Output) : (d.emit o).relayLast = d.relayLast := rfl
@[simp] theorem Dev.emit_chkSeen (d : Dev) (o : Output) : (d.emit o).chkSeen = d.chkSeen := rfl
@[simp] theorem Dev.emit_chkWhen (d : Dev) (o : Output) : (d.emit o).chkWhen = d.chkWhen := rfl
@[simp] theorem Dev.emit_chkWas (d : Dev) (o : Output) : (d.emit o).chkWas = d.chkWas := rfl
@[simp] theorem Dev.emit_evLogs (d : Dev) (o : Output) : (d.emit o).evLogs = d.evLogs := rfl
@[simp] theorem Dev.emit_evOver (d : Dev) (o : Output) : (d.emit o).evOver = d.evOver := rfl
@[simp] theorem Dev.emit_evHandle (d : Dev) (o : Output) : (d.emit o).evHandle = d.evHandle := rfl
@[simp] theorem Dev.emit_evPolicy (d : Dev) (o : Output) : (d.emit o).evPolicy = d.evPolicy := rfl
@[simp] theorem Dev.emit_evPending (d : Dev) (o : Output) : (d.emit o).evPending = d.evPending := rfl
@[simp] theorem Dev.emit_lifeSeq (d : Dev) (o : Output) : (d.emit o).lifeSeq = d.lifeSeq := rfl
@[simp] theorem Dev.emit_lifePend (d : Dev) (o : Output) : (d.emit o).lifePend = d.lifePend := rfl
@[simp] theorem Dev.emit_repair (d : Dev) (o : Output) : (d.emit o).repair = d.repair := rfl
@[simp] theorem Dev.emit_caGrp (d : Dev) (o : Output) : (d.emit o).caGrp = d.caGrp := rfl
@[simp] theorem Dev.emit_laneOff (d : Dev) (o : Output) : (d.emit o).laneOff = d.laneOff := rfl
@[simp] theorem Dev.emit_laneErr (d : Dev) (o : Output) : (d.emit o).laneErr = d.laneErr := rfl
@[simp] theorem Dev.emit_d2d (d : Dev) (o : Output) : (d.emit o).d2d = d.d2d := rfl
@[simp] theorem Dev.emit_noc (d : Dev) (o : Output) : (d.emit o).noc = d.noc := rfl
@[simp] theorem Dev.emit_laps (d : Dev) (o : Output) : (d.emit o).laps = d.laps := rfl
@[simp] theorem Dev.emit_lapInlet (d : Dev) (o : Output) : (d.emit o).lapInlet = d.lapInlet := rfl
@[simp] theorem Dev.emit_pmcAt (d : Dev) (o : Output) : (d.emit o).pmcAt = d.pmcAt := rfl
@[simp] theorem Dev.emit_lifeAt (d : Dev) (o : Output) : (d.emit o).lifeAt = d.lifeAt := rfl
@[simp] theorem Dev.emit_imgPend (d : Dev) (o : Output) : (d.emit o).imgPend = d.imgPend := rfl
@[simp] theorem Dev.emit_worn (d : Dev) (o : Output) : (d.emit o).worn = d.worn := rfl
@[simp] theorem Dev.emit_pldm (d : Dev) (o : Output) : (d.emit o).pldm = d.pldm := rfl
@[simp] theorem Dev.emit_pmb (d : Dev) (o : Output) : (d.emit o).pmb = d.pmb := rfl
@[simp] theorem Dev.emit_pmbStatus (d : Dev) (o : Output) : (d.emit o).pmbStatus = d.pmbStatus := rfl
@[simp] theorem Dev.emit_calls (d : Dev) (o : Output) : (d.emit o).calls = d.calls := rfl
@[simp] theorem Dev.emit_dead (d : Dev) (o : Output) : (d.emit o).dead = d.dead := rfl
@[simp] theorem Dev.emit_eid (d : Dev) (o : Output) : (d.emit o).eid = d.eid := rfl
@[simp] theorem Dev.emit_step (d : Dev) (o : Output) : (d.emit o).step = d.step := rfl
@[simp] theorem Dev.emit_perstLow (d : Dev) (o : Output) : (d.emit o).perstLow = d.perstLow := rfl
@[simp] theorem Dev.emit_tripRec (d : Dev) (o : Output) : (d.emit o).tripRec = d.tripRec := rfl
@[simp] theorem Dev.emit_strapped (d : Dev) (o : Output) : (d.emit o).strapped = d.strapped := rfl
@[simp] theorem Dev.emit_jtagIr (d : Dev) (o : Output) : (d.emit o).jtagIr = d.jtagIr := rfl
@[simp] theorem Dev.emit_jtagBypass (d : Dev) (o : Output) : (d.emit o).jtagBypass = d.jtagBypass := rfl
@[simp] theorem Dev.emit_boundary (d : Dev) (o : Output) : (d.emit o).boundary = d.boundary := rfl
@[simp] theorem Dev.emit_mgmt (d : Dev) (o : Output) : (d.emit o).mgmt = d.mgmt := rfl
@[simp] theorem Dev.emit_meas (d : Dev) (o : Output) : (d.emit o).meas = d.meas := rfl
@[simp] theorem Dev.emit_spdm (d : Dev) (o : Output) : (d.emit o).spdm = d.spdm := rfl
@[simp] theorem Dev.emit_sessions (d : Dev) (o : Output) : (d.emit o).sessions = d.sessions := rfl
@[simp] theorem Dev.emit_ide (d : Dev) (o : Output) : (d.emit o).ide = d.ide := rfl
@[simp] theorem Dev.emit_draws (d : Dev) (o : Output) : (d.emit o).draws = d.draws := rfl
@[simp] theorem Dev.emit_regHeld (d : Dev) (o : Output) : (d.emit o).regHeld = d.regHeld := rfl
@[simp] theorem Dev.emit_fatal (d : Dev) (o : Output) : (d.emit o).fatal = d.fatal := rfl
@[simp] theorem Dev.emit_cyc (d : Dev) (o : Output) : (d.emit o).cyc = d.cyc := rfl
@[simp] theorem Dev.emit_inq (d : Dev) (o : Output) : (d.emit o).inq = d.inq := rfl
@[simp] theorem Dev.emit_cfg (d : Dev) (o : Output) : (d.emit o).cfg = d.cfg := rfl
@[simp] theorem Dev.emit_alerted (d : Dev) (o : Output) : (d.emit o).alerted = d.alerted := rfl
@[simp] theorem Dev.emit_fuse (d : Dev) (o : Output) : (d.emit o).fuse = d.fuse := rfl
@[simp] theorem Dev.emit_word (d : Dev) (o : Output) (f : Fld) (u i : Nat) : (d.emit o).word f u i = d.word f u i := rfl
@[simp] theorem Dev.emit_fld (d : Dev) (o : Output) (f : Fld) (u i : Nat) : (d.emit o).fld f u i = d.fld f u i := rfl
@[simp] theorem Dev.emit_bit (d : Dev) (o : Output) (f : Fld) (u i : Nat) : (d.emit o).bit f u i = d.bit f u i := rfl
@[simp] theorem Dev.emit_slice (d : Dev) (o : Output) (n : Nat) : (d.emit o).slice n = d.slice n := rfl
@[simp] theorem Dev.emit_region (d : Dev) (o : Output) (n : Nat) : (d.emit o).region n = d.region n := rfl
@[simp] theorem Dev.emit_core (d : Dev) (o : Output) (n : Nat) : (d.emit o).core n = d.core n := rfl
@[simp] theorem Dev.emit_arr (d : Dev) (o : Output) (n : Nat) : (d.emit o).arr n = d.arr n := rfl
@[simp] theorem Dev.emit_dma (d : Dev) (o : Output) (n : Nat) : (d.emit o).dma n = d.dma n := rfl
@[simp] theorem Dev.emit_ring (d : Dev) (o : Output) (n : Nat) : (d.emit o).ring n = d.ring n := rfl
@[simp] theorem Dev.emit_arb (d : Dev) (o : Output) (k : Nat) : (d.emit o).arb k = d.arb k := rfl
@[simp] theorem Dev.emit_clk (d : Dev) (o : Output) (k : Nat) : (d.emit o).clk k = d.clk k := rfl
@[simp] theorem Dev.emit_clkSum (d : Dev) (o : Output) (k : Nat) : (d.emit o).clkSum k = d.clkSum k := rfl
@[simp] theorem Dev.emit_clkLive (d : Dev) (o : Output) (k : Nat) : (d.emit o).clkLive k = d.clkLive k := rfl
@[simp] theorem Dev.emit_byte (d : Dev) (o : Output) (k : Nat) : (d.emit o).byte k = d.byte k := rfl
@[simp] theorem Dev.emit_readCw (d : Dev) (o : Output) (k : Nat) (l : List Nat) : (d.emit o).readCw k l = d.readCw k l := rfl
@[simp] theorem Dev.emit_us (d : Dev) (o : Output)  : (d.emit o).us  = d.us  := rfl
@[simp] theorem Dev.emit_held (d : Dev) (o : Output)  : (d.emit o).held  = d.held  := rfl
@[simp] theorem Dev.emit_done (d : Dev) (o : Output)  : (d.emit o).done  = d.done  := rfl
@[simp] theorem Dev.emit_domOn (d : Dev) (o : Output) (k : Nat) : (d.emit o).domOn k = d.domOn k := rfl
@[simp] theorem Dev.emit_fenceState (d : Dev) (o : Output) (k : Nat) : (d.emit o).fenceState k = d.fenceState k := rfl
@[simp] theorem Dev.emit_inService (d : Dev) (o : Output) (k : Nat) : (d.emit o).inService k = d.inService k := rfl
@[simp] theorem Dev.emit_bandOf (d : Dev) (o : Output) (k : Nat) : (d.emit o).bandOf k = d.bandOf k := rfl

/-! free. -/
@[simp] theorem Dev.free_ns (d : Dev) : d.free.2.ns = d.ns := rfl
@[simp] theorem Dev.free_out (d : Dev) : d.free.2.out = d.out := rfl
@[simp] theorem Dev.free_regs (d : Dev) : d.free.2.regs = d.regs := rfl
@[simp] theorem Dev.free_arbs (d : Dev) : d.free.2.arbs = d.arbs := rfl
@[simp] theorem Dev.free_mem (d : Dev) : d.free.2.mem = d.mem := rfl
@[simp] theorem Dev.free_chk (d : Dev) : d.free.2.chk = d.chk := rfl
@[simp] theorem Dev.free_slices (d : Dev) : d.free.2.slices = d.slices := rfl
@[simp] theorem Dev.free_regions (d : Dev) : d.free.2.regions = d.regions := rfl
@[simp] theorem Dev.free_gddr (d : Dev) : d.free.2.gddr = d.gddr := rfl
@[simp] theorem Dev.free_cores (d : Dev) : d.free.2.cores = d.cores := rfl
@[simp] theorem Dev.free_cycBase (d : Dev) : d.free.2.cycBase = d.cycBase := rfl
@[simp] theorem Dev.free_rst (d : Dev) : d.free.2.rst = d.rst := rfl
@[simp] theorem Dev.free_clks (d : Dev) : d.free.2.clks = d.clks := rfl
@[simp] theorem Dev.free_rings (d : Dev) : d.free.2.rings = d.rings := rfl
@[simp] theorem Dev.free_descs (d : Dev) : d.free.2.descs = d.descs := rfl
@[simp] theorem Dev.free_descSeq (d : Dev) : d.free.2.descSeq = d.descSeq := rfl
@[simp] theorem Dev.free_watch (d : Dev) : d.free.2.watch = d.watch := rfl
@[simp] theorem Dev.free_btnVal (d : Dev) : d.free.2.btnVal = d.btnVal := rfl
@[simp] theorem Dev.free_ctxs (d : Dev) : d.free.2.ctxs = d.ctxs := rfl
@[simp] theorem Dev.free_lab (d : Dev) : d.free.2.lab = d.lab := rfl
@[simp] theorem Dev.free_labStamp (d : Dev) : d.free.2.labStamp = d.labStamp := rfl
@[simp] theorem Dev.free_attn (d : Dev) : d.free.2.attn = d.attn := rfl
@[simp] theorem Dev.free_btnBad (d : Dev) : d.free.2.btnBad = d.btnBad := rfl
@[simp] theorem Dev.free_btnQ (d : Dev) : d.free.2.btnQ = d.btnQ := rfl
@[simp] theorem Dev.free_btnW (d : Dev) : d.free.2.btnW = d.btnW := rfl
@[simp] theorem Dev.free_uio (d : Dev) : d.free.2.uio = d.uio := rfl
@[simp] theorem Dev.free_uioTag (d : Dev) : d.free.2.uioTag = d.uioTag := rfl
@[simp] theorem Dev.free_waits (d : Dev) : d.free.2.waits = d.waits := rfl
@[simp] theorem Dev.free_port (d : Dev) : d.free.2.port = d.port := rfl
@[simp] theorem Dev.free_hdm (d : Dev) : d.free.2.hdm = d.hdm := rfl
@[simp] theorem Dev.free_sf (d : Dev) : d.free.2.sf = d.sf := rfl
@[simp] theorem Dev.free_biOut (d : Dev) : d.free.2.biOut = d.biOut := rfl
@[simp] theorem Dev.free_recalls (d : Dev) : d.free.2.recalls = d.recalls := rfl
@[simp] theorem Dev.free_perstAt (d : Dev) : d.free.2.perstAt = d.perstAt := rfl
@[simp] theorem Dev.free_power (d : Dev) : d.free.2.power = d.power := rfl
@[simp] theorem Dev.free_auxAt (d : Dev) : d.free.2.auxAt = d.auxAt := rfl
@[simp] theorem Dev.free_pwr (d : Dev) : d.free.2.pwr = d.pwr := rfl
@[simp] theorem Dev.free_domAt (d : Dev) : d.free.2.domAt = d.domAt := rfl
@[simp] theorem Dev.free_domAsked (d : Dev) : d.free.2.domAsked = d.domAsked := rfl
@[simp] theorem Dev.free_points (d : Dev) : d.free.2.points = d.points := rfl
@[simp] theorem Dev.free_rails (d : Dev) : d.free.2.rails = d.rails := rfl
@[simp] theorem Dev.free_therm (d : Dev) : d.free.2.therm = d.therm := rfl
@[simp] theorem Dev.free_pace (d : Dev) : d.free.2.pace = d.pace := rfl
@[simp] theorem Dev.free_modEn (d : Dev) : d.free.2.modEn = d.modEn := rfl
@[simp] theorem Dev.free_modEnAt (d : Dev) : d.free.2.modEnAt = d.modEnAt := rfl
@[simp] theorem Dev.free_modFail (d : Dev) : d.free.2.modFail = d.modFail := rfl
@[simp] theorem Dev.free_svc (d : Dev) : d.free.2.svc = d.svc := rfl
@[simp] theorem Dev.free_stamp (d : Dev) : d.free.2.stamp = d.stamp := rfl
@[simp] theorem Dev.free_relays (d : Dev) : d.free.2.relays = d.relays := rfl
@[simp] theorem Dev.free_chunks (d : Dev) : d.free.2.chunks = d.chunks := rfl
@[simp] theorem Dev.free_relayLast (d : Dev) : d.free.2.relayLast = d.relayLast := rfl
@[simp] theorem Dev.free_chkSeen (d : Dev) : d.free.2.chkSeen = d.chkSeen := rfl
@[simp] theorem Dev.free_chkWhen (d : Dev) : d.free.2.chkWhen = d.chkWhen := rfl
@[simp] theorem Dev.free_chkWas (d : Dev) : d.free.2.chkWas = d.chkWas := rfl
@[simp] theorem Dev.free_evLogs (d : Dev) : d.free.2.evLogs = d.evLogs := rfl
@[simp] theorem Dev.free_evOver (d : Dev) : d.free.2.evOver = d.evOver := rfl
@[simp] theorem Dev.free_evHandle (d : Dev) : d.free.2.evHandle = d.evHandle := rfl
@[simp] theorem Dev.free_evPolicy (d : Dev) : d.free.2.evPolicy = d.evPolicy := rfl
@[simp] theorem Dev.free_evPending (d : Dev) : d.free.2.evPending = d.evPending := rfl
@[simp] theorem Dev.free_lifeSeq (d : Dev) : d.free.2.lifeSeq = d.lifeSeq := rfl
@[simp] theorem Dev.free_lifePend (d : Dev) : d.free.2.lifePend = d.lifePend := rfl
@[simp] theorem Dev.free_repair (d : Dev) : d.free.2.repair = d.repair := rfl
@[simp] theorem Dev.free_caGrp (d : Dev) : d.free.2.caGrp = d.caGrp := rfl
@[simp] theorem Dev.free_laneOff (d : Dev) : d.free.2.laneOff = d.laneOff := rfl
@[simp] theorem Dev.free_laneErr (d : Dev) : d.free.2.laneErr = d.laneErr := rfl
@[simp] theorem Dev.free_d2d (d : Dev) : d.free.2.d2d = d.d2d := rfl
@[simp] theorem Dev.free_noc (d : Dev) : d.free.2.noc = d.noc := rfl
@[simp] theorem Dev.free_laps (d : Dev) : d.free.2.laps = d.laps := rfl
@[simp] theorem Dev.free_lapInlet (d : Dev) : d.free.2.lapInlet = d.lapInlet := rfl
@[simp] theorem Dev.free_pmcAt (d : Dev) : d.free.2.pmcAt = d.pmcAt := rfl
@[simp] theorem Dev.free_lifeAt (d : Dev) : d.free.2.lifeAt = d.lifeAt := rfl
@[simp] theorem Dev.free_imgPend (d : Dev) : d.free.2.imgPend = d.imgPend := rfl
@[simp] theorem Dev.free_worn (d : Dev) : d.free.2.worn = d.worn := rfl
@[simp] theorem Dev.free_pldm (d : Dev) : d.free.2.pldm = d.pldm := rfl
@[simp] theorem Dev.free_pmb (d : Dev) : d.free.2.pmb = d.pmb := rfl
@[simp] theorem Dev.free_pmbStatus (d : Dev) : d.free.2.pmbStatus = d.pmbStatus := rfl
@[simp] theorem Dev.free_calls (d : Dev) : d.free.2.calls = d.calls := rfl
@[simp] theorem Dev.free_dead (d : Dev) : d.free.2.dead = d.dead := rfl
@[simp] theorem Dev.free_eid (d : Dev) : d.free.2.eid = d.eid := rfl
@[simp] theorem Dev.free_step (d : Dev) : d.free.2.step = d.step := rfl
@[simp] theorem Dev.free_perstLow (d : Dev) : d.free.2.perstLow = d.perstLow := rfl
@[simp] theorem Dev.free_tripRec (d : Dev) : d.free.2.tripRec = d.tripRec := rfl
@[simp] theorem Dev.free_strapped (d : Dev) : d.free.2.strapped = d.strapped := rfl
@[simp] theorem Dev.free_jtagIr (d : Dev) : d.free.2.jtagIr = d.jtagIr := rfl
@[simp] theorem Dev.free_jtagBypass (d : Dev) : d.free.2.jtagBypass = d.jtagBypass := rfl
@[simp] theorem Dev.free_boundary (d : Dev) : d.free.2.boundary = d.boundary := rfl
@[simp] theorem Dev.free_mgmt (d : Dev) : d.free.2.mgmt = d.mgmt := rfl
@[simp] theorem Dev.free_meas (d : Dev) : d.free.2.meas = d.meas := rfl
@[simp] theorem Dev.free_spdm (d : Dev) : d.free.2.spdm = d.spdm := rfl
@[simp] theorem Dev.free_sessions (d : Dev) : d.free.2.sessions = d.sessions := rfl
@[simp] theorem Dev.free_ide (d : Dev) : d.free.2.ide = d.ide := rfl
@[simp] theorem Dev.free_draws (d : Dev) : d.free.2.draws = d.draws := rfl
@[simp] theorem Dev.free_regHeld (d : Dev) : d.free.2.regHeld = d.regHeld := rfl
@[simp] theorem Dev.free_fatal (d : Dev) : d.free.2.fatal = d.fatal := rfl
@[simp] theorem Dev.free_cyc (d : Dev) : d.free.2.cyc = d.cyc := rfl
@[simp] theorem Dev.free_inq (d : Dev) : d.free.2.inq = d.inq := rfl
@[simp] theorem Dev.free_cfg (d : Dev) : d.free.2.cfg = d.cfg := rfl
@[simp] theorem Dev.free_alerted (d : Dev) : d.free.2.alerted = d.alerted := rfl
@[simp] theorem Dev.free_fuse (d : Dev) : d.free.2.fuse = d.fuse := rfl
@[simp] theorem Dev.free_word (d : Dev) (f : Fld) (u i : Nat) : d.free.2.word f u i = d.word f u i := rfl
@[simp] theorem Dev.free_fld (d : Dev) (f : Fld) (u i : Nat) : d.free.2.fld f u i = d.fld f u i := rfl
@[simp] theorem Dev.free_bit (d : Dev) (f : Fld) (u i : Nat) : d.free.2.bit f u i = d.bit f u i := rfl
@[simp] theorem Dev.free_slice (d : Dev) (n : Nat) : d.free.2.slice n = d.slice n := rfl
@[simp] theorem Dev.free_region (d : Dev) (n : Nat) : d.free.2.region n = d.region n := rfl
@[simp] theorem Dev.free_core (d : Dev) (n : Nat) : d.free.2.core n = d.core n := rfl
@[simp] theorem Dev.free_arr (d : Dev) (n : Nat) : d.free.2.arr n = d.arr n := rfl
@[simp] theorem Dev.free_dma (d : Dev) (n : Nat) : d.free.2.dma n = d.dma n := rfl
@[simp] theorem Dev.free_ring (d : Dev) (n : Nat) : d.free.2.ring n = d.ring n := rfl
@[simp] theorem Dev.free_arb (d : Dev) (k : Nat) : d.free.2.arb k = d.arb k := rfl
@[simp] theorem Dev.free_clk (d : Dev) (k : Nat) : d.free.2.clk k = d.clk k := rfl
@[simp] theorem Dev.free_clkSum (d : Dev) (k : Nat) : d.free.2.clkSum k = d.clkSum k := rfl
@[simp] theorem Dev.free_clkLive (d : Dev) (k : Nat) : d.free.2.clkLive k = d.clkLive k := rfl
@[simp] theorem Dev.free_byte (d : Dev) (k : Nat) : d.free.2.byte k = d.byte k := rfl
@[simp] theorem Dev.free_readCw (d : Dev) (k : Nat) (l : List Nat) : d.free.2.readCw k l = d.readCw k l := rfl
@[simp] theorem Dev.free_us (d : Dev)  : d.free.2.us  = d.us  := rfl
@[simp] theorem Dev.free_held (d : Dev)  : d.free.2.held  = d.held  := rfl
@[simp] theorem Dev.free_done (d : Dev)  : d.free.2.done  = d.done  := rfl
@[simp] theorem Dev.free_domOn (d : Dev) (k : Nat) : d.free.2.domOn k = d.domOn k := rfl
@[simp] theorem Dev.free_fenceState (d : Dev) (k : Nat) : d.free.2.fenceState k = d.fenceState k := rfl
@[simp] theorem Dev.free_inService (d : Dev) (k : Nat) : d.free.2.inService k = d.inService k := rfl
@[simp] theorem Dev.free_bandOf (d : Dev) (k : Nat) : d.free.2.bandOf k = d.bandOf k := rfl

/-! keep and keepClock. -/
@[simp] theorem Dev.keep_ns (d e : Dev) : (d.keep e).ns = d.ns := rfl
@[simp] theorem Dev.keep_fresh (d e : Dev) : (d.keep e).fresh = e.fresh := rfl
@[simp] theorem Dev.keep_out (d e : Dev) : (d.keep e).out = e.out := rfl
@[simp] theorem Dev.keep_regs (d e : Dev) : (d.keep e).regs = e.regs := rfl
@[simp] theorem Dev.keep_arbs (d e : Dev) : (d.keep e).arbs = e.arbs := rfl
@[simp] theorem Dev.keep_mem (d e : Dev) : (d.keep e).mem = e.mem := rfl
@[simp] theorem Dev.keep_chk (d e : Dev) : (d.keep e).chk = e.chk := rfl
@[simp] theorem Dev.keep_slices (d e : Dev) : (d.keep e).slices = e.slices := rfl
@[simp] theorem Dev.keep_regions (d e : Dev) : (d.keep e).regions = e.regions := rfl
@[simp] theorem Dev.keep_gddr (d e : Dev) : (d.keep e).gddr = e.gddr := rfl
@[simp] theorem Dev.keep_cores (d e : Dev) : (d.keep e).cores = e.cores := rfl
@[simp] theorem Dev.keep_cycBase (d e : Dev) : (d.keep e).cycBase = e.cycBase := rfl
@[simp] theorem Dev.keep_rst (d e : Dev) : (d.keep e).rst = e.rst := rfl
@[simp] theorem Dev.keep_clks (d e : Dev) : (d.keep e).clks = e.clks := rfl
@[simp] theorem Dev.keep_rings (d e : Dev) : (d.keep e).rings = e.rings := rfl
@[simp] theorem Dev.keep_descs (d e : Dev) : (d.keep e).descs = e.descs := rfl
@[simp] theorem Dev.keep_descSeq (d e : Dev) : (d.keep e).descSeq = e.descSeq := rfl
@[simp] theorem Dev.keep_watch (d e : Dev) : (d.keep e).watch = e.watch := rfl
@[simp] theorem Dev.keep_btnVal (d e : Dev) : (d.keep e).btnVal = e.btnVal := rfl
@[simp] theorem Dev.keep_ctxs (d e : Dev) : (d.keep e).ctxs = e.ctxs := rfl
@[simp] theorem Dev.keep_lab (d e : Dev) : (d.keep e).lab = e.lab := rfl
@[simp] theorem Dev.keep_labStamp (d e : Dev) : (d.keep e).labStamp = e.labStamp := rfl
@[simp] theorem Dev.keep_attn (d e : Dev) : (d.keep e).attn = e.attn := rfl
@[simp] theorem Dev.keep_btnBad (d e : Dev) : (d.keep e).btnBad = e.btnBad := rfl
@[simp] theorem Dev.keep_btnQ (d e : Dev) : (d.keep e).btnQ = e.btnQ := rfl
@[simp] theorem Dev.keep_btnW (d e : Dev) : (d.keep e).btnW = e.btnW := rfl
@[simp] theorem Dev.keep_uio (d e : Dev) : (d.keep e).uio = e.uio := rfl
@[simp] theorem Dev.keep_uioTag (d e : Dev) : (d.keep e).uioTag = e.uioTag := rfl
@[simp] theorem Dev.keep_waits (d e : Dev) : (d.keep e).waits = d.waits := rfl
@[simp] theorem Dev.keep_port (d e : Dev) : (d.keep e).port = e.port := rfl
@[simp] theorem Dev.keep_hdm (d e : Dev) : (d.keep e).hdm = e.hdm := rfl
@[simp] theorem Dev.keep_sf (d e : Dev) : (d.keep e).sf = e.sf := rfl
@[simp] theorem Dev.keep_biOut (d e : Dev) : (d.keep e).biOut = e.biOut := rfl
@[simp] theorem Dev.keep_recalls (d e : Dev) : (d.keep e).recalls = e.recalls := rfl
@[simp] theorem Dev.keep_perstAt (d e : Dev) : (d.keep e).perstAt = e.perstAt := rfl
@[simp] theorem Dev.keep_power (d e : Dev) : (d.keep e).power = e.power := rfl
@[simp] theorem Dev.keep_auxAt (d e : Dev) : (d.keep e).auxAt = e.auxAt := rfl
@[simp] theorem Dev.keep_pwr (d e : Dev) : (d.keep e).pwr = e.pwr := rfl
@[simp] theorem Dev.keep_domAt (d e : Dev) : (d.keep e).domAt = e.domAt := rfl
@[simp] theorem Dev.keep_domAsked (d e : Dev) : (d.keep e).domAsked = e.domAsked := rfl
@[simp] theorem Dev.keep_points (d e : Dev) : (d.keep e).points = e.points := rfl
@[simp] theorem Dev.keep_rails (d e : Dev) : (d.keep e).rails = e.rails := rfl
@[simp] theorem Dev.keep_therm (d e : Dev) : (d.keep e).therm = e.therm := rfl
@[simp] theorem Dev.keep_pace (d e : Dev) : (d.keep e).pace = e.pace := rfl
@[simp] theorem Dev.keep_modEn (d e : Dev) : (d.keep e).modEn = e.modEn := rfl
@[simp] theorem Dev.keep_modEnAt (d e : Dev) : (d.keep e).modEnAt = e.modEnAt := rfl
@[simp] theorem Dev.keep_modFail (d e : Dev) : (d.keep e).modFail = e.modFail := rfl
@[simp] theorem Dev.keep_svc (d e : Dev) : (d.keep e).svc = e.svc := rfl
@[simp] theorem Dev.keep_stamp (d e : Dev) : (d.keep e).stamp = e.stamp := rfl
@[simp] theorem Dev.keep_relays (d e : Dev) : (d.keep e).relays = e.relays := rfl
@[simp] theorem Dev.keep_chunks (d e : Dev) : (d.keep e).chunks = e.chunks := rfl
@[simp] theorem Dev.keep_relayLast (d e : Dev) : (d.keep e).relayLast = e.relayLast := rfl
@[simp] theorem Dev.keep_chkSeen (d e : Dev) : (d.keep e).chkSeen = e.chkSeen := rfl
@[simp] theorem Dev.keep_chkWhen (d e : Dev) : (d.keep e).chkWhen = e.chkWhen := rfl
@[simp] theorem Dev.keep_chkWas (d e : Dev) : (d.keep e).chkWas = e.chkWas := rfl
@[simp] theorem Dev.keep_evLogs (d e : Dev) : (d.keep e).evLogs = e.evLogs := rfl
@[simp] theorem Dev.keep_evOver (d e : Dev) : (d.keep e).evOver = e.evOver := rfl
@[simp] theorem Dev.keep_evHandle (d e : Dev) : (d.keep e).evHandle = e.evHandle := rfl
@[simp] theorem Dev.keep_evPolicy (d e : Dev) : (d.keep e).evPolicy = e.evPolicy := rfl
@[simp] theorem Dev.keep_evPending (d e : Dev) : (d.keep e).evPending = e.evPending := rfl
@[simp] theorem Dev.keep_lifeSeq (d e : Dev) : (d.keep e).lifeSeq = e.lifeSeq := rfl
@[simp] theorem Dev.keep_lifePend (d e : Dev) : (d.keep e).lifePend = e.lifePend := rfl
@[simp] theorem Dev.keep_repair (d e : Dev) : (d.keep e).repair = e.repair := rfl
@[simp] theorem Dev.keep_caGrp (d e : Dev) : (d.keep e).caGrp = e.caGrp := rfl
@[simp] theorem Dev.keep_laneOff (d e : Dev) : (d.keep e).laneOff = e.laneOff := rfl
@[simp] theorem Dev.keep_laneErr (d e : Dev) : (d.keep e).laneErr = e.laneErr := rfl
@[simp] theorem Dev.keep_d2d (d e : Dev) : (d.keep e).d2d = e.d2d := rfl
@[simp] theorem Dev.keep_noc (d e : Dev) : (d.keep e).noc = e.noc := rfl
@[simp] theorem Dev.keep_laps (d e : Dev) : (d.keep e).laps = e.laps := rfl
@[simp] theorem Dev.keep_lapInlet (d e : Dev) : (d.keep e).lapInlet = e.lapInlet := rfl
@[simp] theorem Dev.keep_pmcAt (d e : Dev) : (d.keep e).pmcAt = e.pmcAt := rfl
@[simp] theorem Dev.keep_lifeAt (d e : Dev) : (d.keep e).lifeAt = e.lifeAt := rfl
@[simp] theorem Dev.keep_imgPend (d e : Dev) : (d.keep e).imgPend = e.imgPend := rfl
@[simp] theorem Dev.keep_worn (d e : Dev) : (d.keep e).worn = e.worn := rfl
@[simp] theorem Dev.keep_pldm (d e : Dev) : (d.keep e).pldm = e.pldm := rfl
@[simp] theorem Dev.keep_pmb (d e : Dev) : (d.keep e).pmb = e.pmb := rfl
@[simp] theorem Dev.keep_pmbStatus (d e : Dev) : (d.keep e).pmbStatus = e.pmbStatus := rfl
@[simp] theorem Dev.keep_calls (d e : Dev) : (d.keep e).calls = e.calls := rfl
@[simp] theorem Dev.keep_dead (d e : Dev) : (d.keep e).dead = e.dead := rfl
@[simp] theorem Dev.keep_eid (d e : Dev) : (d.keep e).eid = e.eid := rfl
@[simp] theorem Dev.keep_step (d e : Dev) : (d.keep e).step = e.step := rfl
@[simp] theorem Dev.keep_perstLow (d e : Dev) : (d.keep e).perstLow = e.perstLow := rfl
@[simp] theorem Dev.keep_tripRec (d e : Dev) : (d.keep e).tripRec = e.tripRec := rfl
@[simp] theorem Dev.keep_strapped (d e : Dev) : (d.keep e).strapped = e.strapped := rfl
@[simp] theorem Dev.keep_jtagIr (d e : Dev) : (d.keep e).jtagIr = e.jtagIr := rfl
@[simp] theorem Dev.keep_jtagBypass (d e : Dev) : (d.keep e).jtagBypass = e.jtagBypass := rfl
@[simp] theorem Dev.keep_boundary (d e : Dev) : (d.keep e).boundary = e.boundary := rfl
@[simp] theorem Dev.keep_mgmt (d e : Dev) : (d.keep e).mgmt = e.mgmt := rfl
@[simp] theorem Dev.keep_meas (d e : Dev) : (d.keep e).meas = e.meas := rfl
@[simp] theorem Dev.keep_spdm (d e : Dev) : (d.keep e).spdm = e.spdm := rfl
@[simp] theorem Dev.keep_sessions (d e : Dev) : (d.keep e).sessions = e.sessions := rfl
@[simp] theorem Dev.keep_ide (d e : Dev) : (d.keep e).ide = e.ide := rfl
@[simp] theorem Dev.keep_draws (d e : Dev) : (d.keep e).draws = e.draws := rfl
@[simp] theorem Dev.keep_regHeld (d e : Dev) : (d.keep e).regHeld = e.regHeld := rfl
@[simp] theorem Dev.keep_fatal (d e : Dev) : (d.keep e).fatal = e.fatal := rfl
@[simp] theorem Dev.keep_cyc (d e : Dev) : (d.keep e).cyc = e.cyc := rfl
@[simp] theorem Dev.keep_inq (d e : Dev) : (d.keep e).inq = e.inq := rfl
@[simp] theorem Dev.keep_cfg (d e : Dev) : (d.keep e).cfg = e.cfg := rfl
@[simp] theorem Dev.keep_alerted (d e : Dev) : (d.keep e).alerted = e.alerted := rfl
@[simp] theorem Dev.keep_fuse (d e : Dev) : (d.keep e).fuse = d.fuse := rfl
@[simp] theorem Dev.keep_word (d e : Dev) (f : Fld) (u i : Nat) : (d.keep e).word f u i = e.word f u i := rfl
@[simp] theorem Dev.keep_fld (d e : Dev) (f : Fld) (u i : Nat) : (d.keep e).fld f u i = e.fld f u i := rfl
@[simp] theorem Dev.keep_bit (d e : Dev) (f : Fld) (u i : Nat) : (d.keep e).bit f u i = e.bit f u i := rfl
@[simp] theorem Dev.keep_slice (d e : Dev) (n : Nat) : (d.keep e).slice n = e.slice n := rfl
@[simp] theorem Dev.keep_region (d e : Dev) (n : Nat) : (d.keep e).region n = e.region n := rfl
@[simp] theorem Dev.keep_core (d e : Dev) (n : Nat) : (d.keep e).core n = e.core n := rfl
@[simp] theorem Dev.keep_arr (d e : Dev) (n : Nat) : (d.keep e).arr n = e.arr n := rfl
@[simp] theorem Dev.keep_dma (d e : Dev) (n : Nat) : (d.keep e).dma n = e.dma n := rfl
@[simp] theorem Dev.keep_ring (d e : Dev) (n : Nat) : (d.keep e).ring n = e.ring n := rfl
@[simp] theorem Dev.keep_arb (d e : Dev) (k : Nat) : (d.keep e).arb k = e.arb k := rfl
@[simp] theorem Dev.keep_clk (d e : Dev) (k : Nat) : (d.keep e).clk k = e.clk k := rfl
@[simp] theorem Dev.keep_byte (d e : Dev) (k : Nat) : (d.keep e).byte k = e.byte k := rfl
@[simp] theorem Dev.keep_readCw (d e : Dev) (k : Nat) (l : List Nat) : (d.keep e).readCw k l = e.readCw k l := rfl
@[simp] theorem Dev.keep_held (d e : Dev)  : (d.keep e).held  = e.held  := rfl
@[simp] theorem Dev.keep_done (d e : Dev)  : (d.keep e).done  = e.done  := rfl
@[simp] theorem Dev.keep_domOn (d e : Dev) (k : Nat) : (d.keep e).domOn k = e.domOn k := rfl
@[simp] theorem Dev.keep_fenceState (d e : Dev) (k : Nat) : (d.keep e).fenceState k = e.fenceState k := rfl
@[simp] theorem Dev.keep_inService (d e : Dev) (k : Nat) : (d.keep e).inService k = e.inService k := rfl
@[simp] theorem Dev.keep_bandOf (d e : Dev) (k : Nat) : (d.keep e).bandOf k = e.bandOf k := rfl
@[simp] theorem Dev.keepClock_ns (d e : Dev) : (d.keepClock e).ns = d.ns := rfl
@[simp] theorem Dev.keepClock_fresh (d e : Dev) : (d.keepClock e).fresh = e.fresh := rfl
@[simp] theorem Dev.keepClock_out (d e : Dev) : (d.keepClock e).out = e.out := rfl
@[simp] theorem Dev.keepClock_regs (d e : Dev) : (d.keepClock e).regs = e.regs := rfl
@[simp] theorem Dev.keepClock_arbs (d e : Dev) : (d.keepClock e).arbs = e.arbs := rfl
@[simp] theorem Dev.keepClock_mem (d e : Dev) : (d.keepClock e).mem = e.mem := rfl
@[simp] theorem Dev.keepClock_chk (d e : Dev) : (d.keepClock e).chk = e.chk := rfl
@[simp] theorem Dev.keepClock_slices (d e : Dev) : (d.keepClock e).slices = e.slices := rfl
@[simp] theorem Dev.keepClock_regions (d e : Dev) : (d.keepClock e).regions = e.regions := rfl
@[simp] theorem Dev.keepClock_gddr (d e : Dev) : (d.keepClock e).gddr = e.gddr := rfl
@[simp] theorem Dev.keepClock_cores (d e : Dev) : (d.keepClock e).cores = e.cores := rfl
@[simp] theorem Dev.keepClock_cycBase (d e : Dev) : (d.keepClock e).cycBase = e.cycBase := rfl
@[simp] theorem Dev.keepClock_rst (d e : Dev) : (d.keepClock e).rst = e.rst := rfl
@[simp] theorem Dev.keepClock_clks (d e : Dev) : (d.keepClock e).clks = e.clks := rfl
@[simp] theorem Dev.keepClock_rings (d e : Dev) : (d.keepClock e).rings = e.rings := rfl
@[simp] theorem Dev.keepClock_descs (d e : Dev) : (d.keepClock e).descs = e.descs := rfl
@[simp] theorem Dev.keepClock_descSeq (d e : Dev) : (d.keepClock e).descSeq = e.descSeq := rfl
@[simp] theorem Dev.keepClock_watch (d e : Dev) : (d.keepClock e).watch = e.watch := rfl
@[simp] theorem Dev.keepClock_btnVal (d e : Dev) : (d.keepClock e).btnVal = e.btnVal := rfl
@[simp] theorem Dev.keepClock_ctxs (d e : Dev) : (d.keepClock e).ctxs = e.ctxs := rfl
@[simp] theorem Dev.keepClock_lab (d e : Dev) : (d.keepClock e).lab = e.lab := rfl
@[simp] theorem Dev.keepClock_labStamp (d e : Dev) : (d.keepClock e).labStamp = e.labStamp := rfl
@[simp] theorem Dev.keepClock_attn (d e : Dev) : (d.keepClock e).attn = e.attn := rfl
@[simp] theorem Dev.keepClock_btnBad (d e : Dev) : (d.keepClock e).btnBad = e.btnBad := rfl
@[simp] theorem Dev.keepClock_btnQ (d e : Dev) : (d.keepClock e).btnQ = e.btnQ := rfl
@[simp] theorem Dev.keepClock_btnW (d e : Dev) : (d.keepClock e).btnW = e.btnW := rfl
@[simp] theorem Dev.keepClock_uio (d e : Dev) : (d.keepClock e).uio = e.uio := rfl
@[simp] theorem Dev.keepClock_uioTag (d e : Dev) : (d.keepClock e).uioTag = e.uioTag := rfl
@[simp] theorem Dev.keepClock_waits (d e : Dev) : (d.keepClock e).waits = d.waits := rfl
@[simp] theorem Dev.keepClock_port (d e : Dev) : (d.keepClock e).port = e.port := rfl
@[simp] theorem Dev.keepClock_hdm (d e : Dev) : (d.keepClock e).hdm = e.hdm := rfl
@[simp] theorem Dev.keepClock_sf (d e : Dev) : (d.keepClock e).sf = e.sf := rfl
@[simp] theorem Dev.keepClock_biOut (d e : Dev) : (d.keepClock e).biOut = e.biOut := rfl
@[simp] theorem Dev.keepClock_recalls (d e : Dev) : (d.keepClock e).recalls = e.recalls := rfl
@[simp] theorem Dev.keepClock_perstAt (d e : Dev) : (d.keepClock e).perstAt = e.perstAt := rfl
@[simp] theorem Dev.keepClock_power (d e : Dev) : (d.keepClock e).power = e.power := rfl
@[simp] theorem Dev.keepClock_auxAt (d e : Dev) : (d.keepClock e).auxAt = e.auxAt := rfl
@[simp] theorem Dev.keepClock_pwr (d e : Dev) : (d.keepClock e).pwr = e.pwr := rfl
@[simp] theorem Dev.keepClock_domAt (d e : Dev) : (d.keepClock e).domAt = e.domAt := rfl
@[simp] theorem Dev.keepClock_domAsked (d e : Dev) : (d.keepClock e).domAsked = e.domAsked := rfl
@[simp] theorem Dev.keepClock_points (d e : Dev) : (d.keepClock e).points = e.points := rfl
@[simp] theorem Dev.keepClock_rails (d e : Dev) : (d.keepClock e).rails = e.rails := rfl
@[simp] theorem Dev.keepClock_therm (d e : Dev) : (d.keepClock e).therm = e.therm := rfl
@[simp] theorem Dev.keepClock_pace (d e : Dev) : (d.keepClock e).pace = e.pace := rfl
@[simp] theorem Dev.keepClock_modEn (d e : Dev) : (d.keepClock e).modEn = e.modEn := rfl
@[simp] theorem Dev.keepClock_modEnAt (d e : Dev) : (d.keepClock e).modEnAt = e.modEnAt := rfl
@[simp] theorem Dev.keepClock_modFail (d e : Dev) : (d.keepClock e).modFail = e.modFail := rfl
@[simp] theorem Dev.keepClock_svc (d e : Dev) : (d.keepClock e).svc = e.svc := rfl
@[simp] theorem Dev.keepClock_stamp (d e : Dev) : (d.keepClock e).stamp = e.stamp := rfl
@[simp] theorem Dev.keepClock_relays (d e : Dev) : (d.keepClock e).relays = e.relays := rfl
@[simp] theorem Dev.keepClock_chunks (d e : Dev) : (d.keepClock e).chunks = e.chunks := rfl
@[simp] theorem Dev.keepClock_relayLast (d e : Dev) : (d.keepClock e).relayLast = e.relayLast := rfl
@[simp] theorem Dev.keepClock_chkSeen (d e : Dev) : (d.keepClock e).chkSeen = e.chkSeen := rfl
@[simp] theorem Dev.keepClock_chkWhen (d e : Dev) : (d.keepClock e).chkWhen = e.chkWhen := rfl
@[simp] theorem Dev.keepClock_chkWas (d e : Dev) : (d.keepClock e).chkWas = e.chkWas := rfl
@[simp] theorem Dev.keepClock_evLogs (d e : Dev) : (d.keepClock e).evLogs = e.evLogs := rfl
@[simp] theorem Dev.keepClock_evOver (d e : Dev) : (d.keepClock e).evOver = e.evOver := rfl
@[simp] theorem Dev.keepClock_evHandle (d e : Dev) : (d.keepClock e).evHandle = e.evHandle := rfl
@[simp] theorem Dev.keepClock_evPolicy (d e : Dev) : (d.keepClock e).evPolicy = e.evPolicy := rfl
@[simp] theorem Dev.keepClock_evPending (d e : Dev) : (d.keepClock e).evPending = e.evPending := rfl
@[simp] theorem Dev.keepClock_lifeSeq (d e : Dev) : (d.keepClock e).lifeSeq = e.lifeSeq := rfl
@[simp] theorem Dev.keepClock_lifePend (d e : Dev) : (d.keepClock e).lifePend = e.lifePend := rfl
@[simp] theorem Dev.keepClock_repair (d e : Dev) : (d.keepClock e).repair = e.repair := rfl
@[simp] theorem Dev.keepClock_caGrp (d e : Dev) : (d.keepClock e).caGrp = e.caGrp := rfl
@[simp] theorem Dev.keepClock_laneOff (d e : Dev) : (d.keepClock e).laneOff = e.laneOff := rfl
@[simp] theorem Dev.keepClock_laneErr (d e : Dev) : (d.keepClock e).laneErr = e.laneErr := rfl
@[simp] theorem Dev.keepClock_d2d (d e : Dev) : (d.keepClock e).d2d = e.d2d := rfl
@[simp] theorem Dev.keepClock_noc (d e : Dev) : (d.keepClock e).noc = e.noc := rfl
@[simp] theorem Dev.keepClock_laps (d e : Dev) : (d.keepClock e).laps = e.laps := rfl
@[simp] theorem Dev.keepClock_lapInlet (d e : Dev) : (d.keepClock e).lapInlet = e.lapInlet := rfl
@[simp] theorem Dev.keepClock_pmcAt (d e : Dev) : (d.keepClock e).pmcAt = e.pmcAt := rfl
@[simp] theorem Dev.keepClock_lifeAt (d e : Dev) : (d.keepClock e).lifeAt = e.lifeAt := rfl
@[simp] theorem Dev.keepClock_imgPend (d e : Dev) : (d.keepClock e).imgPend = e.imgPend := rfl
@[simp] theorem Dev.keepClock_worn (d e : Dev) : (d.keepClock e).worn = e.worn := rfl
@[simp] theorem Dev.keepClock_pldm (d e : Dev) : (d.keepClock e).pldm = e.pldm := rfl
@[simp] theorem Dev.keepClock_pmb (d e : Dev) : (d.keepClock e).pmb = e.pmb := rfl
@[simp] theorem Dev.keepClock_pmbStatus (d e : Dev) : (d.keepClock e).pmbStatus = e.pmbStatus := rfl
@[simp] theorem Dev.keepClock_calls (d e : Dev) : (d.keepClock e).calls = e.calls := rfl
@[simp] theorem Dev.keepClock_dead (d e : Dev) : (d.keepClock e).dead = e.dead := rfl
@[simp] theorem Dev.keepClock_eid (d e : Dev) : (d.keepClock e).eid = e.eid := rfl
@[simp] theorem Dev.keepClock_step (d e : Dev) : (d.keepClock e).step = e.step := rfl
@[simp] theorem Dev.keepClock_perstLow (d e : Dev) : (d.keepClock e).perstLow = e.perstLow := rfl
@[simp] theorem Dev.keepClock_tripRec (d e : Dev) : (d.keepClock e).tripRec = e.tripRec := rfl
@[simp] theorem Dev.keepClock_strapped (d e : Dev) : (d.keepClock e).strapped = e.strapped := rfl
@[simp] theorem Dev.keepClock_jtagIr (d e : Dev) : (d.keepClock e).jtagIr = e.jtagIr := rfl
@[simp] theorem Dev.keepClock_jtagBypass (d e : Dev) : (d.keepClock e).jtagBypass = e.jtagBypass := rfl
@[simp] theorem Dev.keepClock_boundary (d e : Dev) : (d.keepClock e).boundary = e.boundary := rfl
@[simp] theorem Dev.keepClock_mgmt (d e : Dev) : (d.keepClock e).mgmt = e.mgmt := rfl
@[simp] theorem Dev.keepClock_meas (d e : Dev) : (d.keepClock e).meas = e.meas := rfl
@[simp] theorem Dev.keepClock_spdm (d e : Dev) : (d.keepClock e).spdm = e.spdm := rfl
@[simp] theorem Dev.keepClock_sessions (d e : Dev) : (d.keepClock e).sessions = e.sessions := rfl
@[simp] theorem Dev.keepClock_ide (d e : Dev) : (d.keepClock e).ide = e.ide := rfl
@[simp] theorem Dev.keepClock_draws (d e : Dev) : (d.keepClock e).draws = e.draws := rfl
@[simp] theorem Dev.keepClock_regHeld (d e : Dev) : (d.keepClock e).regHeld = e.regHeld := rfl
@[simp] theorem Dev.keepClock_fatal (d e : Dev) : (d.keepClock e).fatal = e.fatal := rfl
@[simp] theorem Dev.keepClock_cyc (d e : Dev) : (d.keepClock e).cyc = e.cyc := rfl
@[simp] theorem Dev.keepClock_inq (d e : Dev) : (d.keepClock e).inq = e.inq := rfl
@[simp] theorem Dev.keepClock_cfg (d e : Dev) : (d.keepClock e).cfg = e.cfg := rfl
@[simp] theorem Dev.keepClock_alerted (d e : Dev) : (d.keepClock e).alerted = e.alerted := rfl
@[simp] theorem Dev.keepClock_fuse (d e : Dev) : (d.keepClock e).fuse = d.fuse.burn e.fuse := rfl
@[simp] theorem Dev.keepClock_word (d e : Dev) (f : Fld) (u i : Nat) : (d.keepClock e).word f u i = e.word f u i := rfl
@[simp] theorem Dev.keepClock_fld (d e : Dev) (f : Fld) (u i : Nat) : (d.keepClock e).fld f u i = e.fld f u i := rfl
@[simp] theorem Dev.keepClock_bit (d e : Dev) (f : Fld) (u i : Nat) : (d.keepClock e).bit f u i = e.bit f u i := rfl
@[simp] theorem Dev.keepClock_slice (d e : Dev) (n : Nat) : (d.keepClock e).slice n = e.slice n := rfl
@[simp] theorem Dev.keepClock_region (d e : Dev) (n : Nat) : (d.keepClock e).region n = e.region n := rfl
@[simp] theorem Dev.keepClock_core (d e : Dev) (n : Nat) : (d.keepClock e).core n = e.core n := rfl
@[simp] theorem Dev.keepClock_arr (d e : Dev) (n : Nat) : (d.keepClock e).arr n = e.arr n := rfl
@[simp] theorem Dev.keepClock_dma (d e : Dev) (n : Nat) : (d.keepClock e).dma n = e.dma n := rfl
@[simp] theorem Dev.keepClock_ring (d e : Dev) (n : Nat) : (d.keepClock e).ring n = e.ring n := rfl
@[simp] theorem Dev.keepClock_arb (d e : Dev) (k : Nat) : (d.keepClock e).arb k = e.arb k := rfl
@[simp] theorem Dev.keepClock_clk (d e : Dev) (k : Nat) : (d.keepClock e).clk k = e.clk k := rfl
@[simp] theorem Dev.keepClock_byte (d e : Dev) (k : Nat) : (d.keepClock e).byte k = e.byte k := rfl
@[simp] theorem Dev.keepClock_readCw (d e : Dev) (k : Nat) (l : List Nat) : (d.keepClock e).readCw k l = e.readCw k l := rfl
@[simp] theorem Dev.keepClock_held (d e : Dev)  : (d.keepClock e).held  = e.held  := rfl
@[simp] theorem Dev.keepClock_done (d e : Dev)  : (d.keepClock e).done  = e.done  := rfl
@[simp] theorem Dev.keepClock_domOn (d e : Dev) (k : Nat) : (d.keepClock e).domOn k = e.domOn k := rfl
@[simp] theorem Dev.keepClock_fenceState (d e : Dev) (k : Nat) : (d.keepClock e).fenceState k = e.fenceState k := rfl
@[simp] theorem Dev.keepClock_inService (d e : Dev) (k : Nat) : (d.keepClock e).inService k = e.inService k := rfl
@[simp] theorem Dev.keepClock_bandOf (d e : Dev) (k : Nat) : (d.keepClock e).bandOf k = e.bandOf k := rfl

/-! What an update changes. -/

@[simp] theorem Dev.core_setCore (d : Dev) (n : Nat) (c : Core) : (d.setCore n c).core n = c := by simp [Dev.core, Dev.setCore]
theorem Dev.core_setCore_ne (d : Dev) (c : Core) {n m : Nat} (h : m ≠ n) : (d.setCore n c).core m = d.core m := Tbl.get_set_ne _ _ _ h
@[simp] theorem Dev.slice_setSlice (d : Dev) (n : Nat) (c : Slice) : (d.setSlice n c).slice n = c := by simp [Dev.slice, Dev.setSlice]
theorem Dev.slice_setSlice_ne (d : Dev) (c : Slice) {n m : Nat} (h : m ≠ n) : (d.setSlice n c).slice m = d.slice m := Tbl.get_set_ne _ _ _ h
@[simp] theorem Dev.region_setRegion (d : Dev) (n : Nat) (c : Region) : (d.setRegion n c).region n = c := by simp [Dev.region, Dev.setRegion]
theorem Dev.region_setRegion_ne (d : Dev) (c : Region) {n m : Nat} (h : m ≠ n) : (d.setRegion n c).region m = d.region m := Tbl.get_set_ne _ _ _ h
@[simp] theorem Dev.ring_setRing (d : Dev) (n : Nat) (c : Ring) : (d.setRing n c).ring n = c := by simp [Dev.ring, Dev.setRing]
theorem Dev.ring_setRing_ne (d : Dev) (c : Ring) {n m : Nat} (h : m ≠ n) : (d.setRing n c).ring m = d.ring m := Tbl.get_set_ne _ _ _ h
@[simp] theorem Dev.arr_setArr (d : Dev) (n : Nat) (a : ArrayUnit) : (d.setArr n a).arr n = a := by simp [Dev.arr, Dev.setArr]
@[simp] theorem Dev.dma_setDma (d : Dev) (n : Nat) (e : Dma) : (d.setDma n e).dma n = e := by simp [Dev.dma, Dev.setDma]
@[simp] theorem Dev.emit_out (d : Dev) (o : Output) : (d.emit o).out = o :: d.out := rfl
@[simp] theorem Dev.free_fst (d : Dev) : d.free.1 = Config.freeValue d.fresh := rfl
@[simp] theorem Dev.free_fresh (d : Dev) : d.free.2.fresh = d.fresh + 1 := rfl

/-! Fields of registers. -/

/-- A field lies in its word and its reset value fits it. -/
def Fld.fits (f : Fld) : Bool := decide (f.lo + f.w ≤ 64) && decide (f.rst < 2 ^ f.w)

/-- Two fields of one word have no bit in common. -/
def Fld.apart (f g : Fld) : Bool := decide (f.lo + f.w ≤ g.lo) || decide (g.lo + g.w ≤ f.lo)

theorem Fld.testBit_mask (f : Fld) (h : f.lo + f.w ≤ 64) (i : Nat) : f.mask.getLsbD i = (decide (f.lo ≤ i) && decide (i < f.lo + f.w)) := by
  unfold Fld.mask
  rw [BitVec.getLsbD_shiftLeft, BitVec.getLsbD_ofNat, Nat.testBit_two_pow_sub_one]
  by_cases h1 : f.lo ≤ i <;> by_cases h2 : i < f.lo + f.w <;> simp [h1, h2] <;> omega

/-- A field written reads as the value, cut to its width. -/
theorem Fld.extract_put (f : Fld) (x : BitVec 64) (v : Nat) (h : f.fits = true) :
    ((f.put x v).extractLsb' f.lo f.w).toNat ^^^ f.rst = v % 2 ^ f.w := by
  simp only [Fld.fits, Bool.and_eq_true, decide_eq_true_eq] at h
  have hx : v % 2 ^ f.w ^^^ f.rst < 2 ^ f.w := Nat.xor_lt_two_pow (Nat.mod_lt _ (by positivity)) h.2
  have : (f.put x v).extractLsb' f.lo f.w = BitVec.ofNat f.w (v % 2 ^ f.w ^^^ f.rst) := by
    apply BitVec.eq_of_getLsbD_eq
    intro i hi
    rw [BitVec.getLsbD_extractLsb', Fld.put, BitVec.getLsbD_or, BitVec.getLsbD_and, BitVec.getLsbD_not, Fld.testBit_mask f h.1,
      BitVec.getLsbD_shiftLeft, BitVec.getLsbD_ofNat, BitVec.getLsbD_ofNat]
    have h1 : f.lo + i < 64 := by omega
    simp [hi, h1]
    intro _; omega
  rw [this, BitVec.toNat_ofNat, Nat.mod_eq_of_lt hx, Nat.xor_assoc, Nat.xor_self, Nat.xor_zero]

/-- A field written leaves the fields beside it. -/
theorem Fld.extract_put_apart (f g : Fld) (x : BitVec 64) (v : Nat) (h : f.fits = true) (ha : f.apart g = true) :
    (f.put x v).extractLsb' g.lo g.w = x.extractLsb' g.lo g.w := by
  simp only [Fld.fits, Bool.and_eq_true, decide_eq_true_eq] at h
  simp only [Fld.apart, Bool.or_eq_true, decide_eq_true_eq] at ha
  apply BitVec.eq_of_getLsbD_eq
  intro i hi
  rw [BitVec.getLsbD_extractLsb', BitVec.getLsbD_extractLsb', Fld.put, BitVec.getLsbD_or, BitVec.getLsbD_and, BitVec.getLsbD_not,
    Fld.testBit_mask f h.1, BitVec.getLsbD_shiftLeft, BitVec.getLsbD_ofNat]
  have hv : ∀ j, (v % 2 ^ f.w ^^^ f.rst).testBit j = true → j < f.w := by
    intro j hj
    by_contra hc
    have : v % 2 ^ f.w ^^^ f.rst < 2 ^ j :=
      lt_of_lt_of_le (Nat.xor_lt_two_pow (Nat.mod_lt _ (by positivity)) h.2) (Nat.pow_le_pow_right (by norm_num) (by omega))
    rw [Nat.testBit_lt_two_pow this] at hj
    cases hj
  by_cases h64 : g.lo + i < 64
  · have hm : (decide (f.lo ≤ g.lo + i) && decide (g.lo + i < f.lo + f.w)) = false := by
      rcases ha with ha | ha
      · simp; intro; omega
      · simp; intro; omega
    rw [hm]
    by_cases hlo : g.lo + i < f.lo
    · simp [h64, hlo]
    · have : (v % 2 ^ f.w ^^^ f.rst).testBit (g.lo + i - f.lo) = false := by
        by_contra hc
        have := hv _ (by simpa using hc)
        omega
      simp [h64, this]
  · rw [BitVec.getLsbD_of_ge x _ (by omega)]
    simp [h64]

/-- What the block sets and what software writes change the registers alike. -/
theorem Dev.setFld_regs (d : Dev) (f : Fld) (u i v : Nat) : (d.setFld f u i v).regs = Tbl.set 0 d.regs (f.pos.off u i) (f.put (d.word f u i) v) := rfl
theorem Dev.putFld_regs (d : Dev) (f : Fld) (u i v : Nat) : (d.putFld f u i v).regs = Tbl.set 0 d.regs (f.pos.off u i) (f.put (d.word f u i) v) := rfl
theorem Dev.fld_regs {d e : Dev} (h : d.regs = e.regs) (f : Fld) (u i : Nat) : d.fld f u i = e.fld f u i := by simp only [Dev.fld, Dev.word, h]

/-- Reading the field software has just written. -/
theorem Dev.fld_putFld (d : Dev) (f : Fld) (u i v : Nat) (h : f.fits = true) : (d.putFld f u i v).fld f u i = v % 2 ^ f.w := by
  rw [Dev.fld, Dev.word, Dev.putFld_regs, Tbl.get_set_same]
  exact Fld.extract_put f _ v h

/-- Reading a field beside the one software has written, of any unit. -/
theorem Dev.fld_putFld_apart (d : Dev) (f g : Fld) (u i v u' i' : Nat) (h : f.fits = true) (ha : f.apart g = true) :
    (d.putFld f u i v).fld g u' i' = d.fld g u' i' := by
  simp only [Dev.fld, Dev.word, Dev.putFld_regs, Tbl.get_set]
  split
  · rename_i ho; rw [Fld.extract_put_apart f g _ v h ha, ho]
  · rfl

/-- Reading a field of another register than the one software has written. -/
theorem Dev.fld_putFld_off (d : Dev) (f g : Fld) (u i v u' i' : Nat) (h : g.pos.off u' i' ≠ f.pos.off u i) :
    (d.putFld f u i v).fld g u' i' = d.fld g u' i' := by
  simp only [Dev.fld, Dev.word, Dev.putFld_regs, Tbl.get_set_ne _ _ _ h]

/-- Reading the field just set. -/
theorem Dev.fld_setFld (d : Dev) (f : Fld) (u i v : Nat) (h : f.fits = true) : (d.setFld f u i v).fld f u i = v % 2 ^ f.w :=
  (Dev.fld_regs rfl f u i).trans (d.fld_putFld f u i v h)

/-- Reading a field beside the one set, of any unit. -/
theorem Dev.fld_setFld_apart (d : Dev) (f g : Fld) (u i v u' i' : Nat) (h : f.fits = true) (ha : f.apart g = true) :
    (d.setFld f u i v).fld g u' i' = d.fld g u' i' :=
  (Dev.fld_regs rfl g u' i').trans (d.fld_putFld_apart f g u i v u' i' h ha)

/-- Reading a field of another register than the one set. -/
theorem Dev.fld_setFld_off (d : Dev) (f g : Fld) (u i v u' i' : Nat) (h : g.pos.off u' i' ≠ f.pos.off u i) :
    (d.setFld f u i v).fld g u' i' = d.fld g u' i' :=
  (Dev.fld_regs rfl g u' i').trans (d.fld_putFld_off f g u i v u' i' h)

/-- Reading a field of another register than the one cleared. -/
theorem Dev.fld_clrReg_off (d : Dev) (r : Reg) (g : Fld) (u i u' i' : Nat) (h : g.pos.off u' i' ≠ r.pos.off u i) :
    (d.clrReg r u i).fld g u' i' = d.fld g u' i' := by
  simp only [Dev.fld, Dev.word, Dev.clrReg, Tbl.get_set_ne _ _ _ h]

/-- A cleared register's fields read their reset values. -/
theorem Dev.fld_clrReg (d : Dev) (r : Reg) (g : Fld) (u i : Nat) (h : g.pos.off u i = r.pos.off u i) : (d.clrReg r u i).fld g u i = g.rst := by
  simp [Dev.fld, Dev.word, Dev.clrReg, h]

/-- Reading the bit just written. -/
theorem Dev.bit_setBit (d : Dev) (f : Fld) (u i : Nat) (v : Bool) (h : f.fits = true) (hw : f.w = 1) : (d.setBit f u i v).bit f u i = v := by
  cases v <;> simp [Dev.bit, Dev.setBit, Dev.fld_setFld, h, hw]

/-! The frame of an event. -/

/-- An event leads to a next state; what holds of the machine it makes holds there. -/
theorem State.ev_next (s : State) (f : Dev → Dev) : s.ev f = .next { s with dev := s.dev.keep (f s.dev) } := rfl
theorem State.evFuse_next (s : State) (f : Dev → Dev) : s.evFuse f = .next { s with dev := s.dev.keepClock (f s.dev) } := rfl


end Sys2Proof.Machine
end

