-- ==== Sys2Proof/Laws/Memory.lean ====
section
/-! SUPPORT. The stores: reads after writes, frames of writes, and the canonical form of memory. -/

namespace Sys2Proof.Machine

/-! Bytes. -/

theorem storeBytes_get (m : List Host.Cell) (l : List Byte) (k j : Nat) :
    Tbl.get 0 (storeBytes m k l) j = if k ≤ j ∧ j < k + l.length then l.getD (j - k) 0 else Tbl.get 0 m j := by
  induction l generalizing m k with
  | nil => rw [if_neg (by simp), storeBytes]
  | cons b t ih =>
    rw [storeBytes, ih, Tbl.get_set]
    by_cases h1 : k + 1 ≤ j ∧ j < k + 1 + t.length
    · have h2 : k ≤ j ∧ j < k + (b :: t).length := by simp; omega
      rw [if_pos h1, if_pos h2]
      obtain ⟨i, rfl⟩ : ∃ i, j = k + 1 + i := ⟨j - (k + 1), by omega⟩
      have : k + 1 + i - k = i + 1 := by omega
      simp [this]
    · rw [if_neg h1]
      by_cases h3 : j = k
      · subst h3; simp
      · have h2 : ¬ (k ≤ j ∧ j < k + (b :: t).length) := by simp; omega
        rw [if_neg h3, if_neg h2]

/-- Storing bytes keeps the canonical form. -/
theorem storeBytes_wf (m : List Host.Cell) (l : List Byte) (k : Nat) (h : memoryWf m = true) : memoryWf (storeBytes m k l) = true := by
  induction l generalizing m k with
  | nil => exact h
  | cons b t ih => exact ih _ _ (Tbl.wf_set _ _ _ _ h)

/-- Storing a codeword keeps the canonical form. -/
theorem Dev.putCw_wf (d : Dev) (cw : Nat) (b : List PByte) (h : memoryWf d.mem = true) : memoryWf (d.putCw cw b).mem = true := by
  unfold Dev.putCw
  by_cases hp : anyPoison b = true
  · rw [if_pos hp]; dsimp only; exact storeBytes_wf _ _ _ h
  · rw [if_neg hp]; dsimp only; exact storeBytes_wf _ _ _ h

/-- Writing part of a codeword keeps the canonical form. -/
theorem Dev.writeCw_wf (d : Dev) (cw off : Nat) (b : List PByte) (h : memoryWf d.mem = true) : memoryWf (d.writeCw cw off b).mem = true := by
  unfold Dev.writeCw; split <;> exact Dev.putCw_wf _ _ _ h

theorem Dev.writeFrom_wf (fuel : Nat) (d : Dev) (k : Nat) (b : List PByte) (h : memoryWf d.mem = true) :
    memoryWf (d.writeFrom fuel k b).mem = true := by
  induction fuel generalizing d k b with
  | zero => exact h
  | succ n ih =>
    cases b with
    | nil => exact h
    | cons x t => exact ih _ _ _ (Dev.writeCw_wf _ _ _ _ h)

/-- Writing a run of bytes keeps the canonical form. -/
theorem Dev.write_wf (d : Dev) (k : Nat) (b : List PByte) (h : memoryWf d.mem = true) : memoryWf (d.write k b).mem = true :=
  Dev.writeFrom_wf _ _ _ _ h

/-- Filling a span with zero data keeps the canonical form. -/
theorem Dev.zeroSpan_wf (d : Dev) (k len : Nat) (h : memoryWf d.mem = true) : memoryWf (d.zeroSpan k len).mem = true := Tbl.wf_filter _ _ _ h

/-- Storing a number keeps the canonical form. -/
theorem Dev.putNum_wf (d : Dev) (k n v : Nat) (h : memoryWf d.mem = true) : memoryWf (d.putNum k n v).mem = true := storeBytes_wf _ _ _ h

/-- Memory at reset is in canonical form. -/
theorem reset_memory_wf : memoryWf State.reset.dev.mem = true := rfl

/-! A write touches the memory and the check bits, nothing else. -/

theorem Dev.putCw_eq (d : Dev) (cw : Nat) (b : List PByte) :
    d.putCw cw b = { d with mem := (d.putCw cw b).mem, chk := (d.putCw cw b).chk } := by
  unfold Dev.putCw
  by_cases hp : anyPoison b = true
  · simp only [if_pos hp]
  · simp only [if_neg hp]

theorem Dev.writeCw_eq (d : Dev) (cw off : Nat) (b : List PByte) :
    d.writeCw cw off b = { d with mem := (d.writeCw cw off b).mem, chk := (d.writeCw cw off b).chk } := by
  unfold Dev.writeCw; split <;> exact Dev.putCw_eq _ _ _

theorem Dev.writeFrom_eq (fuel : Nat) (d : Dev) (k : Nat) (b : List PByte) :
    d.writeFrom fuel k b = { d with mem := (d.writeFrom fuel k b).mem, chk := (d.writeFrom fuel k b).chk } := by
  induction fuel generalizing d k b with
  | zero => rfl
  | succ n ih =>
    cases b with
    | nil => rfl
    | cons x t =>
      simp only [Dev.writeFrom]
      rw [ih, Dev.writeCw_eq]

/-- A write of bytes changes the memory and its check bits alone. -/
theorem Dev.write_eq (d : Dev) (k : Nat) (b : List PByte) :
    d.write k b = { d with mem := (d.write k b).mem, chk := (d.write k b).chk } := Dev.writeFrom_eq _ _ _ _

/-! Intact codewords. -/

theorem hxClass_zero : hxClass 0 = .clean := by decide

theorem Dev.readCw_intact (d : Dev) (cw : Nat) (h : Tbl.get 0 d.chk cw = 0) :
    d.readCw cw [] = (.clean, (d.cwData cw).map fun b => ⟨b, false⟩) := by
  simp only [Dev.readCw, List.foldl_nil, h, hxClass_zero]

theorem flatMap_runs (f : Nat → Byte) (q m : Nat) :
    (((List.range m).map (· + q)).flatMap fun cw => (List.range 32).map fun i => f (32 * cw + i)) =
      (List.range (32 * m)).map fun i => f (32 * q + i) := by
  induction m with
  | zero => simp
  | succ m ih =>
    rw [List.range_succ (n := m), List.map_append, List.flatMap_append, ih, Nat.mul_succ, List.range_add, List.map_append]
    congr 1
    simp [List.map_map, Function.comp_def]
    intro a _
    congr 1
    ring

/-- Reading intact codewords gives the stored bytes. -/
theorem Dev.read_intact (d : Dev) (k len : Nat) (h : d.intact k len) :
    d.read k len = ((List.range len).map fun i => ⟨d.byte (k + i), false⟩, (cwsOf k len).map fun cw => (cw, .clean)) := by
  have e : ((cwsOf k len).map fun cw => (cw, d.readCw cw [])) =
      (cwsOf k len).map fun cw => (cw, (CwClass.clean, (d.cwData cw).map fun b => PByte.mk b false)) :=
    List.map_congr_left fun cw hc => by rw [Dev.readCw_intact d cw (h cw hc)]
  unfold Dev.read
  rw [e]
  simp only [List.map_map, List.flatMap_map, Function.comp_def, Prod.mk.injEq, and_true]
  by_cases hl : len = 0
  · subst hl; simp [cwsOf]
  · unfold cwsOf
    rw [if_neg hl]
    have := flatMap_runs (fun j => d.byte j) (k / 32) ((k + len - 1) / 32 - k / 32 + 1)
    rw [← List.map_flatMap]
    unfold Dev.cwData
    rw [this]
    apply List.ext_getElem
    · simp; omega
    · intro i h1 h2
      simp only [List.getElem_map, List.getElem_take, List.getElem_drop, List.getElem_range]
      congr 2
      omega

/-- Reading intact bytes of a local store gives them, with status OK, and changes nothing (R110). -/
theorem Dev.lsRead_intact (d : Dev) (n off len : Nat) (h : d.intact (lsAddr n off) len) :
    d.lsRead n off len = ((List.range len).map fun i => ⟨d.byte (lsAddr n off + i), false⟩, .ok, d) := by
  have hf : ∀ l : List Nat, (l.map fun cw => (cw, CwClass.clean)).foldl
      (fun e p => (e.scrubCw p.1 p.2).lsEcc n 0 p.1 (32 * p.1 - lsAddr n 0) p.2) d = d := by
    intro l
    induction l with
    | nil => rfl
    | cons a t ih => simpa [Dev.scrubCw, Dev.lsEcc, Dev.eccEvent] using ih
  have hs : ∀ l : List Nat, classStatus (l.map fun cw => (cw, CwClass.clean)) = .ok := by
    intro l
    unfold classStatus
    induction l with
    | nil => rfl
    | cons a t ih => simpa [CwClass.status, Status.first] using ih
  simp only [Dev.lsRead, Dev.read_intact d _ _ h, hf, hs]

/-- A write over intact codewords meets no fault in the codewords it covers in part. -/
theorem Dev.mergeCls_intact (d : Dev) (k len : Nat) (h : d.intact k len) : ∀ p ∈ d.mergeCls k len, p.2 = .clean := by
  intro p hp
  unfold Dev.mergeCls at hp
  obtain ⟨cw, hcw, rfl⟩ := List.mem_map.1 hp
  exact congrArg Prod.fst (Dev.readCw_intact d cw (h cw (List.mem_filter.1 hcw).1))

/-- Events of clean codewords change nothing. -/
theorem lsEcc_clean (n : Nat) (f : Nat → Nat) (l : List (Nat × CwClass)) (h : ∀ p ∈ l, p.2 = .clean) (d : Dev) :
    l.foldl (fun e p => e.lsEcc n 0 p.1 (f p.1) p.2) d = d := by
  induction l generalizing d with
  | nil => rfl
  | cons p t ih =>
    have hp := h p (by simp)
    have : d.lsEcc n 0 p.1 (f p.1) p.2 = d := by rw [hp]; rfl
    rw [List.foldl_cons, this]
    exact ih (fun q hq => h q (by simp [hq])) d

/-- A write over intact bytes of a local store is a plain write. -/
theorem Dev.lsWrite_intact (d : Dev) (n off : Nat) (b : List PByte) (h : d.intact (lsAddr n off) b.length) :
    d.lsWrite n off b = d.write (lsAddr n off) b := by
  unfold Dev.lsWrite
  rw [lsEcc_clean n (fun c => 32 * c - lsAddr n 0) _ (Dev.mergeCls_intact d _ _ h)]

/-! Writes over intact codewords. -/

theorem anyPoison_append (a b : List PByte) : anyPoison (a ++ b) = (anyPoison a || anyPoison b) := by simp [anyPoison]

theorem Dev.putCw_clean (d : Dev) (cw : Nat) (b : List PByte) (hp : anyPoison b = false) (hl : b.length = 32) :
    (∀ j, (d.putCw cw b).byte j = if 32 * cw ≤ j ∧ j < 32 * cw + 32 then (b.getD (j - 32 * cw) ⟨0, false⟩).v else d.byte j) ∧
    ∀ c, Tbl.get 0 (d.putCw cw b).chk c = if c = cw then 0 else Tbl.get 0 d.chk c := by
  unfold Dev.putCw
  rw [hp]
  refine ⟨fun j => ?_, fun c => ?_⟩
  · simp only [Dev.byte, Bool.false_eq_true, if_false, storeBytes_get, List.length_map, hl]
    split
    · rename_i h
      have : j - 32 * cw < b.length := by omega
      simp [List.getD, this]
    · rfl
  · simp only [Bool.false_eq_true, if_false, Tbl.get_set]

/-- Writing clean bytes inside one intact codeword. -/
theorem Dev.writeCw_clean (d : Dev) (cw off : Nat) (b : List PByte) (hp : anyPoison b = false) (hl : off + b.length ≤ 32)
    (hc : Tbl.get 0 d.chk cw = 0) :
    (∀ j, (d.writeCw cw off b).byte j =
      if 32 * cw + off ≤ j ∧ j < 32 * cw + off + b.length then (b.getD (j - (32 * cw + off)) ⟨0, false⟩).v else d.byte j) ∧
    ∀ c, Tbl.get 0 (d.writeCw cw off b).chk c = Tbl.get 0 d.chk c := by
  unfold Dev.writeCw
  split
  · rename_i h
    obtain ⟨rfl, h32⟩ := h
    have := Dev.putCw_clean d cw b hp h32
    refine ⟨fun j => ?_, fun c => ?_⟩
    · rw [this.1 j, h32]; simp
    · rw [this.2 c]; split
      · rename_i hh; rw [hh, hc]
      · rfl
  · rw [Dev.readCw_intact d cw hc]
    simp only
    set old := (d.cwData cw).map fun x => PByte.mk x false with hold
    have holen : old.length = 32 := by simp [hold, Dev.cwData]
    have hop : ∀ l : List PByte, l.Sublist old → anyPoison l = false := by
      intro l hs
      simp only [anyPoison, List.any_eq_false]
      intro x hx
      have := hs.subset hx
      simp [hold] at this
      obtain ⟨_, _, rfl⟩ := this
      simp
    have hlen : (old.take off ++ b ++ old.drop (off + b.length)).length = 32 := by simp [holen]; omega
    have := Dev.putCw_clean d cw (old.take off ++ b ++ old.drop (off + b.length))
      (by rw [anyPoison_append, anyPoison_append, hp, hop _ (List.take_sublist _ _), hop _ (List.drop_sublist _ _)]; rfl) hlen
    refine ⟨fun j => ?_, fun c => ?_⟩
    · rw [this.1 j]
      have hget : ∀ i, i < 32 → (old.getD i ⟨0, false⟩).v = d.byte (32 * cw + i) := by
        intro i hi
        have : i < old.length := by omega
        simp [List.getD, hold, Dev.cwData, hi]
      by_cases h1 : 32 * cw ≤ j ∧ j < 32 * cw + 32
      · obtain ⟨i, rfl⟩ : ∃ i, j = 32 * cw + i := ⟨j - 32 * cw, by omega⟩
        have hi : i < 32 := by omega
        rw [if_pos h1]
        have e1 : 32 * cw + i - 32 * cw = i := by omega
        rw [e1]
        by_cases h2 : off ≤ i ∧ i < off + b.length
        · rw [if_pos (by omega)]
          have e2 : 32 * cw + i - (32 * cw + off) = i - off := by omega
          rw [e2]
          have hofflen : (old.take off).length = off := by simp [holen]; omega
          have : i < (old.take off ++ b).length := by simp [holen]; omega
          rw [List.getD_eq_getElem?_getD, List.getElem?_append_left this, List.getElem?_append_right (by omega), hofflen,
            ← List.getD_eq_getElem?_getD]
        · rw [if_neg (by omega), ← hget i hi]
          by_cases h3 : i < off
          · have : i < (old.take off ++ b).length := by simp [holen]; omega
            rw [List.getD_eq_getElem?_getD, List.getElem?_append_left this, List.getElem?_append_left (by simp [holen]; omega),
              List.getElem?_take_of_lt h3, ← List.getD_eq_getElem?_getD]
          · have hl2 : (old.take off ++ b).length = off + b.length := by simp [holen]; omega
            rw [List.getD_eq_getElem?_getD, List.getElem?_append_right (by omega), hl2, List.getElem?_drop,
              show off + b.length + (i - (off + b.length)) = i by omega, ← List.getD_eq_getElem?_getD]
      · rw [if_neg h1, if_neg (by omega)]
    · rw [this.2 c]; split
      · rename_i hh; rw [hh, hc]
      · rfl

theorem anyPoison_take (b : List PByte) (n : Nat) (h : anyPoison b = false) : anyPoison (b.take n) = false := by
  simp only [anyPoison, List.any_eq_false] at *
  exact fun x hx => h x (List.take_subset _ _ hx)

theorem anyPoison_drop (b : List PByte) (n : Nat) (h : anyPoison b = false) : anyPoison (b.drop n) = false := by
  simp only [anyPoison, List.any_eq_false] at *
  exact fun x hx => h x (List.drop_subset _ _ hx)

theorem Dev.writeFrom_clean (fuel : Nat) (d : Dev) (k : Nat) (b : List PByte) (hp : anyPoison b = false)
    (hf : (b.length + k % 32 + 31) / 32 ≤ fuel) (hc : ∀ cw, k / 32 ≤ cw → cw * 32 < k + b.length → Tbl.get 0 d.chk cw = 0) :
    (∀ j, (d.writeFrom fuel k b).byte j = if k ≤ j ∧ j < k + b.length then (b.getD (j - k) ⟨0, false⟩).v else d.byte j) ∧
    ∀ c, Tbl.get 0 (d.writeFrom fuel k b).chk c = Tbl.get 0 d.chk c := by
  induction fuel generalizing d k b with
  | zero =>
    have : b = [] := List.length_eq_zero_iff.1 (by omega)
    subst this
    exact ⟨fun j => by rw [if_neg (by simp)]; rfl, fun c => rfl⟩
  | succ n ih =>
    cases hb : b with
    | nil => exact ⟨fun j => by rw [if_neg (by simp)]; rfl, fun c => rfl⟩
    | cons x t =>
      have hbl : 0 < b.length := by rw [hb]; simp
      rw [← hb]
      have e : d.writeFrom (n + 1) k b = (d.writeCw (k / 32) (k % 32) (b.take (32 - k % 32))).writeFrom n (k + (32 - k % 32)) (b.drop (32 - k % 32)) := by
        rw [hb]; rfl
      rw [e]
      have h1 := Dev.writeCw_clean d (k / 32) (k % 32) (b.take (32 - k % 32)) (anyPoison_take _ _ hp) (by simp; omega) (hc _ (le_refl _) (by omega))
      set d1 := d.writeCw (k / 32) (k % 32) (b.take (32 - k % 32))
      have h2 := ih d1 (k + (32 - k % 32)) (b.drop (32 - k % 32)) (anyPoison_drop _ _ hp)
        (by simp; omega) (fun cw ha hb' => by rw [h1.2]; apply hc <;> simp at hb' <;> omega)
      refine ⟨fun j => ?_, fun c => ?_⟩
      · rw [h2.1 j, h1.1 j]
        have e0 : 32 * (k / 32) + k % 32 = k := by omega
        rw [e0]
        simp only [List.length_take, List.length_drop]
        by_cases hj : k ≤ j ∧ j < k + b.length
        · rw [if_pos hj]
          by_cases h3 : k + (32 - k % 32) ≤ j
          · rw [if_pos (by omega), List.getD_eq_getElem?_getD, List.getElem?_drop,
              show 32 - k % 32 + (j - (k + (32 - k % 32))) = j - k by omega, ← List.getD_eq_getElem?_getD]
          · rw [if_neg (by omega), if_pos (by omega), List.getD_eq_getElem?_getD, List.getElem?_take_of_lt (by omega),
              ← List.getD_eq_getElem?_getD]
        · rw [if_neg hj, if_neg (by omega), if_neg (by omega)]
      · rw [h2.2 c, h1.2 c]

/-- A write of clean bytes over intact codewords: those bytes read back, every other byte and every check bit stands. -/
theorem Dev.write_clean (d : Dev) (k : Nat) (b : List PByte) (hp : anyPoison b = false) (hc : d.intact k b.length) :
    (∀ j, (d.write k b).byte j = if k ≤ j ∧ j < k + b.length then (b.getD (j - k) ⟨0, false⟩).v else d.byte j) ∧
    ∀ c, Tbl.get 0 (d.write k b).chk c = Tbl.get 0 d.chk c := by
  by_cases hb : b = []
  · subst hb
    exact ⟨fun j => by rw [if_neg (by simp)]; rfl, fun c => rfl⟩
  have hl := List.length_pos_iff.2 hb
  refine Dev.writeFrom_clean _ d k b hp (by omega) fun cw h1 h2 => hc cw ?_
  unfold cwsOf
  rw [if_neg (by omega), List.mem_map]
  exact ⟨cw - k / 32, by rw [List.mem_range]; omega, by omega⟩

/-! Whole codewords. -/

/-- The codewords of a range. -/
theorem mem_cwsOf (k len cw : Nat) : cw ∈ cwsOf k len ↔ 0 < len ∧ k / 32 ≤ cw ∧ cw ≤ (k + len - 1) / 32 := by
  unfold cwsOf
  split
  · simp; omega
  · rw [List.mem_map]
    constructor
    · rintro ⟨a, ha, rfl⟩; rw [List.mem_range] at ha; omega
    · rintro ⟨h1, h2, h3⟩; exact ⟨cw - k / 32, by rw [List.mem_range]; omega, by omega⟩

/-- Writing a whole aligned codeword of clean bytes: those bytes read back and the codeword is intact; every other byte and check bit stands. -/
theorem Dev.write_cw (d : Dev) (k : Nat) (b : List PByte) (hk : k % 32 = 0) (hp : anyPoison b = false) (hl : b.length = 32) :
    (∀ j, (d.write k b).byte j = if k ≤ j ∧ j < k + 32 then (b.getD (j - k) ⟨0, false⟩).v else d.byte j) ∧
    ∀ c, Tbl.get 0 (d.write k b).chk c = if c = k / 32 then 0 else Tbl.get 0 d.chk c := by
  have e : d.write k b = d.putCw (k / 32) b := by
    unfold Dev.write
    rw [hl]
    cases b with
    | nil => simp at hl
    | cons x t =>
      have : (x :: t).take 32 = x :: t := List.take_of_length_le (by omega)
      have h2 : (x :: t).drop 32 = [] := List.drop_of_length_le (by omega)
      show (d.writeCw (k / 32) (k % 32) ((x :: t).take (32 - k % 32))).writeFrom 2 _ ((x :: t).drop (32 - k % 32)) = _
      rw [hk, this, h2]
      have : ∀ d : Dev, d.writeFrom 2 (k + (32 - 0)) [] = d := fun _ => rfl
      rw [this]
      unfold Dev.writeCw
      rw [if_pos ⟨rfl, hl⟩]
  rw [e]
  have := Dev.putCw_clean d (k / 32) b hp hl
  refine ⟨fun j => ?_, this.2⟩
  rw [this.1, show 32 * (k / 32) = k by omega]

end Sys2Proof.Machine
end

