-- ==== Sys2Proof/Laws/Tile.lean ====
section
/-! SUPPORT. The sequencer and the vector unit: fetching an intact word, where the dispatcher stands still, and what a VOP reads and writes. -/

namespace Sys2Proof.Machine

theorem opQueue_disp (op : Nat) (h : opDisp op = true) : opQueue op = none := by
  simp only [opDisp, Bool.or_eq_true, beq_iff_eq] at h
  rcases h with (((h | h) | h) | h) | h <;> subst h <;> rfl

theorem Dev.seqFill_succ (n k : Nat) (d : Dev) : Dev.seqFill n (k + 1) d = d.seqWord n (Dev.seqFill n k) := rfl

theorem Dev.dispatch_eq (d : Dev) (n : Nat) : d.dispatch n = d.seqWord n (Dev.seqFill n 63) := Dev.seqFill_succ n 63 d

/-- The dispatcher stands at a dispatcher word, with its buffer filled. -/
theorem Dev.dispatch_atWord (d : Dev) (n : Nat) (p : Prog) (w : Nat) (h : d.atWord n p w) (ho : opDisp (wOp w) = true) :
    d.dispatch n = d.bufFill n := by
  obtain ⟨⟨b, hq⟩, hp, he, hf, hpc, hb, hwf⟩ := h
  obtain ⟨t, ht⟩ : ∃ t, p.buf = (p.pc, w, false) :: t := by
    cases hbuf : p.buf with
    | nil => rw [hbuf] at hb; cases hb
    | cons x t => rw [hbuf] at hb; exact ⟨t, by rw [Option.some.inj hb]⟩
  rw [Dev.dispatch_eq]
  generalize Dev.seqFill n 63 = go
  unfold Dev.seqWord
  rw [hq]
  refine (if_neg (by simp [he, hf])).trans ((if_neg (by show ¬ p.pc + 8 > lsSize; omega)).trans ?_)
  unfold Dev.seqHead
  rw [hp]
  dsimp only
  rw [ht]
  dsimp only
  rw [if_neg (by simp), hwf]
  dsimp only
  rw [opQueue_disp _ ho]

/-- The dispatcher stands once the program has met END or faulted. -/
theorem Dev.dispatch_over (d : Dev) (n : Nat) (p : Prog) (h : (d.core n).prog = some p) (he : (p.ended || p.faulted.isSome) = true) :
    d.dispatch n = d := by
  rw [Dev.dispatch_eq]
  unfold Dev.seqWord
  split
  · rfl
  · rename_i q hq
    obtain rfl : p = q := by rw [h] at hq; exact Option.some.inj hq
    exact if_pos he

/-- A dispatcher command at its word. -/
theorem Dev.dispCmd_at (d : Dev) (n : Nat) (p : Prog) (w op : Nat) (f : Nat → Prog → Prog ⊕ Nat) (h : d.atWord n p w) (ho : wOp w = op)
    (hd : opDisp op = true) :
    d.dispCmd n op f = match f w p with
      | .inl q => (((d.bufFill n).modProg n fun _ => { q with dispAt := p.dispNow ((d.bufFill n).cclk n) + 1 }).dispatched n op p.pc).dispatch n
      | .inr detail => (d.bufFill n).progFault n .badDescriptor detail op p.pc := by
  have hs := Dev.dispatch_atWord d n p w h (by rw [ho]; exact hd)
  obtain ⟨-, hp, he, hf, hpc, hb, hwf⟩ := h
  obtain ⟨t, ht⟩ : ∃ t, p.buf = (p.pc, w, false) :: t := by
    cases hbuf : p.buf with
    | nil => rw [hbuf] at hb; cases hb
    | cons x t => rw [hbuf] at hb; exact ⟨t, by rw [Option.some.inj hb]⟩
  unfold Dev.dispCmd
  rw [hs]
  dsimp only
  rw [hp]
  refine (if_neg (by simp [he, hf])).trans ?_
  rw [ht]
  refine (if_pos ho).trans ?_
  cases f w p <;> rfl

theorem Dev.modProg_prog (d : Dev) (n : Nat) (p : Prog) (f : Prog → Prog) (h : (d.core n).prog = some p) :
    ((d.modProg n f).core n).prog = some (f p) := by
  simp [Dev.modProg, h]

/-- Counting an event of a core leaves its program. -/
theorem Dev.pmcCoreAdd_prog (d : Dev) (n i k m : Nat) : ((d.pmcCoreAdd n i k).core m).prog = (d.core m).prog := by
  have h : ∀ (c f : Fld) (u i k : Nat), (((d.pmcAdd c f u i k).1).core m) = d.core m := by
    intro c f u i k
    unfold Dev.pmcAdd
    split
    · rfl
    · dsimp only; split <;> rfl
  unfold Dev.pmcCoreAdd
  dsimp only
  split
  · by_cases hm : m = n
    · subst hm; simp only [Dev.core_setCore, h]
    · rw [Dev.core_setCore_ne _ _ hm, h]
  · rw [h]

theorem Dev.pmcCore_prog (d : Dev) (n code k m : Nat) : ((d.pmcCore n code k).core m).prog = (d.core m).prog := by
  unfold Dev.pmcCore
  split
  · rfl
  · rename_i h; clear h
    generalize List.range 6 = l
    induction l generalizing d with
    | nil => rfl
    | cons i t ih =>
      rw [List.foldl_cons, ih]
      split
      · exact Dev.pmcCoreAdd_prog _ _ _ _ _
      · rfl

/-- Counting and sampling a word leaves every program. -/
theorem Dev.dispatched_prog (d : Dev) (n op pc m : Nat) : ((d.dispatched n op pc).core m).prog = (d.core m).prog := by
  unfold Dev.dispatched
  dsimp only
  rw [Dev.pmcCore_prog]
  split
  · rfl
  · have : ∀ c : Core, (({ c with sampleArm := none } : Core)).prog = c.prog := fun _ => rfl
    split
    · by_cases hm : m = n
      · subst hm; simp only [Dev.core_setCore]
      · rw [Dev.core_setCore_ne _ _ hm]
    · simp only [Dev.setFld_core, Dev.setBit_core]
      by_cases hm : m = n
      · subst hm; simp only [Dev.core_setCore]
      · rw [Dev.core_setCore_ne _ _ hm]

/-! The vector unit. -/

theorem anyPoison_vBytes (sz : Nat) (l : List VEl) (h : ∀ e ∈ l, e.p = false) : anyPoison (vBytes sz l) = false := by
  simp only [anyPoison, List.any_eq_false, vBytes, List.mem_flatMap]
  rintro x ⟨e, he, hx⟩
  rw [h e he, if_neg (by simp)] at hx
  simp only [toPBytes, List.mem_map] at hx
  obtain ⟨b, _, rfl⟩ := hx
  simp

theorem vElems_clean (k sz : Nat) (b : List PByte) (h : anyPoison b = false) : ∀ e ∈ vElems k sz b, e.p = false := by
  induction k generalizing b with
  | zero => intro e he; simp [vElems] at he
  | succ k ih =>
    intro e he
    simp only [vElems, List.mem_cons] at he
    rcases he with rfl | he
    · exact anyPoison_take _ _ h
    · exact ih _ (anyPoison_drop _ _ h) e he

/-- A source in intact memory is read without poison, and reading it changes nothing. -/
theorem Dev.vRead_intact (d : Dev) (n len : Nat) (r : Nat × Nat × Nat) (h : d.intact (lsAddr n r.1) r.2.1) :
    (d.vRead n len r).2 = d ∧ ∀ e ∈ (d.vRead n len r).1, e.p = false := by
  have hp : anyPoison ((List.range r.2.1).map fun i => (⟨d.byte (lsAddr n r.1 + i), false⟩ : PByte)) = false := by simp [anyPoison]
  have hc := vElems_clean (r.2.1 / r.2.2) r.2.2 _ hp
  simp only [Dev.vRead, Dev.lsRead_intact d n r.1 r.2.1 h]
  refine ⟨trivial, fun e he => ?_⟩
  split at he
  · exact hc e he
  · obtain ⟨_, rfl⟩ := List.mem_replicate.1 he
    cases hl : vElems (r.2.1 / r.2.2) r.2.2 ((List.range r.2.1).map fun i => (⟨d.byte (lsAddr n r.1 + i), false⟩ : PByte)) with
    | nil => rfl
    | cons x t => exact hc x (by rw [hl]; simp)

theorem vZip_clean (f t : Nat) (a b c : List VEl) (ha : ∀ e ∈ a, e.p = false) (hb : ∀ e ∈ b, e.p = false) (hc : ∀ e ∈ c, e.p = false) :
    ∀ e ∈ vZip f t a b c, e.p = false := by
  induction a generalizing b c with
  | nil => intro e he; simp [vZip] at he
  | cons x a ih =>
    cases b with
    | nil => intro e he; simp [vZip] at he
    | cons y b =>
      cases c with
      | nil => intro e he; simp [vZip] at he
      | cons z c =>
        intro e he
        simp only [vZip, List.mem_cons] at he
        rcases he with rfl | he
        · simp [ha x (by simp), hb y (by simp), hc z (by simp)]
        · exact ih b c (fun e h => ha e (by simp [h])) (fun e h => hb e (by simp [h])) (fun e h => hc e (by simp [h])) e he

theorem vQuant_clean (m : Bool) (k : Nat) (l : List VEl) (h : ∀ e ∈ l, e.p = false) :
    (∀ e ∈ (vQuant m k l).1, e.p = false) ∧ ∀ e ∈ (vQuant m k l).2, e.p = false := by
  induction k generalizing l with
  | zero => simp [vQuant]
  | succ k ih =>
    have hb : (l.take 32).any (·.p) = false := List.any_eq_false.2 fun x hx => by simp [h x (List.take_subset _ _ hx)]
    have ih := ih (l.drop 32) fun e he => h e (List.drop_subset _ _ he)
    simp only [vQuant, hb]
    refine ⟨fun e he => ?_, fun e he => ?_⟩
    · rcases List.mem_append.1 he with he | he
      · obtain ⟨_, _, rfl⟩ := List.mem_map.1 he; rfl
      · exact ih.1 e he
    · rcases List.mem_cons.1 he with rfl | he
      · rfl
      · exact ih.2 e he

/-- Marking a command finished after a write of memory is marking it before. -/
theorem Dev.cmdDone_write (d : Dev) (n id k : Nat) (st : Status) (b : List PByte) :
    (d.write k b).cmdDone n id st = { d.cmdDone n id st with mem := (d.write k b).mem, chk := (d.write k b).chk } := by
  rw [Dev.write_eq]
  unfold Dev.cmdDone
  dsimp only
  have : ({ d with mem := (d.write k b).mem, chk := (d.write k b).chk } : Dev).core n = d.core n := rfl
  rw [this]
  cases (d.core n).prog <;> rfl

end Sys2Proof.Machine
end

