-- ==== Sys2Proof/Laws/Queue.lean ====
section
/-! SUPPORT. Ends of descriptors, batons and programs: what they leave of the cores and of the registers below the queue block. -/

namespace Sys2Proof.Machine

/-- From d to e the registers below the queue block (DEV, STARTER, RST, PWR, THM, TK) stand. -/
def LowSame (d e : Dev) : Prop := ∀ o, o < 0x80000 → Tbl.get 0 e.regs o = Tbl.get 0 d.regs o

theorem LowSame.refl (d : Dev) : LowSame d d := fun _ _ => rfl
theorem LowSame.trans {a b c : Dev} (h : LowSame a b) (h' : LowSame b c) : LowSame a c := fun o ho => (h' o ho).trans (h o ho)
theorem LowSame.of_regs {d e : Dev} (h : e.regs = d.regs) : LowSame d e := fun _ _ => by rw [h]
theorem LowSame.setFld (d : Dev) (f : Fld) (u i v : Nat) (h : 0x80000 ≤ f.pos.off u i) : LowSame d (d.setFld f u i v) :=
  fun o ho => Tbl.get_set_ne _ _ _ (by omega)
theorem LowSame.setBit (d : Dev) (f : Fld) (u i : Nat) (v : Bool) (h : 0x80000 ≤ f.pos.off u i) : LowSame d (d.setBit f u i v) :=
  LowSame.setFld d f u i _ h
theorem LowSame.fld {d e : Dev} (h : LowSame d e) (f : Fld) (u i : Nat) (ho : f.pos.off u i < 0x80000) : e.fld f u i = d.fld f u i := by
  simp only [Dev.fld, Dev.word, h _ ho]
theorem LowSame.foldl {α : Type} (f : Dev → α → Dev) (h : ∀ d a, LowSame d (f d a)) (l : List α) (d : Dev) : LowSame d (l.foldl f d) := by
  induction l generalizing d with
  | nil => exact LowSame.refl d
  | cons a t ih => exact (h d a).trans (ih _)

theorem LowSame.foldl_mem {α : Type} (f : Dev → α → Dev) (l : List α) (h : ∀ d, ∀ a ∈ l, LowSame d (f d a)) (d : Dev) : LowSame d (l.foldl f d) := by
  induction l generalizing d with
  | nil => exact LowSame.refl d
  | cons a t ih => exact (h d a (by simp)).trans (ih (fun d b hb => h d b (by simp [hb])) _)

/-- From d to e the cores stand. -/
theorem cores_foldl {α : Type} (f : Dev → α → Dev) (h : ∀ d a, (f d a).cores = d.cores) (l : List α) (d : Dev) : (l.foldl f d).cores = d.cores := by
  induction l generalizing d with
  | nil => rfl
  | cons a t ih => rw [List.foldl_cons, ih, h]

/-! Rings. -/

theorem Dev.watchDrop_cores (d : Dev) (l : Nat) : (d.watchDrop l).cores = d.cores := by unfold Dev.watchDrop; split <;> rfl
theorem Dev.watchDrop_regs (d : Dev) (l : Nat) : (d.watchDrop l).regs = d.regs := by unfold Dev.watchDrop; split <;> rfl

theorem Dev.slotRead_cores (d : Dev) (i : Nat) : (d.slotRead i).cores = d.cores := by
  unfold Dev.slotRead
  dsimp only
  repeat' split
  all_goals rfl
theorem Dev.slotRead_regs (d : Dev) (i : Nat) : (d.slotRead i).regs = d.regs := by
  unfold Dev.slotRead
  dsimp only
  repeat' split
  all_goals rfl

theorem Dev.modRing_cores (d : Dev) (i : Nat) (f) : (d.modRing i f).cores = d.cores := rfl
theorem Dev.modRing_regs (d : Dev) (i : Nat) (f) : (d.modRing i f).regs = d.regs := rfl

theorem Dev.ringOn_cores (d : Dev) (i : Nat) : (d.ringOn i).cores = d.cores := by
  unfold Dev.ringOn
  dsimp only
  split
  · split
    · rw [Dev.slotRead_cores]; rfl
    · rw [Dev.slotRead_cores]; split
      · rfl
      · rw [Dev.slotRead_cores]; rfl
  · rfl

theorem Dev.ringOn_low (d : Dev) (i : Nat) : LowSame d (d.ringOn i) := by
  have h1 : LowSame d (d.setBit RING_CFG.ENABLE i 0 true) := LowSame.setBit _ _ _ _ _ (by simp [RegPos.off]; omega)
  unfold Dev.ringOn
  dsimp only
  split
  · split
    · exact h1.trans (LowSame.of_regs (by rw [Dev.slotRead_regs]; rfl))
    · refine h1.trans (LowSame.of_regs ?_)
      rw [Dev.slotRead_regs]; split
      · rfl
      · rw [Dev.slotRead_regs]; rfl
  · exact (LowSame.setBit _ _ _ _ _ (by simp [RegPos.off]; omega)).trans (LowSame.setBit _ _ _ _ _ (by simp [RegPos.off]; omega))

theorem Dev.cqRelease_cores (d : Dev) (j : Nat) : (d.cqRelease j).cores = d.cores := by
  unfold Dev.cqRelease; split
  · rw [Dev.watchDrop_cores]; rfl
  · rfl
theorem Dev.cqRelease_regs (d : Dev) (j : Nat) : (d.cqRelease j).regs = d.regs := by
  unfold Dev.cqRelease; split
  · rw [Dev.watchDrop_regs]; rfl
  · rfl

theorem Dev.ringSettle_cores (d : Dev) (i : Nat) : (d.ringSettle i).cores = d.cores := by
  unfold Dev.ringSettle
  dsimp only
  split
  · split
    · rw [Dev.ringOn_cores, Dev.watchDrop_cores, Dev.cqRelease_cores]; rfl
    · rw [Dev.watchDrop_cores, Dev.cqRelease_cores]; rfl
  · rw [Dev.cqRelease_cores]

theorem Dev.ringSettle_low (d : Dev) (i : Nat) : LowSame d (d.ringSettle i) := by
  unfold Dev.ringSettle
  dsimp only
  split
  · split
    · refine LowSame.trans (LowSame.of_regs ?_) (Dev.ringOn_low _ _)
      rw [Dev.watchDrop_regs, Dev.cqRelease_regs]; rfl
    · exact LowSame.of_regs (by rw [Dev.watchDrop_regs, Dev.cqRelease_regs]; rfl)
  · exact LowSame.of_regs (by rw [Dev.cqRelease_regs])

/-- The end of a descriptor leaves the cores. -/
theorem Dev.descDone_cores (d : Dev) (id : Nat) (st : Status) (a b : Nat) : (d.descDone id st a b).cores = d.cores := by
  unfold Dev.descDone
  split
  · rfl
  · split
    · rfl
    · split
      · rw [Dev.ringSettle_cores]
      · rfl

/-- The end of a descriptor leaves the registers below the queue block. -/
theorem Dev.descDone_low (d : Dev) (id : Nat) (st : Status) (a b : Nat) : LowSame d (d.descDone id st a b) := by
  unfold Dev.descDone
  split
  · exact LowSame.refl d
  · split
    · exact LowSame.refl d
    · split
      · exact Dev.ringSettle_low { d with descs := _ } _
      · exact LowSame.of_regs rfl

/-! Acknowledgements. -/

/-- A program but for its outstanding commands. -/
def Prog.idle (p : Prog) : Prog := { p with issued := [] }

theorem Dev.cmdDone_regs (d : Dev) (n id : Nat) (st : Status) : (d.cmdDone n id st).regs = d.regs := by
  unfold Dev.cmdDone; dsimp only; cases (d.core n).prog <;> rfl

theorem Dev.cmdDone_idle (d : Dev) (n id m : Nat) (st : Status) :
    ((d.cmdDone n id st).core m).prog.map Prog.idle = (d.core m).prog.map Prog.idle := by
  unfold Dev.cmdDone
  dsimp only
  cases h : (d.core n).prog with
  | none => rfl
  | some p =>
    by_cases hm : m = n
    · subst hm; simp [h, Prog.idle]
    · simp [Dev.core_setCore_ne _ _ hm]

/-- Of a descriptor or a tile program: an operation, and no access of a record. -/
def BtnSrc.own : BtnSrc → Bool
  | .desc _ | .tile _ _ => true
  | _ => false

theorem Dev.btnAck_low (d : Dev) (o : BtnOp) (st : Status) (a v : Nat) (ho : o.src.own = true) : LowSame d (d.btnAck o st a v) := by
  unfold Dev.btnAck
  split
  · exact Dev.descDone_low _ _ _ _ _
  · rename_i h; rw [h] at ho; cases ho
  · rename_i h; rw [h] at ho; cases ho
  · split
    · unfold Dev.postPut
      dsimp only
      split
      · rename_i h
        split at h
        · cases h; exact LowSame.of_regs (by rw [Dev.cmdDone_regs]; rfl)
        · cases h
      · exact LowSame.of_regs rfl
    · exact LowSame.of_regs (Dev.cmdDone_regs _ _ _ _)

theorem Dev.btnAck_idle (d : Dev) (o : BtnOp) (st : Status) (a v m : Nat) (ho : o.src.own = true) :
    ((d.btnAck o st a v).core m).prog.map Prog.idle = (d.core m).prog.map Prog.idle := by
  have hc : ∀ (n : Nat) (c : Core), c.prog = (d.core n).prog → (((d.setCore n c).core m).prog) = (d.core m).prog := by
    intro n c hp
    by_cases hm : m = n
    · subst hm; simp [hp]
    · rw [Dev.core_setCore_ne _ _ hm]
  unfold Dev.btnAck
  split
  · simp only [Dev.core, Dev.descDone_cores]
  · rename_i h; rw [h] at ho; cases ho
  · rename_i h; rw [h] at ho; cases ho
  · rename_i n id _
    split
    · unfold Dev.postPut
      dsimp only
      split
      · rename_i h
        split at h
        · cases h; rw [Dev.cmdDone_idle, hc]; rfl
        · cases h
      · rw [hc]; rfl
    · exact Dev.cmdDone_idle _ _ _ _ _

theorem idle_foldl {α : Type} (m : Nat) (f : Dev → α → Dev) (l : List α)
    (h : ∀ d, ∀ a ∈ l, ((f d a).core m).prog.map Prog.idle = (d.core m).prog.map Prog.idle) (d : Dev) :
    ((l.foldl f d).core m).prog.map Prog.idle = (d.core m).prog.map Prog.idle := by
  induction l generalizing d with
  | nil => rfl
  | cons a t ih => rw [List.foldl_cons, ih fun d b hb => h d b (by simp [hb]), h d a (by simp)]

theorem Dev.btnStands_low (d : Dev) (c : Nat) (p : BtnSrc → Bool) : LowSame d (d.btnStands c p) := by
  have h : LowSame d (d.btnOps c) := LowSame.setFld _ _ _ _ _ (by simp [RegPos.off]; omega)
  unfold Dev.btnStands
  dsimp only
  split
  · split
    · split
      · exact h.trans (LowSame.of_regs rfl)
      · exact h
    · exact LowSame.refl d
  · exact LowSame.refl d

theorem Dev.btnStands_cores (d : Dev) (c : Nat) (p : BtnSrc → Bool) : (d.btnStands c p).cores = d.cores := by
  unfold Dev.btnStands
  dsimp only
  split
  · split
    · split <;> rfl
    · rfl
  · rfl

/-- What a withdrawal answers is what it names. -/
theorem withdrawn_own {p : BtnSrc → Bool} (hp : ∀ o, p o = true → o.own = true) {a b : List BtnOp} {q : BtnOp → Bool} {o : BtnOp}
    (h : o ∈ (a.filter fun o => p o.src) ++ (b.filter fun o => p o.src && q o)) : o.src.own = true := by
  rcases List.mem_append.1 h with h | h
  · exact hp _ (List.mem_filter.1 h).2
  · exact hp _ (Bool.and_eq_true_iff.1 (List.mem_filter.1 h).2).1

theorem Dev.btnWithdraw_low (d : Dev) (p : BtnSrc → Bool) (st : Status) (hp : ∀ o, p o = true → o.own = true) : LowSame d (d.btnWithdraw p st) := by
  unfold Dev.btnWithdraw
  apply LowSame.foldl
  intro d c
  dsimp only
  refine LowSame.trans ((Dev.btnStands_low d c p).trans (LowSame.of_regs ?_))
    (LowSame.foldl_mem _ _ (fun d o h => Dev.btnAck_low d o _ _ _ (withdrawn_own hp h)) _)
  split <;> split <;> rfl

/-- Withdrawing waits leaves every program but for its outstanding commands. -/
theorem Dev.btnWithdraw_idle (d : Dev) (p : BtnSrc → Bool) (st : Status) (m : Nat) (hp : ∀ o, p o = true → o.own = true) :
    ((d.btnWithdraw p st).core m).prog.map Prog.idle = (d.core m).prog.map Prog.idle := by
  unfold Dev.btnWithdraw
  apply idle_foldl
  intro d c _
  dsimp only
  rw [idle_foldl m _ _ (fun d o h => Dev.btnAck_idle d o _ _ _ m (withdrawn_own hp h))]
  have h := Dev.btnStands_cores d c p
  split <;> split <;> simp only [Dev.core, Dev.setBq, Dev.setBw, h]

/-! Faults. -/

theorem Dev.coreFault_cores (d : Dev) (n : Nat) (st : Status) (a b c : Nat) : (d.coreFault n st a b c).cores = d.cores := by
  unfold Dev.coreFault; split <;> simp only [Dev.setFld_cores, Dev.setBit_cores]

theorem Dev.coreFault_low (d : Dev) (n : Nat) (st : Status) (a b c : Nat) : LowSame d (d.coreFault n st a b c) := by
  have h : ∀ f : Fld, f.pos = CORE_FAULT.pos → 0x80000 ≤ f.pos.off n 0 := by
    intro f hf; rw [hf]; simp [RegPos.off]; omega
  unfold Dev.coreFault
  split
  · exact LowSame.setBit _ _ _ _ _ (h _ rfl)
  · exact ((((LowSame.setBit _ _ _ _ _ (h _ rfl)).trans (LowSame.setFld _ _ _ _ _ (h _ rfl))).trans (LowSame.setFld _ _ _ _ _ (h _ rfl))).trans
      (LowSame.setFld _ _ _ _ _ (h _ rfl))).trans (LowSame.setFld _ _ _ _ _ (h _ rfl))

/-- Recording the fault of a program leaves the cores. -/
theorem Dev.faultRecord_cores (d : Dev) (n : Nat) (p : Prog) (st : Status) (a b c : Nat) :
    (if p.fenced then d else d.coreFault n st a b c).cores = d.cores := by
  split
  · rfl
  · exact Dev.coreFault_cores _ _ _ _ _ _

theorem Dev.faultRecord_low (d : Dev) (n : Nat) (p : Prog) (st : Status) (a b c : Nat) :
    LowSame d (if p.fenced then d else d.coreFault n st a b c) := by
  split
  · exact LowSame.refl d
  · exact Dev.coreFault_low _ _ _ _ _ _

/-- What a fault makes of a program: faulted with that status and DETAIL, nothing of it waits for issue, no loop is open (R124). -/
def Prog.stopped (p : Prog) (st : Status) (a : Nat) : Prog :=
  { p with faulted := some (st, a), loops := [], buf := [], arrQ := [], vecQ := [], dmaQ := [], syncQ := [] }

theorem tileOf_own (n : Nat) (o : BtnSrc) (h : (match o with | .tile c _ => c == n | _ => false) = true) : o.own = true := by
  cases o <;> first | rfl | cases h

/-- A program fault stops the program (R124). -/
theorem Dev.progFault_stops (d : Dev) (n : Nat) (st : Status) (a b c : Nat) (p : Prog) (hp : (d.core n).prog = some p) (hf : p.faulted = none) :
    ∃ q, ((d.progFault n st a b c).core n).prog = some q ∧ q.faulted = some (st, a) ∧ q.arrQ = [] ∧ q.vecQ = [] ∧ q.dmaQ = [] ∧ q.syncQ = [] ∧ q.loops = [] := by
  unfold Dev.progFault
  rw [hp]
  dsimp only
  rw [if_neg (by simp [hf])]
  generalize hd : (if p.fenced = true then d else d.coreFault n st a b c) = d1
  have h1 : (d1.core n).prog = some p := by rw [← hd, Dev.core, Dev.faultRecord_cores]; exact hp
  have h2 : ((d1.modProg n fun p => p.stopped st a).core n).prog = some (p.stopped st a) := Dev.modProg_prog _ n p _ h1
  change ∃ q, ((((d1.modProg n fun p => p.stopped st a).btnWithdraw _ _).modProg n _).core n).prog = some q ∧ _
  generalize (d1.modProg n fun p => p.stopped st a) = e at h2 ⊢
  have h3 := Dev.btnWithdraw_idle e (fun o => match o with | .tile c _ => c == n | _ => false) .deadline n (tileOf_own n)
  rw [h2] at h3
  obtain ⟨q, hq, he⟩ : ∃ q, ((e.btnWithdraw (fun o => match o with | .tile c _ => c == n | _ => false) .deadline).core n).prog = some q ∧
      Prog.idle q = Prog.idle (p.stopped st a) := by
    cases hq : ((e.btnWithdraw (fun o => match o with | .tile c _ => c == n | _ => false) .deadline).core n).prog with
    | none => rw [hq] at h3; cases h3
    | some q => rw [hq] at h3; exact ⟨q, rfl, by simpa using h3⟩
  refine ⟨_, Dev.modProg_prog _ n q _ hq, ?_⟩
  have g : ∀ {α : Type} (f : Prog → α), f (Prog.idle q) = f (Prog.idle (p.stopped st a)) := fun f => congrArg f he
  exact ⟨g (·.faulted), g (·.arrQ), g (·.vecQ), g (·.dmaQ), g (·.syncQ), g (·.loops)⟩

theorem Dev.modProg_low (d : Dev) (n : Nat) (f : Prog → Prog) : LowSame d (d.modProg n f) := LowSame.of_regs rfl

theorem Dev.progFault_low (d : Dev) (n : Nat) (st : Status) (a b c : Nat) : LowSame d (d.progFault n st a b c) := by
  unfold Dev.progFault
  split
  · exact LowSame.refl d
  · rename_i p _
    dsimp only
    have h := Dev.faultRecord_low d n p st a b c
    generalize (if p.fenced = true then d else d.coreFault n st a b c) = d1 at h ⊢
    split
    · exact h
    · exact h.trans ((Dev.modProg_low _ _ _).trans ((Dev.btnWithdraw_low _ _ _ (tileOf_own n)).trans (Dev.modProg_low _ _ _)))

end Sys2Proof.Machine
end

