-- ==== Sys2Proof/Laws/Array.lean ====
section
/-! SUPPORT. Arrays: what the shared operations leave of an array unit and of a DMA engine. -/

namespace Sys2Proof.Machine

theorem Dev.arr_of_core {d e : Dev} {n : Nat} (h : e.core n = d.core n) : e.arr n = d.arr n := congrArg Core.arr h

@[simp] theorem Dev.arr_modArr (d : Dev) (a : Nat) (f) : (d.modArr a f).arr a = f (d.arr a) := by simp [Dev.modArr]
@[simp] theorem Dev.arr_setDma (d : Dev) (n a : Nat) (e : Dma) : (d.setDma n e).arr a = d.arr a := by
  unfold Dev.arr Dev.setDma
  by_cases h : a = n
  · subst h; simp
  · rw [Dev.core_setCore_ne _ _ h]
@[simp] theorem Dev.dma_setArr (d : Dev) (a n : Nat) (u : ArrayUnit) : (d.setArr a u).dma n = d.dma n := by
  unfold Dev.dma Dev.setArr
  by_cases h : n = a
  · subst h; simp
  · rw [Dev.core_setCore_ne _ _ h]
@[simp] theorem Dev.dma_modArr (d : Dev) (a n : Nat) (f) : (d.modArr a f).dma n = d.dma n := by simp [Dev.modArr]

@[simp] theorem Dev.setArr_regs' (d : Dev) (a : Nat) (u : ArrayUnit) : (d.setArr a u).regs = d.regs := rfl
@[simp] theorem Dev.setArr_mem' (d : Dev) (a : Nat) (u : ArrayUnit) : (d.setArr a u).mem = d.mem := rfl
@[simp] theorem Dev.setArr_ns' (d : Dev) (a : Nat) (u : ArrayUnit) : (d.setArr a u).ns = d.ns := rfl
@[simp] theorem Dev.modArr_regs' (d : Dev) (a : Nat) (f : ArrayUnit → ArrayUnit) : (d.modArr a f).regs = d.regs := rfl
@[simp] theorem Dev.modArr_mem' (d : Dev) (a : Nat) (f : ArrayUnit → ArrayUnit) : (d.modArr a f).mem = d.mem := rfl
@[simp] theorem Dev.modArr_ns' (d : Dev) (a : Nat) (f : ArrayUnit → ArrayUnit) : (d.modArr a f).ns = d.ns := rfl
@[simp] theorem Dev.setDma_regs' (d : Dev) (a : Nat) (e : Dma) : (d.setDma a e).regs = d.regs := rfl
@[simp] theorem Dev.setDma_mem' (d : Dev) (a : Nat) (e : Dma) : (d.setDma a e).mem = d.mem := rfl
@[simp] theorem Dev.setDma_ns' (d : Dev) (a : Nat) (e : Dma) : (d.setDma a e).ns = d.ns := rfl
@[simp] theorem Dev.arrUsed_regs' (d : Dev) (a : Nat) : (d.arrUsed a).regs = d.regs := rfl
@[simp] theorem Dev.arrUsed_mem' (d : Dev) (a : Nat) : (d.arrUsed a).mem = d.mem := rfl
@[simp] theorem Dev.arrUsed_ns' (d : Dev) (a : Nat) : (d.arrUsed a).ns = d.ns := rfl
@[simp] theorem Dev.arrActive_regs' (d : Dev) (a : Nat) (c : ArrCmd) : (d.arrActive a c).regs = d.regs := rfl
@[simp] theorem Dev.arrActive_mem' (d : Dev) (a : Nat) (c : ArrCmd) : (d.arrActive a c).mem = d.mem := rfl
@[simp] theorem Dev.arrActive_ns' (d : Dev) (a : Nat) (c : ArrCmd) : (d.arrActive a c).ns = d.ns := rfl

/-- The end of a command leaves every array and every DMA engine. -/
@[simp] theorem Dev.arr_cmdDone (d : Dev) (n id a : Nat) (st : Status) : (d.cmdDone n id st).arr a = d.arr a := by
  unfold Dev.cmdDone Dev.arr
  dsimp only
  split
  · rfl
  · by_cases h : a = n
    · subst h; simp
    · rw [Dev.core_setCore_ne _ _ h]
@[simp] theorem Dev.dma_cmdDone (d : Dev) (n id a : Nat) (st : Status) : (d.cmdDone n id st).dma a = d.dma a := by
  unfold Dev.cmdDone Dev.dma
  dsimp only
  split
  · rfl
  · by_cases h : a = n
    · subst h; simp
    · rw [Dev.core_setCore_ne _ _ h]
theorem Dev.cmdDone_mem (d : Dev) (n id : Nat) (st : Status) : (d.cmdDone n id st).mem = d.mem := by
  unfold Dev.cmdDone; dsimp only; split <;> rfl

/-- Resolving a tie changes the arbiters alone. -/
theorem Dev.tie_only (d : Dev) (k : Nat) (l : List Nat) (x : Nat) (e : Dev) (h : d.tie k l = some (x, e)) : e = { d with arbs := e.arbs } := by
  unfold Dev.tie at h
  split at h
  · cases h
  · cases h; rfl

/-- Granting a port changes the arbiters alone. -/
theorem Dev.arrGrant_only (d : Dev) (a k op : Nat) (r : ArrCmd → Bool) (c : ArrCmd) (e : Dev) (h : d.arrGrant a k op r = some (c, e)) :
    e = { d with arbs := e.arbs } := by
  unfold Dev.arrGrant at h
  dsimp only at h
  split at h
  · cases h; rfl
  · split at h
    · cases h
    · rename_i i e' ht
      have := Dev.tie_only _ _ _ _ _ ht
      cases hc : (if i = 0 then _ else _ : Option ArrCmd) with
      | none => rw [hc] at h; cases h
      | some x => rw [hc] at h; cases h; exact this

/-- From d to e only registers change, and what the cycle notes of them. -/
def RegsOnly (d e : Dev) : Prop := ∃ r c, e = { d with regs := r, cyc := c }

theorem RegsOnly.refl (d : Dev) : RegsOnly d d := ⟨_, _, rfl⟩
theorem RegsOnly.setFld {d e : Dev} (h : RegsOnly d e) (f : Fld) (u i v : Nat) : RegsOnly d (e.setFld f u i v) := by
  obtain ⟨r, c, rfl⟩ := h; exact ⟨_, _, rfl⟩
theorem RegsOnly.setBit {d e : Dev} (h : RegsOnly d e) (f : Fld) (u i : Nat) (v : Bool) : RegsOnly d (e.setBit f u i v) := h.setFld f u i _

/-- An array error changes registers alone. -/
theorem Dev.raise_regs (d : Dev) (g : List Fld) (m : Fld) (u i : Nat) (b : Fld) (l : List (Fld × Nat)) : RegsOnly d (d.raise g m u i b l) := by
  unfold Dev.raise
  split
  · exact ((RegsOnly.refl d).setBit _ _ _ _).setBit _ _ _ _
  · have : ∀ (l : List (Fld × Nat)) (e : Dev), RegsOnly d e → RegsOnly d (l.foldl (fun e p => e.setFld p.1 u i p.2) e) := by
      intro l
      induction l with
      | nil => exact fun _ h => h
      | cons p t ih => exact fun e h => ih _ (h.setFld _ _ _ _)
    exact this _ _ ((RegsOnly.refl d).setBit _ _ _ _)

theorem Dev.arrErr_regs (d : Dev) (n : Nat) (b : Fld) : RegsOnly d (d.arrErr n b) := Dev.raise_regs _ _ _ _ _ _ _
theorem Dev.arrErrAt_regs (d : Dev) (n : Nat) (b : Fld) (s k : Nat) : RegsOnly d (d.arrErrAt n b s k) := by
  unfold Dev.arrErrAt
  dsimp only
  split
  · exact ((Dev.arrErr_regs d n b).setFld _ _ _ _).setFld _ _ _ _
  · exact Dev.arrErr_regs _ _ _

/-- The bit that an array error names is set. -/
theorem Dev.arrErrAt_bit (d : Dev) (n : Nat) (b : Fld) (s k : Nat) (h1 : b.fits = true) (h2 : b.w = 1) (h3 : ARR_ERR.FIRST_SLOT.apart b = true)
    (h4 : ARR_ERR.FIRST_BANK.apart b = true) : (d.arrErrAt n b s k).bit b n 0 = true := by
  have h : (d.arrErr n b).bit b n 0 = true := by
    unfold Dev.arrErr Dev.raise
    split
    · exact Dev.bit_setBit _ _ _ _ _ h1 h2
    · exact Dev.bit_setBit _ _ _ _ _ h1 h2
  unfold Dev.arrErrAt
  dsimp only
  split
  · rw [Dev.bit, Dev.fld_setFld_apart _ _ _ _ _ _ _ _ rfl h4, Dev.fld_setFld_apart _ _ _ _ _ _ _ _ rfl h3]; exact h
  · exact h

end Sys2Proof.Machine
end

