-- ==== Sys2Proof/Laws/Exec.lean ====
section
/-! SUPPORT. What every command's meaning is: one event of the block, or one of the root of trust. -/

namespace Sys2Proof.Machine

/-- Every command leads to a next state: that of an ordinary event, or of an event of the root of trust. -/
theorem exec_next (c : Instr) (s : State) :
    (∃ e : Dev, exec c s = .next { s with dev := s.dev.keep e }) ∨ ∃ e : Dev, exec c s = .next { s with dev := s.dev.keepClock e } := by
  cases c
  case registerWrite r t v =>
    by_cases h : targetBurns t = true
    · right; simp only [exec, execRegisterWrite, if_pos h]; exact ⟨_, rfl⟩
    · left; simp only [exec, execRegisterWrite, if_neg h]; exact ⟨_, rfl⟩
  case fwUpdate => exact Or.inr ⟨_, rfl⟩
  case commitSvn => exact Or.inr ⟨_, rfl⟩
  case revoke => exact Or.inr ⟨_, rfl⟩
  case debugUnlock => exact Or.inr ⟨_, rfl⟩
  all_goals exact Or.inl ⟨_, rfl⟩

/-- Burning fuses unburns none. -/
theorem Fuse.burnsTo_burn (f g : Fuse) : f.burnsTo (f.burn g) :=
  ⟨le_max_left _ _, le_max_left _ _, fun _ hi => List.mem_append_left _ hi, rfl, rfl, rfl, rfl⟩

theorem Fuse.burnsTo_refl (f : Fuse) : f.burnsTo f := ⟨le_refl _, le_refl _, fun _ hi => hi, rfl, rfl, rfl, rfl⟩

/-- A legal content stays legal as it burns. -/
theorem Fuse.legal_burn (f g : Fuse) (h : f.legal = true) : (f.burn g).legal = true := by
  simp only [Fuse.legal, Bool.and_eq_true, decide_eq_true_eq, List.all_eq_true] at h ⊢
  refine ⟨⟨⟨by simp [Fuse.burn]; exact h.1.1.1, by simp [Fuse.burn]; exact h.1.1.2⟩, fun i hi => ?_⟩, h.2⟩
  rcases List.mem_append.1 hi with hi | hi
  · exact h.1.2 i hi
  · have := (List.mem_filter.1 hi).2
    simp at this
    omega

end Sys2Proof.Machine
end

