-- ==== Sys2Proof/Laws/Fence.lean ====
section
/-! SUPPORT. What stopping a core leaves of the registers below the queue block, the fence registers among them. -/

namespace Sys2Proof.Machine

theorem Dev.raise_low (d : Dev) (g : List Fld) (m : Fld) (u i : Nat) (b : Fld) (l : List (Fld × Nat)) (hm : 0x80000 ≤ m.pos.off u i)
    (hb : 0x80000 ≤ b.pos.off u i) (hl : ∀ p ∈ l, 0x80000 ≤ p.1.pos.off u i) : LowSame d (d.raise g m u i b l) := by
  unfold Dev.raise
  split
  · exact (LowSame.setBit _ _ _ _ _ hm).trans (LowSame.setBit _ _ _ _ _ hb)
  · refine (LowSame.setBit d b u i true hb).trans ?_
    generalize d.setBit b u i true = e
    induction l generalizing e with
    | nil => exact LowSame.refl e
    | cons p t ih =>
      exact (LowSame.setFld _ _ _ _ _ (hl p (by simp))).trans (ih (fun q hq => hl q (by simp [hq])) _)

theorem Dev.coreReport_low (d : Dev) (t n : Nat) (st : Status) : LowSame d (d.coreReport t n st) := LowSame.of_regs rfl

theorem Dev.retireFenced_low (d : Dev) (n : Nat) (l : Launch) : LowSame d (d.retireFenced n l) := by
  unfold Dev.retireFenced
  dsimp only
  split
  · exact LowSame.refl d
  · split
    · exact Dev.coreReport_low _ _ _ _
    · split
      · exact LowSame.of_regs rfl
      · exact LowSame.setBit _ _ _ _ _ (by simp [RegPos.off]; omega)

theorem Dev.lqFenced_low (d : Dev) (n : Nat) : LowSame d (d.lqFenced n) := by
  unfold Dev.lqFenced
  exact LowSame.trans (LowSame.of_regs rfl) (LowSame.foldl _ (fun _ _ => Dev.retireFenced_low _ _ _) _ _)

theorem LowSame.setCore (d : Dev) (n : Nat) (c : Core) : LowSame d (d.setCore n c) := fun _ _ => rfl

/-- The retirement of a program that a fence stopped. -/
theorem Dev.progRetire_fenced_low (d : Dev) (n : Nat) (p : Prog) (hp : (d.core n).prog = some p) (hf : p.fenced = true) : LowSame d (d.progRetire n) := by
  unfold Dev.progRetire
  dsimp only
  rw [hp]
  simp only [hf, if_true]
  split
  · exact ((LowSame.setCore d n _).trans (Dev.retireFenced_low _ n p.launch)).trans (Dev.lqFenced_low _ n)
  · exact LowSame.refl d

theorem Dev.mboxStop_low (d : Dev) (n : Nat) (st : Status) : LowSame d (d.mboxStop n st) := by
  unfold Dev.mboxStop
  exact LowSame.trans (LowSame.of_regs rfl) (LowSame.foldl _ (fun _ _ => Dev.coreReport_low _ _ _ _) _ _)

theorem Dev.seqFenced_low (d : Dev) (n : Nat) : LowSame d (d.seqFenced n) := by
  unfold Dev.seqFenced
  split
  · exact Dev.lqFenced_low _ _
  · rename_i p hp
    exact (Dev.modProg_low _ _ _).trans (Dev.progRetire_fenced_low _ n p.stop (Dev.modProg_prog _ _ _ _ hp) rfl)

theorem Dev.seqReset_low (d : Dev) (n : Nat) (st : Status) : LowSame d (d.seqReset n st) := by
  unfold Dev.seqReset
  exact LowSame.trans (LowSame.of_regs rfl) (LowSame.foldl _ (fun _ _ => Dev.coreReport_low _ _ _ _) _ _)

theorem Dev.seqStop_low (d : Dev) (n : Nat) (st : Status) : LowSame d (d.seqStop n st) := by
  unfold Dev.seqStop
  dsimp only
  have h : ∀ e : Dev, LowSame e (if st = .fencedUnit then e.seqFenced n else e.seqReset n st) := by
    intro e
    split
    · exact Dev.seqFenced_low _ _
    · exact Dev.seqReset_low _ _ _
  exact ((Dev.btnWithdraw_low d _ st (tileOf_own n)).trans (Dev.mboxStop_low _ n st)).trans (h _)

theorem Dev.chkDrop_low (d : Dev) (u : Nat) : LowSame d (d.chkDrop u) := by
  have h : ∀ f : Fld, f.pos = CHK_CFG.pos → 0x80000 ≤ f.pos.off u 0 := by intro f hf; rw [hf]; simp [RegPos.off]; omega
  unfold Dev.chkDrop Dev.chkSnoopSettle
  dsimp only
  refine ((LowSame.setBit d CHK_CFG.CLAIMED u 0 false (h _ rfl)).trans (LowSame.setFld _ CHK_CFG.CLAIMER u 0 0 (h _ rfl))).trans ?_
  generalize (d.setBit CHK_CFG.CLAIMED u 0 false).setFld CHK_CFG.CLAIMER u 0 0 = e
  split
  · unfold Dev.chkTake
    dsimp only
    have hv : 0x80000 ≤ CHK_VAL.VAL.pos.off u 0 := by simp [RegPos.off]; omega
    refine LowSame.trans ((LowSame.setBit e CHK_CFG.CLAIMED u 0 true (h _ rfl)).trans (LowSame.setFld _ CHK_CFG.CLAIMER u 0 8 (h _ rfl))) ?_
    refine LowSame.trans (b := if ((e.setBit CHK_CFG.CLAIMED u 0 true).setFld CHK_CFG.CLAIMER u 0 8).bit CHK_CFG.CONTINUE u 0 = true then _ else _) ?_ (LowSame.of_regs rfl)
    split
    · split
      · split
        · exact LowSame.setFld _ _ _ _ _ hv
        · exact LowSame.refl _
      · exact LowSame.refl _
    · exact LowSame.setFld _ _ _ _ _ hv
  · split
    · exact (LowSame.setBit _ CHK_CFG.CLAIMED u 0 _ (h _ rfl)).trans (LowSame.setFld _ CHK_CFG.CLAIMER u 0 _ (h _ rfl))
    · exact LowSame.refl e

theorem Dev.dmaStop_low (d : Dev) (n : Nat) (st : Status) : LowSame d (d.dmaStop n st) := by
  unfold Dev.dmaStop
  dsimp only
  refine LowSame.trans (b := if (d.dma n).held.any (·.chk) then d.chkDrop (clusterOf n) else d) ?_ ?_
  · split
    · exact Dev.chkDrop_low _ _
    · exact LowSame.refl d
  · refine LowSame.trans (LowSame.of_regs rfl) (LowSame.foldl _ ?_ _ _)
    intro d i; exact LowSame.of_regs (Dev.cmdDone_regs _ _ _ _)

theorem Dev.arrServerStop_low (d : Dev) (a : Nat) : LowSame d (d.arrServerStop a) := by
  have hp : ∀ f : Fld, f.pos = ARR_ERR.pos → 0x80000 ≤ f.pos.off (partnerOf a) 0 := by intro f hf; rw [hf]; simp [RegPos.off]; omega
  unfold Dev.arrServerStop
  dsimp only
  generalize hd : (d.modArr a fun u => { u with cmds := u.cmds.filter fun c => !c.partner, runs := u.runs.filter fun r => !r.cmd.partner }) = d1
  have h1 : LowSame d d1 := by rw [← hd]; exact LowSame.of_regs rfl
  have h2 : LowSame d (if d1.serving a = true then d1.modArr a ArrayUnit.giveBack else d1) := by
    split
    · exact h1.trans (LowSame.of_regs rfl)
    · exact h1
  generalize (if d1.serving a = true then d1.modArr a ArrayUnit.giveBack else d1) = e at h2 ⊢
  split
  · exact h2
  · refine h2.trans (LowSame.trans ?_ (Dev.progFault_low _ _ _ _ _ _))
    refine LowSame.trans (b := e.arrErr (partnerOf a) ARR_ERR.UNAVAILABLE)
      (Dev.raise_low _ _ _ _ _ _ _ (hp _ rfl) (hp _ rfl) (fun p h => by cases h)) (LowSame.foldl _ ?_ _ _)
    intro d i; exact LowSame.of_regs (Dev.cmdDone_regs _ _ _ _)

theorem LowSame.setCore2 (d : Dev) (n : Nat) (c : Core) (f : Cp → Cp) : LowSame d ((d.setCore n c).modCp n f) := LowSame.of_regs rfl

/-- Ending an owner's array commands leaves the registers below the queue block. -/
theorem Dev.arrOwnerStop_low (d : Dev) (n : Nat) : LowSame d (d.arrOwnerStop n) := by
  unfold Dev.arrOwnerStop
  dsimp only
  generalize (d.arr (d.arrOf n)).cmds.filter _ = l
  refine LowSame.trans ?_ (LowSame.foldl _ (fun e c => LowSame.of_regs (Dev.cmdDone_regs e n c.id .ok)) l _)
  exact LowSame.of_regs rfl

/-- Beginning to fence sets the fence registers. -/
theorem Dev.fenceBegin_fields (d : Dev) (n : CoreId) (auto : Bool) : (d.fenceBegin n auto).fenceState n = 1 ∧
    (d.fenceBegin n auto).bit RST_FENCE.FENCE n 0 = true ∧ (d.fenceBegin n auto).bit RST_FENCE.AUTO n 0 = auto ∧
    ((d.fenceBegin n auto).core n).cp.stopped = true := by
  have hl : LowSame ((((d.setBit RST_FENCE.FENCE n 0 true).setFld RST_FENCE.STATE n 0 1).setBit RST_FENCE.AUTO n 0 auto).count RST_FENCE.FENCES n 0 1)
      (d.fenceBegin n auto) := by
    unfold Dev.fenceBegin
    dsimp only
    generalize (((d.setBit RST_FENCE.FENCE n 0 true).setFld RST_FENCE.STATE n 0 1).setBit RST_FENCE.AUTO n 0 auto).count RST_FENCE.FENCES n 0 1 = x
    generalize x.fenceStatus n = st
    refine LowSame.trans ?_ (LowSame.setCore2 _ _ _ _)
    exact (((LowSame.of_regs rfl : LowSame x (x.attnLose n st)).trans (Dev.seqStop_low _ _ _)).trans (Dev.arrOwnerStop_low _ _)).trans
      (Dev.arrServerStop_low _ _)
  have ho : ∀ f : Fld, f.pos = RST_FENCE.pos → f.pos.off n 0 < 0x80000 := by
    intro f hf; rw [hf]; have := n.isLt; simp [RegPos.off]; omega
  refine ⟨?_, ?_, ?_, ?_⟩
  · rw [Dev.fenceState, hl.fld _ _ _ (ho _ rfl), Dev.count, Dev.fld_setFld_apart _ _ _ _ _ _ _ _ rfl rfl, Dev.setBit, Dev.fld_setFld_apart _ _ _ _ _ _ _ _ rfl rfl, Dev.fld_setFld _ _ _ _ _ rfl]
    rfl
  · rw [Dev.bit, hl.fld _ _ _ (ho _ rfl), Dev.count, Dev.fld_setFld_apart _ _ _ _ _ _ _ _ rfl rfl, Dev.setBit, Dev.fld_setFld_apart _ _ _ _ _ _ _ _ rfl rfl, Dev.fld_setFld_apart _ _ _ _ _ _ _ _ rfl rfl, Dev.setBit, Dev.fld_setFld _ _ _ _ _ rfl]
    rfl
  · rw [Dev.bit, hl.fld _ _ _ (ho _ rfl), Dev.count, Dev.fld_setFld_apart _ _ _ _ _ _ _ _ rfl rfl, Dev.setBit, Dev.fld_setFld _ _ _ _ _ rfl]
    cases auto <;> rfl
  · simp [Dev.fenceBegin, Dev.modCp]

/-! The image copy. -/

/-- Copying m intact codewords of an image half: they stand in the store, nothing else has changed. -/
theorem copy_run (n dd src : Nat) (m : Nat) (hm : m ≤ 2048) (d : Dev) (h : src + 65536 ≤ lsSize) (hs : lsAddr n src % 32 = 0) (hn : n < 256) (hi : d.intact (lsAddr n src) 65536) :
    let r := (List.range m).foldl (copyCw n dd src) (false, d)
    r.1 = false ∧ (∀ k, r.2.byte k = if storeKey n dd 0 ≤ k ∧ k < storeKey n dd 0 + 32 * m then d.byte (lsAddr n (src + (k - storeKey n dd 0))) else d.byte k) ∧
    (∀ c, Tbl.get 0 r.2.chk c = if storeKey n dd 0 / 32 ≤ c ∧ c < storeKey n dd 0 / 32 + m then 0 else Tbl.get 0 d.chk c) ∧
    r.2.cores = d.cores ∧ r.2.regs = d.regs := by
  have hsk : storeKey n dd 0 % 32 = 0 := by unfold storeKey; omega
  induction m with
  | zero => exact ⟨rfl, fun k => by rw [if_neg (by omega)]; rfl, fun c => by rw [if_neg (by omega)]; rfl, rfl, rfl⟩
  | succ m ih =>
    have ih := ih (by omega)
    dsimp only at ih ⊢
    rw [List.range_succ, List.foldl_append]
    set r := (List.range m).foldl (copyCw n dd src) (false, d)
    obtain ⟨h1, h2, h3, h4, h5⟩ := ih
    have hint : r.2.intact (lsAddr n (src + 32 * m)) 32 := by
      intro cw hcw
      rw [h3]
      split
      · rfl
      · refine hi cw ?_
        rw [mem_cwsOf] at hcw ⊢
        unfold lsAddr at *
        omega
    have hbyte : ∀ i, i < 32 → r.2.byte (lsAddr n (src + 32 * m) + i) = d.byte (lsAddr n (src + 32 * m) + i) := by
      intro i hi'
      rw [h2, if_neg]
      unfold storeKey lsAddr; unfold lsSize at h; omega
    simp only [List.foldl_cons, List.foldl_nil]
    have e1 : copyCw n dd src r m = (r.1 || Status.ok != .ok, r.2.write (storeKey n dd (32 * m)) ((List.range 32).map fun i => ⟨r.2.byte (lsAddr n (src + 32 * m) + i), false⟩)) := by
      unfold copyCw
      rw [if_pos (by omega), Dev.lsRead_intact _ _ _ _ hint]
    rw [e1]
    have hsm : storeKey n dd (32 * m) = storeKey n dd 0 + 32 * m := by unfold storeKey; omega
    rw [hsm]
    have hw := Dev.write_cw r.2 (storeKey n dd 0 + 32 * m) ((List.range 32).map fun i => ⟨r.2.byte (lsAddr n (src + 32 * m) + i), false⟩) (by omega) (by simp [anyPoison]) (by simp)
    refine ⟨by rw [h1]; rfl, fun k => ?_, fun c => ?_, ?_, ?_⟩
    · rw [hw.1, h2]
      by_cases hk : storeKey n dd 0 + 32 * m ≤ k ∧ k < storeKey n dd 0 + 32 * m + 32
      · obtain ⟨i, rfl⟩ : ∃ i, k = storeKey n dd 0 + 32 * m + i := ⟨k - (storeKey n dd 0 + 32 * m), by omega⟩
        have hi' : i < 32 := by omega
        rw [if_pos hk, if_pos (by omega)]
        have e1 : storeKey n dd 0 + 32 * m + i - (storeKey n dd 0 + 32 * m) = i := by omega
        rw [e1]
        simp only [List.getD_eq_getElem?_getD, List.getElem?_map, List.getElem?_range hi', Option.map_some, Option.getD_some]
        rw [hbyte i hi']
        congr 1; unfold lsAddr; omega
      · rw [if_neg hk]
        by_cases hk2 : storeKey n dd 0 ≤ k ∧ k < storeKey n dd 0 + 32 * m
        · rw [if_pos hk2, if_pos (by omega)]
        · rw [if_neg hk2, if_neg (by omega)]
    · rw [hw.2, h3]
      by_cases hc : c = (storeKey n dd 0 + 32 * m) / 32
      · rw [if_pos hc, if_pos (by omega)]
      · rw [if_neg hc]
        by_cases hc2 : storeKey n dd 0 / 32 ≤ c ∧ c < storeKey n dd 0 / 32 + m
        · rw [if_pos hc2, if_pos (by omega)]
        · rw [if_neg hc2, if_neg (by omega)]
    · rw [Dev.write_eq]; exact h4
    · rw [Dev.write_eq]; exact h5

/-- Copying an intact image half. -/
theorem Dev.copyHalf_intact (d : Dev) (n dd src : Nat) (h : src + 65536 ≤ lsSize) (hs : lsAddr n src % 32 = 0) (hn : n < 256)
    (hi : d.intact (lsAddr n src) 65536) :
    (d.copyHalf n dd src).1 = false ∧
    (∀ k, (d.copyHalf n dd src).2.byte k =
      if storeKey n dd 0 ≤ k ∧ k < storeKey n dd 0 + 65536 then d.byte (lsAddr n (src + (k - storeKey n dd 0))) else d.byte k) ∧
    (∀ c, Tbl.get 0 (d.copyHalf n dd src).2.chk c =
      if storeKey n dd 0 / 32 ≤ c ∧ c < storeKey n dd 0 / 32 + 2048 then 0 else Tbl.get 0 d.chk c) ∧
    (d.copyHalf n dd src).2.cores = d.cores ∧ (d.copyHalf n dd src).2.regs = d.regs := by
  have key := copy_run n dd src 2048 (le_refl _) d h hs hn hi
  unfold Dev.copyHalf
  generalize (List.range 2048).foldl (copyCw n dd src) (false, d) = r at key ⊢
  simp only [Nat.reduceMul] at key
  exact key

end Sys2Proof.Machine
end

