-- ==== Sys2Proof/Laws/Network.lean ====
section
/-! SUPPORT. What a flit built by the model is (R21). -/

open Sys2Proof.Machine

namespace Sys2Proof.Laws

/-- The sideband of a flit built from a payload and bits [15:0], as a number. -/
theorem flitOf_side (p : BitVec 512) (low : Nat) : (flitOf p low).side.toNat = low % 65536 + 65536 * (Config.fcheck p (BitVec.ofNat 16 low)).toNat := by
  have hc := (Config.fcheck p (BitVec.ofNat 16 low)).isLt
  simp [flitOf]; omega

/-- A flit the model builds carries the FCHECK of its contents. -/
theorem flitOf_ok (p : BitVec 512) (low : Nat) : flitOk (flitOf p low) = true := by
  have hc := (Config.fcheck p (BitVec.ofNat 16 low)).isLt
  have h2 : (flitOf p low).side.setWidth 16 = BitVec.ofNat 16 low := by
    apply BitVec.eq_of_toNat_eq; simp [BitVec.toNat_setWidth, flitOf_side]
  have h3 : bitsOf (flitOf p low).side.toNat 16 16 = (Config.fcheck p (BitVec.ofNat 16 low)).toNat := by
    rw [flitOf_side]; simp [bitsOf]; omega
  simp [flitOk, h2, h3]; simp [flitOf]

end Sys2Proof.Laws
end

