-- ==== Sys2Proof/WellFormed.lean ====
section
/-! DEFINITION. Which commands are well-formed: operands within the ranges their row gives. Fields whose type is already the range (Fin, BitVec) need no check. -/

namespace Sys2Proof

/-- A register access names a BAR0 offset (16 MiB, R35), of any size: R10 says what a wrong one does; or a CSR, by its 12-bit number. -/
def RegTarget.ok : RegTarget → Bool
  | .bar0 off _ => decide (off < 2 ^ 24)
  | .csr _ num _ => decide (num < 4096)

/-- Input ports of a router (R31). -/
def RouterId.ports : RouterId → Nat
  | .cluster _ => 22
  | .base _ => 10
  | .io => 16

/-- A request moves at least one byte within the 52-bit address space (R32), and a write carries its bytes. -/
def MemReq.ok (q : MemReq) : Bool := decide (1 ≤ q.len) && decide (q.addr + q.len ≤ 2 ^ 52) && (!q.write || q.data.length == q.len)

/-- A bit error lies in one of the 272 bits of a codeword (R449). -/
def BitFlip.ok (f : BitFlip) : Bool := decide (f.bit < 272)

/-- A request at a local-store bank lies in one 64 B line, and a write carries its bytes (R108, R109). -/
def LsReq.ok (q : LsReq) : Bool := decide (1 ≤ q.len) && decide (q.addr % 64 + q.len ≤ 64) && (!q.write || q.data.length == q.len)

/-- Reductions carry whole 4 B elements, aligned (R224). -/
def redOk (addr : Nat) (data : List PByte) : Bool := decide (1 ≤ data.length) && data.length % 4 == 0 && addr % 4 == 0

/-- A CXL.mem access lies in one 64 B line (R314). -/
def inHostLine (hpa len : Nat) : Bool := decide (1 ≤ len) && decide (hpa % 64 + len ≤ 64)

/-- A pair that begins with a core number. -/
def onCore (p : Nat × Nat) : Bool := decide (p.1 < 256)

/-- The command's operands are within their ranges. -/
def Instr.wf : Instr → Bool
  | .registerWrite _ t _ => t.ok
  | .clearingRead _ t => t.ok
  | .flitForward router arrivals => arrivals.all fun a => decide (a.port < router.ports) && decide (a.lane < 16)
  | .cpDeviceAccess _ _ _ _ size _ _ => size == 1 || size == 2 || size == 4 || size == 8
  | .lsAccess _ _ reqs => reqs.all LsReq.ok
  | .rowMoveComplete _ flips => flips.all BitFlip.ok
  | .netRequest _ req => req.ok
  | .rowRequest _ row => decide (row < 2 ^ 23)
  | .regionRead _ req => req.ok && !req.write
  | .regionWrite _ req => req.ok && req.write
  | .addFp32 _ _ addr data _ => redOk addr data
  | .addInt32 _ _ addr data _ => redOk addr data
  | .maxFp32 _ _ addr data _ => redOk addr data
  | .maxInt32 _ _ addr data _ => redOk addr data
  | .batonRecordLoad _ _ size _ => size == 4 || size == 8 || size == 1 || size == 2
  | .cxlMemRead _ hpa len _ => inHostLine hpa len
  | .cxlMemWrite _ hpa data => inHostLine hpa data.length
  | .inboundUio _ write _ len data => decide (1 ≤ len) && (!write || data.length == len)
  | .relayChunk _ chunk => decide (1 ≤ chunk.length)
  | .gddrRead req _ flips => req.ok && !req.write && flips.all BitFlip.ok
  | .gddrWrite req => req.ok && req.write
  | .housekeepingRound round => (round.readings.all fun p => decide (p.1 < 1924)) && round.badHubs.all fun h => decide (h < 16)
  | .patrolScrub _ _ flips _ _ => flips.all BitFlip.ok
  | .laneRetire router port lane => decide (port < router.ports) && decide (lane < 16)
  | .stepD2dTraining _ bad => bad.all fun p => decide (p.1 < 16) && decide (p.2 < 13)
  | .stepVerticalTest _ badConns badCmd badLanes badColumnLinks => (badConns.all onCore) && (badCmd.all onCore) && (badLanes.all onCore) && badColumnLinks.all fun c => decide (c < 128)
  | .stepStackCalibration _ uncal _ => uncal.all onCore
  | .stepMemoryTest _ defects => defects.all fun p => p.2.all fun b => decide (b < 272)
  | .callRoom _ _ _ | .spdmGetVersion _ | .spdmGetCapabilities _ | .spdmNegotiateAlgorithms _ | .spdmGetDigests _ | .spdmGetCertificate _ _ _ _
    | .spdmChallenge _ _ | .spdmGetMeasurements _ _ _ | .spdmKeyExchange _ | .spdmFinish _ | .spdmHeartbeat _ | .spdmKeyUpdate _ | .spdmEndSession _
    | .ideQuery _ | .ideKeyProg _ _ _ _ | .ideKSetGo _ _ _ | .ideKSetStop _ _ _ | .cdatTableAccess _ | .load _ | .run _ | .runStart _ | .arrayStall _
    | .groupRelease _ _ | .accumulatorWrite _ | .drain _ | .targetChange _ | .arrayIdle _ | .arraySleep _ | .arrayWake _ | .endWord _ | .nop _ | .seta _
    | .adda _ | .setp _ | .loop _ | .post _ | .dma _ | .batonWordSignal _ | .batonWordWait _ | .batonWordSwap _ | .batonWordHandoff _ | .vopAdd _
    | .vopSub _ | .vopMul _ | .vopFma _ | .vopMax _ | .vopMin _ | .vopExp2 _ | .vopExp _ | .vopRcp _ | .vopRsqrt _ | .vopSilu _ | .vopCvt _ | .vopMxq _
    | .vopHsum _ | .vopHmax _ | .vopHdot _ | .vopCopy _ | .commandIssue _ | .commandComplete _ _ | .programRetire _ | .watchdogExpire _
    | .dxlaunchWrite _ _ _ | .dxgateWrite _ _ _ _ | .dxretireRead _ | .dxpostRead _ _ | .dxdoneWrite _ _ _ | .dxlheadWrite _ _ _ | .machineTimer _
    | .mailboxDeliver _ | .directLaunch _ | .launchReport _ | .cpStart _ _ _ | .imageCopyDone _ | .seqAbort _ _ | .cpHalt _ | .dmaCopy _ _ _
    | .dmaWeight _ _ | .dmaInput _ _ | .dmaReduce _ _ _ | .tileEmit _ | .descriptorComplete _ _ | .chkClaim _ _ | .act _ | .rd _ | .wr _ | .refpb _
    | .sre _ | .srx _ | .mrw _ | .refreshDue _ _ _ | .bandApply _ | .trackerDecay _ | .narrowModeSwitch _ | .forceNarrow _ _ | .trackClear _ _
    | .bsuCommand _ _ _ | .bsuFill _ _ _ | .bsuRmax _ _ _ | .bsuRsum _ _ _ | .bsuExps _ _ _ | .bsuScale _ _ _ | .bsuSvwr _ _ _ | .bsuSvset _ _ _
    | .bsuStart _ | .bsuComplete _ | .stallLimitExpire _ | .cacheFill _ _ _ | .prefetch _ _ _ _ | .clean _ _ | .flush _ _ | .invalidate _ _
    | .discard _ _ | .sethint _ _ _ | .partitionChange _ _ _ | .partitionChangeDone _ | .trapClear _ _ | .kvMap _ _ | .kvMapRelease _ | .kvMapInval _
    | .attnStep _ | .append _ | .score _ | .pageWalk _ _ _ _ _ | .labInv _ _ | .ringEnable _ _ | .ringDisable _ _ | .doorbellRead _ _ | .doorbellSnoop _
    | .doorbellPoll _ _ | .descriptorFetch _ _ | .copy _ _ | .copyConvert _ _ | .tileLaunch _ | .batonSignalAdd _ | .batonSignalSet _ | .batonWait _
    | .batonWaitHandoff _ | .cacheRange _ _ | .reduceInto _ _ | .chkRun _ _ | .bsuBroadcast _ | .relayDown _ | .relayUp _ | .relayUpEmpty _
    | .queueNop _ | .fence _ | .completionPost _ _ | .msixSend _ | .msixUnmask _ | .batonAdd _ _ | .batonSet _ _ | .batonWaitOp _ _ | .batonHandoff _ _
    | .batonRelease _ | .batonTimeout _ | .portTimerExpire _ | .birspi _ | .cxlCacheSnoop _ | .uioTimeout _ | .uioRetry _ | .relayDeadline _
    | .hdmCommit _ _ _ _ | .configRequest _ _ _ | .linkUp _ _ _ | .getLog _ _ _ | .getEventRecords _ | .clearEventRecords _ _ _
    | .setEventInterruptPolicy _ | .setTimestamp _ | .gddrRetry _ _ | .gddrRetrain _ _ | .wcbDrain _ _ _ | .strapSample _ _ | .modEn _ _
    | .thermtrip _ _ _ | .mctpMessage _ _ _ | .pldmRequest _ _ _ | .setEndpointId _ _ | .pldmEffecter _ _ _ | .pmbusPoll _ _ _ _ | .domainRequest _ _ _
    | .rampUpDone _ _ | .domainDrainEnd _ _ | .rampDownDone _ | .wake _ | .operatingPointChange _ | .powerSample _ _ _ | .presetWrite _ _
    | .sagSample _ _ | .throttleStep _ | .modelUpdate _ | .slowclkCount _ | .forceHold _ _ | .d2dFrame _ _ _ _ | .d2dReplay _ _ | .serviceReady _
    | .bootFault _ | .stepComplete _ | .coreFence _ _ | .coreQuiesced _ | .coreRejoin _ _ | .rejoinComplete _ | .coreReset _ _ | .clusterReset _ _
    | .partitionReset _ _ | .dieReset _ _ | .deviceReset _ | .partitionWrite _ _ _ | .freeze _ _ _ | .fwUpdate _ _ | .commitSvn _ _
    | .layerCalibration _ _ | .gddrRefresh _ _ | .uioCompletion _ _ _ | .cpInstruction _ _ | .pmbAlert _ _ | .revoke _ _ | .chkSnoopEnable _ _
    | .jtagBypass _ | .jtagSamplePreload _ | .coolantWrite _ _ | .spareSwap _ | .parityAlert _ _ _ | .d2dHardFault _ _ _ | .pmcWrap _ _
    | .debugUnlock _ _ | .attnMax | .normalise | .output | .attnStepComplete | .descriptorStart | .recallGo | .chunkExpire | .linkDown | .ideMacFail
    | .identify | .getSupportedLogs | .getEventInterruptPolicy | .getTimestamp | .identifyMemoryDevice | .auxPowerUp | .auxPowerDown | .pwrGoodRise
    | .pwrGoodTimeout | .pwrGoodFall | .modIdHigh | .perstDeassert | .perstAssert | .tripClear | .alertResponse | .jtagIdcode | .jtagExtest
    | .coolantStale | .rampGrant | .park | .budgetTrimStep | .haltModuleOff | .rate1sUpdate | .coolingDegraded | .paceStart | .pacePreset
    | .paceSpreadStep | .splitData | .splitCheck | .splitRaw | .splitRead | .lapSample | .stepRails | .stepClocks | .stepFill | .stepCacheInit
    | .stepFirmwareLoad | .stepFabricJoin | .stepTimeout | .resetApplied | .sensorRefresh | .lifeSecond | .lifeUpdate | .lifeFlush | .weekEnd
    | .nonceGen | .slowclkLost | .paceEntryEnd | .doeDiscovery => true

end Sys2Proof
end

