-- ==== Sys2Proof/Tests/Slice0.lean ====
section
/-! SUPPORT. Tests: ill-formed commands that the checks refuse, small steps with results worked out from the spec, and witnesses for the hypotheses of the statements. -/

namespace Sys2Proof.Tests

open Sys2Proof.Machine

/-! One ill-formed command for each check. -/

theorem smoke_registerWrite_bar0 : (Instr.registerWrite .mgmt (.bar0 0x1000000 8) 0).wf = false := by decide
theorem smoke_clearingRead_csr : (Instr.clearingRead (.cp 0) (.csr 0 4096 false)).wf = false := by decide
theorem smoke_flitForward_port : (Instr.flitForward (.base 0) [⟨10, 0, ⟨0, 0⟩⟩]).wf = false := by decide
theorem smoke_netRequest_empty : (Instr.netRequest 0 ⟨0, false, 0, 0, [], 0⟩).wf = false := by decide
theorem smoke_regionRead_write : (Instr.regionRead 0 ⟨0, true, 0, 1, [⟨0, false⟩], 0⟩).wf = false := by decide
theorem smoke_regionWrite_data : (Instr.regionWrite 0 ⟨0, true, 0, 2, [⟨0, false⟩], 0⟩).wf = false := by decide
theorem smoke_gddrRead_flip : (Instr.gddrRead ⟨0, false, 0, 32, [], 0⟩ false [⟨0, 272⟩]).wf = false := by decide
theorem smoke_gddrWrite_read : (Instr.gddrWrite ⟨0, false, 0, 32, [], 0⟩).wf = false := by decide
theorem smoke_rowMove_flip : (Instr.rowMoveComplete 0 [⟨0, 300⟩]).wf = false := by decide
theorem smoke_patrol_flip : (Instr.patrolScrub 0 0 [⟨0, 272⟩] false false).wf = false := by decide
theorem smoke_lsAccess_line : (Instr.lsAccess 0 0 [⟨0, false, 60, 8, []⟩]).wf = false := by decide
theorem smoke_cpDeviceAccess_size : (Instr.cpDeviceAccess 0 false false 0 3 0 []).wf = false := by decide
theorem smoke_addFp32_odd : (Instr.addFp32 0 0 0 [⟨0, false⟩] 0).wf = false := by decide
theorem smoke_addInt32_address : (Instr.addInt32 0 0 2 (List.replicate 4 ⟨0, false⟩) 0).wf = false := by decide
theorem smoke_maxFp32_empty : (Instr.maxFp32 0 0 0 [] 0).wf = false := by decide
theorem smoke_maxInt32_odd : (Instr.maxInt32 0 0 0 [⟨0, false⟩] 0).wf = false := by decide
theorem smoke_cxlMemRead_line : (Instr.cxlMemRead 0 32 64 .shared).wf = false := by decide
theorem smoke_cxlMemWrite_empty : (Instr.cxlMemWrite 0 0 []).wf = false := by decide
theorem smoke_inboundUio_data : (Instr.inboundUio 0 true 0 4 []).wf = false := by decide
theorem smoke_relayChunk_empty : (Instr.relayChunk 0 []).wf = false := by decide
theorem smoke_laneRetire_port : (Instr.laneRetire (.cluster 0) 22 0).wf = false := by decide
theorem smoke_d2dTraining_lane : (Instr.stepD2dTraining .mgmt [(0, 13)]).wf = false := by decide
theorem smoke_verticalTest_column : (Instr.stepVerticalTest .mgmt [] [] [] [128]).wf = false := by decide
theorem smoke_calibration_core : (Instr.stepStackCalibration .mgmt [(256, 0)] 0).wf = false := by decide
theorem smoke_round_sensor : (Instr.housekeepingRound ⟨[(1924, 0)], []⟩).wf = false := by decide
theorem smoke_recordLoad_size : (Instr.batonRecordLoad 0 0 3 false).wf = false := by decide
theorem smoke_rowRequest_row : (Instr.rowRequest 0 (2 ^ 23)).wf = false := by decide

set_option Elab.async false

/-! Small states for the witnesses: the device after reset, with what a case needs. -/

/-- A state of a device, with no command waiting. -/
def wS (d : Dev) : State := ⟨[], d⟩
/-- A program at address 0, with one word in its decode buffer. -/
def wProg (w : Nat) : Prog := ⟨0, ⟨0, 0, false, false, 0, false⟩, false, none, [], 0, 0, 0, [], [], [], [], [], [], 0, [(0, w, false)], [], 0⟩
/-- The device with core 0 in a state. -/
def wCore (f : Core → Core) : Dev := Dev.reset.setCore 0 (f Core.init)
/-- The device with domain k ON. -/
def wDom (d : Dev) (k : Nat) : Dev := d.setFld PWR_DOM.STATE k 0 2
/-- The device with core 0 in service and its domain ON. -/
def wServe (d : Dev) : Dev := (wDom d 0).setFld RST_FENCE.STATE 0 0 0
/-- Core 0 runs a program. -/
def wRun (p : Prog) : Dev := wCore fun c => { c with prog := some p }
/-- A command of a tile program. -/
def wCmd (w : Nat) : TileCmd := ⟨0, BitVec.ofNat 64 w, 0, [], 0, 0, 0⟩

/-! The spec's own worked examples. -/

/-- "One stack codeword": zero data at 0x780_4400, tag bits [36:5] of the address. -/
theorem test_codeword : hxCheck (List.replicate 32 0) (0x78004400 / 32) = 0x001D ∧ hxClass 0x1420 = .corr 77 ∧ hxClass 0x030F = .addr ∧ hxClass 0x80E0 = .poison := by decide +kernel
/-- "One MXFP4 block to planes": 10.0, −2.7 and 0.3. -/
theorem test_mxfp4 : MxFmt.mxfp4.quantise [.fin false 10 0, .fin true 27648 (-13), .fin false 1 (-2)] = ⟨128, [8, -3, 0], false, 0⟩ := by decide +kernel
/-- R82: for MXFP4 q = 14 gives 16, which is clamped; for MXINT8 q = 3.5 gives 4. -/
theorem test_grid : MxFmt.mxfp4.grid 14 0 = 16 ∧ MxFmt.mxint8.grid 7 (-1) = 4 ∧ MxFmt.mxfp6.grid 62 0 = 64 := by decide +kernel
/-- "Worked example, continued": 0.75, −0.5 and 0.25 as MXINT8. -/
theorem test_mxint8 : MxFmt.mxint8.quantise [.fin false 3 (-2), .fin true 1 (-1), .fin false 1 (-2)] = ⟨126, [96, -64, 32], false, 0⟩ := by decide +kernel
/-- R78: MXFP4 code 0b0111 is 12. -/
theorem test_mxfp4Code : mxfp4Int 7 = 12 ∧ mxfp4Int 0b1011 = -3 ∧ mxfp4Int 0b0110 = 8 := by decide
/-- "Worked example, continued": the slot with EXP 254 and MANT 960 × 2^16 drains with FEXP −7 as BF16 0x40F0. -/
theorem test_drain : ({ (default : AccE) with mx := true, exp := 254, mant := 960 * 2 ^ 16 }).convert 1 (-7) none = 0x40F0 := by decide +kernel

/-! The step and the fuses. -/

theorem wit_step : (wS Dev.reset).pending = [] ∧ Dev.reset.fuse.legal = true := by decide +kernel
theorem wit_fuses : (⟨List.range 8, 0, [], 0, 0, true, 0⟩ : Fuse).legal = true ∧ (⟨[3], 0, [], 0, 0, true, 0⟩ : Fuse).legal = false ∧
    (⟨[0, 128, 2, 3, 4, 5, 6, 7], 0, [], 0, 0, true, 0⟩ : Fuse).legal = false := by decide +kernel

/-! Tile programs. -/

theorem wit_seta : (wRun (wProg 0x08)).atWord 0 (wProg 0x08) 0x08 ∧ wOp 0x08 = 0x08 := ⟨⟨⟨[(0, 8, false)], rfl⟩, rfl, rfl, rfl, by decide, rfl, by decide⟩, by decide⟩
theorem wit_end : (wRun (wProg 0x01)).atWord 0 (wProg 0x01) 0x01 ∧ wOp 0x01 = 0x01 := ⟨⟨⟨[(0, 1, false)], rfl⟩, rfl, rfl, rfl, by decide, rfl, by decide⟩, by decide⟩
theorem wit_adda : (wRun (wProg 0x09)).atWord 0 (wProg 0x09) 0x09 ∧ wOp 0x09 = 0x09 := ⟨⟨⟨[(0, 9, false)], rfl⟩, rfl, rfl, rfl, by decide, rfl, by decide⟩, by decide⟩
theorem wit_setp : (wRun (wProg 0x0A)).atWord 0 (wProg 0x0A) 0x0A ∧ wOp 0x0A = 0x0A ∧ bitsOf 0x0A 18 8 ≤ 2 :=
  ⟨⟨⟨[(0, 10, false)], rfl⟩, rfl, rfl, rfl, by decide, rfl, by decide⟩, by decide, by decide⟩
theorem wit_setp_id : (let w := 0x0A + 3 * 2 ^ 18
    (wRun (wProg w)).atWord 0 (wProg w) w ∧ wOp w = 0x0A ∧ 2 < bitsOf w 18 8) := ⟨⟨⟨_, rfl⟩, rfl, rfl, rfl, by decide, rfl, by decide⟩, by decide, by decide⟩
theorem wit_loop : (let w := 0x0C + 2 ^ 34
    (wRun (wProg w)).atWord 0 (wProg w) w ∧ wOp w = 0x0C ∧ 1 ≤ bitsOf w 34 12 ∧ (wProg w).loops.length < 4 ∧
      ((wProg w).loops.all fun f => decide ((wProg w).pc + 8 + 8 * bitsOf w 34 12 ≤ f.last)) = true) :=
  ⟨⟨⟨_, rfl⟩, rfl, rfl, rfl, by decide, rfl, by decide⟩, by decide, by decide, by decide, by decide⟩

/-- A program whose oldest VOP has issued. -/
def wVop (w : Nat) : Dev := wRun { wProg 0 with issued := [⟨wCmd w, none⟩] }

theorem wit_vop_add : (let w := 0x20
    ((wVop w).core 0).prog = some { wProg 0 with issued := [⟨wCmd w, none⟩] } ∧
    ([(⟨wCmd w, none⟩ : Issued)].find? fun i => wOp i.cmd.word.toNat == 0x20 && i.done.isNone) = some ⟨wCmd w, none⟩ ∧ vFn (wCmd w).word.toNat = 0x00 ∧
    (∀ r ∈ vSources (wCmd w), (wVop w).intact (lsAddr 0 r.1) r.2.1)) := ⟨rfl, by decide, by decide, by intro r _ cw _; rfl⟩

theorem wit_vop_whole : ∀ f ∈ [0x0B, 0x18, 0x10, 0x11, 0x12], (let w := 0x20 + f * 2 ^ 18
    ((wVop w).core 0).prog = some { wProg 0 with issued := [⟨wCmd w, none⟩] } ∧ ([(⟨wCmd w, none⟩ : Issued)].find? fun i => wOp i.cmd.word.toNat == 0x20 && i.done.isNone) = some ⟨wCmd w, none⟩ ∧
    vFn (wCmd w).word.toNat = f ∧ (∀ r ∈ vSources (wCmd w), (wVop w).intact (lsAddr 0 r.1) r.2.1)) := by
  intro f hf
  refine ⟨rfl, ?_, ?_, fun r _ cw _ => rfl⟩ <;> revert f <;> decide

/-- MXQ of 32 elements from 0 to 512, scales to 1024. -/
theorem wit_vop_mxq : (let c : TileCmd := { wCmd (0x20 + 0x0C * 2 ^ 18 + 31 * 2 ^ 45) with ops := [512, 0, 1024] }
    vFn c.word.toNat = 0x0C ∧ ([(⟨c, none⟩ : Issued)].find? fun i => wOp i.cmd.word.toNat == 0x20 && i.done.isNone) = some ⟨c, none⟩ ∧ vLen c.word.toNat = 32 ∧
    lsAddr 0 512 + 32 ≤ lsAddr 0 1024) := by decide

/-! Issue, completion, retirement. -/

/-- Core 0 runs a program that has ended and has one word in its synchronisation queue. -/
def wSync (w : Nat) : Prog := { wProg 0 with ended := true, syncQ := [wCmd w] }

theorem wit_issue_nop : (((((wRun (wSync 0x02)).dispatch 0).wakeHeads 0).core 0).prog.map fun p => ((((wRun (wSync 0x02)).dispatch 0).wakeHeads 0).issueGrants 0 p).1) = some [(.sync, wCmd 0x02)] := by decide
theorem wit_issue_post : (((((wRun (wSync 0x0E)).dispatch 0).wakeHeads 0).core 0).prog.map fun p => ((((wRun (wSync 0x0E)).dispatch 0).wakeHeads 0).issueGrants 0 p).1) = some [(.sync, wCmd 0x0E)] := by decide
theorem wit_issue_run : (let d := wServe (wRun { wProg 0 with ended := true, arrQ := [wCmd 0x11] })
    ((((d.dispatch 0).wakeHeads 0).core 0).prog.map fun p => (((d.dispatch 0).wakeHeads 0).issueGrants 0 p).1) = some [(.arr, wCmd 0x11)] ∧ (d.arrAccept 0 (wCmd 0x11)).1 = .taken) := by decide
theorem wit_issue_dma : (let d := wRun { wProg 0 with ended := true, dmaQ := [wCmd 0x28] }
    ((((d.dispatch 0).wakeHeads 0).core 0).prog.map fun p => (((d.dispatch 0).wakeHeads 0).issueGrants 0 p).1) = some [(.dma, wCmd 0x28)] ∧
    64 * (bitsOf (wCmd 0x28).word.toNat 18 16 + bitsOf (wCmd 0x28).word.toNat 34 8 + 1) ≤ lsSize ∧ (d.dmaAccept 0 (wCmd 0x28) false).isSome = true) := by decide
theorem wit_issue_baton : ∀ k ∈ [0, 1, 2, 3], (let w := 0x38 + k * 2 ^ 32
    wOp w = 0x38 ∧ bitsOf w 32 3 = k ∧ (((((wRun (wSync w)).dispatch 0).wakeHeads 0).core 0).prog.map fun p => ((((wRun (wSync w)).dispatch 0).wakeHeads 0).issueGrants 0 p).1) = some [(.sync, wCmd w)]) := by decide
/-- A region's domain is ON once STARTER has turned it on. -/
theorem wit_region_reach : (wDom Dev.reset (290 + batonRegion 0)).regionReach (batonRegion 0) = true := by decide

theorem wit_complete : (let i : Issued := ⟨wCmd 0x02, some .ok⟩
    ((wRun { wProg 0 with issued := [i] }).core 0).prog = some { wProg 0 with issued := [i] } ∧ ([i].find? fun i => i.cmd.id == 0) = some i ∧ wSen (wCmd 0x02).word.toNat = false) := by decide
theorem wit_complete_signal : wOp (2 + 2 ^ 17) = 0x02 ∧ wSen (2 + 2 ^ 17) = true := by decide
theorem wit_retire : (let p := { wProg 0 with ended := true }
    ((wRun p).core 0).prog = some p ∧ (p.ended || p.faulted.isSome) = true ∧ p.issued = [] ∧ p.fenced = false ∧ ((wRun p).core 0).lq = [] ∧ p.launch.direct = false) := by decide
theorem wit_retire_fenced : ({ wProg 0 with faulted := some (.fencedUnit, 0) }).fenced = true := by decide
theorem wit_watchdog : (let p := { wProg 0 with watchdog := 1 }
    let d : Dev := { wRun p with clks := [(0, ⟨1000, 0, 3000000, 3000000⟩)] }
    (d.core 0).prog = some p ∧ p.faulted = none ∧ p.watchdog ≠ 0 ∧ d.held = false ∧ p.quietAt + p.watchdog * 1024 * 2000 ≤ d.clkLive (clusterOf 0)) := by decide

/-! Launch CSRs, mailbox, control processor, local store, fence. -/

theorem wit_launch : (Dev.reset.core 0).lq.length < 4 ∧ ((wRun (wProg 0)).core 0).prog.isSome = true ∧ (∀ m, ((wRun (wProg 0)).core 0).lq.getLast? = some m → False) := ⟨by decide, by decide, by intro m h; cases h⟩
theorem wit_launch_full : 4 ≤ ((wCore fun c => { c with lq := List.replicate 4 default }).core 0).lq.length := by decide
theorem wit_user_may : (Dev.reset.setBit DXMCTL.USER_SEQ 0 0 true).bit DXMCTL.USER_SEQ 0 0 = true ∧ (Dev.reset.setBit DXMCTL.USER_SEQ 0 0 false).bit DXMCTL.USER_SEQ 0 0 = false := by decide
theorem wit_retired : ((wCore fun c => { c with retQ := [⟨0, .ok, 0⟩], postQ := [0] }).core 0).retQ = [⟨0, .ok, 0⟩] ∧ ((wCore fun c => { c with postQ := [0] }).core 0).postQ = [0] ∧ (Dev.reset.core 0).swapAck = none := by decide
theorem wit_mailbox : (let d := wCore fun c => { c with mboxHeld := [0] }
    (d.core 0).mboxHeld = [0] ∧ (d.core 0).mboxCount < 8 ∧ (wServe d).inService 0 = true ∧ (d.setFld RST_FENCE.STATE 0 0 2).fenceState 0 = 2) := by decide
theorem wit_timer : (let d := wCore fun c => { c with timecmp := 0, cp := { c.cp with mie := 0x80 } }
    (d.core 0).timecmp.toNat ≤ d.time ∧ (d.core 0).cp.mie.getLsbD 7 = true) := by decide
theorem wit_cpStart : (let d := Dev.reset.setFld STARTER_STATUS.DONE 0 0 9
    9 ≤ d.done ∧ (1#64).getLsbD 2 = false ∧ d.bit CORE_CTL.CP_RUN 0 0 = false ∧ (1#64).getLsbD 0 = true ∧ (1#64).getLsbD 1 = false ∧ (3#64).getLsbD 1 = true) := by decide
theorem wit_imageCopy : (let d : Dev := { wCore fun c => { c with cp := { c.cp with st := .copying } } with clks := [(0, ⟨1000, 0, 4096000, 0⟩)] }
    (d.core 0).cp.st = .copying ∧ (d.core 0).cp.copyAt + 2048 * 2000 ≤ d.clkSum (clusterOf 0) ∧ 64 * d.fld CORE_CTL.IMG_GRAN 0 0 + 131072 ≤ lsSize ∧ d.intact (lsAddr 0 0) 131072) :=
  ⟨by decide, by decide, by decide, fun _ _ => rfl⟩
theorem wit_halt : (let d := wCore fun c => { c with cp := { c.cp with st := .running, trapFault := true, pc := 0x10000 } }
    (d.core 0).cp.st = .running ∧ (d.core 0).cp.trapFault = true ∧ (d.core 0).cp.stopped = false ∧ 0x10000 < (d.core 0).cp.pc.toNat + 2 ∧ (d.setBit RST_FENCE.AUTO_FENCE 0 0 false).bit RST_FENCE.AUTO_FENCE 0 0 = false) := by decide
theorem wit_lsAccess : (let q : LsReq := ⟨0, true, 0, 1, [⟨7, false⟩]⟩
    q.addr + q.len ≤ lsSize ∧ q.addr % 64 + q.len ≤ 64 ∧ 1 ≤ q.len ∧ lsBank q.addr = 0 ∧ (Dev.reset.core 0).lsQ = [] ∧ q.data.length = q.len ∧ anyPoison q.data = false) := by decide
theorem wit_fence : (wServe Dev.reset).fenceState 0 = 0 ∧ (Dev.reset.setFld RST_FENCE.STATE 0 0 1).fenceState 0 = 1 ∧ Dev.reset.dmaWaits 0 = false ∧
    (let d := ((wDom Dev.reset 0).setBit RST_FENCE.FENCE 0 0 true).setFld STARTER_STATUS.DONE 0 0 9
     d.bit RST_FENCE.FENCE 0 0 = true ∧ d.fenceState 0 = 2 ∧ d.domOn 0 = true ∧ d.rstCovers 0 = false ∧ 9 ≤ d.done) ∧
    (let d := { Dev.reset with ns := 15 }.setFld RST_FENCE.STATE 0 0 3
     d.fenceState 0 = 3 ∧ d.switched 0 = true ∧ d.bit RST_FENCE.FENCE 0 0 = true ∧ (d.setBit RST_FENCE.FENCE 0 0 false).bit RST_FENCE.FENCE 0 0 = false) := by decide
theorem wit_cpAccess : ((wServe Dev.reset).unasked.accWrite (endCore 0) (lsAddr 0 0) (toPBytes 8 7) 0 (.cp 0) []).2.waits = [] ∧ lsAddr 0 0 % 8 = 0 ∧
    (let r := (wServe Dev.reset).unasked.accRead (endCore 0) (lsAddr 0 0) 8 0 []
     r.2.2.waits = [] ∧ anyPoison r.1 = false) := by decide +kernel

/-! Arrays and core DMA. -/

/-- The array of core 0, and what its DMA engine holds. -/
def wArr (u : ArrayUnit) (e : Dma) : Dev := wServe (wCore fun c => { c with arr := u, dma := e })
/-- A command of core 0's own at its array. -/
def wACmd (w : Nat) (active : Bool) (pos : Nat) : ArrCmd := ⟨false, 0, 0, BitVec.ofNat 64 w, 0, active, pos, 0⟩
/-- A tile for command 0, all of whose groups have come over. -/
def wTile : Tile := ⟨0, 0, 0, 1, false, [], [], [], 4, false, 0⟩
/-- A vector of zeros. -/
def wVec : InVec := ⟨0, 0, [], 0⟩

theorem wit_load : (let c := wACmd 0x10 true 3
    let d := wArr { ArrayUnit.init with cmds := [c] } { Dma.init with tiles := [wTile] }
    d.arrGrant 0 4 0x10 (fun c => (d.loadTile c).isSome) (fun c => ((d.loadTile c).map fun t => t.at').getD 0) = some (c, d) ∧ d.loadTile c = some wTile ∧ d.held = false ∧ d.released 0 c (d.cmdSet 0 c) c.pos = true ∧ c.pos < wTile.emitted) := by decide +kernel
theorem wit_runStart : (let c := wACmd 0x11 false 0
    let d := wArr { ArrayUnit.init with cmds := [c], sets := [(0, { WSet.init with groups := 4, loaded := true })] } { Dma.init with inputs := [(0, [wVec])] }
    (d.arr 0).reaches (d.runCycle 0) = true ∧ (d.arr 0).run c = none ∧ ((d.arrGrant 0 5 0x11 (d.runReady 0)).map (·.1)) = some c ∧ Tbl.get [] (d.dma c.core).inputs (runStag c) = [wVec]) := by decide +kernel
/-- A run of two vectors, one of which has come. -/
def wFlight (vecs : List InVec) : ArrRun := ⟨wACmd (0x11 + 2 ^ 19) true 0, 0, 1, 0, none, vecs, 0, 0, 0, false⟩
theorem wit_stall_load : (let d := wArr { ArrayUnit.init with runs := [wFlight [wVec]] } Dma.init
    ((d.pullTo 0 (d.clkSum 0 / 1000)).arr 0).stuck (d.clkSum 0 / 1000) = some (wFlight [wVec], true)) := by decide +kernel
theorem wit_stall_input : (let d : Dev := { wArr { ArrayUnit.init with runs := [wFlight [wVec]], sets := [(0, { WSet.init with groups := 4 })] } Dma.init with clks := [(0, ⟨1000, 0, 16000, 0⟩)] }
    ((d.pullTo 0 (d.clkSum 0 / 1000)).arr 0).stuck (d.clkSum 0 / 1000) = some (wFlight [wVec], false)) := by decide +kernel
theorem wit_release : (let r := wFlight [wVec, wVec]
    let u : ArrayUnit := { ArrayUnit.init with runs := [r], sets := [(0, { WSet.init with groups := 4 })] }
    u.releasing = some r ∧ u.run r.cmd = some r ∧ u.reaches r.releaseAt = true ∧ (u.runSet r).parityBad r.released = false) := by decide +kernel
theorem wit_accumulate : (let r := wFlight [wVec, wVec]
    let d := wArr { ArrayUnit.init with runs := [r], sets := [(0, { WSet.init with groups := 4 })] } Dma.init
    (d.arr 0).runs.head? = some r ∧ r.vecs[r.written]? = some wVec ∧ (d.arr 0).reaches r.writeAt = true ∧ r.written + 1 < r.m ∧ d.bit ARR_CFG.FAULT_ON_SAT r.cmd.core 0 = false) := by decide +kernel
theorem wit_drain : (let c := wACmd 0x12 true 0
    let d := wArr { ArrayUnit.init with cmds := [c] } Dma.init
    d.arrGrant 0 6 0x12 (d.drainReady 0) = some (c, d) ∧ d.drainReady 0 c = true ∧ c.pos + 1 = (cmdSlots c).2) := by decide +kernel
theorem wit_target : (let d := wArr { ArrayUnit.init with targetTo := some false } Dma.init
    (d.arr 0).targetTo = some false ∧ ((d.arr 0).cmds.any fun c => c.core.val == 0) = false ∧ ((d.arr (partnerOf 0)).cmds.any fun c => c.core.val == 0) = false) := by decide +kernel
theorem wit_arrayIdle : (let d : Dev := { wArr { ArrayUnit.init with power := .run } Dma.init with clks := [(0, ⟨1000, 0, 16000, 0⟩)] }
    (d.arr 0).power = .run ∧ (d.arr 0).runs = [] ∧ (d.arr 0).lastUse + 16000 ≤ d.clkSum (clusterOf 0)) := by decide +kernel
theorem wit_arraySleep : (let d := (wArr { ArrayUnit.init with power := .idle } Dma.init).setBit ARR_CFG.STATE_REQ 0 0 true
    d.bit ARR_CFG.STATE_REQ 0 0 = true ∧ (d.arr 0).cmds = [] ∧ (d.arr 0).power = .idle) := by decide +kernel
theorem wit_arrayWake : (let d := wArr { ArrayUnit.init with power := .sleep, wakeAt := some 0 } Dma.init
    (d.arr 0).wakeAt = some 0 ∧ 0 ≤ d.ns ∧ (d.arr 0).power = .sleep ∧ (d.core 0).prog = none ∧ (d.core (partnerOf 0)).prog = none) := by decide +kernel

/-- A checked descriptor of a kind in a stage. -/
def wDesc (kind : Nat) (st : DescStage) : DmaDesc := ⟨0, 0, 0, BitVec.ofNat 512 kind, st, true, 0, .ok, 0, false, false, false, false, none⟩
theorem wit_dmaGeneral : ∀ k ∈ [1, 4], (let x := wDesc k (.onChannel 0)
    let d := wArr ArrayUnit.init { Dma.init with held := [x] }
    ((d.dma 0).held.find? fun y => y.stage == .onChannel 0 && dKind y == k) = some x ∧ d.dmaLive 0 = true ∧ x.checked = true ∧ dmaClaimed x = true ∧ (d.dma 0).startable x = true ∧ ((d.unasked.dmaUnits 0 x []).dmaFinish 0 x.id .ok).waits = []) := by decide +kernel
theorem wit_dmaWeight : (let c := wACmd 0x10 false 0
    let x := wDesc 2 .stream
    let d := wArr { ArrayUnit.init with cmds := [c] } { Dma.init with held := [x] }
    (((d.coreLoads 0 0x10).take 2).find? fun c => !((d.dma 0).tiles.any fun t => t.loadId == c.id)) = some c ∧ (d.dma 0).tiles.length < 2 ∧ (d.dma 0).head 2 (bitsOf c.word.toNat 23 3) = some x ∧ dmaClaimed x = true ∧ (d.unasked.weightTile 0 c x []).waits = []) := by decide +kernel
theorem wit_dmaInput : (let c := wACmd 0x11 false 0
    let x := wDesc 3 .stream
    let d := wArr { ArrayUnit.init with cmds := [c] } { Dma.init with held := [x] }
    inputNext (d.dma 0).inputs (d.vecsTaken 0) (d.coreLoads 0 0x11) [] = some 0 ∧ (d.dma 0).head 3 0 = some x ∧ dmaClaimed x = true ∧ (d.unasked.inputVec 0 0 x [] []).waits = []) := by decide +kernel
theorem wit_tileEmit : ([{ wTile with emitted := 0 }].find? fun t : Tile => decide (t.emitted < 4)) = some { wTile with emitted := 0 } ∧
    Dev.reset.arrOf 0 = 0 ∧ (Dev.reset.setBit ARR_CFG.TARGET 0 0 true).arrOf 0 ≠ 0 := by decide +kernel
theorem wit_descComplete : (let x := wDesc 1 .finished
    let d := wArr ArrayUnit.init { Dma.init with held := [x] }
    d.dmaDesc 0 0 = some x ∧ dKind x ≠ 3 ∧ descReady x = true ∧ (d.uio.any fun u => u.owner == .dma 0 0) = false ∧ x.chk = false) := by decide +kernel
theorem wit_chkClaim : (let x := wDesc (1 + 2 ^ 28) (.onChannel 0)
    let d := wArr ArrayUnit.init { Dma.init with held := [x] }
    (d.dma 0).chkWaiting = [x] ∧ d.dmaLive 0 = true ∧ d.bit CHK_CFG.CLAIMED (clusterOf 0) 0 = false ∧ d.bit CHK_SNOOP.EN (clusterOf 0) 0 = false ∧
    (((d.chkArrive 0).tie (arbKey 14 0) ((d.chkArrive 0).chkFirst 0)).map fun p => (p.1, ((p.2.dma 0).claimant).map (·.id))) = some (0, some 0)) := by decide +kernel
theorem wit_chkWaits : (let d := (wArr ArrayUnit.init { Dma.init with held := [wDesc (1 + 2 ^ 28) (.onChannel 0)] }).setBit CHK_SNOOP.EN 0 0 true
    d.dmaLive 0 = true ∧ ((d.dma 0).chkWaiting.any fun y => y.id == 0) = true ∧ d.bit CHK_SNOOP.EN 0 0 = true ∧ d.chkFresh 0 = false) := by decide +kernel

/-! Slices. -/

/-- The device with the slice of core 0 in a state, 100 ns after the model's start. -/
def wSl (f : Slice → Slice) : Dev := { Dev.reset.setSlice 0 (f Slice.init) with ns := 100 }
/-- What the row slot goes to: 0 none, 1 ACT, 2 start, 3 refresh, 4 MRW. -/
def wSlot (c : RowChoice) : Nat := match c with | .none => 0 | .act _ => 1 | .start _ _ => 2 | .refresh _ => 3 | .mrw => 4
/-- A write of one codeword of row 0. -/
def wWb : WbEnt := ⟨0, 0, 0, [(0, poisonBytes 32)], none⟩

theorem wit_act : wSlot ((wSl fun s => { s with rowQ := [⟨0, 0, 0, false⟩] }).rowSlot 0).1 = 1 := by decide +kernel
theorem wit_rd : (let o : OpenRow := ⟨0, 80, none, false, 0⟩
    (((wSl fun s => { s with opens := [o] }).slice 0).opens.find? fun o => o.write.isNone && decide (o.at' + 12 ≤ 100)) = some o) := by decide +kernel
theorem wit_wr : (let o : OpenRow := ⟨0, 80, some wWb, false, 0⟩
    (((wSl fun s => { s with opens := [o] }).slice 0).opens.find? fun o => o.write.isSome && decide (o.at' + 12 ≤ 100)) = some o ∧ o.write = some wWb) := by decide +kernel
theorem wit_refpb : wSlot ((wSl fun s => { s with debt := [(0, 8)] }).rowSlot 0).1 = 3 := by decide +kernel
theorem wit_mrw : (let d := wSl fun s => { s with mrwLeft := [0], narrowHalf := some 0, debt := (List.range 192).map fun b => (b, -8) }
    wSlot (d.rowSlot 0).1 = 4 ∧ (d.slice 0).mrwLeft = [0] ∧ (d.slice 0).narrowHalf = some 0) := by decide +kernel
/-- A read of the 8 bytes at the start of the stack. -/
def wRead : MemReq := ⟨0, false, 0, 8, [], 0⟩
theorem wit_net : netFits 0 wRead = true ∧ (Dev.reset.slice 0).resetting = false ∧ (Dev.reset.slice 0).net.length < 64 ∧ wRead.write = false := by decide +kernel
theorem wit_net_full : 64 ≤ ((wSl fun s => { s with net := List.replicate 64 ⟨wRead, 0, 0, false⟩ }).slice 0).net.length := by decide +kernel
theorem wit_net_resetting : ((wSl fun s => { s with resetting := true }).slice 0).resetting = true := by decide +kernel
theorem wit_row : 0 < 393216 ∧ (Dev.reset.slice 0).rowQ.length < 32 ∧ (Dev.reset.slice 0).rivals Dev.reset.ns 0 = [] := by decide +kernel
theorem wit_refreshDue : (let d : Dev := { wSl id with ns := 200000 }
    d.refDue 0 (0 * 16 + 0) ≤ d.ns ∧ Tbl.get 0 (d.slice 0).debt 0 < 8 ∧ (d.slice 0).srAt = none) := by decide +kernel
theorem wit_rowMove : (let d := wSl fun s => { s with moves := [⟨0, 90, false, 1⟩], rowQ := [⟨0, 0, 0, false⟩] }
    (d.slice 0).moves = [⟨0, 90, false, 1⟩] ∧ 90 + 6 ≤ d.ns ∧ (d.slice 0).net = [] ∧ (d.slice 0).rowQ = [⟨0, 0, 0, false⟩] ∧ (d.slice 0).writeBefore 0 0 = false) := by decide +kernel
theorem wit_decay : (let d : Dev := { wSl id with ns := 2 ^ 30 }
    (d.slice 0).decayAt + 2 ^ 30 ≤ d.ns) := by decide +kernel
theorem wit_narrow : (let s := (wSl fun s => { s with mode := .switching, narrowHalf := some 1 }).slice 0
    s.mode = .switching ∧ s.opens = [] ∧ s.moves = [] ∧ s.narrowHalf = some 1 ∧ (s.dead.any fun v => v / 4352 == 1) = false) := by decide +kernel
theorem wit_sre : (let d := wSl fun s => { s with srWanted := true }
    (d.slice 0).srWanted = true ∧ (d.slice 0).drained = true ∧ (d.slice 0).unitsQuiet d.ns = true ∧ (d.slice 0).refreshPaid = true ∧ d.slotOpen 0 = true) := by decide +kernel
theorem wit_srx : (let d : Dev := { wSl fun s => { s with srAt := some 100 } with ns := 1100 }
    (d.slice 0).srAt = some 100 ∧ (d.slice 0).srWanted = false ∧ 100 + 1000 ≤ d.ns ∧ (d.slice 0).slotTaken d.ns = false) := by decide +kernel

/-! Rings. -/

/-- The device over the link, with ring pair 0 in a state. -/
def wRing (f : Ring → Ring) : Dev := { Dev.reset.modRing 0 f with power := .run }.setFld FAB_PORT.SPEED 0 0 5
theorem wit_ringEnable : (let d := (wRing id).setFld RING_CFG.POLL_US 0 0 1
    (d.ring 0).state = .disabled ∧ d.canSupply 0 = true ∧ d.canSupply (d.cqOf 0) = true) := by decide +kernel
theorem wit_ringEnable_ignored : ((wRing id).ring 0).state = .disabled ∧ ((wRing id).canSupply 0 && (wRing id).canSupply ((wRing id).cqOf 0)) = false := by decide +kernel
theorem wit_ringDraining : ((wRing fun r => { r with state := .draining }).ring 0).state = .draining := by decide +kernel
theorem wit_ringDisable : (let d := wRing fun r => { r with state := .running }
    (d.ring 0).state = .running ∧ d.inflight 0 = [] ∧ (d.ring 0).pendingEn = false) := by decide +kernel
theorem wit_ringDisable_busy : (let d : Dev := { wRing fun r => { r with state := .running } with descs := [Desc.mk 0 0 0 0 0 0 false [] [] none] }
    (d.ring 0).state = .running ∧ d.inflight 0 ≠ []) := by decide +kernel
theorem wit_poll : (let d := ((wRing fun r => { r with state := .running }).setFld RING_CFG.POLL_US 0 0 1).setFld RING_CFG.SQ_LOG2 0 0 6
    d.power ≠ .parked ∧ d.linkOn = true ∧ (d.ring 0).on = true ∧ d.polls 0 = true ∧ (d.ring 0).pollAt ≤ d.ns ∧ ((Tbl.get none d.watch (d.slotLine 0)).any (·.reading)) = false ∧
    idxDiff (bitsOf (1#64).toNat 0 32) (d.ring 0).sqHead ≤ d.sqLen 0 ∧
    idxDiff (((d.ring 0).avail.getLast?.map (·.1)).getD (d.ring 0).sqHead) (d.ring 0).sqHead < idxDiff (bitsOf (1#64).toNat 0 32) (d.ring 0).sqHead) := by decide +kernel
theorem wit_snoop : (let d (r : Bool) : Dev := { wRing id with watch := [(5, some ⟨r, false⟩)] }
    Tbl.get none (d true).watch 5 = some ⟨true, false⟩ ∧ Tbl.get none (d false).watch 5 = some ⟨false, false⟩ ∧ (d true).linkOn = true ∧ ((d false).setBit FAB_PORT.CACHE_EN 0 0 true).cacheOn = true ∧ (List.replicate 64 (0 : Byte)).length = 64) := by decide +kernel
theorem wit_fetch : (let d := wRing fun r => { r with state := .running, avail := [(1, 0)] }
    (d.ring 0).avail = [(1, 0)] ∧ (d.ring 0).state = .running ∧ d.linkOn = true ∧ d.power = .run ∧ d.bit SQ_BASE.LOCAL 0 0 = false) := by decide +kernel
/-- A descriptor that has been fetched. -/
def wFetched (b : BitVec 512) : Fetched := ⟨0, b, false, 0⟩
theorem wit_descStart : ∀ op ∈ [0x00, 0x7E, 0xFF], (let d := wRing fun r => { r with state := .running, fetched := [wFetched (BitVec.ofNat 512 op)] }
    d.descs.length < 1024 ∧ d.power = .run ∧ d.bit LNK_STATUS.D2D_FATAL 0 0 = false ∧
    (d.ringPick.map fun x => (x.1, ((x.2.ring x.1).fetched == [wFetched (BitVec.ofNat 512 op)]))) = some (0, true)) := by decide +kernel
theorem wit_descChecks : ((((wRing id).setFld STARTER_STATUS.DONE 0 0 10).descPlace 0 (wFetched 0x7E) 0x7E []).dqCheck 0 0x7E).1 = none ∧ ((((wRing id).descPlace 0 (wFetched 0xFF) 0xFF []).dqCheck 0 0xFF).1).isSome = true := by decide +kernel

/-! Descriptors in flight. -/

/-- A descriptor in flight. -/
def wFlying (b : Nat) (sent : Bool) : Desc := Desc.mk 0 0 0 (BitVec.ofNat 512 b) 0 0 sent [] [] none
/-- The device with one descriptor in flight. -/
def wFly (b : Nat) (sent : Bool) : Dev := { wRing fun r => { r with state := .running } with descs := [wFlying b sent] }
theorem wit_flying : ∀ op ∈ [0x01, 0x02, 0x38, 0x10, 0x60, 0x7E, 0x7F, 0x30, 0x40], ((wFly op false).flight 0 = some (wFlying op false) ∧ (wFlying op false).sent = false ∧ (wFlying op false).fin = none ∧
    dqOp (wFlying op false).body = op ∧ ((wFly op false).descs.any fun y : Desc => decide (y.seq < (wFlying op false).seq)) = false) := by decide +kernel
theorem wit_chkRun : ((List.range 4).any fun u => (wDom (wFly 0x40 false) 446).domOn (443 + u) && !(wDom (wFly 0x40 false) 446).bit CHK_CFG.CLAIMED (32 + u) 0) = true ∧ dq (wFlying 0x40 false).body 56 0 52 = 0 := by decide +kernel
theorem wit_descBaton : ∀ op ∈ [0x20, 0x21], ∀ k ∈ [0, 1], (let b := op + k * 2 ^ 64 + batonBase * 2 ^ 128
    let d := wDom (wFly b false) (290 + batonRegion 0)
    d.flight 0 = some (wFlying b false) ∧ dqOp (wFlying b false).body = op ∧ dq (wFlying b false).body 8 0 1 = k ∧ d.remoteFid (dq (wFlying b false).body 16 0 64) = false ∧
    d.regionReach (batonRegion ((dq (wFlying b false).body 16 0 64 % 2 ^ 52 - batonBase) / 64)) = true ∧ d.ringQuietBefore (wFlying b false) = true) := by decide +kernel
/-- A completion that waits for its place in ring 0. -/
theorem wit_post : (let d := wRing fun r => { r with state := .running, inUse := true, ready := [default] }
    (d.cplPick 0).isSome = true ∧ (d.cplPick 0).all (fun x => !x.2.bit CQ_BASE.LOCAL 0 0) = true) := by decide +kernel
theorem wit_msix : (let d := (wRing fun r => { r with since := 1, urgent := true }).setBit IRQ_CFG.IRQ_EN 0 0 true
    d.bit IRQ_CFG.IRQ_EN 0 0 = true ∧ (d.ring 0).since ≠ 0 ∧ (d.ring 0).urgent = true) := by decide +kernel
theorem wit_msixPending : ((Dev.reset.setRaw 0x128000 1)).msixPending 0 = true := by decide +kernel
theorem wit_launchEnd : (let x := { wFlying 0x10 true with reports := [(0, .uncorr, 0)] }
    (([x].find? fun y : Desc => y.id % 65536 == 0 && dqOp y.body == 0x10 && y.sent && y.fin.isNone) = some x) ∧ x.cores = [] ∧ x.worst = some (0, .uncorr) ∧ (wFlying 0x10 true).worst = none) := by decide +kernel

/-! Batons and board memory. -/

/-- An operation on baton 0. -/
def wBtn (k : BtnKind) (v : Nat) (lim : Option Nat) : BtnOp := { kind := k, baton := 0, v := v, src := .desc 0, port := 0, arr := 0, limit := lim }
theorem wit_baton : ∀ k ∈ [BtnKind.add, .set, .wait, .handoff], (let o := wBtn k 0 none
    let d := Dev.reset.setBq 0 [o]
    d.btnSat 0 = none ∧ (d.btnNext 0).map (·.1) = some o ∧ d.btnBad.contains 0 = false ∧ batonRegion 0 = 0 ∧ (d.bw 0).length < 64) := by decide +kernel
theorem wit_baton_unmet : (Dev.reset.baton 0).toNat = 0 ∧ btnMet .wait 0 0 = true ∧ btnMet .wait 0 5 = false := by decide +kernel
theorem wit_batonRelease : (Dev.reset.setBw 0 [wBtn .wait 0 none]).btnSat 0 = some (wBtn .wait 0 none) := by decide +kernel
theorem wit_batonTimeout : (let o := wBtn .wait 5 (some 0)
    (Dev.reset.setBw 0 [o]).bw 0 = [o] ∧ (Dev.reset.setBw 0 [o]).btnSat 0 ≠ some o) := by decide +kernel
theorem wit_batonLoad : batonBase + 8 ≤ batonEnd ∧ batonBase % 64 = 0 ∧ Dev.reset.bq 0 = [] ∧ Dev.reset.btnSat 0 = none := by decide +kernel

/-- Board memory in service on all its channels. -/
def wGddr : Dev := { Dev.reset with gddr := { Dev.reset.gddr with state := .ready, usableMib := 1024 } }.setFld GDR_CFG.CHAN_MASK 0 0 255
theorem wit_gddrRead : (let q : MemReq := ⟨0, false, gddrBase, 32, [], 0⟩
    let c := wGddr.gdrChan (q.addr - gddrBase)
    wGddr.gddrHas q.addr q.len = true ∧ q.src < 65536 ∧ wGddr.gdrQueue c = [] ∧ Tbl.get [] wGddr.gddr.link c = [] ∧ wGddr.gdrSlots c ≠ 0 ∧ wGddr.gdrPress c = false ∧
    wGddr.gdrMet c ⟨q.src, q.addr, q.len, false, [], wGddr.ns, none, none⟩ = false) := by decide +kernel
theorem wit_gddrHole : Dev.reset.gddrHas gddrBase 32 = false := by decide +kernel
theorem wit_drainGddr : (let e : WcbEnt := { (default : WcbEnt) with blk := 0, first := 0, bytes := [(0, some ⟨7, false⟩)] }
    let d : Dev := { wGddr with gddr := { wGddr.gddr with wcb := [(0, [e])] }, ns := 100000 }
    (((d.wcbOf 0).find? fun e => e.blk == 0) = some e) ∧ d.wcbMay 0 e true = true ∧ d.wcbFree 0 = true) := by decide +kernel
theorem wit_gddrRetry : (Dev.reset.setFld STARTER_STATUS.DONE 0 0 5).done = 5 ∧ (Dev.reset.setFld STARTER_STATUS.DONE 0 0 5).fld STARTER_STATUS.RUNNING 0 0 = 0 ∧ (Dev.reset.setFld STARTER_STATUS.DONE 0 0 5).fld STARTER_STATUS.RESULT 0 0 ≠ 3 := by decide +kernel
theorem wit_gddrIdle : wGddr.gdrChans.contains 0 = true ∧ wGddr.gddr.state = .ready ∧ wGddr.gdrQueue 0 = [] ∧ wGddr.gdrPress 0 = false ∧ (let d : Dev := { wGddr with ns := 10 ^ 12 }
    d.retrainDue 0 ≤ d.ns ∧ d.gdrQueue 0 = [] ∧ d.gdrPress 0 = false) := by decide +kernel

/-! Bank-side units. -/

/-- A command of an operation for one row. -/
def wBsu (op : Nat) : BsuCmd := ⟨2, none, BitVec.ofNat 256 op, 0, 0, [], none, 0⟩
/-- An operation that has arrived in the unit of bank 0. -/
def wLatch (op : Nat) : OpLatch := ⟨0, 0, 0, op, 100, false⟩
theorem wit_bankOp : ∀ op ∈ [1, 2, 3, 4, 5, 6, 7], (let d := wSl fun s => { s with bq := [wBsu op], units := [(0, { BankUnit.init with latch := some (wLatch op) })] }
    ((d.slice 0).unit 0).latch = some (wLatch op) ∧ (wLatch op).done = false ∧ (wLatch op).op = bOp (wBsu op).cmd ∧ ((d.slice 0).bq.find? fun c => c.seq == (wLatch op).cmdSeq) = some (wBsu op) ∧
    bOp (wBsu op).cmd = op ∧ (wLatch op).endAt ≤ d.ns + bBusy op) := by decide +kernel
theorem wit_bsuCommand : (Dev.reset.slice 0).bsuFull = false ∧ (Dev.reset.slice 0).bsuPending = false ∧ (Dev.reset.slice 0).resetting = false ∧ (Dev.reset.slice 0).srAt = none ∧
    bBad 0x01 = false ∧ bBad 0x00 = true ∧ (Dev.reset.slice 0).bq = [] ∧ (∀ i < bCount 0x01, (Dev.reset.slice 0).rivals Dev.reset.ns (bRow 0x01 i) = []) := by decide +kernel
theorem wit_bsuStart : (let d := wSl fun s => { s with bq := [wBsu 1] }
    wSlot (d.rowSlot 0).1 = 2) := by decide +kernel
theorem wit_bsuComplete : (let c := { wBsu 1 with started := [0] }
    let d := wSl fun s => { s with bq := [c] }
    ((d.slice 0).bq.find? fun c => c.started.length == bCount c.cmd && (d.slice 0).bsuEnded c d.ns) = some c) := by decide +kernel
theorem wit_bsuStall : (let d : Dev := { wSl (fun s => { s with bq := [wBsu 1], haltAt := some 0 }) with ns := 1000000 }.setFld BSU_CFG.STALL_LIMIT 0 0 1
    d.haltSince 0 = some 0 ∧ ((d.slice 0).bq.find? fun c => d.fld BSU_CFG.STALL_LIMIT 0 0 * 1000000 != 0 &&
      decide (max (max c.arr c.lastStart) 0 + d.fld BSU_CFG.STALL_LIMIT 0 0 * 1000000 ≤ d.ns) && (d.slice 0).bsuEnded c d.ns && c.started.length != bCount c.cmd) = some (wBsu 1)) := by decide +kernel

/-! Regions. -/

/-- The device with region 0 in a state, its domain ON, 100 ns after the model's start. -/
def wReg (f : Region → Region) : Dev := wDom { Dev.reset.setRegion 0 (f Region.init) with ns := 100 } 290
/-- A write of 4 bytes at the start of base scratch. -/
def wWrite : MemReq := ⟨0, true, scratchBase, 4, toPBytes 4 7, 0⟩
theorem wit_regionAccess : inLine wWrite.addr wWrite.len = true ∧ wWrite.data.length = wWrite.len ∧ (wReg id).ownRo 64 wWrite.addr = false ∧
    (wReg id).regionReach 0 = true ∧ (wReg id).roWin ((wReg id).served wWrite.addr) = false := by decide +kernel
theorem wit_regionReduce : redFits scratchBase (toPBytes 4 7) = true ∧ ((wReg id).region 0).held = [] ∧ ((wReg id).region 0).takesRed ((wReg id).served scratchBase / 4096) = true ∧
    (wReg id).served scratchBase % 4096 = scratchBase % 4096 := by decide +kernel
theorem wit_scratch : (let d := (wReg id).setFld BCR_PART.SCRATCH_MASK 0 0 1
    (d.region 0).idle d.ns = true ∧ d.served scratchBase = scratchBase ∧ d.scratchBacked scratchBase 4 = true ∧ scratchRegion scratchBase = 0 ∧ wWrite.src < 65536) := by decide +kernel
/-- A line of board memory that region 0 caches. -/
def wLine : Nat := gddrBase / 4096 + 16
theorem wit_line : (let d := (wReg id).setFld GDR_CFG.CHAN_MASK 0 0 255
    let d : Dev := { d with gddr := wGddr.gddr }
    homeRegion (wLine * 4096) = 0 ∧ d.cacheable (wLine * 4096) 4096 = true ∧ d.regionReach 0 = true) := by decide +kernel
/-- Region 0 with that line resident, in a state. -/
def wResident (st : LineState) : Dev := { (wReg fun r => r.setLine (lineSet wLine * 16) (some ⟨wLine, st, 1, 0, 0⟩)).setFld GDR_CFG.CHAN_MASK 0 0 255 with gddr := wGddr.gddr }
theorem wit_lineIdle : ∀ st ∈ [LineState.normal, .dead], (let d := wResident st
    (d.region 0).idle d.ns = true ∧ (d.region 0).find wLine = some (lineSet wLine * 16) ∧ (d.region 0).line (lineSet wLine * 16) = some ⟨wLine, st, 1, 0, 0⟩ ∧
    (d.uio.any fun u => u.owner == .op 0 wLine) = false) := by decide +kernel
theorem wit_fill : (((wReg fun r => { r with fills := [(wLine, some default)] }).region 0).fill wLine).isSome = true := by decide +kernel
theorem wit_partition : ((wReg id).region 0).zeroing = none ∧ BitVec.ofNat 16 ((wReg id).fld BCR_PART.SCRATCH_MASK 0 0) ≠ 3 ∧ (((wReg fun r => { r with zeroing := some 2 }).region 0).partBusy) = true := by decide +kernel
theorem wit_partitionDone : (let d := wReg fun r => { r with zeroing := some 2, zeroAt := some 0 }
    let d : Dev := { d with ns := 1024 }
    (d.region 0).zeroAt = some 0 ∧ 0 + 1024 * (d.region 0).granules.length ≤ d.ns) := by decide +kernel

/-! Attention. -/

/-- A context of one KV head, 2 tokens, at local address 0, with C0 = 1.0. -/
def wCtxBody : BitVec 512 := BitVec.ofNat 512 (2 * 2 ^ 96 + 256 * 2 ^ 128 + 0x3F800000 * 2 ^ 192 + 2 ^ 177 + 384 * 2 ^ 288)
/-- The context, loaded. -/
def wCtx : Ctx := ⟨wCtxBody, 2, 0⟩
/-- A running step with one page on core 0, in a phase. -/
def wAttn (ph : Nat) : Attn := ⟨0, 0x51, wCtx, 2, ph, [⟨0, 0, 0, 0, 0, [], false, false⟩], .ok, [], [], none, []⟩
/-- The device with that step running. -/
def wStep (ph : Nat) : Dev := { wServe Dev.reset with attn := some (wAttn ph), descs := [wFlying 0x51 true] }
theorem wit_kvMap : ∀ k ∈ [0, 1, 2], (let b := 0x50 + k * 2 ^ 72
    (wFly b false).flight 0 = some (wFlying b false) ∧ dqOp (wFlying b false).body = 0x50 ∧ ((wFly b false).attn.any fun a => dq a.body 8 0 4 == dq (wFlying b false).body 8 0 4) = false ∧
    ((wFly b false).descs.any fun y : Desc => decide (y.seq < (wFlying b false).seq) && (dqOp y.body == 0x51 || dqOp y.body == 0x50) && dq y.body 8 0 4 == dq (wFlying b false).body 8 0 4 && y.fin.isNone) = false ∧
    dq (wFlying b false).body 9 0 2 = k) := by decide +kernel
theorem wit_ctxBad : Dev.reset.ctxBad 1 = true ∧ Dev.reset.ctxBad wCtxBody = false := by decide +kernel
theorem wit_pageWalk : (Dev.reset.setCtx 0 0 (some wCtx)).ctx 0 0 = some wCtx ∧ 0 ≤ wCtx.f 20 0 8 ∧ 0 < wCtx.kvh := by decide +kernel
/-- Every walker has the context in slot 0, with a step of a partial in base scratch that appends or not. -/
def wAllCtx (b : Nat) : Dev := (List.range 32).foldl (fun d k => d.setCtx k 0 (some wCtx)) ((wFly b false).setFld BCR_PART.SCRATCH_MASK 0 0 1)
theorem wit_attnStart : (let d := wAllCtx 0x51
    d.flight 0 = some (wFlying 0x51 false) ∧ dqOp (wFlying 0x51 false).body = 0x51 ∧ d.attn = none ∧
    (d.descs.any fun y : Desc => decide (y.seq < 0) && y.fin.isNone && (dqOp y.body == 0x51 || (dqOp y.body == 0x50 && dq y.body 8 0 4 == 0))) = false ∧
    d.ctx 0 0 = some wCtx ∧ ((List.range 32).any fun k => (d.ctx k 0).isNone) = false) := by decide +kernel
theorem wit_attnPhases : (∀ ph ∈ [1, 2, 3, 4, 5, 6], (wStep ph).attn = some (wAttn ph) ∧ (wAttn ph).phase = ph) ∧ (wStep 3).attnLost.attn = some (wAttn 3) ∧ (wAttn 4).wait = none := by decide +kernel
theorem wit_attnCores : (∀ ph ∈ [2], (wStep ph).attnEnter.attn = some (wAttn ph) ∧ (wStep ph).attnEnter.held = false ∧ (wStep ph).attnEnter.attnCoresFree (wAttn ph) = true) ∧
    (wStep 5).attnTurn.attnEnter.attn = some (wAttn 5) ∧ (wStep 5).attnTurn.attnEnter.held = false ∧ (wStep 5).attnTurn.attnEnter.attnCoresFree (wAttn 5) = true := by decide +kernel
theorem wit_attnBad : ∀ app ∈ [0, 1], (let b := 0x51 + 2 ^ 80 + app * 2 ^ 105 + app * 2 * 2 ^ 128 + scratchBase * 2 ^ 320
    let a : Attn := ⟨0, BitVec.ofNat 512 b, wCtx, 2 + app, 2 - app, [], .ok, [], [], none, []⟩
    (dq (BitVec.ofNat 512 b) 13 1 1 == 1) = (app == 1) ∧ (wAllCtx b).attnBad a = none) := by decide +kernel
theorem wit_appendFound : (let d : Dev := { (wStep 1).setBit PGW_CFG.LAB_EN 0 0 true with lab := [(labKey 0 0 0 0 0, some ⟨0, 0, 0, 0, 0, 0⟩)] }
    (d.appendFrames (wAttn 1)).1.any Option.isNone = false) := by decide +kernel
theorem wit_append : ((wStep 1).appendFrames (wAttn 1)).1.any Option.isNone = true := by decide +kernel

/-! The relay. -/

/-- A relay step that began with the model and whose deadline has come. -/
def wRelay : RelayRun := ⟨0, 0x70, 0, 0, [], [], [], false, false, .ok, false⟩
theorem wit_relay : ∀ k ∈ [0, 1, 2], (let b := 0x70 + k * 2 ^ 64
    (wFly b false).flight 0 = some (wFlying b false) ∧ dqOp (wFlying b false).body = 0x70 ∧ dq (wFlying b false).body 8 0 2 = k ∧ (wFly b false).relay false = none ∧ (wFly b false).relay true = none ∧
    ((wFly b false).descs.any fun y : Desc => decide (y.seq < 0) && dqOp y.body == 0x70 && (dq y.body 8 0 2 != 0) == (k != 0) && !y.sent && y.fin.isNone) = false) := by decide +kernel
theorem wit_chunkRefused : ((wRing id).unasked.chunkArrive 1 []).1 ≠ .ok ∧ (wRing id).linkOn = true ∧ (wRing id).inq = [] ∧ 1 ≠ (wRing id).fld FAB_ID.FID 0 0 ∧ ((wRing id).unasked.chunkArrive 1 []).2.waits = [] := by decide +kernel
theorem wit_chunkTaken : (let d : Dev := { (((wRing id).setBit FAB_RELAY_CFG.INBOX_EN 0 0 true).setBit FAB_RELAY_CFG.CRC_CHECK 0 0 false).setFld STARTER_STATUS.DONE 0 0 10 with relayLast := [(0, 0, 0)] }
    (d.unasked.chunkArrive 1 (⟨0, false⟩ :: ⟨1, false⟩ :: List.replicate 510 ⟨0, false⟩)).1 = .ok ∧ d.linkOn = true) := by decide +kernel
theorem wit_chunkExpire : (let c : RChunk := ⟨0, 1, 0, 0, 0, 0, 0, some 0, 0⟩
    let d : Dev := { Dev.reset with chunks := [c], ns := 10000000000 }
    (d.chunks.find? fun c => !d.tagRuns c.rtag && decide (c.at' + 1000 * d.defDeadline ≤ d.ns)) = some c ∧ c.slot.isSome = true) := by decide +kernel
theorem wit_relayLate : ∀ up ∈ [false, true], (Dev.reset.setRelay up (some wRelay)).relay up = some wRelay ∧ wRelay.limit < { Dev.reset with ns := 1 }.ns ∧ wRelay.sending = false := by decide +kernel
theorem wit_lateness : ({ Dev.reset with relayLast := [(1, 5, 0)] }.relayLast.find? fun e => e.1 == 1) = some (1, 5, 0) := by decide +kernel

/-! The port. -/

/-- The device over the link, 2 s after the rise of PERST_N, with some services ready. -/
def wLink (svc : List Service) : Dev := { wRing id with svc := svc, perstAt := some 0, ns := 2000000000, mgmt := true }
/-- The same with its memory active and one decoder over the stack. -/
def wMem : Dev := Dev.sync { (wLink []).setBit FAB_PORT.MEM_ACTIVE 0 0 true with hdm := [⟨0, 2 ^ 28, 0⟩] }
theorem wit_hostRequest : (wLink []).linkOn = true ∧ (wLink []).cfg.ideFailed = false ∧ ((wLink []).port.any fun r => r.tag == 0) = false ∧ 0 % 64 + 64 ≤ 64 ∧ (wLink []).bit FAB_PORT.MEM_ACTIVE 0 0 = false ∧
    wMem.bit FAB_PORT.MEM_ACTIVE 0 0 = true ∧ (wMem.pmcDev 0x05 1).hdmFind (2 ^ 28) = none ∧ (wMem.pmcDev 0x05 1).hdmFind 0 = some 0 ∧ (wMem.pmcDev 0x05 1).backed 0 64 = true ∧
    (wMem.pmcDev 0x05 1).sfGrant (0 / 64) .inval = (.inval, wMem.pmcDev 0x05 1) ∧ wMem.portHeld = false := by decide +kernel
theorem wit_portTimer : ∀ w ∈ [false, true], (let r : PortReq := ⟨0, w, 0, 64, [], .inval, 0, true, false⟩
    ({ wMem with port := [r] }.port.find? fun r => r.tag == 0) = some r ∧ r.answered = false ∧ r.limit < wMem.ns ∧ wMem.linkOn = true) := by decide +kernel
theorem wit_recall : wMem.bit FAB_BI_CTL.BUSY 0 0 = false ∧ Tbl.get none wMem.watch 0 = none ∧ Tbl.get none { wMem with watch := [(0, some ⟨false, false⟩)] }.watch 0 = some ⟨false, false⟩ := by decide +kernel

/-! UIO, decoders, configuration, link. -/

/-- An outstanding request. -/
def wUio (w : Bool) (retry : Option Nat) : Uio := ⟨0, w, fabBase, 8, toPBytes 8 0, .desc 0, some 0, retry, none⟩
theorem wit_uio : (∀ w ∈ [false, true], { wLink [] with uio := [wUio w none] }.uioFind 0 = some (wUio w none)) ∧ 0 + 50000 ≤ (wLink []).ns ∧
    (let d : Dev := { wLink [] with uio := [wUio true (some 1)], ns := 100 }
     d.uioFind 0 = some (wUio true (some 1)) ∧ d.ns < 0 + 50000 ∧ 1 ≤ d.ns) ∧ (toPBytes 8 0).length = (wUio false none).len := by decide +kernel
theorem wit_inbound : (let a : BitVec 52 := BitVec.ofNat 52 batonBase
    ¬(inboxBase ≤ a.toNat ∧ a.toNat + 8 ≤ fabBase) ∧ inBaton true a.toNat 8 = true ∧ inBaton false a.toNat 8 = true ∧
    (inBaton true 0 8 || (List.range 8).any fun i => (wLink []).inWin i true 0 8) = false ∧ inboxBase + 512 ≤ fabBase) := by decide +kernel
theorem wit_hdm : (wLink []).hdm.length = 0 ∧ 2 ^ 28 % 2 ^ 28 = 0 ∧ hdmSpan 0 (2 ^ 28) = true := by decide +kernel
theorem wit_config : (wLink []).linkOn = true ∧ (wLink []).sincePerst 200 = true ∧ { wLink [] with ns := 0 }.sincePerst 200 = false := by decide +kernel
theorem wit_linkUp : (let d := { wLink [] with power := .run }.setFld FAB_PORT.SPEED 0 0 0
    d.fld FAB_PORT.SPEED 0 0 = 0 ∧ d.perstAt ≠ none ∧ d.power ≠ .halt) := by decide +kernel
theorem wit_linkDown : (wLink []).fld FAB_PORT.SPEED 0 0 ≠ 0 ∧ ((wLink []).setBit FAB_PORT.IDE_CM 0 0 true).bit FAB_PORT.IDE_CM 0 0 = true := by decide +kernel

/-! Services. -/

theorem wit_mailboxReady : (wLink [.mailbox]).linkOn = true ∧ (wLink [.mailbox]).svc.contains .mailbox = true ∧ (0 : BitVec 128) ≠ celUuid ∧ 0 + 4 ≤ celLog.length := by decide +kernel
theorem wit_callRoom : (wLink []).svc.contains .pldm = false ∧ (wLink [.pldm]).svc.contains .pldm = true ∧ (wLink []).perstAt ≠ none ∧ (wLink []).dead.contains .pldm = false ∧
    { wLink [] with dead := [.pldm] }.dead.contains .pldm = true := by decide +kernel
theorem wit_serviceReady : (∀ v ∈ [Service.bar0, .mailbox, .mctp, .pldm, .cdat, .spdm], (wLink []).sincePerst (readyMs v) = true) ∧ (wLink []).mgmt = true ∧ (wLink []).sincePerst 1000 = true ∧
    (wLink [.cdat]).svc.contains .cdat = true := by decide +kernel

/-! SPDM and security (R555 to R571). FW_UPDATE of a sound image, REVOKE and DEBUG_UNLOCK with a sound token rest on a signature, which no value of the model fixes (R557): they have no witness here. -/

/-- The device over the link with a connection at a stage and some sessions. -/
def wSpdm (stage : Nat) (l : List Session) : Dev := { wLink [.spdm] with spdm := [(spdmNo true, ⟨stage, []⟩)], sessions := l }
theorem wit_spdm : (∀ k ∈ [0, 1, 2, 3], (wSpdm k []).svc.contains .spdm = true ∧ ((wSpdm k []).spdmOf true).stage = k) ∧ (wSpdm 3 []).sessions.length < 4 ∧
    ([0, 1, 2, 3, 4].map (· + 1)).find? (fun i => !((wSpdm 3 []).sessions.any fun x => x.id == i)) = some 1 := by decide +kernel
theorem wit_session : ∀ o ∈ [false, true], (let d := wSpdm 3 [⟨1, true, o, 0⟩]
    d.svc.contains .spdm = true ∧ d.sessionOf ⟨some 1, true, []⟩ = some ⟨1, true, o, 0⟩ ∧ 3 ≤ (d.spdmOf true).stage) := by decide +kernel
theorem wit_ideKey : (([⟨3, false, 0, false⟩] : List IdeKey).any fun k => k.stream == 3 && k.keySet == false) = true := by decide +kernel
theorem wit_security : (wLink []).mgmt = true ∧ (wLink []).bit SEC_CMDST.BUSY 0 0 = false ∧ ((wLink []).imageAt 1 (2 ^ 51)).1 ≠ .ok ∧ (wLink []).nvmBlocked = false ∧
    (let d := (wLink []).setFld SEC_STATUS.RUN_SVN_MGMT 0 0 63
     d.fuse.svnMgmt < d.fld SEC_STATUS.RUN_SVN_MGMT 0 0 ∧ d.fld SEC_STATUS.RUN_SVN_MGMT 0 0 ≤ 63) ∧
    (wLink []).fld SEC_STATUS.RUN_SVN_CORE 0 0 ≤ (wLink []).fuse.svnCore := by decide +kernel

/-! The package. -/

/-- The device with 3V3_AUX since 0, 200 ms later. -/
def wAux : Dev := { Dev.reset with auxAt := some 0, ns := 200000000 }
/-- STARTER step k is the last one done. -/
def wDone (d : Dev) (k : Nat) : Dev := d.setFld STARTER_STATUS.DONE 0 0 k
theorem wit_supply : Dev.reset.auxAt = none ∧ wAux.auxAt = some 0 ∧ 0 + 20000000 ≤ wAux.ns ∧ wAux.strapped = false ∧ wAux.modEn = false ∧ wAux.modFail = false ∧ wAux.power ≠ .halt ∧
    wAux.bit DEV_PINS.TRIPPED 0 0 = false := by decide +kernel
theorem wit_module : (let d : Dev := { wAux with modEn := true }
    d.modEn = true ∧ d.bit DEV_PINS.PWR_GOOD 0 0 = false ∧ d.modEnAt + 5000000 ≤ d.ns) ∧
    (∀ p ∈ [false, true], (let d := (wAux.setBit DEV_PINS.PWR_GOOD 0 0 true).setBit DEV_PINS.PERST 0 0 p
      d.bit DEV_PINS.PWR_GOOD 0 0 = true ∧ d.bit DEV_PINS.PERST 0 0 = p ∧ d.power ≠ .halt)) := by decide +kernel
theorem wit_perst : ∀ p ∈ [false, true], ∀ x ∈ [false, true], (let d := (wAux.setBit DEV_PINS.PERST 0 0 p).setBit DEV_PINS.TRIPPED 0 0 x
    d.auxAt ≠ none ∧ d.bit DEV_PINS.PERST 0 0 = p ∧ d.bit DEV_PINS.TRIPPED 0 0 = x ∧ d.perstLow + 100000000 ≤ d.ns ∧ (d.therm.hist.all fun p => decide (p.2.headD 0 < 800)) = true) := by decide +kernel
theorem wit_alert : (let d := (({ wAux with strapped := true }.setBit DEV_PINS.MGMT_MODE 0 0 true).setBit DEV_PINS.SRC_MODULE 0 0 true).setFld DEV_ALERT_MASK.MASK 0 0 255
    d.strapped = true ∧ d.bit DEV_PINS.MGMT_MODE 0 0 = true ∧ d.alert = true) ∧ { wAux with jtagIr := .bypass }.jtagIr = .bypass := by decide +kernel
theorem wit_messages : (let d := { wAux with svc := [.mctp, .pldm], pldm := [(1, some 5)] }
    d.auxAt ≠ none ∧ d.svc.contains .mctp = true ∧ d.svc.contains .pldm = true ∧ 6 < (7 : BitVec 8).toNat ∧ Tbl.get none d.pldm 1 = some 5) := by decide +kernel

/-! Power. -/

theorem wit_domain : (∀ q ∈ [false, true], ∀ v ∈ [0, 1, 2, 3, 4], (let d := ((wDone wAux 1).setFld PWR_DOM.STATE 443 0 v).setBit PWR_DOM.REQ 443 0 q
    1 ≤ d.done ∧ d.domSoft 443 = true ∧ d.domState 443 = v ∧ d.bit PWR_DOM.REQ 443 0 = q ∧ Tbl.get 0 d.domAt 443 + 1000 ≤ d.ns ∧ d.power ≠ .waking)) ∧
    Dev.reset.done < 1 ∧ (wDone wAux 1).domSoft 300 = false ∧ (wDom wAux 300).bit PWR_DOM.REQ 300 0 = false := by decide +kernel
theorem wit_domainDrain : (let d := wAux.setFld PWR_DOM.STATE 443 0 3
    d.domState 443 = 3 ∧ d.domQuiet 443 = true) ∧
    (let d : Dev := ({ wAux with uio := [⟨0, true, 0, 64, [], .cp 5, some 0, none, none⟩] } : Dev).setFld PWR_DOM.STATE 5 0 3
     d.domState 5 = 3 ∧ d.domQuiet 5 = false ∧ domBound 5 = some 5000 ∧ Tbl.get 0 d.domAt 5 + 5000 ≤ d.ns) := by decide +kernel
theorem wit_ramp : (((wAux.setBit PWR_DOM.REQ 443 0 true).rampPick).map (·.1)) = some 443 ∧ (wAux.setFld PWR_DOM.STATE 0 0 4).domState 0 = 4 ∧ Tbl.get 0 (wAux.setFld PWR_DOM.STATE 0 0 1).domAt 0 + 1000 ≤ wAux.ns := by decide +kernel
theorem wit_park : (let d := wDone wAux 10
    10 ≤ d.done ∧ d.power = .run ∧ (∀ p ∈ d.regions, p.2.quiet = true) ∧ d.inFlight = false ∧ d.pwr.wakeAt ≠ some d.ns) ∧
    (let d := { wAux with pwr := { wAux.pwr with wakeAt := some wAux.ns, parkAt := some wAux.ns } }
     d.pwr.wakeAt = some d.ns ∧ d.pwr.parkAt = some d.ns ∧ d.power = .run ∧ (∀ p ∈ d.regions, p.2.quiet = true)) ∧ wAux.done < 10 ∧
    (let d := { wAux with rst := some ⟨0, 0, 0⟩ }
     (∀ p ∈ d.regions, p.2.quiet = true) ∧ d.inFlight = true) ∧
    (let d := { wAux with power := .parked }
     d.power = .parked ∧ d.pwr.parkAt ≠ some d.ns ∧ d.therm.later = [] ∧ d.domOn 288 = false ∧ (d.setBit PWR_PARK.WAKE_ON_MEM 0 0 false).bit PWR_PARK.WAKE_ON_MEM 0 0 = false) := by decide +kernel
theorem wit_budget : wAux.power = .run ∧ (let d := { wAux with points := [(0, 6)] }
    Tbl.get 8 d.points 0 ≠ 8 ∧ Tbl.get 8 d.points 0 < d.pointTarget 0 ∧ pointMv (d.pointTarget 0) ≤ d.railNow 0) ∧
    (∀ g ∈ [820, 900], (let d := { wAux with points := [(0, 6)], rails := [(0, ⟨820, wAux.ns, g⟩)] }
     Tbl.get 8 d.points 0 < d.pointTarget 0 ∧ d.railNow 0 < pointMv (d.pointTarget 0) ∧ (Tbl.get ⟨900, 0, 900⟩ d.rails 0).goal = g)) ∧ pointMv (wAux.pointTarget 0) = 900 ∧
    wAux.pointTarget 0 = 7 ∧ wAux.pwr.presetBy ≠ some (wAux.ns, 1) ∧
    (let d : Dev := { wAux with pwr := { wAux.pwr with arr := [1000], stk := [1000] } }
     d.arrCap < mean d.pwr.arr ∧ d.pwr.arrAt + 2000 ≤ d.ns ∧ d.arrFloor = false ∧ d.stkCap < mean d.pwr.stk ∧ d.pwr.stkAt + 10000 ≤ d.ns ∧ d.stkFloor = false) ∧
    12000 / 5 < wAux.fld PWR_SAG.MIN_12V 0 0 ∧
    (let d : Dev := { wAux with power := .halt, modEn := true }
     d.power = .halt ∧ d.pwr.haltAt + 50000 ≤ d.ns ∧ d.modEn = true) := by decide +kernel

/-! Temperature, HOLD and the timekeeper. -/

/-- The thermal unit with one reading of sensor 0 and a throttle of cluster 0. -/
def wTherm (v : Int) (k : Nat) : Dev := { wAux with therm := { wAux.therm with hist := [(0, [v, v, v, v])], down := [(0, k)] } }
theorem wit_throttle : (∀ k ∈ [0, 1, 5], (wTherm 800 k).therm.hottest (clusterSensors 0) = some (0, 800) ∧ Tbl.get 0 (wTherm 800 k).therm.down 0 = k ∧
      Tbl.get 0 (wTherm 800 k).therm.downAt 0 + 10000000 ≤ (wTherm 800 k).ns) ∧
    (wTherm 700 1).therm.hottest (clusterSensors 0) = some (0, 700) ∧ Tbl.get 0 (wTherm 700 1).therm.down 0 = 1 := by decide +kernel
theorem wit_cooling : (∀ b ∈ [false, true], (let d : Dev := { wAux with therm := { wAux.therm with degraded := b, limit := 900 } }
    d.therm.stepAt ≤ d.ns ∧ d.therm.degraded = b ∧ d.therm.limit < 1200 ∧ d.therm.baseAt = none)) := by decide +kernel
theorem wit_coolant : (let d := { wAux with ns := 40000000000 }.setBit THM_COOLANT.FLOW_VALID 0 0 true
    d.therm.coolBy ≠ some (d.ns, 0) ∧ d.therm.coolBy ≠ some (d.ns, 1) ∧ d.fld THM_COOLANT.STALE 0 0 ≠ 0 ∧ d.fld THM_COOLANT.STALE 0 0 ≤ d.coolAge ∧ (d.bit THM_COOLANT.INLET_VALID 0 0 || d.bit THM_COOLANT.FLOW_VALID 0 0) = true) := by decide +kernel
theorem wit_hold : wAux.done < 10 ∧ wAux.power = .run ∧ bitOf (wAux.fld TK_HOLD.REASON 0 0) 3 = false ∧ (wAux.setFld TK_HOLD.REASON 0 0 8).fld TK_HOLD.REASON 0 0 = 8 ∧
    (wAux.setBit DEV_PINS.SLOWCLK_OK 0 0 true).bit DEV_PINS.SLOWCLK_OK 0 0 = true ∧ wAux.fuse.trim < 2 ^ TK_OSC.TRIM.w := by decide +kernel
theorem wit_pace : (∀ v ∈ [0, 1], (let d := (wAux.setBit TK_PACE.EN 0 0 true).setFld TK_PLAN.VALID 0 0 v
    d.bit TK_PACE.EN 0 0 = true ∧ planBits (d.planEntry 0) 2 1 = v)) ∧
    (∀ c ∈ [0, 15], ∀ b ∈ [false, true], (let d := ({ (wAux.setBit TK_PACE.RUNNING 0 0 true) with pace := ⟨0, 0, b, some ((100, 200), (100, 200), 7)⟩ }.setFld TK_PACE.CUR 0 0 c).setFld TK_PLAN.VALID 0 1 1
      d.pwr.presetBy ≠ some (d.ns, 0) ∧ d.bit TK_PACE.RUNNING 0 0 = true ∧ d.pace.led = b ∧ d.paceEndAt ≤ d.ns ∧ d.fld TK_PACE.CUR 0 0 = c ∧ (c = 0 → planBits (d.planEntry (c + 1)) 2 1 = 1) ∧
      d.pace.at' + d.fld TK_PACE.SPREAD_MS 0 0 * 1000000 * 7 / 8 ≤ d.ns)) := by decide +kernel

/-! Integrity and repair. -/

/-- The device 200 ms later with no refresh of slice 0 due and none to pull in. -/
def wQuiet : Dev := wAux.setSlice 0 { wAux.slice 0 with refBase := wAux.ns, debt := (List.range 192).map (·, -8) }
theorem wit_split : (wAux.splitOpen && wAux.splitHas (32 * wAux.fld ECC_SPLIT_ADDR.ADDR 0 0)) = true ∧
    (let d := wAux.setFld ECC_SPLIT_ADDR.ADDR 0 0 (2 ^ 46)
     (d.splitOpen && d.splitHas (32 * d.fld ECC_SPLIT_ADDR.ADDR 0 0)) = false) := by decide +kernel
theorem wit_patrol : wQuiet.power = .run ∧ 0 < stackEnd ∧ wQuiet.scrubFree (stackCore 0) (stackRow 0) = true ∧
    wAux.gddrHas (wLine * 4096 / 32 * 32) 32 = false ∧
    (let d : Dev := { wAux.setFld GDR_CFG.CHAN_MASK 0 0 255 with gddr := wGddr.gddr }
     d.gddrHas (wLine * 4096 / 32 * 32) 32 = true ∧ d.gdrIdle (d.gdrChan (wLine * 4096 - gddrBase)) = true) := by decide +kernel
/-- Slice 0 in a state. -/
def wSlc (f : Slice → Slice) : Dev := wAux.setSlice 0 (f (wAux.slice 0))
theorem wit_swap : (let d := wSlc fun s => { s with swapReq := [5] }
    let sl := d.slice 0
    sl.swapReq = [5] ∧ sl.swapStep = .idle ∧ sl.mode ≠ .switching ∧ sl.narrowHalf = none ∧ d.grpState 0 (5 / 32) = 0 ∧ d.bit LNK_CFG.SWAP_EN 0 0 = true ∧
    (d.setBit LNK_CFG.SWAP_EN 0 0 false).bit LNK_CFG.SWAP_EN 0 0 = false ∧ (d.setGrp 0 0 1).grpState 0 (5 / 32) ≠ 0) := by decide +kernel
theorem wit_swapStaged : (let d := wQuiet.setSlice 0 { wQuiet.slice 0 with swapReq := [5], swapStep := .staging, mrwLeft := [0] }
    (d.rowSlot 0).1 = .mrw ∧ ((d.rowSlot 0).2.slice 0).mrwLeft = [0] ∧ ((d.rowSlot 0).2.slice 0).narrowHalf = none) ∧
    (let sl := (wSlc fun s => { s with swapReq := [5], swapStep := .stopped }).slice 0
     sl.swapReq = [5] ∧ sl.swapStep = .stopped ∧ sl.opens = [] ∧ sl.moves = []) := by decide +kernel
theorem wit_parity : ∀ w ∈ [none, some ⟨0, 0, 0, [], none⟩], (let o : OpenRow := ⟨0, 0, w, false, 0⟩
    ((wSlc fun s => { s with opens := [o] }).slice 0).opens = [o] ∧ o.write = w) := by decide +kernel
theorem wit_calibration : (wQuiet.rowSlot 0).2.slotOpen 0 = true ∧ ((wQuiet.rowSlot 0).1 = .none ∨ (wQuiet.rowSlot 0).1 = .mrw) := by decide +kernel
theorem wit_lane : (let d : Dev := { wAux with laneErr := [(laneKey 0 13 0, List.replicate 16 0)] }
    d.laneBad 0 13 0 = true ∧ (d.lanesUp 0 13).contains 0 = true ∧ d.bit LNK_CFG.RETIRE_EN 0 0 = true ∧ d.lanesUp 0 13 ≠ [0]) := by decide +kernel
theorem wit_replay : (let d := { wAux with d2d := [(0, ⟨5, true, 0, 0⟩)] }.setBit LNK_STATUS.D2D_UP 0 0 true
    d.bit LNK_STATUS.D2D_UP 0 0 = true ∧ (d.grp 0).nak = true ∧ ((4 : BitVec 12).toNat + 1) % 4096 = (d.grp 0).next) := by decide +kernel
theorem wit_chkSnoop : (∀ u : Fin 36, wAux.chkFresh u = false) ∧
    (let d := wAux.chkTake 0 0
     d.bit CHK_SNOOP.EN 0 0 = false ∧ d.chkFresh 0 = true) := by decide +kernel

/-! Bring-up. -/

/-- STARTER step k is done, and n runs (0: none). -/
def wStart (k n : Nat) : Dev := { (wDone wAux k).setFld STARTER_STATUS.RUNNING 0 0 n with svc := [.bar0], perstAt := some 0 }
theorem wit_steps : (∀ k ∈ [1, 2, 3, 4, 5, 6, 7, 8, 9, 10],
      (let d := ((wStart (k - 1) 0).setBit DEV_PINS.PWR_GOOD 0 0 true).setBit FAB_ID.FID_VALID 0 0 true
       let d := d.setFld FAB_PORT.SPEED 0 0 5
       d.svc.contains .bar0 = true ∧ d.step = none ∧ d.done + 1 = k ∧ d.stepMay k = true)) ∧ { wStart 0 1 with step := some ⟨0, none, false, none⟩ }.step ≠ none := by decide +kernel
theorem wit_stepEnds : ∀ k ∈ [2, 8, 10], ∀ f ∈ [none, some 2], (let d : Dev := { wStart (k - 1) k with step := some ⟨200000000, f, false, none⟩ }
    d.step = some ⟨200000000, f, false, none⟩ ∧ d.ns ≤ 200000000 + d.stepBound (d.fld STARTER_STATUS.RUNNING 0 0) * 1000000 ∧ d.fld STARTER_STATUS.RUNNING 0 0 = k ∧
    0 + d.stepBound 2 * 1000000 < 200000000000000) := by decide +kernel
theorem wit_resets : 2 ≤ (wStart 2 0).done ∧ (wStart 2 0).rst = none ∧ (wStart 0 0).done < 2 ∧ (wStart 2 0).power ≠ .halt ∧ (wStart 2 0).perstAt ≠ none ∧ (wStart 2 0).perstAt ≠ some (wStart 2 0).ns ∧
    (let d : Dev := { wStart 2 0 with rst := some ⟨0, 5, 0⟩ }
     (d.scopeCores 0 5).all (fun n => d.fenceState n == 2) = true) := by decide +kernel
theorem wit_partitions : (let d := wStart 2 0
    let p : Fin 8 := 0
    let may (cl : BitVec 32) : Bool :=
      (let has (q k : Nat) : Bool := if q = p.val then bitOf cl.toNat k else bitOf (d.fld RST_PART.CLUSTERS q 0) k
       let twice := (List.range 32).any fun k => bitOf cl.toNat k && (List.range 8).any fun q => q != p.val && has q k
       let split := (List.range 16).any fun k => (List.range 8).any fun q => has q k != has q (k + 16)
       let moved := (List.range 32).any fun k => (bitOf cl.toNat k != bitOf (d.fld RST_PART.CLUSTERS p 0) k) && (List.range 8).any fun j => d.fenceState (8 * k + j) != 2
       !(twice || split || moved))
    may 0x10001 = true ∧ may 1 = false) := by decide +kernel

/-! Counters, sensors, the life log. -/

theorem wit_wrap : (let d := (wAux.setFld PERF_CNT.COUNT 0 0 (2 ^ 48 - 1)).setBit PERF_CTL.EN 0 0 true
    d.fld PERF_CNT.COUNT 0 0 = 2 ^ 48 - 1 ∧ d.bit PERF_CTL.EN 0 0 = true ∧ d.bit PERF_CLCTL.FREEZE 0 0 = false ∧ (d.bit PERF_CTL.SAMPLE 0 0 && d.bit PERF_CTL.IRQ 0 0) = false ∧
    (let e := (d.setBit PERF_CTL.SAMPLE 0 0 true).setBit PERF_CTL.IRQ 0 0 true
     e.fld PERF_CNT.COUNT 0 0 = 2 ^ 48 - 1 ∧ e.bit PERF_CTL.EN 0 0 = true ∧ e.bit PERF_CTL.SAMPLE 0 0 = true ∧ e.bit PERF_CTL.IRQ 0 0 = true ∧ e.bit PERF_SAMPLE.VALID 0 0 = false ∧
     (e.core 0).sampleArm = none)) ∧
    (let d := (wAux.setFld PERF_CLCNT.COUNT 0 0 (2 ^ 48 - 1)).setBit PERF_CLSEL.EN 0 0 true
     d.fld PERF_CLCNT.COUNT 0 0 = 2 ^ 48 - 1 ∧ d.bit PERF_CLSEL.EN 0 0 = true ∧ d.bit PERF_CLCTL.FREEZE 0 0 = false) ∧
    (let d := (wAux.setFld DEV_PCNT.COUNT 0 0 (2 ^ 48 - 1)).setBit DEV_PCTL.EN 0 0 true
     d.fld DEV_PCNT.COUNT 0 0 = 2 ^ 48 - 1 ∧ d.bit DEV_PCTL.EN 0 0 = true) := by decide +kernel
/-- Five weeks of life have passed, and the last one had retries of group 0. -/
def wWeek (x : Nat) : Dev :=
  { wAux with ns := 700000000000, mem := storeBytes (storeBytes [] (histKey 16) (toBytes 8 (5 * 604800))) (histKey (0x4480 + 4 * 64)) (toBytes 4 x) }
theorem wit_life : memoryWf wAux.mem = true ∧ wAux.cyc.saved = false ∧ { wAux with cyc := { wAux.cyc with saved := true } }.cyc.saved = true ∧ wAux.lifeS = 0 ∧ (wWeek 0).lifeAt + 600000000 ≤ (wWeek 0).us ∧ wAux.us < wAux.lifeAt + 600000000 ∧ (wWeek 0).lifeS ≠ 0 ∧
    (wWeek 0).lifeS % 604800 = 0 ∧ (∀ g < 16, ((wWeek 0).retriesBack g 0).getD 0 ≤ (wWeek 0).fld LIFE_CTL.RETRY_WARN 0 0 ∧
      (wWeek 0).retriesRise g (max 1 ((wWeek 0).fld LIFE_CTL.RETRY_WEEKS 0 0)) = false) ∧
    (wWeek 200000).fld LIFE_CTL.RETRY_WARN 0 0 < ((wWeek 200000).retriesBack 0 0).getD 0 ∧
    (∀ h < 16, h ≠ 0 → ((wWeek 200000).retriesBack h 0).getD 0 ≤ (wWeek 200000).fld LIFE_CTL.RETRY_WARN 0 0 ∧
      (wWeek 200000).retriesRise h (max 1 ((wWeek 200000).fld LIFE_CTL.RETRY_WEEKS 0 0)) = false) := by decide +kernel

/-! The network, register accesses, the control processor's instructions. -/

/-- A cluster's router ON. -/
def wNet : Dev := wDom wAux 288
theorem wit_router : wAux.routerOn 0 = false ∧ wNet.routerOn 0 = true ∧ (wNet.lanesUp 0 8).contains 0 = true ∧ 8 < portCount 0 ∧ (wNet.router 0).bufs = [] ∧ (wNet.router 0).inp = [] ∧
    (wNet.router 0).outp = [] ∧ (wNet.router 0).offers = [] ∧ (wNet.outLanes 0 (route 0 8 (512 + 64))).isEmpty = false ∧ serves 0 (512 + 64) = false := by decide +kernel
theorem wit_frame : (let d := wAux.setBit LNK_STATUS.D2D_UP 0 0 true
    d.bit LNK_STATUS.D2D_UP 0 0 = true ∧ (d.grp 0).nak = false ∧ (d.grp 0).next = 0) := by decide +kernel
/-- The management controller's domain ON. -/
def wBus : Dev := wDom wAux 449
theorem wit_bus : wBus.busOpen .mgmt 0 = true ∧ wBus.busWaits 0 = false ∧ wBus.regHeld = [] ∧ (cxlRange 0 || pbaRange 0 || lifeRange 0) = false ∧ msixRange 0 = false ∧ (regAt 0).isSome = true ∧
    wBus.busReach 0 = true ∧ wBus.busOpen .mgmt 0x3FFFF8 = true ∧ regAt 0x3FFFF8 = none := by decide +kernel
theorem wit_flit (p : BitVec 512) : flitOk (flitOf p (1 + 4 + 8 + 32 * (512 + 64))) = true ∧ flitHead (flitOf 0 (1 + 4 + 8 + 32 * (512 + 64))) = true := ⟨Laws.flitOf_ok p _, by simp [flitHead, flitOf, bitOf]; omega⟩
theorem wit_csr : ∀ u ∈ [false, true], (let d := wAux
    d.csrMay 0 0x340 false u = true ∧ d.csrMay 0 0x340 true u = false) := by decide +kernel
/-- Core 0's processor runs, with an instruction at 0x8000. -/
def wCp (h : Nat) : Dev :=
  { Dev.reset with mem := storeBytes [] (storeKey 0 0 0x8000) (toBytes 4 h), clks := [(0, ⟨1000, 0, 0, 0⟩)] }.setCore 0 { Core.init with cp := { Cp.init with st := .running, pc := 0x8000 } }
theorem wit_cp : (wCp 0x73).cpRuns 0 = true ∧ (wCp 0x73).cpIrqs 0 = [] ∧ ((wCp 0x73).core 0).cp.wfi = false ∧ ((wCp 0x73).cpFetch 0).1.toOption = some (0x73, 4) ∧
    ((wCp 0x003100B3).cpFetch 0).1.toOption = some (0x003100B3, 4) ∧ rvOp 0x003100B3 = 0x33 ∧ rvF7 0x003100B3 = 0 ∧ rvF3 0x003100B3 = 0 ∧ rvRd 0x003100B3 = 1 ∧
    ((wCp 0).cpFetch 0).1.toOption = some (0, 2) ∧ rvcExpand 0 = none := by decide +kernel
theorem wit_cp_waits : (let d := wCp 0x73
    let d := d.modCp 0 fun p => { p with wfi := true }
    (d.core 0).cp.wfi = true ∧ d.mip 0 &&& (d.core 0).cp.mie.toNat = 0 ∧ d.cpIrqs 0 = []) := by decide +kernel
theorem wit_cp_fault : (∀ t ∈ [false, true], (let d := (wCp 0x73).modCp 0 fun p => { p with pc := 0x10000, trapFault := t }
    (d.cpFetch 0).1.toOption = none ∧ (d.core 0).cp.trapFault = t)) := by decide +kernel
theorem wit_slice : (wDone wAux 0).done < 10 ∧ wAux.bit SLC_CFG.FORCE_NARROW 0 0 = false ∧ (wAux.slice 0).mode = .full ∧ (wAux.slice 0).narrowHalf = none ∧ 10 ≤ (wDone wAux 10).done := by decide +kernel

end Sys2Proof.Tests
end

section
/-! SUPPORT. Fuses over a step (R558). -/

namespace Sys2Proof.Machine

/-- Burning up to the content that stands changes nothing. -/
theorem Fuse.burn_self (f : Fuse) : f.burn f = f := by
  have hrev : f.revoked.filter (fun i => decide (i < 2) && !f.revoked.contains i) = [] :=
    List.filter_eq_nil_iff.2 fun i hi => by simp [hi]
  simp only [Fuse.burn, hrev, List.append_nil, max_eq_left (min_le_right _ _)]

/-- An event of the root of trust that burns no fuse has an ordinary event's frame. -/
theorem Dev.keepClock_eq_keep {d e : Dev} (h : e.fuse = d.fuse) : d.keepClock e = d.keep e := by
  simp only [Dev.keepClock, Dev.keep, h, Fuse.burn_self]

/-- All that a step can do to the fuses: nothing, or burn them up to some content. -/
theorem step_fuse {s t : State} (h : step s = .next t) :
    t.dev.fuse = s.dev.fuse ∨ ∃ g, t.dev.fuse = s.dev.fuse.burn g := by
  cases hp : s.pending with
  | nil =>
    obtain rfl : s.tick = t := by simpa [step, hp] using h
    by_cases hw : s.dev.regHeld.isEmpty = true
    · exact .inl (if_pos hw)
    · exact .inr ⟨_, if_neg hw⟩
  | cons c rest =>
    simp only [step, hp] at h
    rcases exec_next c { s with pending := rest } with ⟨e, he⟩ | ⟨e, he⟩
    · obtain rfl := Host.Outcome.next.inj (he.symm.trans h)
      exact .inl rfl
    · obtain rfl := Host.Outcome.next.inj (he.symm.trans h)
      exact .inr ⟨e.fuse, rfl⟩

/-- Settles O5: the fuses of a DX96-256-A0 as it is made (log 4). -/
theorem resetFusesLegal : Obligations.ResetFusesLegal := by
  unfold Obligations.ResetFusesLegal
  decide

/-- Settles O6: a step leaves the fuses or burns them, and burning keeps a content legal. -/
theorem fusesStayLegal : Obligations.FusesStayLegal := by
  intro s t hs hstep
  rcases step_fuse hstep with h | ⟨g, h⟩
  · rwa [h]
  · rw [h]; exact Fuse.legal_burn _ g hs

end Sys2Proof.Machine
end

section
/-! SUPPORT. Fields and the register map: bits of numbers, where a register lies, and that its fields lie apart (R10 to R12, R35, R36). -/

namespace Sys2Proof.Machine

/-! Bits of numbers. -/

theorem bitsOf_lt (n lo w : Nat) : bitsOf n lo w < 2 ^ w := Nat.mod_lt _ (by positivity)

theorem testBit_bitsOf (n lo w j : Nat) : (bitsOf n lo w).testBit j = (decide (j < w) && n.testBit (j + lo)) := by
  rw [bitsOf, Nat.testBit_mod_two_pow, Nat.testBit_div_two_pow]

theorem bitsOf_and (m n lo w : Nat) : bitsOf (m &&& n) lo w = bitsOf m lo w &&& bitsOf n lo w := by
  refine Nat.eq_of_testBit_eq fun j => ?_
  simp only [Nat.testBit_and, testBit_bitsOf]
  cases decide (j < w) <;> simp

/-- Bits cut out by a mask lie within the mask. -/
theorem bitsOf_masked (v m lo w : Nat) : bitsOf (v &&& m) lo w &&& bitsOf m lo w = bitsOf (v &&& m) lo w := by
  rw [bitsOf_and, Nat.and_assoc, Nat.and_self]

theorem or_and_absorb (x y : Nat) : x ||| (x &&& y) = x :=
  Nat.eq_of_testBit_eq fun j => by simp only [Nat.testBit_or, Nat.testBit_and]; cases x.testBit j <;> simp

/-! The register map. -/

/-- A register as its table has it: every field lies in its word, at the register's place, and no two fields share a bit. -/
def Reg.tidy (g : Reg) : Bool :=
  (g.fields.all fun f => f.fits && decide (f.pos = g.pos)) && decide (g.fields.Pairwise fun f h => f.apart h = true)

theorem regMap_tidy : ∀ g ∈ regMap, g.tidy = true := by decide +kernel

/-- Where an address `r` of unit `u`'s stretch, counted as for unit 0, meets the register, if it does. -/
def RegPos.fit (p : RegPos) (u r : Nat) : Option (Nat × Nat) :=
  if r < p.base then none
  else
    let x := r - p.base
    let i := if p.istride = 0 then 0 else x / p.istride
    if u < p.units ∧ i < p.icount ∧ x = i * p.istride then some (u, i) else none

theorem RegPos.fit_some {p : RegPos} {u r u' i : Nat} (h : p.fit u r = some (u', i)) : u' = u ∧ p.base + i * p.istride = r := by
  obtain ⟨hlo, h⟩ := Option.ite_none_left_eq_some.1 h
  obtain ⟨⟨-, -, hx⟩, he⟩ := Option.ite_none_right_eq_some.1 h
  cases he
  exact ⟨rfl, by omega⟩

/-- A place answers with unit and number only those that lie there. -/
theorem RegPos.off_of_at? {p : RegPos} {off u i : Nat} (h : p.at? off = some (u, i)) : p.off u i = off := by
  obtain ⟨base, kind, units, istride, icount⟩ := p
  cases kind with
  | flat s =>
    change (if off < base then none else if s = 0 then RegPos.fit _ 0 off else RegPos.fit _ ((off - base) / s) (base + (off - base) % s)) = _ at h
    obtain ⟨hlo, h⟩ := Option.ite_none_left_eq_some.1 h
    split at h
    · obtain ⟨rfl, hr⟩ := RegPos.fit_some h
      simpa [RegPos.off] using hr
    · obtain ⟨rfl, hr⟩ := RegPos.fit_some h
      have := Nat.div_add_mod' (off - base) s
      simp only [RegPos.off] at hr ⊢
      omega
  | core j =>
    change (if off < 0x400000 then none else if (off - 0x400000) % 0x10000 < base then none
      else if ((off - 0x400000) % 0x10000 - base) / j < 8 then
        RegPos.fit _ (8 * ((off - 0x400000) / 0x10000) + ((off - 0x400000) % 0x10000 - base) / j) (base + ((off - 0x400000) % 0x10000 - base) % j)
      else none) = _ at h
    obtain ⟨hlo, h⟩ := Option.ite_none_left_eq_some.1 h
    obtain ⟨hw, h⟩ := Option.ite_none_left_eq_some.1 h
    obtain ⟨hn, h⟩ := Option.ite_none_right_eq_some.1 h
    obtain ⟨rfl, hr⟩ := RegPos.fit_some h
    have := Nat.div_add_mod' ((off - 0x400000) % 0x10000 - base) j
    simp only [RegPos.off, Nat.mul_add_div (show 8 > 0 by decide), Nat.mul_add_mod, Nat.div_eq_of_lt hn, Nat.mod_eq_of_lt hn] at hr ⊢
    omega
  | cluster =>
    change (if off < 0x400000 then none else RegPos.fit _ ((off - 0x400000) / 0x10000) ((off - 0x400000) % 0x10000)) = _ at h
    obtain ⟨hlo, h⟩ := Option.ite_none_left_eq_some.1 h
    obtain ⟨rfl, hr⟩ := RegPos.fit_some h
    simp only [RegPos.off] at hr ⊢
    omega
  | region =>
    change (if off < 0x800000 then none else RegPos.fit _ ((off - 0x800000) / 0x4000) ((off - 0x800000) % 0x4000)) = _ at h
    obtain ⟨hlo, h⟩ := Option.ite_none_left_eq_some.1 h
    obtain ⟨rfl, hr⟩ := RegPos.fit_some h
    simp only [RegPos.off] at hr ⊢
    omega

theorem regAt_some {off u i : Nat} {g : Reg} (h : regAt off = some (g, u, i)) : g ∈ regMap ∧ g.pos.off u i = off := by
  obtain ⟨r, hr, hq⟩ := List.exists_of_findSome?_eq_some h
  obtain ⟨⟨a, b⟩, hat, he⟩ := Option.map_eq_some_iff.1 hq
  cases he
  exact ⟨hr, RegPos.off_of_at? hat⟩

theorem regAt_starterStatus : regAt (STARTER_STATUS.pos.off 0 0) = some (STARTER_STATUS.reg, 0, 0) := by decide +kernel

theorem Fld.rst_lt {f : Fld} (h : f.fits = true) : f.rst < 2 ^ f.w := by
  simp only [Fld.fits, Bool.and_eq_true, decide_eq_true_eq] at h
  exact h.2

theorem Dev.fld_lt (d : Dev) (f : Fld) (u i : Nat) (h : f.fits = true) : d.fld f u i < 2 ^ f.w :=
  Nat.xor_lt_two_pow (BitVec.isLt _) (Fld.rst_lt h)

theorem Fld.apart_comm (f g : Fld) : f.apart g = g.apart f := Bool.or_comm _ _

section Register

variable {off u i : Nat} {g : Reg} (hg : regAt off = some (g, u, i))
include hg

theorem regAt_fields_apart : g.fields.Pairwise fun f h => f.apart h = true := by
  have h := regMap_tidy g (regAt_some hg).1
  simp only [Reg.tidy, Bool.and_eq_true, decide_eq_true_eq] at h
  exact h.2

theorem regAt_field {f : Fld} (hf : f ∈ g.fields) : f.fits = true ∧ f.pos = g.pos := by
  have h := regMap_tidy g (regAt_some hg).1
  simp only [Reg.tidy, Bool.and_eq_true, decide_eq_true_eq, List.all_eq_true] at h
  exact h.1 f hf

/-- DONE is read-only, so that no access by software's hand moves it, whatever the register. -/
theorem putFld_done {f : Fld} (hf : f ∈ g.fields) (ha : f.acc ≠ .ro) (d : Dev) (v : Nat) : (d.putFld f u i v).done = d.done := by
  obtain ⟨hfit, hpos⟩ := regAt_field hg hf
  by_cases ho : STARTER_STATUS.pos.off 0 0 = f.pos.off u i
  · rw [hpos, (regAt_some hg).2] at ho
    rw [← ho, regAt_starterStatus] at hg
    cases hg
    have hro : ∀ h ∈ STARTER_STATUS.reg.fields, h.acc ≠ .ro → h.apart STARTER_STATUS.DONE = true := by decide
    exact d.fld_putFld_apart f _ _ _ v 0 0 hfit (hro f hf ha)
  · exact d.fld_putFld_off f STARTER_STATUS.DONE u i v 0 0 ho

end Register

/-! One field of a register, while software's hand is on the fields beside it. -/

/-- Field f, what it held as the cycle began, what the block has set of it in the cycle, and DONE are in both devices the same: all that a write or a clearing read of the field looks at. -/
structure SameAt (f : Fld) (u i : Nat) (d e : Dev) : Prop where
  fld : e.fld f u i = d.fld f u i
  begun : e.begun.fld f u i = d.begun.fld f u i
  setNow : e.setNow f u i = d.setNow f u i
  done : e.done = d.done

theorem SameAt.refl (f : Fld) (u i : Nat) (d : Dev) : SameAt f u i d d := ⟨rfl, rfl, rfl, rfl⟩

theorem SameAt.trans {f : Fld} {u i : Nat} {a b c : Dev} (h : SameAt f u i a b) (h' : SameAt f u i b c) : SameAt f u i a c :=
  ⟨h'.fld.trans h.fld, h'.begun.trans h.begun, h'.setNow.trans h.setNow, h'.done.trans h.done⟩

/-- Fields treated one after another, each leaving those beside it: field f meets its own treatment as the first device shows it, and keeps what that makes of it. -/
theorem SameAt.foldl {σ : Dev → Fld → Dev} {f : Fld} {u i : Nat} {fs : List Fld} (hf : f ∈ fs) (hp : fs.Pairwise fun f h => f.apart h = true)
    (hσ : ∀ d, ∀ h ∈ fs, h.apart f = true → SameAt f u i d (σ d h)) (d : Dev) :
    ∃ e, SameAt f u i d e ∧ SameAt f u i (σ e f) (fs.foldl σ d) := by
  obtain ⟨pre, post, rfl⟩ := List.append_of_mem hf
  obtain ⟨-, hpost, hpre⟩ := List.pairwise_append.1 hp
  have run : ∀ (l : List Fld), (∀ h ∈ l, h ∈ pre ++ f :: post ∧ h.apart f = true) → ∀ d, SameAt f u i d (l.foldl σ d) := fun l hl d =>
    List.foldlRecOn l σ (motive := SameAt f u i d) (SameAt.refl f u i d) fun e he h hm => he.trans (hσ e h (hl h hm).1 (hl h hm).2)
  refine ⟨pre.foldl σ d, run pre (fun h hm => ⟨by simp [hm], hpre h hm f (by simp)⟩) d, ?_⟩
  rw [List.foldl_append, List.foldl_cons]
  refine run post (fun h hm => ⟨by simp [hm], ?_⟩) _
  rw [Fld.apart_comm]
  exact (List.pairwise_cons.1 hpost).1 h hm

/-- Software's hand on a field leaves the fields beside it. -/
theorem SameAt.putFld {off u i : Nat} {g : Reg} (hg : regAt off = some (g, u, i)) {f h : Fld} (hh : h ∈ g.fields) (ha : h.acc ≠ .ro)
    (hap : h.apart f = true) (d : Dev) (v : Nat) : SameAt f u i d (d.putFld h u i v) where
  fld := d.fld_putFld_apart h f u i v u i (regAt_field hg hh).1 hap
  begun := rfl
  setNow := rfl
  done := putFld_done hg hh ha d v

/-! What has been sent and what memory holds: no access of a register's fields touches either. -/

/-- What the block has sent out, and what its memory holds. -/
def Dev.outMem (d : Dev) : List Output × List Host.Cell := (d.out, d.mem)

theorem Dev.outMem_foldl {α : Type} {σ : Dev → α → Dev} (h : ∀ d a, (σ d a).outMem = d.outMem) (l : List α) (d : Dev) :
    (l.foldl σ d).outMem = d.outMem :=
  List.foldlRecOn l σ (motive := fun e => e.outMem = d.outMem) rfl fun e he a _ => (h e a).trans he

@[simp] theorem Dev.outMem_putFld (d : Dev) (f : Fld) (u i v : Nat) : (d.putFld f u i v).outMem = d.outMem := rfl
@[simp] theorem Dev.outMem_setCore (d : Dev) (n : Nat) (c : Core) : (d.setCore n c).outMem = d.outMem := rfl
@[simp] theorem Dev.outMem_free (d : Dev) : d.free.2.outMem = d.outMem := rfl
@[simp] theorem Dev.outMem_pmcSince (d : Dev) (key now : Nat) : (d.pmcSince key now).2.outMem = d.outMem := rfl

@[simp] theorem Dev.outMem_pmcAdd (d : Dev) (cnt ovf : Fld) (u i k : Nat) : (d.pmcAdd cnt ovf u i k).1.outMem = d.outMem := by
  unfold Dev.pmcAdd
  dsimp only
  split
  · rfl
  · split <;> rfl

@[simp] theorem Dev.outMem_ovfPast (d was : Dev) (cnt ovf : Fld) (u i : Nat) : (d.ovfPast was cnt ovf u i).outMem = d.outMem := by
  unfold Dev.ovfPast
  split <;> rfl

@[simp] theorem Dev.outMem_pmcCoreAdd (d : Dev) (n i k : Nat) : (d.pmcCoreAdd n i k).outMem = d.outMem := by
  unfold Dev.pmcCoreAdd
  dsimp only
  split <;> simp

@[simp] theorem Dev.outMem_pmcSettle (d : Dev) (n i : Nat) : (d.pmcSettle n i).outMem = d.outMem := by
  unfold Dev.pmcSettle
  dsimp only
  split
  · simp
  · split <;> simp

@[simp] theorem Dev.outMem_pmcSettleCl (d : Dev) (k i : Nat) : (d.pmcSettleCl k i).outMem = d.outMem := by
  unfold Dev.pmcSettleCl
  dsimp only
  split <;> simp

@[simp] theorem Dev.outMem_pmcSettleDev (d : Dev) (i : Nat) : (d.pmcSettleDev i).outMem = d.outMem := by
  unfold Dev.pmcSettleDev
  dsimp only
  split <;> simp

/-- Bringing the counters a read meets up to now sends nothing and leaves memory. -/
@[simp] theorem Dev.outMem_readSettle (d : Dev) (g : Reg) (u i : Nat) : (d.readSettle g u i).outMem = d.outMem := by
  unfold Dev.readSettle
  split
  · exact Dev.outMem_foldl (fun d j => d.outMem_pmcSettle u j) _ d
  split
  · exact Dev.outMem_foldl (fun d j => d.outMem_pmcSettleCl u j) _ d
  split
  · exact Dev.outMem_foldl (fun d j => d.outMem_pmcSettleDev j) _ d
  split <;> rfl

end Sys2Proof.Machine
end

section
/-! SUPPORT. Register fields written and cleared, each by its access code (R10 to R13). -/

namespace Sys2Proof.Machine

/-! Writes by access code (R11, R13). -/

/-- What a write leaves in field f: it reaches bits k of the field, with x among them (R11, R13). -/
def Dev.written (d : Dev) (f : Fld) (u i x k : Nat) : Nat :=
  let all := 2 ^ f.w - 1
  match f.acc with
  | .rw => (d.fld f u i &&& (all ^^^ k)) ||| x
  | .rwl => if 10 ≤ d.done then d.fld f u i else (d.fld f u i &&& (all ^^^ k)) ||| x
  | .w1c => d.fld f u i &&& ((all ^^^ x) ||| d.setNow f u i)
  | .w1s => d.fld f u i ||| x
  | _ => d.fld f u i

/-- A write of a field is nothing, or software's hand on a field that is not read-only. -/
theorem Dev.fieldWrite_cases (d : Dev) (f : Fld) (u i v m : Nat) :
    d.fieldWrite f u i v m = d ∨ f.acc ≠ .ro ∧ ∃ x, d.fieldWrite f u i v m = d.putFld f u i x := by
  unfold Dev.fieldWrite
  dsimp only
  split
  · exact .inl rfl
  cases f.acc with
  | rw | w1c | w1s => exact .inr ⟨by decide, _, rfl⟩
  | rwl =>
    by_cases h : 10 ≤ d.done
    · exact .inl (if_pos h)
    · exact .inr ⟨by decide, _, if_neg h⟩
  | ro | rc | wo => exact .inl rfl

/-- A write that reaches no bit of a field leaves it. -/
theorem Dev.written_zero (d : Dev) (f : Fld) (u i : Nat) (h : f.fits = true) : d.written f u i 0 0 = d.fld f u i := by
  have hall : d.fld f u i &&& (2 ^ f.w - 1) = d.fld f u i := Nat.and_two_pow_sub_one_of_lt_two_pow (d.fld_lt f u i h)
  unfold Dev.written
  cases f.acc <;> simp only [Nat.xor_zero, Nat.or_zero, hall, ite_self, Nat.and_or_distrib_left, or_and_absorb]

/-- Reading a field that a write has reached: what its access code makes of it. -/
theorem Dev.fld_fieldWrite (d : Dev) (f : Fld) (u i : Nat) {x k : Nat} (h : f.fits = true) (hx : x &&& k = x) (hk : k < 2 ^ f.w) :
    (d.fieldWrite f u i x k).fld f u i = d.written f u i x k := by
  have hcur := d.fld_lt f u i h
  have hcut : ∀ y, d.fld f u i &&& y < 2 ^ f.w := fun y => Nat.and_le_left.trans_lt hcur
  have hxw : x < 2 ^ f.w := hx ▸ Nat.and_lt_two_pow x hk
  by_cases hk0 : k = 0
  · subst hk0
    obtain rfl : x = 0 := by simpa using hx.symm
    have hid : d.fieldWrite f u i 0 0 = d := by simp only [Dev.fieldWrite, if_true]
    rw [d.written_zero f u i h, hid]
  have put : ∀ v, v < 2 ^ f.w → (d.putFld f u i v).fld f u i = v := fun v hv => by rw [d.fld_putFld f u i v h, Nat.mod_eq_of_lt hv]
  unfold Dev.fieldWrite Dev.written
  simp only [if_neg hk0, hx]
  cases f.acc with
  | rw => exact put _ (Nat.or_lt_two_pow (hcut _) hxw)
  | rwl =>
    by_cases hd : 10 ≤ d.done
    · simp only [if_pos hd]
    · simp only [if_neg hd]
      exact put _ (Nat.or_lt_two_pow (hcut _) hxw)
  | w1c => exact put _ (hcut _)
  | w1s => exact put _ (Nat.or_lt_two_pow hcur hxw)
  | ro | rc | wo => rfl

@[simp] theorem Dev.outMem_plainWrite (d : Dev) (fs : List Fld) (u i v m : Nat) : (d.plainWrite fs u i v m).outMem = d.outMem :=
  Dev.outMem_foldl (fun e f => by
    rcases e.fieldWrite_cases f u i (bitsOf v f.lo f.w) (bitsOf m f.lo f.w) with h | ⟨-, x, h⟩
    · rw [h]
    · rw [h, Dev.outMem_putFld]) fs d

/-- A write under a mask that does nothing but reach its register's fields: each by its own access code, as the register stood (R11). -/
theorem Dev.fld_plainWrite {off u i : Nat} {g : Reg} (hg : regAt off = some (g, u, i)) {f : Fld} (hf : f ∈ g.fields) (d : Dev) (v m : Nat) :
    (d.plainWrite g.fields u i (v &&& m) m).fld f u i = d.written f u i (bitsOf (v &&& m) f.lo f.w) (bitsOf m f.lo f.w) := by
  obtain ⟨e, hde, hfold⟩ := SameAt.foldl (σ := fun d h => d.fieldWrite h u i (bitsOf (v &&& m) h.lo h.w) (bitsOf m h.lo h.w)) (u := u) (i := i) hf
    (regAt_fields_apart hg) (fun d h hh hap => by
      rcases d.fieldWrite_cases h u i (bitsOf (v &&& m) h.lo h.w) (bitsOf m h.lo h.w) with hw | ⟨ha, x, hw⟩
      · rw [hw]; exact SameAt.refl f u i d
      · rw [hw]; exact SameAt.putFld hg hh ha hap d x) d
  calc (d.plainWrite g.fields u i (v &&& m) m).fld f u i
      = (e.fieldWrite f u i (bitsOf (v &&& m) f.lo f.w) (bitsOf m f.lo f.w)).fld f u i := hfold.fld
    _ = e.written f u i (bitsOf (v &&& m) f.lo f.w) (bitsOf m f.lo f.w) :=
        e.fld_fieldWrite f u i (regAt_field hg hf).1 (bitsOf_masked v m f.lo f.w) (bitsOf_lt m f.lo f.w)
    _ = d.written f u i (bitsOf (v &&& m) f.lo f.w) (bitsOf m f.lo f.w) := by
        simp only [Dev.written, hde.fld, hde.done, hde.setNow]

/-! Reads that clear (R10 to R13). -/

/-- What a read that reaches bits k of field f makes of it. -/
def Dev.fieldClear (d : Dev) (f : Fld) (u i k : Nat) : Dev :=
  let keep (x y : Nat) : Nat := (x &&& ((2 ^ f.w - 1) ^^^ k)) ||| (y &&& k)
  if f.acc = .rc ∧ k ≠ 0 then
    let e := d.putFld f u i (keep (d.fld f u i) (d.rcLeft f u i))
    { e with cyc := { d.cyc with regs := (d.begun.putFld f u i (keep (d.begun.fld f u i) f.rst)).regs } }
  else d

theorem Dev.readClear_eq (d : Dev) (g : Reg) (u i m : Nat) :
    d.readClear g u i m = g.fields.foldl (fun d f => d.fieldClear f u i (bitsOf m f.lo f.w)) d := rfl

@[simp] theorem Dev.outMem_fieldClear (d : Dev) (f : Fld) (u i k : Nat) : (d.fieldClear f u i k).outMem = d.outMem := by
  unfold Dev.fieldClear
  dsimp only
  split <;> rfl

@[simp] theorem Dev.outMem_readClear (d : Dev) (g : Reg) (u i m : Nat) : (d.readClear g u i m).outMem = d.outMem := by
  rw [Dev.readClear_eq]
  exact Dev.outMem_foldl (σ := fun d f => d.fieldClear f u i (bitsOf m f.lo f.w)) (fun e f => e.outMem_fieldClear f u i _) g.fields d

/-- A clearing read of one field leaves the fields beside it, and what they held as the cycle began. -/
theorem SameAt.fieldClear {off u i : Nat} {g : Reg} (hg : regAt off = some (g, u, i)) {f h : Fld} (hh : h ∈ g.fields) (hap : h.apart f = true)
    (d : Dev) (k : Nat) : SameAt f u i d (d.fieldClear h u i k) := by
  unfold Dev.fieldClear
  dsimp only
  split
  · rename_i hc
    have ha : h.acc ≠ .ro := by rw [hc.1]; decide
    obtain ⟨hfld, -, hset, hdone⟩ := SameAt.putFld hg hh ha hap d ((d.fld h u i &&& ((2 ^ h.w - 1) ^^^ k)) ||| (d.rcLeft h u i &&& k))
    exact ⟨hfld, d.begun.fld_putFld_apart h f u i _ u i (regAt_field hg hh).1 hap, hset, hdone⟩
  · exact SameAt.refl f u i d

/-- Reading an RC field that a read has reached. -/
theorem Dev.fld_fieldClear (d : Dev) (f : Fld) (u i : Nat) {k : Nat} (h : f.fits = true) (ha : f.acc = .rc) (hk : k < 2 ^ f.w) :
    (d.fieldClear f u i k).fld f u i = (d.fld f u i &&& ((2 ^ f.w - 1) ^^^ k)) ||| (d.rcLeft f u i &&& k) := by
  have hcur := d.fld_lt f u i h
  by_cases hk0 : k = 0
  · subst hk0
    simp only [Dev.fieldClear, ne_eq, not_true_eq_false, and_false, if_false, Nat.xor_zero, Nat.and_zero, Nat.or_zero,
      Nat.and_two_pow_sub_one_of_lt_two_pow hcur]
  · rw [Dev.fieldClear]
    simp only [if_pos (And.intro ha hk0)]
    have hlt := Nat.or_lt_two_pow (Nat.and_le_left.trans_lt hcur : d.fld f u i &&& ((2 ^ f.w - 1) ^^^ k) < 2 ^ f.w) (Nat.and_lt_two_pow (d.rcLeft f u i) hk)
    exact (d.fld_putFld f u i _ h).trans (Nat.mod_eq_of_lt hlt)

/-- What an RC field restarts from where no event of the cycle has moved it. -/
theorem Dev.rcLeft_unmoved {d : Dev} {f : Fld} {u i : Nat} (hcur : d.fld f u i = d.begun.fld f u i) (hset : d.setNow f u i = 0) : d.rcLeft f u i = f.rst := by
  have hval : d.rcLeft f u i = if f.rst ≠ 0 ∨ f = BCR_PIN.LONGEST then f.rst else 0 := by simp [Dev.rcLeft, hcur, hset]
  rw [hval]
  split
  · rfl
  · rename_i hr
    exact (not_not.1 fun hne => hr (.inl hne)).symm

section Clear

variable {off u i : Nat} {g : Reg} (hg : regAt off = some (g, u, i)) {f : Fld} (hf : f ∈ g.fields) (d : Dev) (m : Nat)
include hg hf

/-- Of the fields of a register that a read reaches, field f meets its own clearing as the register stood. -/
theorem readClear_at : ∃ e, SameAt f u i d e ∧ SameAt f u i (e.fieldClear f u i (bitsOf m f.lo f.w)) (d.readClear g u i m) := by
  rw [Dev.readClear_eq]
  exact SameAt.foldl (σ := fun d h => d.fieldClear h u i (bitsOf m h.lo h.w)) hf (regAt_fields_apart hg)
    (fun d _ hh hap => SameAt.fieldClear hg hh hap d _) d

/-- A read clears the bits it reaches of an RC field to what the events of the cycle leave there (R10, R13). -/
theorem fld_readClear_rc (ha : f.acc = .rc) :
    (d.readClear g u i m).fld f u i = (d.fld f u i &&& ((2 ^ f.w - 1) ^^^ bitsOf m f.lo f.w)) ||| (d.rcLeft f u i &&& bitsOf m f.lo f.w) := by
  obtain ⟨e, hde, hfold⟩ := readClear_at hg hf d m
  rw [hfold.fld, e.fld_fieldClear f u i (regAt_field hg hf).1 ha (bitsOf_lt m f.lo f.w)]
  simp only [Dev.rcLeft, hde.fld, hde.begun, hde.setNow]

/-- A read leaves a field that is not RC. -/
theorem fld_readClear_ne (ha : f.acc ≠ .rc) : (d.readClear g u i m).fld f u i = d.fld f u i := by
  obtain ⟨e, hde, hfold⟩ := readClear_at hg hf d m
  have hid : e.fieldClear f u i (bitsOf m f.lo f.w) = e := if_neg fun hc => ha hc.1
  rw [hfold.fld, hid, hde.fld]

/-- A read that reaches the whole of an RC field that the cycle has not moved returns it to its reset value. -/
theorem fld_readClear_rst (ha : f.acc = .rc) (hcur : d.fld f u i = d.begun.fld f u i) (hset : d.setNow f u i = 0) (hk : bitsOf m f.lo f.w = 2 ^ f.w - 1) :
    (d.readClear g u i m).fld f u i = f.rst := by
  rw [fld_readClear_rc hg hf d m ha, hk, Dev.rcLeft_unmoved hcur hset, Nat.xor_self, Nat.and_zero, Nat.zero_or,
    Nat.and_two_pow_sub_one_of_lt_two_pow (Fld.rst_lt (regAt_field hg hf).1)]

end Clear

end Sys2Proof.Machine
end

section
/-! SUPPORT. Register accesses over the bus and by CSR, and slice configuration (R10 to R13, R36 to R38, R113, R170, R171, R176). -/

namespace Sys2Proof.Machine

/-! What an event makes of the machine. -/

theorem State.ev_to {s : State} {f : Dev → Dev} {e : Dev} (h : f s.dev = e) : ∃ t, s.ev f = .next t ∧ t.dev = s.dev.keep e := ⟨_, rfl, by rw [h]⟩
theorem State.evFuse_to {s : State} {f : Dev → Dev} {e : Dev} (h : f s.dev = e) : ∃ t, s.evFuse f = .next t ∧ t.dev = s.dev.keepClock e := ⟨_, rfl, by rw [h]⟩

/-- An event that leaves the machine as it is leads to the same state. -/
theorem State.ev_self {s : State} {f : Dev → Dev} (h : f s.dev = s.dev) : s.ev f = .next s := by rw [State.ev_next, h]; rfl

/-! The rows of this part, each one event. -/

theorem exec_registerWrite_burns {t : RegTarget} (h : targetBurns t = true) (r : Req) (v : Word) (s : State) :
    exec (.registerWrite r t v) s = s.evFuse fun d => d.writeTo r t v := if_pos h
theorem exec_registerWrite {t : RegTarget} (h : targetBurns t = false) (r : Req) (v : Word) (s : State) :
    exec (.registerWrite r t v) s = s.ev fun d => d.writeTo r t v := if_neg (by simp [h])
theorem exec_clearingRead (r : Req) (t : RegTarget) (s : State) : exec (.clearingRead r t) s = s.ev fun d => d.readFrom r t := rfl
theorem exec_forceNarrow (r : Req) (n : CoreId) (s : State) :
    exec (.forceNarrow r n) s = s.ev fun d => if d.done < 10 ∧ !d.bit SLC_CFG.FORCE_NARROW n 0 then d.slcForce n else d := rfl
theorem exec_trackClear (r : Req) (n : CoreId) (s : State) : exec (.trackClear r n) s = s.ev fun d => d.setSlice n { d.slice n with tracker := [] } := rfl

/-! The bus (R10, R36 to R38). -/

@[simp] theorem Dev.barError_fuse (d : Dev) (bit : Fld) (off : Nat) : (d.barError bit off).fuse = d.fuse := by
  unfold Dev.barError
  dsimp only
  split <;> split <;> rfl

/-- An access that the bus takes at once is made at once. -/
theorem Dev.busAccess_taken {d : Dev} {w : RegWait} (ho : d.busOpen w.req w.off = true) (hw : d.busWaits w.off = false) : d.busAccess w = d.busServe w := by
  simp [Dev.busAccess, ho, hw]

section Put

variable {d : Dev} {r : Req} {off size v : Nat}

theorem Dev.busPut_badAccess (h : (size ≠ 4 ∧ size ≠ 8) ∨ off % size ≠ 0) : d.busPut r off size v = d.barError DEV_ERR.BAD_ACCESS off := if_pos h

/-- An access of a size and alignment that the bus has. -/
theorem access_ok (hs : size = 4 ∨ size = 8) (ha : off % size = 0) : ¬ ((size ≠ 4 ∧ size ≠ 8) ∨ off % size ≠ 0) := by omega

variable (hs : size = 4 ∨ size = 8) (ha : off % size = 0) (hr : (cxlRange off || pbaRange off || lifeRange off) = false) (hm : msixRange off = false)
include hs ha hr hm

theorem Dev.busPut_unmapped (hreg : regAt (off / 8 * 8) = none) : d.busPut r off size v = d.barError DEV_ERR.UNMAPPED off := by
  simp only [Dev.busPut, if_neg (access_ok hs ha), hr, hm, hreg, Bool.false_eq_true, if_false]

theorem Dev.busPut_reg {g : Reg} {u i : Nat} (hreg : regAt (off / 8 * 8) = some (g, u, i)) (hb : d.busReach off = true) :
    d.busPut r off size v =
      (d.regWrite r g u i (v * 2 ^ (8 * (off % 8)) &&& accessMask off size) (accessMask off size)).softMark (off / 8 * 8) (accessMask off size) := by
  simp only [Dev.busPut, if_neg (access_ok hs ha), hr, hm, hreg, hb, Bool.false_eq_true, if_false, if_true]

end Put

theorem Dev.busGet_reg {d : Dev} {off size : Nat} {g : Reg} {u i : Nat} (hs : size = 4 ∨ size = 8) (ha : off % size = 0)
    (hr : (cxlRange off || pbaRange off || lifeRange off || msixRange off) = false) (hreg : regAt (off / 8 * 8) = some (g, u, i)) (hb : d.busReach off = true) :
    d.busGet off size = (((d.readSettle g u i).regRead g u i &&& accessMask off size) / 2 ^ (8 * (off % 8)), (d.readSettle g u i).readClear g u i (accessMask off size)) := by
  simp only [Bool.or_eq_false_iff] at hr
  obtain ⟨⟨⟨hcxl, hpba⟩, hlife⟩, hmsix⟩ := hr
  simp only [Dev.busGet, if_neg (access_ok hs ha), hcxl, hpba, hlife, hmsix, hreg, hb, Bool.false_eq_true, if_false, if_true]

/-- A register that no block claims is written field by field. -/
theorem Dev.regWrite_plain {d : Dev} {r : Req} {g : Reg} {u i v m : Nat} (hc : d.clusterWrite r g u i v m = none) (hs : d.sharedWrite g u i v m = none)
    (hb : d.boardWrite g u i v m = none) (hm : d.manageWrite r g u i v m = none) : d.regWrite r g u i v m = d.plainWrite g.fields u i v m := by
  simp only [Dev.regWrite, hc, hs, hb, hm, Option.getD_none]

section Taken

variable {s : State} {r : Req} {off size : Nat} (ho : s.dev.busOpen r off = true) (hw : s.dev.busWaits off = false)
include ho hw

/-- A write that the bus takes, and that burns no fuse, is an ordinary event. -/
theorem exec_registerWrite_keep {v : Word} {e : Dev} (he : s.dev.busPut r off size v.toNat = e) (hf : targetBurns (.bar0 off size) = false ∨ e.fuse = s.dev.fuse) :
    ∃ t, exec (.registerWrite r (.bar0 off size) v) s = .next t ∧ t.dev = s.dev.keep e := by
  have hto : s.dev.writeTo r (.bar0 off size) v = e := (Dev.busAccess_taken ho hw).trans he
  cases hb : targetBurns (.bar0 off size) with
  | true =>
    rw [exec_registerWrite_burns hb, ← Dev.keepClock_eq_keep (hf.resolve_left (by simp [hb]))]
    exact State.evFuse_to hto
  | false =>
    rw [exec_registerWrite hb]
    exact State.ev_to hto

/-- A write that the bus takes and that may burn fuses is an event of the root of trust. -/
theorem exec_registerWrite_keepClock {v : Word} {e : Dev} (he : s.dev.busPut r off size v.toNat = e) (hb : targetBurns (.bar0 off size) = true) :
    ∃ t, exec (.registerWrite r (.bar0 off size) v) s = .next t ∧ t.dev = s.dev.keepClock e := by
  rw [exec_registerWrite_burns hb]
  exact State.evFuse_to ((Dev.busAccess_taken ho hw).trans he)

/-- A read that the bus takes is an event that sends its value. -/
theorem exec_clearingRead_bar0 {x : Nat} {e : Dev} (he : s.dev.busGet off size = (x, e)) :
    ∃ t, exec (.clearingRead r (.bar0 off size)) s = .next t ∧ t.dev = s.dev.keep (e.emit (.regRead r (BitVec.ofNat 64 x))) := by
  rw [exec_clearingRead]
  exact State.ev_to ((Dev.busAccess_taken ho hw).trans (by dsimp only [Dev.busServe]; rw [he]))

variable {g : Reg} {u i : Nat} (hreg : regAt (off / 8 * 8) = some (g, u, i))
include hreg

/-- A plain write that the bus takes leaves memory and reaches each field by its access code. -/
theorem exec_registerWrite_plain {v : Word} {x m o k : Nat} (hb : targetBurns (.bar0 off size) = false)
    (he : s.dev.busPut r off size v.toNat = (s.dev.plainWrite g.fields u i (x &&& m) m).softMark o k) :
    ∃ t, exec (.registerWrite r (.bar0 off size) v) s = .next t ∧ t.dev.mem = s.dev.mem ∧
      ∀ f ∈ g.fields, t.dev.fld f u i = s.dev.written f u i (bitsOf (x &&& m) f.lo f.w) (bitsOf m f.lo f.w) := by
  obtain ⟨t, ht, hdev⟩ := exec_registerWrite_keep ho hw he (.inl hb)
  refine ⟨t, ht, ?_, fun f hf => ?_⟩
  · rw [hdev]; exact congrArg Prod.snd (s.dev.outMem_plainWrite g.fields u i (x &&& m) m)
  · rw [hdev]; exact s.dev.fld_plainWrite hreg hf x m

/-- A read of a register that the bus takes sends what the register shows, leaves memory, and clears what a read clears. -/
theorem exec_clearingRead_reg (hs : size = 4 ∨ size = 8) (ha : off % size = 0)
    (hr : (cxlRange off || pbaRange off || lifeRange off || msixRange off) = false) (hb : s.dev.busReach off = true) :
    ∃ t, exec (.clearingRead r (.bar0 off size)) s = .next t ∧
      t.dev.out = .regRead r (BitVec.ofNat 64 (((s.dev.readSettle g u i).regRead g u i &&& accessMask off size) / 2 ^ (8 * (off % 8)))) :: s.dev.out ∧
      t.dev.mem = s.dev.mem ∧ ∀ f, t.dev.fld f u i = ((s.dev.readSettle g u i).readClear g u i (accessMask off size)).fld f u i := by
  obtain ⟨t, ht, hdev⟩ := exec_clearingRead_bar0 (r := r) ho hw (Dev.busGet_reg hs ha hr hreg hb)
  obtain ⟨hout, hmem⟩ := Prod.mk.inj (((s.dev.readSettle g u i).outMem_readClear g u i (accessMask off size)).trans (s.dev.outMem_readSettle g u i))
  refine ⟨t, ht, ?_, ?_, fun f => ?_⟩
  · rw [hdev, Dev.keep_out, Dev.emit_out, hout]
  · rw [hdev, Dev.keep_mem, Dev.emit_mem, hmem]
  · rw [hdev, Dev.keep_fld, Dev.emit_fld]

end Taken

/-! Slice configuration (R170, R171, R176). -/

theorem Dev.slcForce_bit (d : Dev) (n : Nat) : (d.slcForce n).bit SLC_CFG.FORCE_NARROW n 0 = true := by
  have hset := d.bit_setBit SLC_CFG.FORCE_NARROW n 0 true rfl rfl
  unfold Dev.slcForce
  dsimp only
  split
  · exact hset
  · exact hset

theorem Dev.slcForce_mem (d : Dev) (n : Nat) : (d.slcForce n).mem = d.mem := by
  unfold Dev.slcForce
  dsimp only
  split <;> rfl

/-- A slice in full mode with no change under way is asked to switch to narrow mode on the half that HALF_SEL names. -/
theorem Dev.slcForce_slice (d : Dev) (n : Nat) (hm : (d.slice n).mode = .full) (hh : (d.slice n).narrowHalf = none) :
    (d.slcForce n).slice n = (d.slice n).askNarrow (d.fld SLC_CFG.HALF_SEL n 0) := by
  have hsel : (d.setBit SLC_CFG.FORCE_NARROW n 0 true).fld SLC_CFG.HALF_SEL n 0 = d.fld SLC_CFG.HALF_SEL n 0 :=
    d.fld_setFld_apart SLC_CFG.FORCE_NARROW SLC_CFG.HALF_SEL n 0 1 n 0 rfl rfl
  simp only [Dev.slcForce, hm, hh, and_self, if_true, Dev.slice_setSlice, hsel]

theorem exec_forceNarrow_takes {s : State} (r : Req) {n : CoreId} (hd : s.dev.done < 10) (hb : s.dev.bit SLC_CFG.FORCE_NARROW n 0 = false) :
    ∃ t, exec (.forceNarrow r n) s = .next t ∧ t.dev = s.dev.keep (s.dev.slcForce n) := by
  rw [exec_forceNarrow]
  exact State.ev_to (if_pos ⟨hd, by simp [hb]⟩)

theorem exec_forceNarrow_ignored {s : State} (r : Req) {n : CoreId} (h : 10 ≤ s.dev.done ∨ s.dev.bit SLC_CFG.FORCE_NARROW n 0 = true) :
    exec (.forceNarrow r n) s = .next s := by
  rw [exec_forceNarrow]
  exact State.ev_self (if_neg fun hc => h.elim hc.1.not_ge fun hb => by simp [hb] at hc)

theorem exec_trackClear_next (r : Req) (n : CoreId) (s : State) :
    ∃ t, exec (.trackClear r n) s = .next t ∧ t.dev = s.dev.keep (s.dev.setSlice n { s.dev.slice n with tracker := [] }) := by
  rw [exec_trackClear]
  exact State.ev_to rfl

/-! CSRs (R113 to R115). -/

section Csr

variable {s : State} (r : Req) {n : CoreId} {num : Nat} {user : Bool} (v : Word)

theorem exec_clearingRead_csr {x : Nat} {d1 : Dev} (h : s.dev.csrMay n num user false = true) (hx : s.dev.csrGet n num = (x, d1)) :
    ∃ t, exec (.clearingRead r (.csr n num user)) s = .next t ∧ t.dev = s.dev.keep (d1.emit (.regRead (.cp n) (BitVec.ofNat 64 x))) := by
  rw [exec_clearingRead]
  exact State.ev_to (by simp only [Dev.readFrom, Dev.csrRead, h, if_true, hx])

theorem exec_registerWrite_csr (h : s.dev.csrMay n num user true = true) :
    ∃ t, exec (.registerWrite r (.csr n num user) v) s = .next t ∧ t.dev = s.dev.keep (s.dev.csrPut n num user v.toNat) := by
  rw [exec_registerWrite rfl]
  exact State.ev_to (by simp only [Dev.writeTo, Dev.csrWrite, h, if_true])

theorem exec_clearingRead_csr_illegal (h : s.dev.csrMay n num user false = false) :
    ∃ t, exec (.clearingRead r (.csr n num user)) s = .next t ∧ t.dev = s.dev.keep (s.dev.cpTrap n 2 0) := by
  rw [exec_clearingRead]
  exact State.ev_to (by simp only [Dev.readFrom, Dev.csrRead, h, Bool.false_eq_true, if_false])

theorem exec_registerWrite_csr_illegal (h : s.dev.csrMay n num user true = false) :
    ∃ t, exec (.registerWrite r (.csr n num user) v) s = .next t ∧ t.dev = s.dev.keep (s.dev.cpTrap n 2 0) := by
  rw [exec_registerWrite rfl]
  exact State.ev_to (by simp only [Dev.writeTo, Dev.csrWrite, h, Bool.false_eq_true, if_false])

end Csr

/-- Settles O59: a write reaches each field of its register by the field's access code, and a read clears its RC fields, each untouched by what happens to the fields beside it. -/
theorem registerAccesses : Obligations.RegisterAccesses := by
  refine ⟨fun s r off size v ho hw _ => ⟨fun hbad => ?_, fun hs ha hr hm => ⟨fun hnone => ?_, fun g u i hreg hb => ?_⟩⟩,
    fun s r => ⟨fun off size g u i ho hw _ hs ha hr hreg hb => ?_, fun n num user v => ⟨fun h x d1 hx => ?_, fun h => ?_, fun h => ?_, fun h => ?_⟩⟩,
    fun s r n => ⟨fun hd hb => ?_, fun h => ?_, ?_⟩⟩
  · exact exec_registerWrite_keep ho hw (Dev.busPut_badAccess hbad) (.inr (Dev.barError_fuse _ _ _))
  · exact exec_registerWrite_keep ho hw (Dev.busPut_unmapped hs ha hr hm hnone) (.inr (Dev.barError_fuse _ _ _))
  · have hput := Dev.busPut_reg (d := s.dev) (r := r) (v := v.toNat) hs ha hr hm hreg hb
    refine ⟨fun hburn => exec_registerWrite_keep ho hw hput (.inl hburn), fun hburn => exec_registerWrite_keepClock ho hw hput hburn,
      fun hcluster hshared hboard hmanage hburn => ?_⟩
    rw [Dev.regWrite_plain hcluster hshared hboard hmanage] at hput
    obtain ⟨t, ht, hmem, hfld⟩ := exec_registerWrite_plain ho hw hreg hburn hput
    refine ⟨t, ht, hmem, fun f hf => ?_⟩
    dsimp only
    rw [hfld f hf]
    refine ⟨?rw, ?rwl, ?w1c, ?w1s, ?ro⟩ <;> intro hacc <;> simp only [Dev.written, hacc]
  · obtain ⟨t, ht, hout, hmem, hfld⟩ := exec_clearingRead_reg (r := r) ho hw hreg hs ha hr hb
    refine ⟨t, ht, hout, hmem, fun f hf => ?_⟩
    dsimp only
    rw [hfld f]
    exact ⟨fun hrc => ⟨fld_readClear_rc hreg hf _ _ hrc, fun hcur hset hk => fld_readClear_rst hreg hf _ _ hrc hcur hset hk⟩, fun hne => fld_readClear_ne hreg hf _ _ hne⟩
  · exact exec_clearingRead_csr r h hx
  · exact exec_registerWrite_csr r v h
  · exact exec_clearingRead_csr_illegal r h
  · exact exec_registerWrite_csr_illegal r v h
  · obtain ⟨t, ht, hdev⟩ := exec_forceNarrow_takes r hd hb
    refine ⟨t, ht, ?_⟩
    rw [hdev]
    exact ⟨s.dev.slcForce_bit n, s.dev.slcForce_mem n, s.dev.slcForce_slice n⟩
  · exact exec_forceNarrow_ignored r h
  · obtain ⟨t, ht, hdev⟩ := exec_trackClear_next r n s
    refine ⟨t, ht, ?_⟩
    rw [hdev]
    exact ⟨s.dev.slice_setSlice n _, fun k hk => s.dev.slice_setSlice_ne _ hk, rfl, rfl⟩

end Sys2Proof.Machine
end

section
/-! SUPPORT. What every step keeps of the queue and the clock (logs 2, 10, 80, 161). -/

namespace Sys2Proof.Machine

/-- Settles O3: a command is an event, ordinary or of the root of trust, and neither kind touches the queue or the clock. -/
theorem commandsKeepQueueAndClock : Obligations.CommandsKeepQueueAndClock := by
  intro c s
  rcases exec_next c s with ⟨e, he⟩ | ⟨e, he⟩
  · exact ⟨_, he, rfl, rfl⟩
  · exact ⟨_, he, rfl, rfl⟩

/-- With no command waiting a step is one tick of the clock. -/
theorem step_idle {s : State} (h : s.pending = []) : step s = .next s.tick := by rw [step, h]

@[simp] theorem State.tick_pending (s : State) : s.tick.pending = s.pending := rfl
@[simp] theorem State.tick_ns (s : State) : s.tick.dev.ns = s.dev.ns + 1 := rfl

/-- A tick burns a fuse only for a register access that has waited. -/
theorem State.tick_fuse {s : State} (h : s.dev.regHeld = []) : s.tick.dev.fuse = s.dev.fuse := if_pos (by rw [h]; rfl)

/-- Settles O2: the idle step is the tick (logs 2, 136). -/
theorem idleStepTicks : Obligations.IdleStepTicks := fun s hs =>
  ⟨s.tick, step_idle hs, by rw [State.tick_pending, hs], s.tick_ns, State.tick_fuse⟩

end Sys2Proof.Machine
end

section
/-! SUPPORT. Counting events in the performance counters changes registers alone (R527 to R532). -/

namespace Sys2Proof.Machine

theorem RegsOnly.trans {a b c : Dev} (h : RegsOnly a b) (h' : RegsOnly b c) : RegsOnly a c := by
  obtain ⟨_, _, rfl⟩ := h
  obtain ⟨_, _, rfl⟩ := h'
  exact ⟨_, _, rfl⟩

theorem LowSame.setBits (d : Dev) (f : Fld) (u i m : Nat) (h : 0x80000 ≤ f.pos.off u i) : LowSame d (d.setBits f u i m) :=
  fun _ ho => Tbl.get_set_ne _ _ _ (by omega)

/-- From d to e only registers from the queue block on have changed, and what the cycle notes of them: all that counting a cluster's events does. -/
structure Counted (d e : Dev) : Prop where
  regs : RegsOnly d e
  low : LowSame d e

theorem Counted.refl (d : Dev) : Counted d d := ⟨.refl d, .refl d⟩
theorem Counted.trans {a b c : Dev} (h : Counted a b) (h' : Counted b c) : Counted a c := ⟨h.regs.trans h'.regs, h.low.trans h'.low⟩

theorem Dev.pmcAdd_counted (d : Dev) {cnt ovf : Fld} {u i : Nat} (hc : 0x80000 ≤ cnt.pos.off u i) (ho : 0x80000 ≤ ovf.pos.off u 0) (k : Nat) :
    Counted d (d.pmcAdd cnt ovf u i k).1 := by
  have hset (v : Nat) : Counted d (d.setFld cnt u i v) := ⟨(RegsOnly.refl d).setFld cnt u i v, .setFld d cnt u i v hc⟩
  unfold Dev.pmcAdd
  dsimp only
  split
  · exact .refl d
  · split
    · exact hset _
    · exact (hset _).trans ⟨⟨_, _, rfl⟩, .setBits _ ovf u 0 _ ho⟩

theorem Dev.pmcCluster_counted (d : Dev) (c code k : Nat) : Counted d (d.pmcCluster c code k) := by
  unfold Dev.pmcCluster
  split
  · exact .refl d
  · refine List.foldlRecOn _ _ (motive := Counted d) (.refl d) fun e he i _ => ?_
    split
    · exact he.trans (e.pmcAdd_counted (by simp [RegPos.off]; omega) (by simp [RegPos.off]; omega) _)
    · exact he

theorem Dev.nocCount_counted (d : Dev) (r port : Nat) : Counted d (d.nocCount r port) := by
  unfold Dev.nocCount
  split
  · split
    · exact d.pmcCluster_counted _ _ _
    · split
      · exact d.pmcCluster_counted _ _ _
      · exact .refl d
  · exact .refl d

theorem Counted.noc {d e : Dev} (h : Counted d e) : e.noc = d.noc := by
  obtain ⟨⟨_, _, rfl⟩, -⟩ := h
  rfl

theorem Counted.laneOff {d e : Dev} (h : Counted d e) : e.laneOff = d.laneOff := by
  obtain ⟨⟨_, _, rfl⟩, -⟩ := h
  rfl

theorem Counted.rst {d e : Dev} (h : Counted d e) : e.rst = d.rst := by
  obtain ⟨⟨_, _, rfl⟩, -⟩ := h
  rfl

theorem Counted.router {d e : Dev} (h : Counted d e) (r : Nat) : e.router r = d.router r := by
  rw [Dev.router, h.noc]; rfl

/-! Whether an endpoint takes packets is read from registers below the queue block, which counting leaves (R27, R510, R514). -/

theorem destCluster_lt (dest : Nat) : destCluster dest < 32 := by
  unfold destCluster
  split_ifs <;> omega

theorem Counted.domOn {d e : Dev} (h : Counted d e) {k : Nat} (hk : k < 452) : e.domOn k = d.domOn k := by
  rw [Dev.domOn, h.low.fld _ _ _ (by simp [RegPos.off]; omega), Dev.domOn]

theorem Counted.fenceState {d e : Dev} (h : Counted d e) {n : Nat} (hn : n < 256) : e.fenceState n = d.fenceState n :=
  h.low.fld _ _ _ (by simp [RegPos.off]; omega)

theorem Counted.destReady {d e : Dev} (h : Counted d e) (dest : Nat) : e.destReady dest = d.destReady dest := by
  have hk := destCluster_lt dest
  unfold Dev.destReady Dev.dieResets
  dsimp only
  rw [h.rst]
  split
  · split
    · rw [h.domOn (by omega), h.fenceState (by omega)]
    · rw [h.domOn (by omega)]
  · split
    · rw [h.domOn (by omega)]
    · simp [h.domOn, List.range_succ]

theorem Counted.takesResponse {d e : Dev} (h : Counted d e) (dest : Nat) : e.takesResponse dest = d.takesResponse dest := by
  have hk := destCluster_lt dest
  unfold Dev.takesResponse
  dsimp only
  rw [h.destReady]
  split
  · split
    · rw [h.domOn (by omega), h.fenceState (by omega)]
    · rw [h.domOn (by omega)]
  · rfl

end Sys2Proof.Machine
end

section
/-! SUPPORT. The route of a packet leads to a port of the router it stands at (R24, R31). -/

namespace Sys2Proof.Machine

theorem colY_lt {c : Nat} (h : c < 128) : colY c < 8 := by
  unfold colY
  omega

theorem destColumn_lt (dest : Nat) : destColumn dest < 128 := by
  unfold destColumn
  split_ifs <;> omega

/-- A packet that came in by a port of the router leaves by a port of it. -/
theorem route_lt {r inp : Nat} (hp : inp < portCount r) (dest : Nat) : route r inp dest < portCount r := by
  by_cases hcluster : r < 32
  · simp only [portCount, route, meshStep, hcluster, if_true] at hp ⊢
    split_ifs <;> omega
  by_cases hbase : r < 160
  · simp only [portCount, route, meshStep, hcluster, hbase, if_true, if_false] at hp ⊢
    split_ifs <;> omega
  · have hstop : colY (dest % 512 / 4) < 8 := colY_lt (by omega)
    have hcol := colY_lt (destColumn_lt dest)
    simp only [portCount, route, hcluster, hbase, if_false]
    split_ifs <;> omega

end Sys2Proof.Machine
end

section
/-! SUPPORT. A router that holds one one-flit packet (R24 to R26, R30). -/

namespace Sys2Proof.Machine

@[simp] theorem Dev.router_setRouter (d : Dev) (r : Nat) (x : Router) : (d.setRouter r x).router r = x := Tbl.get_set_same _ _ _ _
@[simp] theorem Dev.setRouter_laneOff (d : Dev) (r : Nat) (x : Router) : (d.setRouter r x).laneOff = d.laneOff := rfl
@[simp] theorem Dev.emit_router (d : Dev) (o : Output) (r : Nat) : (d.emit o).router r = d.router r := rfl

theorem Dev.outLanes_congr {d e : Dev} (h : e.laneOff = d.laneOff) (r p : Nat) : e.outLanes r p = d.outLanes r p := by
  unfold Dev.outLanes Dev.lanesUp
  rw [h]

/-- The flits that a router has buffered are `l`, and no packet is under way at its output lanes. -/
structure Router.Holds (rt : Router) (l : List NocFlit) : Prop where
  bufs : rt.bufs = l
  outp : rt.outp = []

variable {rt : Router} {x : NocFlit}

theorem Router.Holds.heads_nil (h : rt.Holds []) (p : Nat) : rt.heads p = [] := by
  simp [Router.heads, h.bufs, streamHeads]

theorem Router.Holds.heads_other (h : rt.Holds [x]) {p : Nat} (hp : p ≠ x.out) : rt.heads p = [] := by
  simp [Router.heads, h.bufs, streamHeads, hp.symm]

theorem Router.Holds.heads_out (h : rt.Holds [x]) (hx : flitHead x.flit = true) : rt.heads x.out = [x] := by
  simp [Router.heads, h.bufs, h.outp, streamHeads, hx]

/-- Accepting requests moves no flit. -/
theorem Router.Holds.accept {l : List NocFlit} (h : rt.Holds l) (p : Nat) : (rt.accept p).Holds l := by
  refine List.foldlRecOn _ _ (motive := fun e : Router => e.Holds l) h fun e he f _ => ?_
  split
  · exact he
  · exact ⟨he.bufs, he.outp⟩

theorem Router.accept_of_heads_nil {p : Nat} (h : rt.heads p = []) : rt.accept p = rt := by
  rw [Router.accept, h, List.foldl_nil]

/-- One waiting flit has its class granted, whatever has been granted before. -/
theorem Router.pickClass_single (rt : Router) (p : Nat) (hx : x.cls < 4) : rt.pickClass p [x] = some x.cls := by
  have hc : classesOf [x] = [x.cls] := by
    obtain hc | hc | hc | hc : x.cls = 0 ∨ x.cls = 1 ∨ x.cls = 2 ∨ x.cls = 3 := by omega
    all_goals simp [classesOf, hc]
  simp only [Router.pickClass, hc]
  by_cases hl : x.cls = (Tbl.get (4, 0) rt.runs p).1
  · simp [hl]
  · simp [hl]

theorem Dev.tie_single (d : Dev) (k i : Nat) : ∃ e, d.tie k [i] = some (i, e) := ⟨_, rfl⟩

/-- An output port grants the one flit that waits for it. -/
theorem Dev.nocArb_single {d : Dev} {r : Nat} (h : (d.router r).Holds [x]) (hx : flitHead x.flit = true) (hc : x.cls < 4) :
    ∃ e, d.nocArb r x.out = (some x, e) ∧ (e.router r).Holds [x] := by
  have ha := h.accept x.out
  obtain ⟨e, he⟩ := (d.setRouter r ((d.router r).accept x.out)).tie_single (arbKey 11 (r * 256 + x.out)) x.port
  have hr : e.router r = (d.router r).accept x.out := by
    rw [Dev.tie_only _ _ _ _ _ he]
    exact d.router_setRouter r _
  refine ⟨?_, ?grants, ?holds⟩
  case grants =>
    simp only [Dev.nocArb, Dev.router_setRouter, ha.heads_out hx, Router.pickClass_single _ _ hc, oldest, List.filter_cons, List.filter_nil,
      List.map_cons, List.map_nil, List.find?_cons, beq_self_eq_true, if_true, he]
    rfl
  case holds =>
    rw [Dev.router_setRouter, hr]
    exact ⟨ha.bufs, ha.outp⟩

theorem Dev.nocArb_none {d : Dev} {r p : Nat} (h : (d.router r).heads p = []) : d.nocArb r p = (none, d.setRouter r (d.router r)) := by
  simp only [Dev.nocArb, Router.accept_of_heads_nil h, Dev.router_setRouter, h]
  simp [Router.pickClass, classesOf]

theorem Dev.nocPick_eq_nocArb {d : Dev} {r : Nat} {fs : List NocFlit} (h : (d.router r).Holds fs) (p l : Nat) : d.nocPick r p l = d.nocArb r p := by
  simp only [Dev.nocPick, h.outp, Tbl.get]

/-- An output lane whose port has nothing to grant moves nothing. -/
theorem Dev.nocGrant_idle {d : Dev} {id : RouterId} {fs : List NocFlit} (h : (d.router (routerNo id)).Holds fs) {p : Nat}
    (hp : (d.router (routerNo id)).heads p = []) (l : Nat) : d.nocGrant id p l = d.setRouter (routerNo id) (d.router (routerNo id)) := by
  simp only [Dev.nocGrant, Dev.nocPick_eq_nocArb h, Dev.nocArb_none hp]

/-- An output lane of its port moves the one flit of a one-flit packet. -/
theorem Dev.nocGrant_single {d : Dev} {id : RouterId} (h : (d.router (routerNo id)).Holds [x]) (hx : flitHead x.flit = true)
    (ht : flitTail x.flit = true) (hc : x.cls < 4) (l : Nat) :
    ((d.nocGrant id x.out l).router (routerNo id)).Holds [] ∧ (d.nocGrant id x.out l).out.head? = some (.flit id x.out l x.flit) := by
  obtain ⟨e, he, hr⟩ := Dev.nocArb_single h hx hc
  simp only [Dev.nocGrant, Dev.nocPick_eq_nocArb h, he, hx, ht, if_true]
  refine ⟨?_, rfl⟩
  rw [Dev.emit_router, Counted.router (d := e.setRouter _ _) ?counted, Dev.router_setRouter]
  case counted =>
    split
    · exact (Dev.nocCount_counted _ _ _).trans (Dev.pmcCluster_counted _ _ _ _)
    · exact Dev.nocCount_counted _ _ _
  exact ⟨by simp [hr.bufs], by simp [hr.outp, Tbl.set]⟩

/-! The ports of a router, in the order in which a cycle serves them. -/

/-- A cycle serves an output port: each of its lanes in use moves one flit. -/
def Dev.nocServe (d : Dev) (id : RouterId) (p : Nat) : Dev := (d.outLanes (routerNo id) p).foldl (fun d l => d.nocGrant id p l) d

/-- A cycle of a router, after what arrives: it is counted, and the arbiters accept what their inputs offer. -/
def Dev.nocOpen (d : Dev) (id : RouterId) : Dev :=
  (d.setRouter (routerNo id) { d.router (routerNo id) with seq := (d.router (routerNo id)).seq + 1 }).nocAccept (routerNo id)

theorem Dev.nocCycle_off {d : Dev} {id : RouterId} (h : d.routerOn (routerNo id) = false) (arr : List Arrival) : d.nocCycle id arr = d := by
  simp [Dev.nocCycle, h]

/-- A cycle of a router that is ON: arrivals, acceptance, and every port served. -/
theorem Dev.nocCycle_on {d : Dev} {id : RouterId} (h : d.routerOn (routerNo id) = true) (arr : List Arrival) :
    d.nocCycle id arr =
      (List.range (portCount (routerNo id))).foldl (fun d p => d.nocServe id p) ((arr.foldl (fun d a => d.nocArrive id a) d).nocOpen id) := by
  simp only [Dev.nocCycle, h, Bool.not_true, Bool.false_eq_true, if_false]
  rfl

/-- Router `id` has no flit left, and `o` is the last thing sent. -/
structure Dev.Sent (d : Dev) (id : RouterId) (o : Output) : Prop where
  holds : (d.router (routerNo id)).Holds []
  out : d.out.head? = some o

section Sent

variable {d : Dev} {id : RouterId} {o : Output}

/-- Lanes of an empty router send nothing more. -/
theorem Dev.Sent.nocGrant (h : d.Sent id o) (p l : Nat) : (d.nocGrant id p l).Sent id o := by
  rw [Dev.nocGrant_idle h.holds (h.holds.heads_nil p)]
  exact ⟨by rw [Dev.router_setRouter]; exact h.holds, h.out⟩

theorem Dev.Sent.lanes (h : d.Sent id o) (p : Nat) (ls : List Nat) : (ls.foldl (fun d l => d.nocGrant id p l) d).Sent id o :=
  List.foldlRecOn ls _ (motive := fun e : Dev => e.Sent id o) h fun _ he l _ => he.nocGrant p l

theorem Dev.Sent.ports (h : d.Sent id o) (ps : List Nat) : (ps.foldl (fun d p => d.nocServe id p) d).Sent id o :=
  List.foldlRecOn ps _ (motive := fun e : Dev => e.Sent id o) h fun _ he p _ => he.lanes p _

end Sent

/-- One flit waits at router `id`, and the lanes in use are those of `d`. -/
structure Dev.Waiting (e : Dev) (id : RouterId) (x : NocFlit) (d : Dev) : Prop where
  holds : (e.router (routerNo id)).Holds [x]
  laneOff : e.laneOff = d.laneOff

section Waiting

variable {d e : Dev} {id : RouterId} (h : e.Waiting id x d)
include h

/-- Counting the cycle and accepting requests move no flit. -/
theorem Dev.Waiting.nocOpen : (e.nocOpen id).Waiting id x d := by
  refine ⟨?_, h.laneOff⟩
  rw [Dev.nocOpen, Dev.nocAccept, Dev.router_setRouter, Dev.router_setRouter]
  exact List.foldlRecOn _ _ (motive := fun rt : Router => rt.Holds [x]) ⟨h.holds.bufs, h.holds.outp⟩ fun _ he p _ => he.accept p

/-- A port that is not the flit's leaves it waiting. -/
theorem Dev.Waiting.other_port {p : Nat} (hp : p ≠ x.out) : (e.nocServe id p).Waiting id x d := by
  refine List.foldlRecOn _ _ (motive := fun e : Dev => e.Waiting id x d) h fun e he l _ => ?_
  rw [Dev.nocGrant_idle he.holds (he.holds.heads_other hp)]
  exact ⟨by rw [Dev.router_setRouter]; exact he.holds, he.laneOff⟩

theorem Dev.Waiting.other_ports {ps : List Nat} (hp : x.out ∉ ps) : (ps.foldl (fun d p => d.nocServe id p) e).Waiting id x d :=
  List.foldlRecOn ps _ (motive := fun e : Dev => e.Waiting id x d) h fun _ he _ hm => he.other_port (ne_of_mem_of_not_mem hm hp)

variable (hx : flitHead x.flit = true) (ht : flitTail x.flit = true) (hc : x.cls < 4) {l : Nat} {ls : List Nat}
  (hl : d.outLanes (routerNo id) x.out = l :: ls)
include hx ht hc hl

/-- The flit's own port sends it by the first of its lanes. -/
theorem Dev.Waiting.own_port : (e.nocServe id x.out).Sent id (.flit id x.out l x.flit) := by
  rw [Dev.nocServe, Dev.outLanes_congr h.laneOff, hl, List.foldl_cons]
  obtain ⟨hholds, hout⟩ := Dev.nocGrant_single h.holds hx ht hc l
  exact Dev.Sent.lanes ⟨hholds, hout⟩ x.out ls

/-- The ports served one after another send the one flit that waits: none before its own port, and nothing after it. -/
theorem Dev.Waiting.served {ps : List Nat} (hp : x.out ∈ ps) : (ps.foldl (fun d p => d.nocServe id p) e).Sent id (.flit id x.out l x.flit) := by
  obtain ⟨pre, post, rfl, hpre⟩ := List.eq_append_cons_of_mem hp
  rw [List.foldl_append, List.foldl_cons]
  exact ((h.other_ports hpre).own_port hx ht hc hl).ports post

end Waiting

end Sys2Proof.Machine
end

section
/-! SUPPORT. One-flit packets at an idle router, and frames of the die-to-die link (R18, R21 to R26, R488 to R490). -/

namespace Sys2Proof.Machine

/-- A sound one-flit packet as a router buffers it. -/
def NocFlit.ofArrival (a : Arrival) (r seq : Nat) : NocFlit :=
  ⟨a.port, a.lane, flitClass a.flit, a.flit, seq, route r a.port (flitDest a.flit), flitDest a.flit, false⟩

/-- A sound one-flit packet arrives at router `id`, by a lane in use, for an endpoint elsewhere or one that takes it (R21, R24, R27). -/
structure Dev.Admits (d : Dev) (id : RouterId) (a : Arrival) : Prop where
  port : a.port < portCount (routerNo id)
  lane : (d.lanesUp (routerNo id) a.port).contains a.lane = true
  ok : flitOk a.flit = true
  head : flitHead a.flit = true
  tail : flitTail a.flit = true
  ready : serves (routerNo id) (flitDest a.flit) = true →
    (if flitClass a.flit = 1 then d.takesResponse (flitDest a.flit) else d.destReady (flitDest a.flit)) = true

section Packet

variable {d : Dev} {id : RouterId} {a : Arrival} (h : d.Admits id a) (hr : (d.router (routerNo id)).Holds [])
include h hr

/-- A packet that a router admits is buffered, and not answered in the endpoint's place. -/
theorem Dev.Admits.waiting : (d.nocArrive id a).Waiting id (.ofArrival a (routerNo id) (d.router (routerNo id)).seq) d := by
  have hcnt := d.nocCount_counted (routerNo id) a.port
  have htaken : (serves (routerNo id) (flitDest a.flit) &&
      !(if flitClass a.flit = 1 then d.takesResponse (flitDest a.flit) else d.destReady (flitDest a.flit))) = false := by
    cases hs : serves (routerNo id) (flitDest a.flit)
    · rfl
    · simp [h.ready hs]
  unfold Dev.nocArrive
  rw [if_neg (by simpa [h.port] using h.lane)]
  simp only [h.ok, h.head, h.tail, if_true, hcnt.takesResponse, hcnt.destReady, hcnt.router, htaken, Bool.false_eq_true, if_false]
  refine ⟨?_, ?_⟩
  · rw [Dev.router_setRouter, hr.bufs, List.nil_append]
    exact ⟨rfl, hr.outp⟩
  · rw [Dev.setRouter_laneOff]
    split
    · exact hcnt.laneOff
    · exact hcnt.laneOff

/-- An idle router sends a packet that it admits out by its route, in the cycle in which it arrives. -/
theorem Dev.Admits.sent (hon : d.routerOn (routerNo id) = true) {l : Nat} {ls : List Nat}
    (hout : d.outLanes (routerNo id) (route (routerNo id) a.port (flitDest a.flit)) = l :: ls) :
    (d.nocCycle id [a]).Sent id (.flit id (route (routerNo id) a.port (flitDest a.flit)) l a.flit) := by
  rw [Dev.nocCycle_on hon]
  exact (h.waiting hr).nocOpen.served h.head h.tail (bitsOf_lt _ _ _) hout (List.mem_range.2 (route_lt h.port _))

end Packet

/-! Frames (R488 to R490). -/

@[simp] theorem Dev.grp_setD2d (d : Dev) (g : Nat) (x : D2dGroup) : (d.setD2d g x).grp g = x := Tbl.get_set_same _ _ _ _

section Frame

variable {d : Dev} {g seq : Nat} {ok : Bool} (flits : List Flit) (hup : d.bit LNK_STATUS.D2D_UP 0 0 = true) (hnak : (d.grp g).nak = false)
include hup hnak

/-- The frame expected, with a good CRC, is acknowledged and taken. -/
theorem Dev.d2dTake_expected (hok : ok = true) (hseq : seq = (d.grp g).next) :
    d.d2dTake g seq ok flits = ((d.setD2d g ⟨((d.grp g).next + 1) % 4096, false, 0, 0⟩).emit (.d2dAck g seq false)).d2dEnter g flits := by
  simp [Dev.d2dTake, hup, hnak, hok, hseq]

/-- Any other frame is refused. -/
theorem Dev.d2dTake_refused (h : ok = false ∨ seq ≠ (d.grp g).next) :
    d.d2dTake g seq ok flits = (d.setD2d g { d.grp g with nak := true }).emit (.d2dAck g (((d.grp g).next + 4095) % 4096) true) := by
  have hother : (ok && seq == (d.grp g).next) = false := by
    rcases h with h | h
    · rw [h, Bool.false_and]
    · rw [beq_false_of_ne h, Bool.and_false]
  simp [Dev.d2dTake, hup, hnak, hother]

end Frame

theorem exec_flitForward (id : RouterId) (arr : List Arrival) (s : State) : exec (.flitForward id arr) s = s.ev fun d => d.nocCycle id arr := rfl
theorem exec_d2dFrame (g : Fin 16) (seq : BitVec 12) (ok : Bool) (flits : List Flit) (s : State) :
    exec (.d2dFrame g seq ok flits) s = s.ev fun d => d.d2dTake g seq.toNat ok flits := rfl

/-- Settles O58: of all lanes of an idle router only the first of the packet's port has a flit to grant, so that what it sends is sent last. -/
theorem networkMoves : Obligations.NetworkMoves := by
  refine ⟨fun s id => ⟨fun hoff arr => ?_, fun hon port lane f l ls hp hl hok hh ht hbufs _ houtp _ hup hout => ?_⟩,
    fun s g seq ok flits hup hnak => ⟨fun hok hseq => ?_, fun hother => ?_⟩⟩
  · rw [exec_flitForward]
    exact State.ev_self (Dev.nocCycle_off hoff arr)
  · rw [exec_flitForward]
    have hadmits : s.dev.Admits id ⟨port, lane, f⟩ := ⟨hp, hl, hok, hh, ht, hup⟩
    exact ⟨_, rfl, (hadmits.sent ⟨hbufs, houtp⟩ hon hout).out⟩
  · rw [exec_d2dFrame]
    exact State.ev_to (Dev.d2dTake_expected flits hup hnak hok hseq)
  · rw [exec_d2dFrame]
    obtain ⟨t, ht, hdev⟩ := State.ev_to (s := s) (f := fun d => d.d2dTake g seq.toNat ok flits) (Dev.d2dTake_refused flits hup hnak hother)
    refine ⟨t, ht, ?_⟩
    rw [hdev]
    exact ⟨rfl, Dev.grp_setD2d _ _ _, rfl, rfl, rfl⟩

end Sys2Proof.Machine
end

section
/-! SUPPORT. The array's shared operations: what grants, notes of activity and changes of a run leave of an array, and that a cycle reached without a stall needs no further vector (R30, R44 to R54, R67). -/

namespace Sys2Proof.Machine

theorem RegsOnly.arr {d e : Dev} (h : RegsOnly d e) (n : Nat) : e.arr n = d.arr n := by
  obtain ⟨_, _, rfl⟩ := h
  rfl

theorem RegsOnly.dma {d e : Dev} (h : RegsOnly d e) (n : Nat) : e.dma n = d.dma n := by
  obtain ⟨_, _, rfl⟩ := h
  rfl

theorem RegsOnly.mem {d e : Dev} (h : RegsOnly d e) : e.mem = d.mem := by
  obtain ⟨_, _, rfl⟩ := h
  rfl

/-- The machine with its arbiters at `x`. -/
def Dev.setArbs (d : Dev) (x : Tbl Arb) : Dev := { d with arbs := x }

section Arbs

variable (d : Dev) (x : Tbl Arb)

@[simp] theorem Dev.setArbs_regs : (d.setArbs x).regs = d.regs := rfl
@[simp] theorem Dev.setArbs_mem : (d.setArbs x).mem = d.mem := rfl
@[simp] theorem Dev.arr_setArbs (n : Nat) : (d.setArbs x).arr n = d.arr n := rfl
@[simp] theorem Dev.dma_setArbs (n : Nat) : (d.setArbs x).dma n = d.dma n := rfl
@[simp] theorem Dev.cmdSet_setArbs (a : Nat) (c : ArrCmd) : (d.setArbs x).cmdSet a c = d.cmdSet a c := rfl
@[simp] theorem Dev.loadTile_setArbs (c : ArrCmd) : (d.setArbs x).loadTile c = d.loadTile c := rfl
@[simp] theorem Dev.released_setArbs (a : Nat) (c : ArrCmd) (y g : Nat) : (d.setArbs x).released a c y g = d.released a c y g := rfl

end Arbs

/-- Granting a port, whenever its requests became ready, changes the arbiters alone. -/
theorem Dev.arrGrant_arbs {d e : Dev} {a k op : Nat} {r : ArrCmd → Bool} {since : ArrCmd → Nat} {c : ArrCmd}
    (h : d.arrGrant a k op r since = some (c, e)) : ∃ x, e = d.setArbs x := by
  unfold Dev.arrGrant at h
  dsimp only at h
  split at h
  case h_1 =>
    cases h
    exact ⟨_, rfl⟩
  case h_2 =>
    split at h
    case h_1 => cases h
    case h_2 htie =>
      obtain ⟨_, _, hx⟩ := Option.map_eq_some_iff.1 h
      cases hx
      exact ⟨_, Dev.tie_only _ _ _ _ _ htie⟩

/-! What notes of activity leave of the array itself. -/

section Notes

variable (d : Dev) (a t : Nat) (c : ArrCmd)

@[simp] theorem Dev.arrUsed_sets : ((d.arrUsed a).arr a).sets = (d.arr a).sets := by simp [Dev.arrUsed]
@[simp] theorem Dev.arrUsed_acc : ((d.arrUsed a).arr a).acc = (d.arr a).acc := by simp [Dev.arrUsed]
@[simp] theorem Dev.arrUsed_runs : ((d.arrUsed a).arr a).runs = (d.arr a).runs := by simp [Dev.arrUsed]
@[simp] theorem Dev.arrUsed_cmds : ((d.arrUsed a).arr a).cmds = (d.arr a).cmds := by simp [Dev.arrUsed]
@[simp] theorem Dev.arrUsed_bit (f : Fld) (n i : Nat) : (d.arrUsed a).bit f n i = d.bit f n i := rfl
@[simp] theorem Dev.dma_arrUsed (n : Nat) : (d.arrUsed a).dma n = d.dma n := Dev.dma_modArr _ _ _ _

@[simp] theorem Dev.arrAt_sets : ((d.arrAt a t).arr a).sets = (d.arr a).sets := by simp [Dev.arrAt]
@[simp] theorem Dev.arrAt_acc : ((d.arrAt a t).arr a).acc = (d.arr a).acc := by simp [Dev.arrAt]
@[simp] theorem Dev.arrAt_runs : ((d.arrAt a t).arr a).runs = (d.arr a).runs := by simp [Dev.arrAt]
@[simp] theorem Dev.arrAt_regs : (d.arrAt a t).regs = d.regs := rfl
@[simp] theorem Dev.arrAt_mem : (d.arrAt a t).mem = d.mem := rfl

@[simp] theorem Dev.arrActive_sets : ((d.arrActive a c).arr a).sets = (d.arr a).sets := by simp [Dev.arrActive]
@[simp] theorem Dev.arrActive_acc : ((d.arrActive a c).arr a).acc = (d.arr a).acc := by simp [Dev.arrActive]
@[simp] theorem Dev.arrActive_runs : ((d.arrActive a c).arr a).runs = (d.arr a).runs := by simp [Dev.arrActive]
@[simp] theorem Dev.dma_arrActive (n : Nat) : (d.arrActive a c).dma n = d.dma n := Dev.dma_modArr _ _ _ _

@[simp] theorem Dev.arrDone_sets : ((d.arrDone a c).arr a).sets = (d.arr a).sets := by simp [Dev.arrDone]
@[simp] theorem Dev.arrDone_acc : ((d.arrDone a c).arr a).acc = (d.arr a).acc := by simp [Dev.arrDone]
@[simp] theorem Dev.arrDone_regs : (d.arrDone a c).regs = d.regs := by simp [Dev.arrDone, Dev.cmdDone_regs]
@[simp] theorem Dev.arrDone_mem : (d.arrDone a c).mem = d.mem := by simp [Dev.arrDone, Dev.cmdDone_mem]

/-- A command that is done has left the array. -/
theorem Dev.arrDone_left {y : ArrCmd} (h : y ∈ ((d.arrDone a c).arr a).cmds) : ¬(y.core = c.core ∧ y.id = c.id) := by
  have hkept := (List.mem_filter.1 (show y ∈ (d.arr a).cmds.filter fun x => !(x.core == c.core && x.id == c.id) by simpa [Dev.arrDone] using h)).2
  simpa only [Bool.not_eq_true', Bool.and_eq_false_imp, beq_iff_eq, beq_eq_false_iff_ne, not_and] using hkept

end Notes

/-! Weight sets. -/

theorem ArrayUnit.set_congr {u v : ArrayUnit} (h : u.sets = v.sets) (x : Nat) : u.set x = v.set x := congrArg (fun t => Tbl.get WSet.init t x) h
@[simp] theorem Dev.arrActive_set (d : Dev) (a : Nat) (c : ArrCmd) (x : Nat) : ((d.arrActive a c).arr a).set x = (d.arr a).set x :=
  ArrayUnit.set_congr (d.arrActive_sets a c) x

/-! Runs. -/

section Runs

variable {d : Dev} {a : Nat} {c : ArrCmd}

theorem ArrayUnit.run_congr {u v : ArrayUnit} (h : u.runs = v.runs) (c : ArrCmd) : u.run c = v.run c := by rw [ArrayUnit.run, h, ArrayUnit.run]

@[simp] theorem Dev.modRun_sets (f : ArrRun → ArrRun) : ((d.modRun a c f).arr a).sets = (d.arr a).sets := by simp [Dev.modRun]
@[simp] theorem Dev.modRun_acc (f : ArrRun → ArrRun) : ((d.modRun a c f).arr a).acc = (d.arr a).acc := by simp [Dev.modRun]
@[simp] theorem Dev.modRun_regs (f : ArrRun → ArrRun) : (d.modRun a c f).regs = d.regs := rfl
@[simp] theorem Dev.modRun_mem (f : ArrRun → ArrRun) : (d.modRun a c f).mem = d.mem := rfl
@[simp] theorem Dev.dma_modRun (f : ArrRun → ArrRun) (n : Nat) : (d.modRun a c f).dma n = d.dma n := Dev.dma_modArr _ _ _ _

/-- The run of a command after a change of it that keeps the command. -/
theorem Dev.run_modRun {f : ArrRun → ArrRun} (hf : ∀ r, (f r).cmd = r.cmd) : ((d.modRun a c f).arr a).run c = ((d.arr a).run c).map f := by
  have hname : ((fun r : ArrRun => r.cmd.core == c.core && r.cmd.id == c.id) ∘ fun r => if r.cmd.core == c.core && r.cmd.id == c.id then f r else r) =
      fun r => r.cmd.core == c.core && r.cmd.id == c.id := by
    funext r
    simp only [Function.comp_apply]
    split
    · rw [hf]
    · rfl
  simp only [Dev.modRun, Dev.arr_modArr, ArrayUnit.run, List.find?_map, hname]
  cases h : (d.arr a).runs.find? fun r => r.cmd.core == c.core && r.cmd.id == c.id with
  | none => rfl
  | some r => simp only [Option.map_some, List.find?_some h, if_true]

/-- With the vectors here that every run needs up to a cycle, none is taken. -/
theorem Dev.pullTo_of_reaches {t : Nat} (h : (d.arr a).reaches t = true) : d.pullTo a t = d := by
  refine List.foldlRecOn _ _ (motive := (· = d)) rfl fun e he r hr => ?_
  have hneed : r.need t ≤ r.vecs.length := by
    have hr := List.all_eq_true.1 h r hr
    simp only [Bool.and_eq_true, decide_eq_true_eq] at hr
    exact hr.1
  rw [Nat.sub_eq_zero_of_le hneed, List.range_zero, List.foldl_nil, he]

end Runs

end Sys2Proof.Machine
end

section
/-! SUPPORT. A LOAD writes one group after another into its weight set, and leaves the array with the fourth (R52 to R54, R68, R69). -/

namespace Sys2Proof.Machine

/-- The set that a LOAD writes its next group into: before group 0 what the set held is forgotten. -/
def WSet.begun (w : WSet) (t : Tile) (g : Nat) : WSet :=
  if g = 0 then { w with p := t.p, wmx := t.wmx, groups := 0, loaded := false, poison := false } else w

/-- The set with the LOAD's next group in it, loaded with the fourth. -/
def WSet.grouped (w : WSet) (t : Tile) (g : Nat) : WSet :=
  if g = 3 then { (w.begun t g).writeGroup t g with loaded := true } else (w.begun t g).writeGroup t g

/-- The runs on a set that group 0 of a LOAD begins to overwrite keep it as it was. -/
def ArrayUnit.kept (u : ArrayUnit) (x g : Nat) : ArrayUnit :=
  if g = 0 then { u with runs := u.runs.map fun q => if q.set = x ∧ q.snap = none then { q with snap := some (u.set x) } else q } else u

/-- The machine with the next group of a LOAD written into set x. -/
def Dev.loadGroup (d : Dev) (a : Nat) (c : ArrCmd) (t : Tile) (x : Nat) : Dev :=
  ((d.setArr a (((d.arr a).kept x c.pos).setSet x (((d.arr a).set x).grouped t c.pos))).modArr a fun u =>
    { u with cmds := u.cmds.map fun y => if y.core = c.core ∧ y.id = c.id then { y with pos := c.pos + 1 } else y }).arrUsed a

/-- The machine with a LOAD ended: its tile is gone, and counts as taken of its descriptor. -/
def Dev.loadEnd (d : Dev) (a : Nat) (c : ArrCmd) (t : Tile) : Dev :=
  (d.setDma c.core { d.dma c.core with
    tiles := (d.dma c.core).tiles.filter fun q => q.loadId != c.id
    held := (d.dma c.core).held.map fun h => if h.id = t.desc then { h with taken := h.taken + 1 } else h }).arrDone a c

theorem WSet.grouped_eq (w : WSet) (t : Tile) (g : Nat) :
    w.grouped t g = { (w.begun t g).writeGroup t g with loaded := g == 3 || ((w.begun t g).writeGroup t g).loaded } := by
  unfold WSet.grouped
  by_cases hg : g = 3
  · rw [if_pos hg, beq_iff_eq.2 hg, Bool.true_or]
  · rw [if_neg hg, beq_false_of_ne hg, Bool.false_or]

@[simp] theorem ArrayUnit.kept_sets (u : ArrayUnit) (x g : Nat) : (u.kept x g).sets = u.sets := by unfold ArrayUnit.kept; split <;> rfl
@[simp] theorem ArrayUnit.kept_acc (u : ArrayUnit) (x g : Nat) : (u.kept x g).acc = u.acc := by unfold ArrayUnit.kept; split <;> rfl

/-- The machine after the next group of a LOAD, which the fourth ends. -/
def Dev.loadNext (d : Dev) (a : Nat) (c : ArrCmd) (t : Tile) (x : Nat) : Dev :=
  if c.pos = 3 then (d.loadGroup a c t x).loadEnd a c t else d.loadGroup a c t x

section Load

variable (d : Dev) (a x : Nat) (c : ArrCmd) (t : Tile)

theorem Dev.loadGroup_sets : ((d.loadGroup a c t x).arr a).sets = Tbl.set WSet.init (d.arr a).sets x (((d.arr a).set x).grouped t c.pos) := by
  simp [Dev.loadGroup, ArrayUnit.setSet]
theorem Dev.loadGroup_acc : ((d.loadGroup a c t x).arr a).acc = (d.arr a).acc := by simp [Dev.loadGroup, ArrayUnit.setSet]

@[simp] theorem Dev.loadEnd_sets : ((d.loadEnd a c t).arr a).sets = (d.arr a).sets := by simp [Dev.loadEnd]
@[simp] theorem Dev.loadEnd_acc : ((d.loadEnd a c t).arr a).acc = (d.arr a).acc := by simp [Dev.loadEnd]
@[simp] theorem Dev.loadEnd_regs : (d.loadEnd a c t).regs = d.regs := by simp [Dev.loadEnd]
@[simp] theorem Dev.loadEnd_mem : (d.loadEnd a c t).mem = d.mem := by simp [Dev.loadEnd]

theorem Dev.loadNext_sets : ((d.loadNext a c t x).arr a).sets = Tbl.set WSet.init (d.arr a).sets x (((d.arr a).set x).grouped t c.pos) := by
  unfold Dev.loadNext
  split
  · rw [Dev.loadEnd_sets, Dev.loadGroup_sets]
  · exact Dev.loadGroup_sets _ _ _ _ _

theorem Dev.loadNext_set : ((d.loadNext a c t x).arr a).set x = ((d.arr a).set x).grouped t c.pos := by
  rw [ArrayUnit.set, Dev.loadNext_sets, Tbl.get_set_same]
theorem Dev.loadNext_set_ne {y : Nat} (hy : y ≠ x) : ((d.loadNext a c t x).arr a).set y = (d.arr a).set y := by
  rw [ArrayUnit.set, Dev.loadNext_sets, Tbl.get_set_ne _ _ _ hy, ArrayUnit.set]

theorem Dev.loadNext_acc : ((d.loadNext a c t x).arr a).acc = (d.arr a).acc := by
  unfold Dev.loadNext
  split
  · rw [Dev.loadEnd_acc, Dev.loadGroup_acc]
  · exact Dev.loadGroup_acc _ _ _ _ _

theorem Dev.loadNext_regs : (d.loadNext a c t x).regs = d.regs := by
  unfold Dev.loadNext
  split
  · exact Dev.loadEnd_regs _ _ _ _
  · rfl

theorem Dev.loadNext_mem : (d.loadNext a c t x).mem = d.mem := by
  unfold Dev.loadNext
  split
  · exact Dev.loadEnd_mem _ _ _ _
  · rfl

/-- The LOAD leaves the array with its fourth group. -/
theorem Dev.loadNext_left (h : c.pos = 3) {y : ArrCmd} (hy : y ∈ ((d.loadNext a c t x).arr a).cmds) : ¬(y.core = c.core ∧ y.id = c.id) := by
  rw [Dev.loadNext, if_pos h] at hy
  exact Dev.arrDone_left _ _ _ hy

end Load

/-- What a LOAD does that holds the port and may write its next group. -/
theorem Dev.arrLoad_granted {d d1 : Dev} {a : Nat} {c : ArrCmd} {t : Tile}
    (hgrant : d.arrGrant a 4 0x10 (fun c => (d.loadTile c).isSome) (fun c => ((d.loadTile c).map fun t => t.at').getD 0) = some (c, d1))
    (htile : d.loadTile c = some t) (hheld : d.held = false ∨ c.pos ≠ 0) (hrel : d.released a c (d.cmdSet a c) c.pos = true) (hpos : c.pos < t.emitted) :
    ∃ x, d.arrLoad a = ((d.setArbs x).arrActive a c).loadNext a c t (d.cmdSet a c) := by
  obtain ⟨x, rfl⟩ := Dev.arrGrant_arbs hgrant
  have hgoes : (d.held && c.pos == 0) = false := by
    rcases hheld with h | h
    · simp [h]
    · simp [h]
  refine ⟨x, ?_⟩
  unfold Dev.arrLoad
  simp only [hgrant, Dev.loadTile_setArbs, Dev.released_setArbs, Dev.cmdSet_setArbs, htile, hgoes, hrel, Bool.not_true, Bool.false_eq_true, if_false, ge_iff_le, Nat.not_le.2 hpos]
  rfl

theorem exec_load (a : CoreId) (s : State) : exec (.load a) s = s.ev fun d => d.arrLoad a := rfl

/-- Settles O21: the set that the LOAD writes changes and what the array notes of its progress; every other set, the accumulators, registers and memory stand. -/
theorem arrayLoads : Obligations.ArrayLoads := by
  intro s a c d1 t hgrant htile hheld hrel hpos
  obtain ⟨x, hload⟩ := Dev.arrLoad_granted hgrant htile hheld hrel hpos
  obtain ⟨u, hu, hdev⟩ := State.ev_to (s := s) (f := fun d => d.arrLoad a) hload
  refine ⟨u, (exec_load a s).trans hu, ?set, fun y hy => ?others, fun hlast y hy => ?left, ?acc, ?regs, ?mem⟩
  case set => rw [hdev, Dev.keep_arr, Dev.loadNext_set, Dev.arrActive_set, Dev.arr_setArbs, WSet.grouped_eq]; rfl
  case others => rw [hdev, Dev.keep_arr, Dev.loadNext_set_ne _ _ _ _ _ hy, Dev.arrActive_set, Dev.arr_setArbs]
  case left => exact Dev.loadNext_left _ _ _ _ _ hlast (by rwa [hdev, Dev.keep_arr] at hy)
  case acc => rw [hdev, Dev.keep_arr, Dev.loadNext_acc, Dev.arrActive_acc, Dev.arr_setArbs]
  case regs => rw [hdev, Dev.keep_regs, Dev.loadNext_regs, Dev.arrActive_regs', Dev.setArbs_regs]
  case mem => rw [hdev, Dev.keep_mem, Dev.loadNext_mem, Dev.arrActive_mem', Dev.setArbs_mem]

end Sys2Proof.Machine
end

section
/-! SUPPORT. Errors of an array change registers alone, and a core that asks for no fault on saturation gets none (R69, R72, R74). -/

namespace Sys2Proof.Machine

/-- An array error of a core at a slot leaves every register but ARR_ERR. -/
theorem Dev.arrErrAt_fld_off (d : Dev) (n : Nat) {b : Fld} (hb : b.pos = ARR_ERR.pos) (s k : Nat) {g : Fld} {u i : Nat}
    (hg : g.pos.off u i ≠ ARR_ERR.pos.off n 0) : (d.arrErrAt n b s k).fld g u i = d.fld g u i := by
  have hset (e : Dev) {f : Fld} (hf : f.pos = ARR_ERR.pos) (v : Nat) : (e.setFld f n 0 v).fld g u i = e.fld g u i :=
    Dev.fld_setFld_off _ _ _ _ _ _ _ _ (by rwa [hf])
  have herr : (d.arrErr n b).fld g u i = d.fld g u i := by
    unfold Dev.arrErr Dev.raise
    split
    · rw [Dev.setBit, hset _ hb, Dev.setBit, hset _ rfl]
    · exact hset _ hb _
  unfold Dev.arrErrAt
  dsimp only
  split
  · rw [hset _ rfl, hset _ rfl, herr]
  · exact herr

/-- An event that names no DETAIL faults no program. -/
theorem Dev.arrEvent_none (d : Dev) (c : ArrCmd) (b : Fld) (slot : Nat) :
    d.arrEvent c b slot none = d.arrErrAt c.core b slot (if c.partner then 0 else cmdBank c) := rfl

/-- From d to e only registers have changed, and core n still asks for no fault on saturation (R72). -/
structure Unfaulted (n : Nat) (d e : Dev) : Prop where
  regs : RegsOnly d e
  asks : e.bit ARR_CFG.FAULT_ON_SAT n 0 = false

theorem Unfaulted.trans {n : Nat} {d e f : Dev} (h : Unfaulted n d e) (h' : Unfaulted n e f) : Unfaulted n d f := ⟨h.regs.trans h'.regs, h'.asks⟩

theorem Unfaulted.ite {n : Nat} {d e f : Dev} (h : Unfaulted n d e) (h' : Unfaulted n e f) (b : Bool) : Unfaulted n d (if b then f else e) := by
  split
  · exact h.trans h'
  · exact h

/-- An event of a core that asks for no fault on saturation is recorded and no more. -/
theorem Dev.arrEvent_unfaulted {d : Dev} {c : ArrCmd} (h : d.bit ARR_CFG.FAULT_ON_SAT c.core 0 = false) {b : Fld} (hb : b.pos = ARR_ERR.pos)
    (slot : Nat) (detail : Option Nat) : Unfaulted c.core d (d.arrEvent c b slot detail) := by
  have hkept : (d.arrErrAt c.core b slot (if c.partner then 0 else cmdBank c)).bit ARR_CFG.FAULT_ON_SAT c.core 0 = false := by
    rw [Dev.bit, Dev.arrErrAt_fld_off _ _ hb _ _ (by simp [RegPos.off])]
    exact h
  have hrec : d.arrEvent c b slot detail = d.arrErrAt c.core b slot (if c.partner then 0 else cmdBank c) := by
    cases detail with
    | none => rfl
    | some k => simp only [Dev.arrEvent, hkept, Bool.false_eq_true, if_false]
  rw [hrec]
  exact ⟨Dev.arrErrAt_regs _ _ _ _ _, hkept⟩

end Sys2Proof.Machine
end

section
/-! SUPPORT. A granted RUN starts with the first vector of its input stream (R50, R54, R60, R68). -/

namespace Sys2Proof.Machine

/-- The run that a command begins in cycle t, on its set. -/
def Dev.newRun (d : Dev) (a t : Nat) (c : ArrCmd) : ArrRun :=
  ⟨{ c with active := true }, d.cmdSet a c, ((d.arr a).set (d.cmdSet a c)).p, t, none, [], 0, 0, 0, false⟩

/-- A run joins the runs in flight, in cycle t. -/
def Dev.joinRun (d : Dev) (a t : Nat) (r : ArrRun) : Dev := d.modArr a fun u => { u with runs := u.runs ++ [r], cyc := t }

section Join

variable (d : Dev) (a t : Nat) (r : ArrRun)

@[simp] theorem Dev.joinRun_sets : ((d.joinRun a t r).arr a).sets = (d.arr a).sets := by simp [Dev.joinRun]
@[simp] theorem Dev.joinRun_acc : ((d.joinRun a t r).arr a).acc = (d.arr a).acc := by simp [Dev.joinRun]
@[simp] theorem Dev.joinRun_runs : ((d.joinRun a t r).arr a).runs = (d.arr a).runs ++ [r] := by simp [Dev.joinRun]
@[simp] theorem Dev.joinRun_regs : (d.joinRun a t r).regs = d.regs := rfl
@[simp] theorem Dev.joinRun_mem : (d.joinRun a t r).mem = d.mem := rfl
@[simp] theorem Dev.dma_joinRun (n : Nat) : (d.joinRun a t r).dma n = d.dma n := Dev.dma_modArr _ _ _ _

end Join

/-- A run of an array command takes at least one vector. -/
theorem ArrRun.m_pos (r : ArrRun) : 0 < r.m := by
  unfold ArrRun.m cmdSlots
  dsimp only
  split
  · exact Nat.succ_pos _
  · exact Nat.succ_pos _

/-- Where the run of a command is the last in flight, and the only one of it, its change leaves the others. -/
theorem Dev.modRun_last {d : Dev} {a : Nat} {c : ArrCmd} {l : List ArrRun} {r : ArrRun} (hruns : (d.arr a).runs = l ++ [r])
    (hl : (l.find? fun q => q.cmd.core == c.core && q.cmd.id == c.id) = none) (hcore : r.cmd.core = c.core) (hid : r.cmd.id = c.id) (f : ArrRun → ArrRun) :
    ((d.modRun a c f).arr a).runs = l ++ [f r] := by
  have hothers : l.map (fun q => if q.cmd.core == c.core && q.cmd.id == c.id then f q else q) = l := by
    refine (List.map_congr_left fun q hq => ?_).trans (List.map_id l)
    rw [if_neg (List.find?_eq_none.1 hl q hq), id]
  simp only [Dev.modRun, Dev.arr_modArr, hruns, List.map_append, hothers, List.map_cons, List.map_nil, hcore, hid, beq_self_eq_true, Bool.and_self, if_true]

/-- What the array notes of a vector that run r has taken: the words that carry its poisoned elements, and an error for them. -/
def Dev.vecTaken (d : Dev) (a : Nat) (c : ArrCmd) (r : ArrRun) (v : InVec) : Dev :=
  if v.poisonRows = [] then d
  else
    (d.modArr a fun u => { u with badWords := u.badWords ++ v.poisonRows.map fun k => r.t0 + r.vecs.length * r.p + k }).arrEvent c ARR_ERR.IN_POISON
      ((cmdSlots c).1 + r.vecs.length) none

theorem Dev.pullVec_eq {d : Dev} {a : Nat} {c : ArrCmd} {r : ArrRun} {v : InVec} {rest : List InVec} (hrun : (d.arr a).run c = some r)
    (hin : Tbl.get [] (d.dma c.core).inputs (runStag c) = v :: rest) (hroom : r.vecs.length < r.m) :
    d.pullVec a c = ((d.setDma c.core { d.dma c.core with inputs := Tbl.set [] (d.dma c.core).inputs (runStag c) rest }).modRun a c
      fun r => { r with vecs := r.vecs ++ [v] }).vecTaken a c r v := by
  unfold Dev.pullVec
  simp only [hrun, hin, if_neg (Nat.not_le.2 hroom), ge_iff_le]
  rfl

/-- Between d and e no run, set or accumulator of array a has changed, no DMA engine, no byte of memory. -/
structure ArrayStands (a : Nat) (d e : Dev) : Prop where
  runs : (e.arr a).runs = (d.arr a).runs
  sets : (e.arr a).sets = (d.arr a).sets
  acc : (e.arr a).acc = (d.arr a).acc
  dma : ∀ n, e.dma n = d.dma n
  mem : e.mem = d.mem

theorem Dev.vecTaken_stands (d : Dev) (a : Nat) (c : ArrCmd) (r : ArrRun) (v : InVec) : ArrayStands a d (d.vecTaken a c r v) := by
  unfold Dev.vecTaken
  split
  · exact ⟨rfl, rfl, rfl, fun _ => rfl, rfl⟩
  · rw [Dev.arrEvent_none]
    have h := Dev.arrErrAt_regs (d.modArr a fun u => { u with badWords := u.badWords ++ v.poisonRows.map fun k => r.t0 + r.vecs.length * r.p + k })
      c.core ARR_ERR.IN_POISON ((cmdSlots c).1 + r.vecs.length) (if c.partner then 0 else cmdBank c)
    exact ⟨by rw [h.arr, Dev.arr_modArr], by rw [h.arr, Dev.arr_modArr], by rw [h.arr, Dev.arr_modArr], fun n => by rw [h.dma, Dev.dma_modArr], h.mem⟩

/-- A sound vector raises no error. -/
theorem Dev.vecTaken_sound (d : Dev) (a : Nat) (c : ArrCmd) (r : ArrRun) {v : InVec} (h : v.poisonRows = []) : d.vecTaken a c r v = d := if_pos h

/-- A poisoned vector sets IN_POISON. -/
theorem Dev.vecTaken_poisoned (d : Dev) (a : Nat) (c : ArrCmd) (r : ArrRun) {v : InVec} (h : v.poisonRows ≠ []) :
    (d.vecTaken a c r v).bit ARR_ERR.IN_POISON c.core 0 = true := by
  rw [Dev.vecTaken, if_neg h]
  exact Dev.arrErrAt_bit _ _ _ _ _ rfl rfl rfl rfl

/-- The machine after the start of a run in cycle t with vector v, of which its stream keeps `rest`. -/
def Dev.runStarted (d : Dev) (a t : Nat) (c : ArrCmd) (v : InVec) (rest : List InVec) : Dev :=
  let e := (d.arrActive a c).joinRun a t (d.newRun a t c)
  (((e.setDma c.core { e.dma c.core with inputs := Tbl.set [] (e.dma c.core).inputs (runStag c) rest }).modRun a c
    fun r => { r with vecs := r.vecs ++ [v] }).vecTaken a c (d.newRun a t c) v).arrUsed a

section Started

variable {d d1 : Dev} {a : Nat} {c : ArrCmd} {v : InVec} {rest : List InVec}

theorem Dev.runStart_granted (hreach : (d.arr a).reaches (d.runCycle a) = true) (hnew : (d.arr a).run c = none)
    (hgrant : d.arrGrant a 5 0x11 (d.runReady a) = some (c, d1)) (hin : Tbl.get [] (d.dma c.core).inputs (runStag c) = v :: rest) :
    ∃ x, d.runStart a = (d.setArbs x).runStarted a (d.runCycle a) c v rest := by
  obtain ⟨x, rfl⟩ := Dev.arrGrant_arbs hgrant
  refine ⟨x, ?_⟩
  have hrun : ((((d.setArbs x).arrActive a c).joinRun a (d.runCycle a) ((d.setArbs x).newRun a (d.runCycle a) c)).arr a).run c =
      some ((d.setArbs x).newRun a (d.runCycle a) c) := by
    rw [ArrayUnit.run, Dev.joinRun_runs, Dev.arrActive_runs, Dev.arr_setArbs, List.find?_append, ← ArrayUnit.run, hnew]
    simp [Dev.newRun]
  unfold Dev.runStart
  simp only [Dev.pullTo_of_reaches hreach, hreach, hgrant, Bool.not_true, Bool.false_eq_true, if_false]
  exact congrArg (Dev.arrUsed · a) (Dev.pullVec_eq hrun (by simpa using hin) (ArrRun.m_pos _))

variable (t : Nat)

theorem Dev.runStarted_runs (hnew : (d.arr a).run c = none) :
    ((d.runStarted a t c v rest).arr a).runs = (d.arr a).runs ++ [{ d.newRun a t c with vecs := [v] }] := by
  rw [Dev.runStarted, Dev.arrUsed_runs, (Dev.vecTaken_stands _ _ _ _ _).runs, Dev.modRun_last (l := (d.arr a).runs) (r := d.newRun a t c) (by simp) hnew rfl rfl]
  rfl

theorem Dev.runStarted_inputs : Tbl.get [] ((d.runStarted a t c v rest).dma c.core).inputs (runStag c) = rest := by
  rw [Dev.runStarted, Dev.dma_arrUsed, (Dev.vecTaken_stands _ _ _ _ _).dma, Dev.dma_modRun, Dev.dma_setDma, Tbl.get_set_same]

theorem Dev.runStarted_acc : ((d.runStarted a t c v rest).arr a).acc = (d.arr a).acc := by
  rw [Dev.runStarted, Dev.arrUsed_acc, (Dev.vecTaken_stands _ _ _ _ _).acc]
  simp

theorem Dev.runStarted_sets : ((d.runStarted a t c v rest).arr a).sets = (d.arr a).sets := by
  rw [Dev.runStarted, Dev.arrUsed_sets, (Dev.vecTaken_stands _ _ _ _ _).sets]
  simp

theorem Dev.runStarted_mem : (d.runStarted a t c v rest).mem = d.mem := by
  rw [Dev.runStarted, Dev.arrUsed_mem', (Dev.vecTaken_stands _ _ _ _ _).mem, Dev.modRun_mem, Dev.setDma_mem', Dev.joinRun_mem, Dev.arrActive_mem']

theorem Dev.runStarted_sound (h : v.poisonRows = []) : (d.runStarted a t c v rest).regs = d.regs := by
  rw [Dev.runStarted, Dev.vecTaken_sound _ _ _ _ h, Dev.arrUsed_regs', Dev.modRun_regs, Dev.setDma_regs', Dev.joinRun_regs, Dev.arrActive_regs']

theorem Dev.runStarted_poisoned (h : v.poisonRows ≠ []) : (d.runStarted a t c v rest).bit ARR_ERR.IN_POISON c.core 0 = true := by
  rw [Dev.runStarted, Dev.arrUsed_bit, Dev.vecTaken_poisoned _ _ _ _ h]

end Started

theorem exec_runStart (a : CoreId) (s : State) : exec (.runStart a) s = s.ev fun d => d.runStart a := rfl

/-- Settles O22: the run is new, so that of all runs in flight it alone takes the vector. -/
theorem arrayRunStarts : Obligations.ArrayRunStarts := by
  intro s a c d1 v rest hreach hnew hgrant hin
  obtain ⟨x, hstart⟩ := Dev.runStart_granted hreach hnew hgrant hin
  obtain ⟨u, hu, hdev⟩ := State.ev_to (s := s) (f := fun d => d.runStart a) hstart
  refine ⟨u, (exec_runStart a s).trans hu, ?runs, ?inputs, ?acc, ?sets, ?mem, fun hv => ?sound, fun hv => ?poisoned⟩
  case runs => rw [hdev, Dev.keep_arr, Dev.runStarted_runs (d := s.dev.setArbs x) _ hnew]; rfl
  case inputs => rw [hdev, Dev.keep_dma, Dev.runStarted_inputs]
  case acc => rw [hdev, Dev.keep_arr, Dev.runStarted_acc, Dev.arr_setArbs]
  case sets => rw [hdev, Dev.keep_arr, Dev.runStarted_sets, Dev.arr_setArbs]
  case mem => rw [hdev, Dev.keep_mem, Dev.runStarted_mem, Dev.setArbs_mem]
  case sound => rw [hdev, Dev.keep_regs, Dev.runStarted_sound _ hv, Dev.setArbs_regs]
  case poisoned => rw [hdev, Dev.keep_bit, Dev.runStarted_poisoned _ hv]

end Sys2Proof.Machine
end

section
/-! SUPPORT. An array stalls where it lacks a group or an input vector, and a run releases its groups (R54, R69, R76). -/

namespace Sys2Proof.Machine

/-! Stalls. -/

theorem Dev.arrStall_load {d : Dev} {a : Nat} {r : ArrRun}
    (h : ((d.pullTo a (d.clkSum (clusterOf a) / 1000)).arr a).stuck (d.clkSum (clusterOf a) / 1000) = some (r, true)) :
    d.arrStall a = (((d.pullTo a (d.clkSum (clusterOf a) / 1000)).count ARR_STALL.LOAD_STALL a 0 1).pmcCore r.cmd.core 0x04 1).modArr a ArrayUnit.stalled := by
  simp only [Dev.arrStall, h]

theorem Dev.arrStall_input {d : Dev} {a : Nat} {r : ArrRun}
    (h : ((d.pullTo a (d.clkSum (clusterOf a) / 1000)).arr a).stuck (d.clkSum (clusterOf a) / 1000) = some (r, false)) :
    d.arrStall a = (((d.pullTo a (d.clkSum (clusterOf a) / 1000)).count ARR_STALL.INPUT_STALL a 0 1).pmcCore r.cmd.core 0x05 1).modArr a ArrayUnit.stalled := by
  simp only [Dev.arrStall, h]

/-! Poison in a slot. -/

/-- Poisoning a slot changes accumulator entries alone. -/
theorem ArrayUnit.poisonSlot_acc (u : ArrayUnit) (bank slot : Nat) : ∃ x, u.poisonSlot bank slot = { u with acc := x } :=
  List.foldlRecOn _ _ (motive := fun v : ArrayUnit => ∃ x, v = { u with acc := x }) ⟨_, rfl⟩ fun _ hv _ _ => by
    obtain ⟨_, rfl⟩ := hv
    exact ⟨_, rfl⟩

/-- The slots that a run has written are poisoned. -/
def ArrayUnit.poisonWritten (u : ArrayUnit) (r : ArrRun) : ArrayUnit :=
  (List.range r.written).foldl (fun u i => u.poisonSlot (cmdBank r.cmd) ((cmdSlots r.cmd).1 + i)) u

theorem ArrayUnit.poisonWritten_acc (u : ArrayUnit) (r : ArrRun) : ∃ x, u.poisonWritten r = { u with acc := x } :=
  List.foldlRecOn _ _ (motive := fun v : ArrayUnit => ∃ x, v = { u with acc := x }) ⟨_, rfl⟩ fun _ hv i _ => by
    obtain ⟨x, rfl⟩ := hv
    obtain ⟨y, hy⟩ := ({ u with acc := x } : ArrayUnit).poisonSlot_acc (cmdBank r.cmd) ((cmdSlots r.cmd).1 + i)
    exact ⟨y, hy⟩

@[simp] theorem ArrayUnit.poisonWritten_run (u : ArrayUnit) (r : ArrRun) (c : ArrCmd) : (u.poisonWritten r).run c = u.run c := by
  obtain ⟨x, hx⟩ := u.poisonWritten_acc r
  rw [hx]
  rfl

/-! Releases. -/

/-- A run with its next group released, whose parity is `bad` or holds. -/
def ArrRun.freed (bad : Bool) (r : ArrRun) : ArrRun := { r with released := r.released + 1, poison := r.poison || bad }

/-- The machine after a run releases its next group. -/
def Dev.groupReleased (d : Dev) (a : Nat) (r : ArrRun) (bad : Bool) : Dev :=
  ((d.modRun a r.cmd (·.freed bad)).arrAt a r.releaseAt).arrUsed a

section Release

variable {d : Dev} {a : Nat} {r : ArrRun}

theorem Dev.groupReleased_run (hrun : (d.arr a).run r.cmd = some r) (bad : Bool) :
    ((d.groupReleased a r bad).arr a).run r.cmd = some (r.freed bad) := by
  rw [Dev.groupReleased, ArrayUnit.run_congr (Dev.arrUsed_runs _ _), ArrayUnit.run_congr (Dev.arrAt_runs _ _ _),
    Dev.run_modRun (f := (·.freed bad)) fun _ => rfl, hrun, Option.map_some]

theorem Dev.groupReleased_acc (bad : Bool) : ((d.groupReleased a r bad).arr a).acc = (d.arr a).acc := by simp [Dev.groupReleased]
theorem Dev.groupReleased_sets (bad : Bool) : ((d.groupReleased a r bad).arr a).sets = (d.arr a).sets := by simp [Dev.groupReleased]
theorem Dev.groupReleased_regs (bad : Bool) : (d.groupReleased a r bad).regs = d.regs := by
  rw [Dev.groupReleased, Dev.arrUsed_regs', Dev.arrAt_regs, Dev.modRun_regs]
theorem Dev.groupReleased_mem (bad : Bool) : (d.groupReleased a r bad).mem = d.mem := by
  rw [Dev.groupReleased, Dev.arrUsed_mem', Dev.arrAt_mem, Dev.modRun_mem]

variable (hturn : (d.arr a).releasing = some r) (hreach : (d.arr a).reaches r.releaseAt = true)
include hturn hreach

/-- A group whose parity holds is released, and no more. -/
theorem Dev.groupRelease_sound {e : Bool} (hgood : (e || ((d.arr a).runSet r).parityBad r.released) = false) :
    d.groupRelease a e = d.groupReleased a r false := by
  unfold Dev.groupRelease
  simp only [hturn, Dev.pullTo_of_reaches hreach, hreach, hgood, Bool.not_true, Bool.false_eq_true, if_false]
  rfl

/-- A group whose parity does not hold poisons the slots of the run, and is recorded. -/
theorem Dev.groupRelease_bad {e : Bool} (hbad : (e || ((d.arr a).runSet r).parityBad r.released) = true) :
    d.groupRelease a e = ((d.groupReleased a r true).modArr a (·.poisonWritten r)).arrErrAt r.cmd.core ARR_ERR.WPARITY (cmdSlots r.cmd).1
      (if r.cmd.partner then 0 else cmdBank r.cmd) := by
  unfold Dev.groupRelease
  simp only [hturn, Dev.pullTo_of_reaches hreach, hreach, hbad, Bool.not_true, Bool.false_eq_true, if_false, if_true]
  rfl

end Release

theorem exec_arrayStall (a : CoreId) (s : State) : exec (.arrayStall a) s = s.ev fun d => d.arrStall a := rfl
theorem exec_groupRelease (a : CoreId) (e : Bool) (s : State) : exec (.groupRelease a e) s = s.ev fun d => d.groupRelease a e := rfl

/-- Settles O23: the vectors a run needs by the cycle of its release are here, so that the release finds the runs as they stand. -/
theorem arrayRunsProgress : Obligations.ArrayRunsProgress := by
  refine fun s a r => ⟨⟨fun hload => ?_, fun hinput => ?_⟩, fun hturn hrun hreach hpar => ?_, fun e hturn hrun hreach hbad => ?_⟩
  · rw [exec_arrayStall]
    exact State.ev_to (Dev.arrStall_load hload)
  · rw [exec_arrayStall]
    exact State.ev_to (Dev.arrStall_input hinput)
  · obtain ⟨t, ht, hdev⟩ := State.ev_to (s := s) (f := fun d => d.groupRelease a false) (Dev.groupRelease_sound (e := false) hturn hreach hpar)
    refine ⟨t, (exec_groupRelease a false s).trans ht, ?run, ?acc, ?sets, ?regs, ?mem⟩
    case run => rw [hdev, Dev.keep_arr, Dev.groupReleased_run hrun, ArrRun.freed, Bool.or_false]
    case acc => rw [hdev, Dev.keep_arr, Dev.groupReleased_acc]
    case sets => rw [hdev, Dev.keep_arr, Dev.groupReleased_sets]
    case regs => rw [hdev, Dev.keep_regs, Dev.groupReleased_regs]
    case mem => rw [hdev, Dev.keep_mem, Dev.groupReleased_mem]
  · obtain ⟨t, ht, hdev⟩ := State.ev_to (s := s) (f := fun d => d.groupRelease a e) (Dev.groupRelease_bad hturn hreach hbad)
    have herr := Dev.arrErrAt_regs (((s.dev.groupReleased a r true).modArr a (·.poisonWritten r))) r.cmd.core ARR_ERR.WPARITY (cmdSlots r.cmd).1
      (if r.cmd.partner then 0 else cmdBank r.cmd)
    refine ⟨t, (exec_groupRelease a e s).trans ht, ?run, ?wparity, ?mem⟩
    case run => rw [hdev, Dev.keep_arr, herr.arr, Dev.arr_modArr, ArrayUnit.poisonWritten_run, Dev.groupReleased_run hrun, ArrRun.freed, Bool.or_true]
    case wparity => rw [hdev, Dev.keep_bit, Dev.arrErrAt_bit _ _ _ _ _ rfl rfl rfl rfl]
    case mem => rw [hdev, Dev.keep_mem, herr.mem, Dev.modArr_mem', Dev.groupReleased_mem]

end Sys2Proof.Machine
end

section
/-! SUPPORT. The results of a vector enter the slot of their run, column by column (R46 to R51, R55 to R59, R69). -/

namespace Sys2Proof.Machine

theorem accKey_eq_iff {bank slot n j : Nat} (hn : n < 256) : j = accKey bank slot n ↔ j / 256 = 128 * bank + slot ∧ j % 256 = n := by
  unfold accKey
  omega

@[simp] theorem ArrayUnit.setEntry_runs (u : ArrayUnit) (bank slot n : Nat) (e : BitVec 64) : (u.setEntry bank slot n e).runs = u.runs := rfl
@[simp] theorem ArrayUnit.setEntry_sets (u : ArrayUnit) (bank slot n : Nat) (e : BitVec 64) : (u.setEntry bank slot n e).sets = u.sets := rfl

/-- What the next vector of a run makes of an entry of column n. -/
def ArrayUnit.added (u : ArrayUnit) (r : ArrRun) (v : InVec) (n : Nat) (e : BitVec 64) : Added :=
  addVector (u.runSet r) r.cmd.word.toNat v (u.acts r r.written) n (u.vecPoison r r.written) (AccE.dec e)

/-- Column n of the next vector of a run enters its slot, with the renormalisations and the SAT and NAN events so far. -/
def ArrayUnit.addColumn (u : ArrayUnit) (r : ArrRun) (v : InVec) : ArrayUnit × Nat × Bool × Bool → Nat → ArrayUnit × Nat × Bool × Bool := fun p n =>
  let x := u.added r v n (p.1.entry (cmdBank r.cmd) ((cmdSlots r.cmd).1 + r.written) n)
  (p.1.setEntry (cmdBank r.cmd) ((cmdSlots r.cmd).1 + r.written) n x.e.enc, p.2.1 + x.renorm, p.2.2.1 || x.sat, p.2.2.2 || x.nan)

/-- The first k columns of the next vector of a run enter its slot. -/
def ArrayUnit.addColumns (u : ArrayUnit) (r : ArrRun) (v : InVec) (k : Nat) : ArrayUnit × Nat × Bool × Bool :=
  (List.range k).foldl (u.addColumn r v) (u, 0, false, false)

/-- The accumulators with the first k columns of the next vector of a run in its slot; each column was read as it stood before. -/
structure ColumnsIn (u : ArrayUnit) (r : ArrRun) (v : InVec) (k : Nat) (w : ArrayUnit) : Prop where
  runs : w.runs = u.runs
  sets : w.sets = u.sets
  acc : ∀ j, Tbl.get accEmpty w.acc j = if j / 256 = 128 * cmdBank r.cmd + ((cmdSlots r.cmd).1 + r.written) ∧ j % 256 < k
    then (u.added r v (j % 256) (Tbl.get accEmpty u.acc j)).e.enc else Tbl.get accEmpty u.acc j

theorem ArrayUnit.addColumns_succ (u : ArrayUnit) (r : ArrRun) (v : InVec) (k : Nat) :
    u.addColumns r v (k + 1) = u.addColumn r v (u.addColumns r v k) k := by
  rw [ArrayUnit.addColumns, List.range_succ, List.foldl_append, ← ArrayUnit.addColumns, List.foldl_cons, List.foldl_nil]

section Column

variable (u : ArrayUnit) (r : ArrRun) (v : InVec) (p : ArrayUnit × Nat × Bool × Bool) (n : Nat)

theorem ArrayUnit.addColumn_runs : (u.addColumn r v p n).1.runs = p.1.runs := by rw [ArrayUnit.addColumn, ArrayUnit.setEntry_runs]
theorem ArrayUnit.addColumn_sets : (u.addColumn r v p n).1.sets = p.1.sets := by rw [ArrayUnit.addColumn, ArrayUnit.setEntry_sets]
theorem ArrayUnit.addColumn_acc (j : Nat) : Tbl.get accEmpty (u.addColumn r v p n).1.acc j =
    if j = accKey (cmdBank r.cmd) ((cmdSlots r.cmd).1 + r.written) n then (u.added r v n (Tbl.get accEmpty p.1.acc j)).e.enc else Tbl.get accEmpty p.1.acc j := by
  rw [ArrayUnit.addColumn, ArrayUnit.setEntry, Tbl.get_set]
  split
  case isTrue h => rw [h, ArrayUnit.entry]
  case isFalse => rfl

end Column

theorem ArrayUnit.addColumns_in (u : ArrayUnit) (r : ArrRun) (v : InVec) {k : Nat} (hk : k ≤ 256) : ColumnsIn u r v k (u.addColumns r v k).1 := by
  induction k with
  | zero => exact ⟨rfl, rfl, fun j => (if_neg fun h => Nat.not_lt_zero _ h.2).symm⟩
  | succ k ih =>
    have ih := ih (Nat.le_of_succ_le hk)
    rw [ArrayUnit.addColumns_succ]
    refine ⟨(u.addColumn_runs r v _ k).trans ih.runs, (u.addColumn_sets r v _ k).trans ih.sets, fun j => ?_⟩
    have hkey := accKey_eq_iff (bank := cmdBank r.cmd) (slot := (cmdSlots r.cmd).1 + r.written) (n := k) (j := j) hk
    rw [ArrayUnit.addColumn_acc, ih.acc]
    by_cases hj : j = accKey (cmdBank r.cmd) ((cmdSlots r.cmd).1 + r.written) k
    · obtain ⟨hline, hcol⟩ := hkey.1 hj
      have hnew : ¬(j / 256 = 128 * cmdBank r.cmd + ((cmdSlots r.cmd).1 + r.written) ∧ j % 256 < k) := fun h => by omega
      rw [if_pos hj, if_neg hnew, if_pos ⟨hline, by omega⟩, hcol]
    · rw [if_neg hj]
      refine if_congr (and_congr_right fun hline => ?_) rfl rfl
      have hcol : j % 256 ≠ k := fun hcol => hj (hkey.2 ⟨hline, hcol⟩)
      omega

/-! What is recorded of a vector. -/

/-- A run with one vector more written. -/
def ArrRun.wrote (r : ArrRun) : ArrRun := { r with written := r.written + 1 }

/-- The array has reached the cycle that writes a vector of a run, whose results have made it `u`. -/
def Dev.vecEntered (d : Dev) (a : Nat) (r : ArrRun) (u : ArrayUnit) : Dev := ((d.setArr a u).modRun a r.cmd ArrRun.wrote).arrAt a r.writeAt

/-- The renormalisations of a vector are counted, and its SAT and NAN events recorded. -/
def Dev.vecFlagged (d : Dev) (a : Nat) (r : ArrRun) (re : Nat) (sat nan : Bool) : Dev :=
  let d := d.count ARR_RENORM.COUNT a 0 re
  let d := if sat then d.arrEvent r.cmd ARR_ERR.SAT ((cmdSlots r.cmd).1 + r.written) (some 0x21) else d
  if nan then d.arrEvent r.cmd ARR_ERR.NAN ((cmdSlots r.cmd).1 + r.written) (some 0x22) else d

section Entered

variable (d : Dev) (a : Nat) (r : ArrRun) (u : ArrayUnit)

theorem Dev.vecEntered_sets : ((d.vecEntered a r u).arr a).sets = u.sets := by simp [Dev.vecEntered]
theorem Dev.vecEntered_acc : ((d.vecEntered a r u).arr a).acc = u.acc := by simp [Dev.vecEntered]
theorem Dev.vecEntered_run : ((d.vecEntered a r u).arr a).run r.cmd = (u.run r.cmd).map ArrRun.wrote := by
  rw [Dev.vecEntered, ArrayUnit.run_congr (Dev.arrAt_runs _ _ _), Dev.run_modRun (f := ArrRun.wrote) fun _ => rfl, Dev.arr_setArr]
theorem Dev.vecEntered_mem : (d.vecEntered a r u).mem = d.mem := by rw [Dev.vecEntered, Dev.arrAt_mem, Dev.modRun_mem, Dev.setArr_mem']
theorem Dev.vecEntered_regs : (d.vecEntered a r u).regs = d.regs := by rw [Dev.vecEntered, Dev.arrAt_regs, Dev.modRun_regs, Dev.setArr_regs']

end Entered

/-- What is recorded of a vector changes registers alone, where the core asks for no fault on saturation. -/
theorem Dev.vecFlagged_regs {d : Dev} (a : Nat) {r : ArrRun} (h : d.bit ARR_CFG.FAULT_ON_SAT r.cmd.core 0 = false) (re : Nat) (sat nan : Bool) :
    RegsOnly d (d.vecFlagged a r re sat nan) := by
  have hcount : Unfaulted r.cmd.core d (d.count ARR_RENORM.COUNT a 0 re) := by
    refine ⟨(RegsOnly.refl d).setFld _ _ _ _, ?_⟩
    rw [Dev.bit, Dev.count, Dev.fld_setFld_off _ _ _ _ _ _ _ _ (by simp [RegPos.off]; omega)]
    exact h
  have hsat := hcount.ite (Dev.arrEvent_unfaulted hcount.asks (b := ARR_ERR.SAT) rfl ((cmdSlots r.cmd).1 + r.written) (some 0x21)) sat
  exact (hsat.ite (Dev.arrEvent_unfaulted hsat.asks rfl _ _) nan).regs

/-- The oldest run is the run of its command. -/
theorem ArrayUnit.run_head {u : ArrayUnit} {r : ArrRun} (h : u.runs.head? = some r) : u.run r.cmd = some r := by
  obtain ⟨l, hruns⟩ := List.head?_eq_some_iff.1 h
  simp [ArrayUnit.run, hruns]

/-- The cycle that writes a vector of the oldest run, which is not its last. -/
theorem Dev.accWriteVec_goesOn {d : Dev} {a : Nat} {r : ArrRun} {v : InVec} (hfirst : (d.arr a).runs.head? = some r) (hv : r.vecs[r.written]? = some v)
    (hreach : (d.arr a).reaches r.writeAt = true) (hmore : r.written + 1 < r.m) {u : ArrayUnit} {re : Nat} {sat nan : Bool}
    (hadd : (d.arr a).addColumns r v 256 = (u, re, sat, nan)) : d.accWriteVec a = ((d.vecEntered a r u).vecFlagged a r re sat nan).arrUsed a := by
  have hrun := ArrayUnit.run_head hfirst
  obtain ⟨l, hruns⟩ := List.head?_eq_some_iff.1 hfirst
  have hlast : (r.written + 1 == r.m) = false := beq_false_of_ne (Nat.ne_of_lt hmore)
  delta ArrayUnit.addColumns ArrayUnit.addColumn ArrayUnit.added at hadd
  dsimp only at hadd
  unfold Dev.accWriteVec
  simp only [hruns, Dev.pullTo_of_reaches hreach, hrun, hv, hreach, hlast, hadd, Nat.ne_of_lt hmore, Bool.not_true, Bool.false_and, Bool.or_self, Bool.false_eq_true, if_false]
  rfl

theorem exec_accumulatorWrite (a : CoreId) (s : State) : exec (.accumulatorWrite a) s = s.ev fun d => d.accWriteVec a := rfl

/-- Settles O24: each column's entry is read before any is written to it, since the columns of a slot lie apart; what is recorded of them changes registers alone. -/
theorem accumulatorWrites : Obligations.AccumulatorWrites := by
  intro s a r v hfirst hv hreach hmore hfault
  have hcols := (s.dev.arr a).addColumns_in r v (le_refl 256)
  rcases hadd : (s.dev.arr a).addColumns r v 256 with ⟨u, re, sat, nan⟩
  rw [hadd] at hcols
  obtain ⟨t, ht, hdev⟩ := State.ev_to (s := s) (f := fun d => d.accWriteVec a) (Dev.accWriteVec_goesOn hfirst hv hreach hmore hadd)
  have hregs : RegsOnly (s.dev.vecEntered a r u) ((s.dev.vecEntered a r u).vecFlagged a r re sat nan) := by
    refine Dev.vecFlagged_regs a ?_ re sat nan
    rw [Dev.bit, Dev.fld_regs (Dev.vecEntered_regs _ _ _ _)]
    exact hfault
  refine ⟨t, (exec_accumulatorWrite a s).trans ht, ?mem, ?run, ?sets, fun k => ?acc⟩
  case mem => rw [hdev, Dev.keep_mem, Dev.arrUsed_mem', hregs.mem, Dev.vecEntered_mem]
  case run =>
    rw [hdev, Dev.keep_arr, ArrayUnit.run_congr (Dev.arrUsed_runs _ _), hregs.arr, Dev.vecEntered_run, ArrayUnit.run_congr hcols.runs, ArrayUnit.run_head hfirst]
    rfl
  case sets => rw [hdev, Dev.keep_arr, Dev.arrUsed_sets, hregs.arr, Dev.vecEntered_sets, hcols.sets]
  case acc =>
    rw [hdev, Dev.keep_arr, Dev.arrUsed_acc, hregs.arr, Dev.vecEntered_acc, hcols.acc]
    exact if_congr (and_iff_left (Nat.mod_lt _ (by decide))) rfl rfl

end Sys2Proof.Machine
end

section
/-! SUPPORT. The vector unit over intact memory: what a VOP reads, what each function writes, and what the finished VOP leaves (R82, R90, R91, R99, R100). -/

namespace Sys2Proof.Machine

/-! What a VOP reads. -/

/-- The elements of a VOP's first source. -/
def Dev.vFirst (d : Dev) (n : Nat) (c : TileCmd) : List VEl := (d.vRead n (vLen c.word.toNat) ((vSources c).getD 0 (0, 0, 1))).1

/-- The elements of its further source k, or those of the first where the function takes none. -/
def Dev.vFurther (d : Dev) (n : Nat) (c : TileCmd) (k : Nat) : List VEl := (d.vArg n (vLen c.word.toNat) (vSources c)[k]? (d.vFirst n c)).1

theorem vSources_first_mem (c : TileCmd) : (vSources c).getD 0 (0, 0, 1) ∈ vSources c := by simp [vSources]

theorem vHoriz_eq_false {w : Nat} (h : vFn w < 0x10 ∨ 0x12 < vFn w) : vHoriz w = false := by
  simp only [vHoriz, Bool.or_eq_false_iff, beq_eq_false_iff_ne]
  omega

/-- A further source in intact memory is read without poison, and reading it changes nothing. -/
theorem Dev.vArg_intact (d : Dev) (n len : Nat) (r : Option (Nat × Nat × Nat)) {a : List VEl} (ha : ∀ e ∈ a, e.p = false)
    (h : ∀ x ∈ r, d.intact (lsAddr n x.1) x.2.1) : (d.vArg n len r a).2 = d ∧ ∀ e ∈ (d.vArg n len r a).1, e.p = false := by
  cases r with
  | none => exact ⟨rfl, ha⟩
  | some x => exact d.vRead_intact n len x (h x rfl)

section Sources
variable {d : Dev} {n : Nat} {c : TileCmd} (h : ∀ r ∈ vSources c, d.intact (lsAddr n r.1) r.2.1)
include h

theorem Dev.vFirst_clean : ∀ e ∈ d.vFirst n c, e.p = false := (d.vRead_intact n _ _ (h _ (vSources_first_mem c))).2

theorem Dev.vRead_vFirst : d.vRead n (vLen c.word.toNat) ((vSources c).getD 0 (0, 0, 1)) = (d.vFirst n c, d) :=
  Prod.ext rfl (d.vRead_intact n _ _ (h _ (vSources_first_mem c))).1

theorem Dev.vArg_source_intact (k : Nat) :
    (d.vArg n (vLen c.word.toNat) (vSources c)[k]? (d.vFirst n c)).2 = d ∧ ∀ e ∈ d.vFurther n c k, e.p = false :=
  d.vArg_intact n _ _ (Dev.vFirst_clean h) fun x hx => h x (List.mem_of_getElem? hx)

theorem Dev.vFurther_clean (k : Nat) : ∀ e ∈ d.vFurther n c k, e.p = false := (Dev.vArg_source_intact h k).2

theorem Dev.vArg_vFurther (k : Nat) : d.vArg n (vLen c.word.toNat) (vSources c)[k]? (d.vFirst n c) = (d.vFurther n c k, d) :=
  Prod.ext rfl (Dev.vArg_source_intact h k).1

/-! What each function writes. -/

theorem Dev.vopRun_elementwise (hf : vFn c.word.toNat ≤ 0x0A) :
    d.vopRun n c = d.lsWrite n (c.ops.getD 0 0)
      (vBytes (tyBytes (vTy c.word.toNat)) (vZip (vFn c.word.toNat) (vTy c.word.toNat) (d.vFirst n c) (d.vFurther n c 1) (d.vFurther n c 2))) := by
  have hh : vHoriz c.word.toNat = false := vHoriz_eq_false (by omega)
  simp only [Dev.vopRun, Dev.vRead_vFirst h, Dev.vArg_vFurther h, hh, Bool.false_eq_true, if_false]
  split
  · omega
  · omega
  · omega
  · rfl

theorem Dev.vopRun_cvt (hf : vFn c.word.toNat = 0x0B) :
    d.vopRun n c = d.lsWrite n (c.ops.getD 0 0)
      (vBytes (tyBytes (vDty c.word.toNat)) ((d.vFirst n c).map fun e => ⟨vConvert (vTy c.word.toNat) (vDty c.word.toNat) e.v, e.p⟩)) := by
  have hh : vHoriz c.word.toNat = false := vHoriz_eq_false (by omega)
  simp only [Dev.vopRun, Dev.vRead_vFirst h, Dev.vArg_vFurther h, hh, hf, Bool.false_eq_true, if_false]

theorem Dev.vopRun_copy (hf : vFn c.word.toNat = 0x18) :
    d.vopRun n c = d.lsWrite n (c.ops.getD 0 0) (vBytes (tyBytes (vTy c.word.toNat)) (d.vFirst n c)) := by
  have hh : vHoriz c.word.toNat = false := vHoriz_eq_false (by omega)
  simp only [Dev.vopRun, Dev.vRead_vFirst h, Dev.vArg_vFurther h, hh, hf, Bool.false_eq_true, if_false]

theorem Dev.vopRun_horizontal (hf : vHoriz c.word.toNat = true) :
    d.vopRun n c = d.lsWrite n (c.ops.getD 0 0)
      (vBytes 4 [⟨vHorizontal (vFn c.word.toNat) (vTy c.word.toNat) ((d.vFirst n c).map (·.v)) ((d.vFurther n c 1).map (·.v)), false⟩]) := by
  have ha : (d.vFirst n c).any (·.p) = false := by simpa using Dev.vFirst_clean h
  have hb : (d.vFurther n c 1).any (·.p) = false := by simpa using Dev.vFurther_clean h 1
  simp only [Dev.vopRun, Dev.vRead_vFirst h, Dev.vArg_vFurther h, hf, ha, hb, Bool.or_self, if_true]

theorem Dev.vopRun_mxq (hf : vFn c.word.toNat = 0x0C) :
    d.vopRun n c =
      (d.lsWrite n (c.ops.getD 0 0) (vBytes (if vMx16 c.word.toNat then 2 else 1) (vQuant (vMx16 c.word.toNat) (vLen c.word.toNat / 32) (d.vFirst n c)).1)).lsWrite
        n (c.ops.getD 2 0) (vBytes 1 (vQuant (vMx16 c.word.toNat) (vLen c.word.toNat / 32) (d.vFirst n c)).2) := by
  have hh : vHoriz c.word.toNat = false := vHoriz_eq_false (by omega)
  simp only [Dev.vopRun, Dev.vRead_vFirst h, Dev.vArg_vFurther h, hh, hf, Bool.false_eq_true, if_false]

end Sources

/-! What a VOP leaves when it has finished. -/

/-- Two writes of clean bytes to intact runs that lie apart. -/
theorem Dev.write_clean_apart (d : Dev) {k l : Nat} {a b : List PByte} (ha : anyPoison a = false) (hb : anyPoison b = false)
    (hk : d.intact k a.length) (hl : (d.write k a).intact l b.length) (hkl : k + a.length ≤ l ∨ l + b.length ≤ k) (j : Nat) :
    ((d.write k a).write l b).byte j = if k ≤ j ∧ j < k + a.length then (a.getD (j - k) ⟨0, false⟩).v
      else if l ≤ j ∧ j < l + b.length then (b.getD (j - l) ⟨0, false⟩).v else d.byte j := by
  rw [((d.write k a).write_clean l b hb hl).1 j, (d.write_clean k a ha hk).1 j]
  by_cases hj : k ≤ j ∧ j < k + a.length
  · rw [if_neg (by omega)]
    simp only [if_pos hj]
  · simp only [if_neg hj]

/-- Finishing a command moves no clock, burns no fuse and lets nothing wait. -/
theorem Dev.keep_cmdDone (d : Dev) (n id : Nat) (st : Status) : d.keep (d.cmdDone n id st) = d.cmdDone n id st := by
  unfold Dev.cmdDone
  dsimp only
  cases (d.core n).prog with
  | none => rfl
  | some p => rfl

section Finish
variable {s : State} {n : Nat} {p : Prog} {i : Issued} (hprog : (s.dev.core n).prog = some p)
  (hold : (p.issued.find? fun i => wOp i.cmd.word.toNat == 0x20 && i.done.isNone) = some i)
include hprog hold

/-- A row whose function is that of the oldest VOP issued and not finished carries it out. -/
theorem Dev.vop_oldest {f : Nat} (hf : vFn i.cmd.word.toNat = f) : s.dev.vop n f = (s.dev.vopRun n i.cmd).cmdDone n i.cmd.id .ok := by
  simp only [Dev.vop, hprog, hold, hf, if_true]

/-- A VOP that changes nothing but the memory tables, to those of e, leads to them with the VOP finished. -/
theorem State.vop_finishes {f : Nat} (hf : vFn i.cmd.word.toNat = f) {e : Dev}
    (hrun : (s.dev.vopRun n i.cmd).cmdDone n i.cmd.id .ok = { s.dev.cmdDone n i.cmd.id .ok with mem := e.mem, chk := e.chk }) :
    ∃ t, s.ev (fun d => d.vop n f) = .next t ∧ t.dev = { s.dev.cmdDone n i.cmd.id .ok with mem := e.mem, chk := e.chk } := by
  obtain ⟨t, ht, hdev⟩ := State.ev_to (s := s) (f := fun d => d.vop n f) ((Dev.vop_oldest hprog hold hf).trans hrun)
  exact ⟨t, ht, hdev.trans (congrArg (fun x : Dev => { x with mem := e.mem, chk := e.chk }) (s.dev.keep_cmdDone n i.cmd.id .ok))⟩

/-- A VOP that writes one run of clean bytes to intact memory. -/
theorem State.vop_writes {f : Nat} (hf : vFn i.cmd.word.toNat = f) {off : Nat} {out : List PByte} (hrun : s.dev.vopRun n i.cmd = s.dev.lsWrite n off out)
    (hclean : anyPoison out = false) (hint : s.dev.intact (lsAddr n off) out.length) :
    ∃ t, s.ev (fun d => d.vop n f) = .next t ∧ s.dev.wrote t.dev (lsAddr n off) out ∧ (∀ cw, Tbl.get 0 t.dev.chk cw = Tbl.get 0 s.dev.chk cw) ∧
      t.dev = { s.dev.cmdDone n i.cmd.id .ok with mem := t.dev.mem, chk := t.dev.chk } := by
  rw [Dev.lsWrite_intact _ _ _ _ hint] at hrun
  obtain ⟨hbyte, hchk⟩ := s.dev.write_clean _ out hclean hint
  obtain ⟨t, ht, hdev⟩ := State.vop_finishes hprog hold hf (e := s.dev.write (lsAddr n off) out) (by rw [hrun, Dev.cmdDone_write])
  exact ⟨t, ht, fun j => by rw [hdev]; exact hbyte j, fun cw => by rw [hdev]; exact hchk cw, by rw [hdev]⟩

/-- A VOP that writes two runs of clean bytes to intact memory, apart from each other. -/
theorem State.vop_writes_two {f : Nat} (hf : vFn i.cmd.word.toNat = f) {offA offB : Nat} {a b : List PByte}
    (hrun : s.dev.vopRun n i.cmd = (s.dev.lsWrite n offA a).lsWrite n offB b) (ha : anyPoison a = false) (hb : anyPoison b = false)
    (hka : s.dev.intact (lsAddr n offA) a.length) (hkb : s.dev.intact (lsAddr n offB) b.length)
    (hapart : lsAddr n offA + a.length ≤ lsAddr n offB ∨ lsAddr n offB + b.length ≤ lsAddr n offA) :
    ∃ t, s.ev (fun d => d.vop n f) = .next t ∧ t.dev = { s.dev.cmdDone n i.cmd.id .ok with mem := t.dev.mem, chk := t.dev.chk } ∧
      ∀ j, t.dev.byte j = if lsAddr n offA ≤ j ∧ j < lsAddr n offA + a.length then (a.getD (j - lsAddr n offA) ⟨0, false⟩).v
        else if lsAddr n offB ≤ j ∧ j < lsAddr n offB + b.length then (b.getD (j - lsAddr n offB) ⟨0, false⟩).v else s.dev.byte j := by
  have hkb' : (s.dev.write (lsAddr n offA) a).intact (lsAddr n offB) b.length := fun cw hcw =>
    ((s.dev.write_clean _ a ha hka).2 cw).trans (hkb cw hcw)
  rw [Dev.lsWrite_intact _ _ _ _ hka, Dev.lsWrite_intact _ _ _ _ hkb'] at hrun
  obtain ⟨t, ht, hdev⟩ := State.vop_finishes hprog hold hf (e := (s.dev.write (lsAddr n offA) a).write (lsAddr n offB) b)
    (by rw [hrun, Dev.cmdDone_write, Dev.cmdDone_write])
  exact ⟨t, ht, by rw [hdev], fun j => by rw [hdev]; exact s.dev.write_clean_apart ha hb hka hkb' hapart j⟩

end Finish

/-! The rows. -/

/-- The row of an element-wise function carries out the oldest VOP of that function. -/
theorem exec_elementwise {n : CoreId} {c : Instr} {f : Nat}
    (h : (c, f) ∈ [(Instr.vopAdd n, 0x00), (.vopSub n, 0x01), (.vopMul n, 0x02), (.vopFma n, 0x03), (.vopMax n, 0x04), (.vopMin n, 0x05),
      (.vopExp2 n, 0x06), (.vopExp n, 0x07), (.vopRcp n, 0x08), (.vopRsqrt n, 0x09), (.vopSilu n, 0x0A)]) :
    f ≤ 0x0A ∧ ∀ s, exec c s = s.ev fun d => d.vop n f := by
  simp only [List.mem_cons, Prod.mk.injEq, List.not_mem_nil, or_false] at h
  obtain ⟨rfl, rfl⟩ | ⟨rfl, rfl⟩ | ⟨rfl, rfl⟩ | ⟨rfl, rfl⟩ | ⟨rfl, rfl⟩ | ⟨rfl, rfl⟩ | ⟨rfl, rfl⟩ | ⟨rfl, rfl⟩ | ⟨rfl, rfl⟩ | ⟨rfl, rfl⟩ | ⟨rfl, rfl⟩ := h <;>
    exact ⟨by decide, fun _ => rfl⟩

/-- The row of a horizontal function carries out the oldest VOP of that function. -/
theorem exec_horizontal {n : CoreId} {cf : Instr × Nat} (h : cf ∈ [(Instr.vopHsum n, 0x10), (.vopHmax n, 0x11), (.vopHdot n, 0x12)]) (s : State) :
    exec cf.1 s = s.ev fun d => d.vop n cf.2 := by
  simp only [List.mem_cons, List.not_mem_nil, or_false] at h
  obtain rfl | rfl | rfl := h <;> rfl

theorem vHoriz_of_row {n : CoreId} {cf : Instr × Nat} (h : cf ∈ [(Instr.vopHsum n, 0x10), (.vopHmax n, 0x11), (.vopHdot n, 0x12)]) {w : Nat}
    (hw : vFn w = cf.2) : vHoriz w = true := by
  simp only [List.mem_cons, List.not_mem_nil, or_false] at h
  obtain rfl | rfl | rfl := h <;> simp [vHoriz, hw]

theorem exec_vopCvt (n : CoreId) (s : State) : exec (.vopCvt n) s = s.ev fun d => d.vop n 0x0B := rfl
theorem exec_vopMxq (n : CoreId) (s : State) : exec (.vopMxq n) s = s.ev fun d => d.vop n 0x0C := rfl
theorem exec_vopCopy (n : CoreId) (s : State) : exec (.vopCopy n) s = s.ev fun d => d.vop n 0x18 := rfl

/-- Settles O8: sources in intact memory are read clean, so that the function writes one run of clean bytes. -/
theorem vectorElementwise : Obligations.VectorElementwise := by
  intro s n p i c f hc hprog hold hf hsrc w src a b x out k hint
  obtain ⟨hle, hexec⟩ := exec_elementwise hc
  have hclean : anyPoison out = false :=
    anyPoison_vBytes _ _ (vZip_clean _ _ _ _ _ (Dev.vFirst_clean hsrc) (Dev.vFurther_clean hsrc 1) (Dev.vFurther_clean hsrc 2))
  rw [hexec]
  refine State.vop_writes hprog hold hf ?_ hclean hint
  have hrun := Dev.vopRun_elementwise hsrc (hf.trans_le hle)
  rwa [hf] at hrun

/-- Settles O9: each function writes one run of clean bytes, MXQ two that lie apart. -/
theorem vectorWholeFunctions : Obligations.VectorWholeFunctions := by
  intro s n p i hprog hold hsrc w src a b k only one cvt q els scales kb
  have ha : ∀ e ∈ a, e.p = false := Dev.vFirst_clean hsrc
  refine ⟨fun hf hint => ?cvt, fun hf hint => ?copy, fun cf hcf hf hint => ?horizontal, fun hf hels hscales hapart => ?mxq⟩
  case cvt =>
    have hclean : anyPoison cvt = false := anyPoison_vBytes _ _ (by simpa using ha)
    obtain ⟨t, ht, hwrote, -, honly⟩ := State.vop_writes hprog hold hf (Dev.vopRun_cvt hsrc hf) hclean hint
    exact ⟨t, (exec_vopCvt n s).trans ht, hwrote, honly⟩
  case copy =>
    obtain ⟨t, ht, hwrote, -, honly⟩ := State.vop_writes hprog hold hf (Dev.vopRun_copy hsrc hf) (anyPoison_vBytes _ _ ha) hint
    exact ⟨t, (exec_vopCopy n s).trans ht, hwrote, honly⟩
  case horizontal =>
    have hclean : anyPoison one = false := anyPoison_vBytes _ _ (by simp)
    obtain ⟨t, ht, hwrote, -, honly⟩ := State.vop_writes hprog hold hf (Dev.vopRun_horizontal hsrc (vHoriz_of_row hcf hf)) hclean hint
    exact ⟨t, (exec_horizontal hcf s).trans ht, hwrote, honly⟩
  case mxq =>
    obtain ⟨hq, hx⟩ := vQuant_clean (vMx16 w) (vLen w / 32) a ha
    obtain ⟨t, ht, honly, hbyte⟩ := State.vop_writes_two hprog hold hf (Dev.vopRun_mxq hsrc hf) (anyPoison_vBytes _ _ hq) (anyPoison_vBytes _ _ hx)
      hels hscales hapart
    exact ⟨t, (exec_vopMxq n s).trans ht, honly, hbyte⟩

end Sys2Proof.Machine
end

section
/-! SUPPORT. The sequencer's events: programs stopped, dispatcher words, issue, completion and retirement (R96 to R107, R120 to R126). -/

namespace Sys2Proof.Machine

/-- A row that is one event leads to what its event makes of the machine. -/
theorem exec_ev {i : Instr} {s : State} {f : Dev → Dev} (hx : exec i s = s.ev f) {e : Dev} (he : f s.dev = e) {P : State → Prop}
    (hP : P { s with dev := s.dev.keep e }) : ∃ t, exec i s = .next t ∧ P t :=
  ⟨_, by rw [hx, State.ev_next, he], hP⟩

/-! Programs stopped (R107, R123, R126). -/

theorem exec_watchdogExpire (n : CoreId) (s : State) : exec (.watchdogExpire n) s = s.ev fun d => d.watchdogExpire n := rfl
theorem exec_seqAbort (r : Req) (n : CoreId) (s : State) : exec (.seqAbort r n) s = s.ev fun d => if r = .mgmt then d.seqAbort n else d := rfl

/-- A watchdog that is due faults the program; only the word it names depends on what waits. -/
theorem Dev.watchdogExpire_due {d : Dev} {n : Nat} {p : Prog} (hp : (d.core n).prog = some p) (hf : p.faulted = none) (hw : p.watchdog ≠ 0)
    (hh : d.held = false) (hq : p.quietAt + p.watchdog * 1024 * 2000 ≤ d.clkLive (clusterOf n)) :
    ∃ op pc, d.watchdogExpire n = d.progFault n .deadline 0x30 op pc := by
  simp only [Dev.watchdogExpire, hp, hh]
  rw [if_pos ⟨hw, hf, rfl, hq⟩]
  split
  · exact ⟨_, _, rfl⟩
  · exact ⟨_, _, rfl⟩

theorem Dev.seqAbort_runs {d : Dev} {n : Nat} {p : Prog} (hp : (d.core n).prog = some p) (hf : p.faulted = none) :
    d.seqAbort n = d.progFault n .resetAbort 0x50 0 p.pc := by
  simp only [Dev.seqAbort, hp, hf, if_true]

/-- Settles O13: both events are a program fault, which stops the program. -/
theorem programsAreStopped : Obligations.ProgramsAreStopped := by
  intro s n p hp hf
  refine ⟨fun hw hh hq => ?_, ?_⟩
  · obtain ⟨op, pc, hfault⟩ := Dev.watchdogExpire_due hp hf hw hh hq
    exact exec_ev (exec_watchdogExpire n s) hfault (Dev.progFault_stops s.dev n _ _ _ _ p hp hf)
  · exact exec_ev (exec_seqAbort .mgmt n s) (Dev.seqAbort_runs hp hf) (Dev.progFault_stops s.dev n _ _ _ _ p hp hf)

/-! Dispatcher words (R102, R103, R105). -/

theorem exec_endWord (n : CoreId) (s : State) : exec (.endWord n) s = s.ev fun d => d.dispCmd n 0x01 dispEnd := rfl
theorem exec_seta (n : CoreId) (s : State) : exec (.seta n) s = s.ev fun d => d.dispCmd n 0x08 dispSeta := rfl
theorem exec_adda (n : CoreId) (s : State) : exec (.adda n) s = s.ev fun d => d.dispCmd n 0x09 dispAdda := rfl
theorem exec_setp (n : CoreId) (s : State) : exec (.setp n) s = s.ev fun d => d.dispCmd n 0x0A dispSetp := rfl
theorem exec_loop (n : CoreId) (s : State) : exec (.loop n) s = s.ev fun d => d.dispCmd n 0x0C dispLoop := rfl

/-- The dispatcher has taken a word at core n, which made p of the program. -/
def Dev.wordTaken (d : Dev) (n : Nat) (p q : Prog) (op : Nat) : Dev :=
  ((d.bufFill n).modProg n fun _ => { q with dispAt := d.dispNext n p }).dispatched n op p.pc

section Words
variable {d : Dev} {n : Nat} {p : Prog} {w op : Nat} (h : d.atWord n p w) (ho : wOp w = op) (hd : opDisp op = true) {f : Nat → Prog → Prog ⊕ Nat}
include h ho hd

/-- A word that the dispatcher carries out, and after which it goes on. -/
theorem Dev.dispCmd_done {q : Prog} (hf : f w p = .inl q) : d.dispCmd n op f = (d.wordTaken n p q op).dispatch n := by
  rw [Dev.dispCmd_at d n p w op f h ho hd, hf]
  rfl

/-- A word whose operands it refuses. -/
theorem Dev.dispCmd_refused {detail : Nat} (hf : f w p = .inr detail) :
    d.dispCmd n op f = (d.bufFill n).progFault n .badDescriptor detail op p.pc := by
  rw [Dev.dispCmd_at d n p w op f h ho hd, hf]

omit ho hd in
/-- The program that a word has made is the core's program. -/
theorem Dev.wordTaken_prog (q : Prog) : ((d.wordTaken n p q op).core n).prog = some { q with dispAt := d.dispNext n p } := by
  obtain ⟨-, hp, -⟩ := h
  exact (Dev.dispatched_prog _ n op p.pc n).trans (Dev.modProg_prog _ n p _ hp)

end Words

/-- SETP writes the parameter that its operand names. -/
theorem dispSetp_known {w : Nat} {p : Prog} (h : bitsOf w 18 8 ≤ 2) :
    dispSetp w p = .inl (if bitsOf w 18 8 = 0 then { p with scaleGran := bitsOf w 26 32 }
      else if bitsOf w 18 8 = 1 then { p with watchdog := bitsOf w 26 32 } else { p with bvalue := bitsOf w 26 32 }).advance := by
  obtain hk | hk | hk : bitsOf w 18 8 = 0 ∨ bitsOf w 18 8 = 1 ∨ bitsOf w 18 8 = 2 := by omega
  all_goals simp [dispSetp, hk]

theorem dispSetp_unknown {w : Nat} {p : Prog} (h : 2 < bitsOf w 18 8) : dispSetp w p = .inr 0x06 := by
  unfold dispSetp
  split
  · omega
  · omega
  · omega
  · rfl

/-- LOOP opens a body that lies within the bodies open already. -/
theorem dispLoop_opens {w : Nat} {p : Prog} (hb : 1 ≤ bitsOf w 34 12) (hl : p.loops.length < 4)
    (hin : (p.loops.all fun f => decide (p.pc + 8 + 8 * bitsOf w 34 12 ≤ f.last)) = true) :
    dispLoop w p = .inl { p with pc := p.pc + 8, loops := ⟨p.pc + 8, p.pc + 8 + 8 * bitsOf w 34 12, bitsOf w 18 16⟩ :: p.loops } := by
  refine if_neg ?_
  rintro (h | h | h)
  · omega
  · omega
  · obtain ⟨f, hf, hlast⟩ := List.any_eq_true.1 h
    have := List.all_eq_true.1 hin f hf
    simp only [decide_eq_true_eq] at this hlast
    omega

/-- Settles O7: each word is the dispatcher's next, so that it makes of the program what the word says; after END nothing is dispatched. -/
theorem dispatcherWords : Obligations.DispatcherWords := by
  intro s n p w h
  refine ⟨fun ho => ?_, fun ho => ?_, fun ho => ?_, fun ho hk => ?_, fun ho hk => ?_, fun ho hb hl hin => ?_⟩
  · have hprog := Dev.wordTaken_prog h (op := 0x01) { p with ended := true }
    have hend : s.dev.dispCmd n 0x01 dispEnd = s.dev.wordTaken n p { p with ended := true } 0x01 :=
      (Dev.dispCmd_done h ho rfl rfl).trans (Dev.dispatch_over _ n _ hprog rfl)
    exact exec_ev (exec_endWord n s) hend ⟨hprog, rfl⟩
  · exact exec_ev (exec_seta n s) (Dev.dispCmd_done h ho rfl rfl) rfl
  · exact exec_ev (exec_adda n s) (Dev.dispCmd_done h ho rfl rfl) rfl
  · exact exec_ev (exec_setp n s) (Dev.dispCmd_done h ho rfl (dispSetp_known hk)) rfl
  · exact exec_ev (exec_setp n s) (Dev.dispCmd_refused h ho rfl (dispSetp_unknown hk)) rfl
  · exact exec_ev (exec_loop n s) (Dev.dispCmd_done h ho rfl (dispLoop_opens hb hl hin)) rfl

/-! Issue (R103, R104, R130, R304). -/

theorem exec_commandIssue (n : CoreId) (s : State) : exec (.commandIssue n) s = s.ev fun d => d.issue n fun _ _ => true := rfl
theorem exec_nop (n : CoreId) (s : State) : exec (.nop n) s = s.ev fun d => d.issue n fun _ w => wOp w == 0x02 := rfl
theorem exec_post (n : CoreId) (s : State) : exec (.post n) s = s.ev fun d => d.issue n fun _ w => wOp w == 0x0E := rfl
theorem exec_run (n : CoreId) (s : State) : exec (.run n) s = s.ev fun d => d.issue n fun q w => q == .arr && wOp w == 0x11 := rfl
theorem exec_dma (n : CoreId) (s : State) : exec (.dma n) s = s.ev fun d => d.issue n fun q _ => q == .dma := rfl

/-- The four BATON rows issue the words with their BOP, each with its operation. -/
theorem exec_batonWord {n : CoreId} {bk : Instr × Nat × BtnKind}
    (h : bk ∈ [(Instr.batonWordSignal n, 0, BtnKind.add), (.batonWordWait n, 1, .wait), (.batonWordSwap n, 2, .set), (.batonWordHandoff n, 3, .handoff)]) (s : State) :
    exec bk.1 s = (s.ev fun d => d.issue n fun _ w => wOp w == 0x38 && bitsOf w 32 3 == bk.2.1) ∧ bopKind bk.2.1 = bk.2.2 := by
  simp only [List.mem_cons, List.not_mem_nil, or_false] at h
  obtain rfl | rfl | rfl | rfl := h <;> exact ⟨rfl, rfl⟩

/-- The machine as issue at core n begins: dispatched as far as it goes, a sleeping array woken. -/
def Dev.issueReady (d : Dev) (n : CoreId) : Dev := (d.dispatch n).wakeHeads n

section Issue
variable {d : Dev} {n : CoreId} {p : Prog} (hp : ((d.issueReady n).core n).prog = some p) {only : TQueue → Nat → Bool}
include hp

/-- The granted heads of a kind issue in queue order, and dispatch goes on. -/
theorem Dev.issue_granted {l : List (TQueue × TileCmd)} (hl : (((d.issueReady n).issueGrants n p).1.filter fun h => only h.1 h.2.word.toNat) = l) (hne : l ≠ []) :
    d.issue n only = (l.foldl (fun e h => e.issueOne n h.1 h.2) ((d.issueReady n).issueGrants n p).2).dispatch n := by
  have hprog : (((d.dispatch n).wakeHeads n).core n).prog = some p := hp
  simp only [Dev.issue, hprog]
  subst hl
  exact if_neg hne

/-- The one granted head of a kind issues to its unit, which takes it so. -/
theorem Dev.issue_one {q : TQueue} {c : TileCmd} (hl : (((d.issueReady n).issueGrants n p).1.filter fun h => only h.1 h.2.word.toNat) = [(q, c)]) {e : Dev}
    (he : ((d.issueReady n).issueGrants n p).2.issueOne n q c = e) : d.issue n only = e.dispatch n := by
  rw [Dev.issue_granted hp hl (by simp), ← he]
  rfl

end Issue

section Units
variable {d : Dev} {n : CoreId} {c : TileCmd}

theorem Dev.issueOne_nop (hw : wOp c.word.toNat = 0x02) :
    d.issueOne n .sync c = (((d.issueTake n .sync c).issuePut n c).cmdDone n c.id .ok).cmdComplete n c.id := by
  simp only [Dev.issueOne, hw]

theorem Dev.issueOne_post (hw : wOp c.word.toNat = 0x0E) {e : Dev}
    (he : ((d.issueTake n .sync c).issuePut n c).postPut n (BitVec.ofNat 32 (bitsOf c.word.toNat 18 32)) = some e) :
    d.issueOne n .sync c = (e.cmdDone n c.id .ok).cmdComplete n c.id := by
  simp only [Dev.issueOne, hw, he, Option.getD_some]

theorem Dev.issueOne_run (hw : wOp c.word.toNat = 0x11) {e : Dev} (he : (d.issueTake n .arr c).arrAccept n c = (.taken, e)) :
    d.issueOne n .arr c = e.issuePut n c := by
  simp [Dev.issueOne, hw, he]

theorem Dev.issueOne_dma (hfit : 64 * (bitsOf c.word.toNat 18 16 + bitsOf c.word.toNat 34 8 + 1) ≤ lsSize) {e : Dev}
    (he : ((d.issueTake n .dma c).issuePut n c).dmaAccept n c (((d.core n).prog.map fun p => p.launch.user).getD false) = some e) :
    d.issueOne n .dma c = e := by
  simp only [Dev.issueOne, if_neg (not_lt.2 hfit), he, Option.getD_some]

theorem Dev.issueOne_baton (hw : wOp c.word.toNat = 0x38) : d.issueOne n .sync c = ((d.issueTake n .sync c).issuePut n c).batonIssue n c := by
  simp only [Dev.issueOne, hw]

end Units

theorem Dev.postPut_room {d : Dev} {n : Nat} (v : BitVec 32) (h : (d.core n).postQ.length < 8) :
    d.postPut n v = some (d.setCore n { d.core n with postQ := (d.core n).postQ ++ [v] }) := if_pos h

/-- Settles O10: of the granted heads those of the row's kind issue, each to its unit. -/
theorem issueWords : Obligations.IssueWords := by
  intro s n p hp
  refine ⟨fun hne => ?_, fun c => ⟨fun hw hl => ?_, fun hw hl hroom => ?_, fun x hw hl hx => ?_, fun x hl hfit hx => ?_, fun bk hbk hw hb hl hreach => ?_⟩⟩
  · exact exec_ev (exec_commandIssue n s) (Dev.issue_granted hp (List.filter_eq_self.2 fun _ _ => rfl) hne) rfl
  · exact exec_ev (exec_nop n s) (Dev.issue_one hp hl (Dev.issueOne_nop hw)) rfl
  · exact exec_ev (exec_post n s) (Dev.issue_one hp hl (Dev.issueOne_post hw (Dev.postPut_room _ hroom))) rfl
  · exact exec_ev (exec_run n s) (Dev.issue_one hp hl (Dev.issueOne_run hw hx)) rfl
  · exact exec_ev (exec_dma n s) (Dev.issue_one hp hl (Dev.issueOne_dma hfit hx)) rfl
  · obtain ⟨hexec, hkind⟩ := exec_batonWord hbk s
    refine exec_ev hexec (Dev.issue_one hp hl ((Dev.issueOne_baton hw).trans (if_pos hreach))) ?_
    rw [hb, hkind]
    rfl

/-! Completion and retirement (R104, R105, R120 to R124). -/

theorem exec_commandComplete (n : CoreId) (id : Nat) (s : State) : exec (.commandComplete n id) s = s.ev fun d => d.cmdComplete n id := rfl
theorem exec_programRetire (n : CoreId) (s : State) : exec (.programRetire n) s = s.ev fun d => d.progRetire n := rfl

/-- A command that its unit has finished leaves the outstanding ones, and then signals its gate, faults its program or does neither. -/
theorem Dev.cmdComplete_finished {d : Dev} {n id : Nat} {p : Prog} {i : Issued} {st : Status} (hp : (d.core n).prog = some p)
    (hi : (p.issued.find? fun i => i.cmd.id == id) = some i) (hst : i.done = some st) :
    d.cmdComplete n id =
      (let e := (d.modProg n fun p => { p with issued := p.issued.filter fun j => j.cmd.id != id }).seqActive n
       (if st ≠ .ok then e.progFault n st (doneDetail (wOp i.cmd.word.toNat)) (wOp i.cmd.word.toNat) i.cmd.pc
        else if wSen i.cmd.word.toNat && p.faulted.isNone then e.gateSignal n (wSGate i.cmd.word.toNat) (wOp i.cmd.word.toNat) i.cmd.pc else e).dispatch n) := by
  simp only [Dev.cmdComplete, hp, hi, hst]

/-- Settles O11: what a finished command does next hangs on its status and its signal gate alone. -/
theorem commandsComplete : Obligations.CommandsComplete := by
  intro s n p id i st hp hi hst
  refine ⟨fun hok hs => ?_, fun hok hs hf => ?_, fun hbad => ?_⟩
  all_goals
    refine exec_ev (exec_commandComplete n id s) (Dev.cmdComplete_finished hp hi hst) ?_
    dsimp only
  · simp only [hok, hs, ne_eq, not_true_eq_false, if_false, Bool.false_and, Bool.false_eq_true]
  · simp only [hok, hs, hf, ne_eq, not_true_eq_false, if_false, Option.isNone_none, Bool.and_self, if_true]
  · rw [if_pos hbad]
    rfl

@[simp] theorem Dev.coreReport_core (d : Dev) (tag n m : Nat) (st : Status) : (d.coreReport tag n st).core m = d.core m := rfl

/-- With an empty launch queue no program starts. -/
theorem Dev.progNext_empty {d : Dev} {n : Nat} (h : (d.core n).lq = []) : d.progNext n = d := by
  have hnone : d.progReady n = none := by
    simp only [Dev.progReady, h, ite_self]
    split
    · contradiction
    · rfl
  rw [Dev.progNext, hnone]

/-- While a program runs no other starts. -/
theorem Dev.progNext_runs {d : Dev} {n : Nat} (h : (d.core n).prog.isSome = true) : d.progNext n = d := by
  obtain ⟨p, hp⟩ := Option.isSome_iff_exists.1 h
  rw [Dev.progNext, Dev.progReady, hp]

section Retire
variable {d : Dev} {n : Nat} {p : Prog} (hp : (d.core n).prog = some p) (hover : (p.ended || p.faulted.isSome) = true) (harr : p.arrQ = [])
  (hvec : p.vecQ = []) (hdma : p.dmaQ = []) (hsync : p.syncQ = []) (hissued : p.issued = [])
include hp hover harr hvec hdma hsync hissued

/-- A program that is over and has emptied retires, by what started and what stopped it. -/
theorem Dev.progRetire_emptied : d.progRetire n =
    if p.fenced then ((d.setCore n { d.core n with prog := none, gates := List.replicate 16 0 }).retireFenced n p.launch).lqFenced n
    else if p.launch.direct then ((d.setCore n { d.core n with prog := none, gates := List.replicate 16 0 }).coreReport p.launch.tag n (p.faulted.getD (.ok, 0)).1).progNext n
    else if (d.core n).retQ.length < 4 then
      (d.setCore n { d.core n with
        prog := none, gates := List.replicate 16 0
        retQ := (d.core n).retQ ++ [⟨p.launch.tag, (p.faulted.getD (.ok, 0)).1, (p.faulted.getD (.ok, 0)).2⟩] }).progNext n
    else d := by
  simp only [Dev.progRetire, hp]
  exact if_pos (by simp [hover, harr, hvec, hdma, hsync, hissued])

end Retire

/-- Settles O12: with the launch queue empty no program follows the one that retires. -/
theorem programsRetire : Obligations.ProgramsRetire := by
  intro s n p hp hover harr hvec hdma hsync hissued
  have hretire := Dev.progRetire_emptied hp hover harr hvec hdma hsync hissued
  refine ⟨fun hf => ?fenced, fun hf hlq hd hroom => ?csr, fun hf hlq hd => ?direct⟩
  case fenced =>
    rw [if_pos hf] at hretire
    exact exec_ev (exec_programRetire n s) hretire rfl
  case csr =>
    rw [if_neg (by simp [hf]), if_neg (by simp [hd]), if_pos hroom] at hretire
    refine exec_ev (exec_programRetire n s) (hretire.trans (Dev.progNext_empty ?_)) rfl
    rw [Dev.core_setCore]
    exact hlq
  case direct =>
    rw [if_neg (by simp [hf]), if_pos hd] at hretire
    refine exec_ev (exec_programRetire n s) (hretire.trans (Dev.progNext_empty ?_)) rfl
    rw [Dev.coreReport_core, Dev.core_setCore]
    exact hlq

end Sys2Proof.Machine
end

section
/-! SUPPORT. The control processor: a CSR access that traps, an instruction that waits for the region it stores to (R111 to R113, R226; log 136). -/

namespace Sys2Proof.Machine

/-! A step of the processor. -/

theorem exec_cpInstruction (n : CoreId) (ext : List PByte) (s : State) : exec (.cpInstruction n ext) s = s.ev fun d => d.cpStep n ext := rfl

/-- Core 0's processor runs in machine mode, with `sb x0, 0(x1)` at its pc and the first byte of base scratch in x1. Region 0, ON, still has an access to the line of that byte queued, so that the store has to wait for its turn. -/
def storeBehindQueue : Dev :=
  let p : Cp := { Cp.init with st := .running, pc := 0x8000, x := [(1, BitVec.ofNat 64 (2 ^ 52 + scratchBase))] }
  let d : Dev := { Dev.reset with mem := storeBytes [] (storeKey 0 0 0x8000) (toBytes 4 0x00008023), clks := [(0, ⟨1000, 0, 0, 0⟩)] }
  let d := (d.setCore 0 { Core.init with cp := p }).setRegion 0 { Region.init with queue := [⟨0, 0, scratchBase / 4096, [], .fill⟩] }
  (d.setFld BCR_PART.SCRATCH_MASK 0 0 1).setFld PWR_DOM.STATE 290 0 2

theorem storeBehindQueue_ready : storeBehindQueue.cpRuns 0 = true ∧ storeBehindQueue.cpIrqs 0 = [] ∧ (storeBehindQueue.core 0).cp.wfi = false := by
  decide +kernel

theorem storeBehindQueue_fetch : (storeBehindQueue.cpFetch 0).1 = .ok (0x00008023, 4) := by rfl

/-- The machine as the store's execution finds it. -/
def storeFetched : Dev := (storeBehindQueue.cpFetch 0).2.modCp 0 fun p => { p with trapFault := false, wfi := false }

/-- Carried out alone the store would retire, … -/
theorem storeFetched_retires : (storeFetched.cpExec 0 0x00008023 4 []).1 = some 0x8004 ∧
    (((storeFetched.cpExec 0 0x00008023 4 []).2.cpRetire 0 0x00008023 0x8004).core 0).cp.pc = 0x8004 := by decide +kernel

/-- … but the step leaves it for later (log 136). -/
theorem storeBehindQueue_waits : ((storeBehindQueue.cpStep 0 []).core 0).cp.pc = 0x8000 := by decide +kernel

/-- Refutes O60: an instruction whose access has to wait is not carried out yet, and the statement has no clause for it. -/
theorem not_processorInstructions : ¬ Obligations.ProcessorInstructions := by
  intro h
  obtain ⟨hruns, hirqs, hwfi⟩ := storeBehindQueue_ready
  obtain ⟨hexec, hretired⟩ := storeFetched_retires
  have hfetch : storeBehindQueue.cpFetch 0 = (.ok (0x00008023, 4), (storeBehindQueue.cpFetch 0).2) := Prod.ext storeBehindQueue_fetch rfl
  have hstore : storeFetched.cpExec 0 0x00008023 4 [] = (some 0x8004, (storeFetched.cpExec 0 0x00008023 4 []).2) := Prod.ext hexec rfl
  obtain ⟨-, hinstr⟩ := (h ⟨[], storeBehindQueue⟩ 0 [] hruns).2 hirqs
  obtain ⟨hretires, -⟩ := (hinstr hwfi).2 0x00008023 4 _ hfetch
  obtain ⟨t, ht, hdev⟩ := hretires 0x00008023 0x8004 _ rfl hstore
  have hpc : (t.dev.core 0).cp.pc = 0x8004 := by rw [hdev]; exact hretired
  rw [exec_cpInstruction] at ht
  cases ht
  exact absurd (storeBehindQueue_waits.symm.trans hpc) (by decide)

end Sys2Proof.Machine
end

section
/-! SUPPORT. Launches: the launch queue, the launch CSRs and the mailbox (R29, R106, R113 to R122). -/

namespace Sys2Proof.Machine

/-! CSR permissions (R113). -/

section Permission
variable {d : Dev} {n : Nat} {user : Bool} {perm : Fld} {f : Dev → Dev}

theorem Dev.csrUser_may (h : user = false ∨ d.bit perm n 0 = true) : d.csrUser n user perm f = f d := by
  refine if_neg ?_
  obtain h | h := h <;> simp [h]

theorem Dev.csrUser_may_not (h : d.bit perm n 0 = false) : d.csrUser n true perm f = d.cpTrap n 2 0 := if_pos (by simp [h])

end Permission

/-- An illegal instruction traps with the pc saved; only what mtval holds is open (log 30). -/
theorem Dev.cpTrap_illegal (d : Dev) (n : Nat) : ∃ v, d.cpTrap n 2 0 = d.free.2.setCore n { d.core n with cp := (d.core n).cp.trap false 2 v } := ⟨_, rfl⟩

/-! The rows of the launch CSRs. -/

section Rows
variable (n : CoreId) (user : Bool) (v : Word) (s : State)

theorem exec_dxlaunchWrite : exec (.dxlaunchWrite n user v) s = s.ev fun d => d.csrUser n user DXMCTL.USER_SEQ fun d => d.dxLaunch n user v := rfl
theorem exec_dxgateWrite (g : Fin 16) : exec (.dxgateWrite n user g v) s = s.ev fun d => d.csrUser n user DXMCTL.USER_GATES fun d => d.dxGate n g v := rfl
theorem exec_dxretireRead :
    exec (.dxretireRead n) s = s.ev fun d => (d.dxRetire n).2.emit (.regRead (.cp n) (BitVec.ofNat 64 (d.dxRetire n).1)) := rfl
theorem exec_dxpostRead : exec (.dxpostRead n user) s =
    s.ev fun d => d.csrUser n user DXMCTL.USER_POST fun d => (d.dxPost n).2.emit (.regRead (.cp n) (BitVec.ofNat 64 (d.dxPost n).1)) := rfl
theorem exec_dxlheadWrite : exec (.dxlheadWrite n user v) s = s.ev fun d => if user then d.cpTrap n 2 0 else d.dxLhead n v := rfl
theorem exec_dxdoneWrite : exec (.dxdoneWrite n user v) s = s.ev fun d => if user then d.cpTrap n 2 0 else d.dxDone n v := rfl

end Rows

/-- An access that R113 does not permit user mode raises an illegal instruction. -/
theorem exec_unpermitted {s : State} {n : CoreId} {v : Word} {i : Instr}
    (h : i ∈ [Instr.dxdoneWrite n true v, .dxlheadWrite n true v] ∨ (s.dev.bit DXMCTL.USER_SEQ n 0 = false ∧ i = .dxlaunchWrite n true v) ∨
      (s.dev.bit DXMCTL.USER_GATES n 0 = false ∧ ∃ g, i = .dxgateWrite n true g v) ∨ (s.dev.bit DXMCTL.USER_POST n 0 = false ∧ i = .dxpostRead n true)) :
    exec i s = s.ev fun d => d.cpTrap n 2 0 := by
  obtain h | ⟨hperm, rfl⟩ | ⟨hperm, g, rfl⟩ | ⟨hperm, rfl⟩ := h
  · simp only [List.mem_cons, List.not_mem_nil, or_false] at h
    obtain rfl | rfl := h
    · exact exec_dxdoneWrite n true v s
    · exact exec_dxlheadWrite n true v s
  · rw [exec_dxlaunchWrite, State.ev_next, State.ev_next, Dev.csrUser_may_not hperm]
  · rw [exec_dxgateWrite, State.ev_next, State.ev_next, Dev.csrUser_may_not hperm]
  · rw [exec_dxpostRead, State.ev_next, State.ev_next, Dev.csrUser_may_not hperm]

/-- Settles O15: each of these accesses is nothing but the trap. -/
theorem userAccessTraps : Obligations.UserAccessTraps := by
  intro s n v i h
  obtain ⟨x, htrap⟩ := s.dev.cpTrap_illegal n
  refine exec_ev (exec_unpermitted h) htrap ?_
  have hn : (s.dev.keep (s.dev.free.2.setCore n { s.dev.core n with cp := (s.dev.core n).cp.trap false 2 x })).core n =
      { s.dev.core n with cp := (s.dev.core n).cp.trap false 2 x } := Dev.core_setCore _ _ _
  rw [hn]
  exact ⟨rfl, rfl, rfl, rfl, rfl, rfl, rfl, rfl, rfl, fun m hm => Dev.core_setCore_ne _ _ hm, rfl, rfl⟩

/-! The launch queue (R29, R106). -/

section LaunchQueue
variable {d : Dev} {n : Nat} {l : Launch}

/-- A launch that ties with none comes last, where there is room. -/
theorem Dev.lqPut_untied (h : ∀ m, (d.core n).lq.getLast? = some m → l.ties m = false) :
    d.lqPut n l = if 4 ≤ (d.core n).lq.length then (some l, d)
      else (none, (d.setCore n { d.core n with lq := (d.core n).lq ++ [l] }).progNext n) := by
  have hnone : (d.core n).lq.getLast?.filter l.ties = none := by
    rw [Option.filter_eq_none_iff]
    exact fun m hm => by simp [h m hm]
  simp only [Dev.lqPut, hnone, decide_eq_true_eq]

/-- The photo-finish rule moves only the arbiter. -/
theorem Dev.lqTie_core (d : Dev) (n : Nat) (l : Launch) (m : Nat) : (d.lqTie n l).2.core m = d.core m := by
  unfold Dev.lqTie
  split
  · rfl
  · rename_i h
    rw [Dev.tie_only _ _ _ _ _ h]
    rfl

/-- With room, a launch enters the queue, last or, where it ties with the last, before that. -/
theorem Dev.lqPut_room (h : (d.core n).lq.length < 4) : ∃ (e : Dev) (q : List Launch), d.lqPut n l = (none, (e.setCore n { e.core n with lq := q }).progNext n) ∧
    e.core n = d.core n ∧ q.Perm ((d.core n).lq ++ [l]) := by
  have hroom : ¬ 4 ≤ (d.core n).lq.length := by omega
  unfold Dev.lqPut
  simp only [hroom, decide_false, Bool.false_eq_true, if_false]
  split
  · exact ⟨d, _, rfl, rfl, List.Perm.refl _⟩
  · rename_i m hm
    have hlast : (d.core n).lq.dropLast ++ [m] = (d.core n).lq := List.dropLast_append_getLast? m (Option.filter_eq_some_iff.1 hm).1
    split
    · refine ⟨_, _, rfl, d.lqTie_core n l n, ?_⟩
      have hswap : ((d.core n).lq.dropLast ++ [m] ++ [l]).Perm ((d.core n).lq ++ [l]) := by rw [hlast]
      refine List.Perm.trans ?_ hswap
      rw [List.append_assoc]
      exact (List.Perm.swap m l []).append_left _
    · exact ⟨_, _, rfl, d.lqTie_core n l n, List.Perm.refl _⟩

end LaunchQueue

/-- A launch ties only with one of another source from the same CCLK. -/
theorem Launch.ties_eq_false {l m : Launch} (h : (m.direct || m.attn) = (l.direct || l.attn) ∨ m.at' ≠ l.at') : l.ties m = false := by
  obtain h | h := h
  · simp [Launch.ties, h]
  · simp [Launch.ties, h]

/-! The launch CSRs (R113, R114, R119 to R121). -/

/-- The program that a dxlaunch write launches. -/
def Dev.csrLaunch (d : Dev) (n : Nat) (user : Bool) (v : Word) : Launch := ⟨bitsOf v.toNat 3 19 * 8, bitsOf v.toNat 32 16, user, false, d.cclk n, false⟩

section Csrs
variable {d : Dev} {n : Nat} (user : Bool) (v : Word)

/-- A dxlaunch write with room in the launch queue, while a program runs. -/
theorem Dev.dxLaunch_room (h : (d.core n).lq.length < 4) (hp : (d.core n).prog.isSome = true) :
    ((d.dxLaunch n user v).core n).lq.Perm ((d.core n).lq ++ [d.csrLaunch n user v]) := by
  obtain ⟨e, q, hput, hcore, hperm⟩ := Dev.lqPut_room (l := d.csrLaunch n user v) h
  have hnext : d.dxLaunch n user v = (e.setCore n { e.core n with lq := q }).progNext n := by
    unfold Dev.csrLaunch at hput
    simp only [Dev.dxLaunch, hput]
  rw [hnext, Dev.progNext_runs (by rw [Dev.core_setCore, hcore]; exact hp), Dev.core_setCore]
  exact hperm

variable (hno : ∀ m, (d.core n).lq.getLast? = some m → (m.direct || m.attn) = false ∨ m.at' ≠ d.cclk n)
include hno

/-- A dxlaunch write that ties with none comes last, or is lost. -/
theorem Dev.dxLaunch_untied : d.dxLaunch n user v =
    if 4 ≤ (d.core n).lq.length then d.setBit DXMCTL.LAUNCH_LOST n 0 true
    else (d.setCore n { d.core n with lq := (d.core n).lq ++ [d.csrLaunch n user v] }).progNext n := by
  have hput := Dev.lqPut_untied (d := d) (n := n) (l := d.csrLaunch n user v) fun m hm => Launch.ties_eq_false (hno m hm)
  unfold Dev.csrLaunch at hput ⊢
  by_cases hfull : 4 ≤ (d.core n).lq.length
  · simp only [Dev.dxLaunch, hput, if_pos hfull]
    rfl
  · simp only [Dev.dxLaunch, hput, if_neg hfull]

end Csrs

/-- Settles O14: what each CSR does, once its permission stands; the launch queue's order is the photo-finish rule's. -/
theorem launchCsrs : Obligations.LaunchCsrs := by
  intro s n user v
  refine ⟨fun hmay hroom hp => ?launch, fun hmay hfull hno => ?lost, fun g hmay => ?gate, fun r rest hr => ?retire, fun x rest hmay hx hack => ?post,
    fun hm => ?head, fun hm => ?done⟩
  case launch =>
    refine exec_ev (exec_dxlaunchWrite n user v s) (Dev.csrUser_may hmay) ⟨Dev.dxLaunch_room user v hroom hp, fun hno => ?_⟩
    have hput := Dev.dxLaunch_untied user v hno
    rw [if_neg (by omega), Dev.progNext_runs (by rw [Dev.core_setCore]; exact hp)] at hput
    exact congrArg s.dev.keep hput
  case lost =>
    have hput := Dev.dxLaunch_untied user v hno
    rw [if_pos hfull] at hput
    exact exec_ev (exec_dxlaunchWrite n user v s) ((Dev.csrUser_may hmay).trans hput) rfl
  case gate => exact exec_ev (exec_dxgateWrite n user v s g) (Dev.csrUser_may hmay) rfl
  case retire =>
    have hpop : s.dev.dxRetire n = (r.tag + r.status.code * 2 ^ 16 + r.detail * 2 ^ 24 + 2 ^ 63, s.dev.setCore n { s.dev.core n with retQ := rest }) := by
      simp only [Dev.dxRetire, hr]
    refine exec_ev (exec_dxretireRead n s) rfl ?_
    rw [hpop]
    rfl
  case post =>
    have hpop : s.dev.dxPost n = (x.toNat + 2 ^ 63, s.dev.setCore n { s.dev.core n with postQ := rest }) := by
      simp only [Dev.dxPost, hx, hack]
    refine exec_ev (exec_dxpostRead n user s) (Dev.csrUser_may hmay) ?_
    rw [hpop]
    rfl
  case head =>
    subst hm
    refine exec_ev (exec_dxlheadWrite n false v s) rfl ?_
    simp [Dev.dxLhead, bitsOf, Dev.keep, Dev.setCore]
  case done =>
    subst hm
    refine exec_ev (exec_dxdoneWrite n false v s) rfl ?_
    simp [Dev.dxDone, bitsOf, Dev.keep, Dev.coreReport]

/-! The mailbox and the machine timer (R116, R117, R119, R122). -/

theorem exec_mailboxDeliver (n : CoreId) (s : State) : exec (.mailboxDeliver n) s = s.ev fun d => d.mboxDeliver n := rfl
theorem exec_directLaunch (n : CoreId) (s : State) : exec (.directLaunch n) s = s.ev fun d => d.directTake n := rfl
theorem exec_machineTimer (n : CoreId) (s : State) :
    exec (.machineTimer n) s = s.ev fun d => if bitOf (d.mip n) 7 && (d.core n).cp.mie.getLsbD 7 then d.modCp n fun p => { p with wfi := false } else d := rfl

/-- While a core rejoins, its held entries wait. -/
theorem Dev.mboxDeliver_rejoining {d : Dev} {n : Nat} (h : d.fenceState n = 3) : d.mboxDeliver n = d := by
  unfold Dev.mboxDeliver
  dsimp only
  split
  · rfl
  · exact if_pos h

/-- The core with the entry at its mailbox's head passed. -/
def Core.headPassed (c : Core) : Core := { c with mboxHead := (c.mboxHead + 1) % 16 }

@[simp] theorem Core.headPassed_lq (c : Core) : c.headPassed.lq = c.lq := rfl
@[simp] theorem Core.headPassed_prog (c : Core) : c.headPassed.prog = c.prog := rfl

/-- The program that a DIRECT entry launches, taken in a CCLK. -/
def directLaunchOf (e : BitVec 256) (now : Nat) : Launch := ⟨bitsOf (mbEntry e) 3 19 * 8, mbTag e, mbUser e, true, now, false⟩

/-- An entry at the mailbox head that hardware takes enters the launch queue last, where it ties with none and a program runs. -/
theorem Dev.directTake_untied {d : Dev} {n : Nat} {e : BitVec 256} (htop : (d.core n).mboxTop = some e) (hhw : d.mboxHw n = true)
    (hroom : (d.core n).lq.length < 4) (hp : (d.core n).prog.isSome = true)
    (hno : ∀ m, (d.core n).lq.getLast? = some m → (m.direct || m.attn) = true ∨ m.at' ≠ d.cclk n) :
    d.directTake n = (d.setCore n (d.core n).headPassed).setCore n
      { (d.core n).headPassed with lq := (d.core n).lq ++ [directLaunchOf e (d.cclk n)] } := by
  have hput := Dev.lqPut_untied (d := d.setCore n (d.core n).headPassed) (n := n) (l := directLaunchOf e (d.cclk n))
    fun m hm => Launch.ties_eq_false (hno m (by rwa [Dev.core_setCore] at hm))
  rw [Dev.core_setCore, Core.headPassed_lq, if_neg (not_le.2 hroom), Dev.progNext_runs (by rw [Dev.core_setCore]; exact hp)] at hput
  unfold directLaunchOf Core.headPassed at hput ⊢
  simp only [Dev.directTake, htop, hhw, if_true, hput]

/-- A higher interrupt's bit leaves bits 0 to 15. -/
theorem mod_add_high {a x : Nat} (c : Bool) {i : Nat} (hi : 16 ≤ i) (h : a % 2 ^ 16 = x) : (a + if c then 2 ^ i else 0) % 2 ^ 16 = x := by
  cases c
  · exact h
  · rw [if_pos rfl, Nat.add_mod, Nat.mod_eq_zero_of_dvd (Nat.pow_dvd_pow 2 hi), Nat.add_zero, Nat.mod_mod]
    exact h

/-- A machine timer interrupt that is due is pending, in bit 7. -/
theorem Dev.mip_timer {d : Dev} {n : Nat} (h : (d.core n).timecmp.toNat ≤ d.time) : bitOf (d.mip n) 7 = true := by
  have hlow : d.mip n % 2 ^ 16 = 2 ^ 7 := by
    unfold Dev.mip
    iterate 7 refine mod_add_high _ (by decide) ?_
    simp [h]
  simp only [bitOf, beq_iff_eq]
  omega

/-- Settles O16: by the core's fence state, and by what waits at its launch queue. -/
theorem mailboxAndTimer : Obligations.MailboxAndTimer := by
  intro s n
  refine ⟨fun e rest he hs hroom => ?delivered, fun e rest he h0 h3 => ?reported, fun h3 => ?waits, fun e htop hhw hroom hp hno => ?taken, fun ht hm => ?timer⟩
  case delivered =>
    have h0 : s.dev.fenceState n = 0 := by simpa [Dev.inService] using hs
    have hin : s.dev.mboxDeliver n = s.dev.setCore n { s.dev.core n with
        mboxHeld := rest, mbox := Tbl.set 0 (s.dev.core n).mbox ((s.dev.core n).mboxTail % 8) e, mboxTail := ((s.dev.core n).mboxTail + 1) % 16 } := by
      simp [Dev.mboxDeliver, he, h0, hroom]
    exact exec_ev (exec_mailboxDeliver n s) hin rfl
  case reported =>
    have hout : s.dev.mboxDeliver n = (s.dev.setCore n { s.dev.core n with
        mboxHeld := rest, mboxHead := ((s.dev.core n).mboxHead + 1) % 16, mboxTail := ((s.dev.core n).mboxTail + 1) % 16 }).coreReport (mbTag e) n (s.dev.fenceStatus n) := by
      simp only [Dev.mboxDeliver, he, if_neg h3, if_pos h0]
    exact exec_ev (exec_mailboxDeliver n s) hout rfl
  case waits =>
    rw [exec_mailboxDeliver]
    exact ⟨s, State.ev_self (Dev.mboxDeliver_rejoining h3), rfl⟩
  case taken =>
    refine exec_ev (exec_directLaunch n s) (Dev.directTake_untied htop hhw hroom hp hno) ⟨Dev.core_setCore _ _ _, fun m hm => ?_, rfl, rfl, rfl⟩
    exact (Dev.core_setCore_ne _ _ hm).trans (Dev.core_setCore_ne _ _ hm)
  case timer =>
    refine exec_ev (exec_machineTimer n s) (if_pos ?_) rfl
    rw [Dev.mip_timer ht, hm]
    rfl

end Sys2Proof.Machine
end

section
/-! SUPPORT. Starting the control processor (R126, R127). -/

namespace Sys2Proof.Machine

/-! CORE_CTL (R126). -/

theorem exec_cpStart (r : Req) (n : CoreId) (v : Word) (s : State) : exec (.cpStart r n v) s = s.ev fun d => d.coreCtlWrite r n v := rfl
theorem exec_imageCopyDone (n : CoreId) (s : State) : exec (.imageCopyDone n) s = s.ev fun d => d.imageDone n := rfl

theorem bitOf_toNat (v : Word) (i : Nat) : bitOf v.toNat i = v.getLsbD i := by
  rw [BitVec.getLsbD, Nat.testBit_eq_decide_div_mod_eq, bitOf]
  rfl

/-- CORE_CTL as a write of v leaves it, but for what the write starts. -/
def Dev.coreCtlSet (d : Dev) (n : Nat) (v : Word) : Dev :=
  ((d.setBit CORE_CTL.CP_RUN n 0 (v.getLsbD 0)).setBit CORE_CTL.LOAD_IMAGE n 0 (v.getLsbD 1)).setFld CORE_CTL.IMG_GRAN n 0 (bitsOf v.toNat 16 16)

section CoreCtl
variable (d : Dev) (n : Nat) (v : Word)


theorem Dev.coreCtlSet_run : (d.coreCtlSet n v).bit CORE_CTL.CP_RUN n 0 = v.getLsbD 0 := by
  rw [Dev.coreCtlSet, Dev.bit, Dev.fld_setFld_apart _ _ _ _ _ _ _ _ rfl rfl, Dev.setBit, Dev.fld_setFld_apart _ _ _ _ _ _ _ _ rfl rfl]
  exact d.bit_setBit CORE_CTL.CP_RUN n 0 (v.getLsbD 0) rfl rfl

theorem Dev.coreCtlSet_gran : (d.coreCtlSet n v).fld CORE_CTL.IMG_GRAN n 0 = bitsOf v.toNat 16 16 := by
  rw [Dev.coreCtlSet, Dev.fld_setFld _ _ _ _ _ rfl]
  exact Nat.mod_eq_of_lt (bitsOf_lt _ _ _)

/-- A write of CORE_CTL by another requester is ignored. -/
theorem Dev.coreCtlWrite_other {r : Req} (hr : r ≠ .mgmt) : d.coreCtlWrite r n v = d := if_pos hr

/-- From step 9 on the management controller's write, without SEQ_ABORT, starts the processor, begins its image copy, resets it or does nothing more. -/
theorem Dev.coreCtlWrite_mgmt (hd : 9 ≤ d.done) (hv : v.getLsbD 2 = false) : d.coreCtlWrite .mgmt n v =
    if v.getLsbD 0 && !d.bit CORE_CTL.CP_RUN n 0 then
      (d.coreCtlSet n v).modCp n fun _ => if v.getLsbD 1 then { Cp.init with st := .copying, copyAt := d.clkSum (clusterOf n) } else { Cp.init with st := .running }
    else if !v.getLsbD 0 then (d.coreCtlSet n v).modCp n fun _ => Cp.init else d.coreCtlSet n v := by
  simp only [Dev.coreCtlWrite, if_pos hd, Dev.coreCtl, ne_eq, not_true_eq_false, if_false, bitOf_toNat, hv, Bool.false_eq_true,
    Dev.coreCtlSet, Dev.setFld_clkSum, Dev.setBit_clkSum, Dev.cpRun]
  cases v.getLsbD 1 <;> rfl

end CoreCtl

theorem Dev.modCp_to_cp (d : Dev) (n : Nat) (p : Cp) : ((d.modCp n fun _ => p).core n).cp = p := by rw [Dev.modCp, Dev.core_setCore]

/-- A write of CORE_CTL that sets the processor to p leaves its own values in CORE_CTL. -/
theorem Dev.coreCtlWrite_to {d : Dev} {r : Req} {n : Nat} {v : Word} {p : Cp} (h : d.coreCtlWrite r n v = (d.coreCtlSet n v).modCp n fun _ => p) :
    ∃ e : Dev, d.coreCtlWrite r n v = e ∧ (e.core n).cp = p ∧ e.bit CORE_CTL.CP_RUN n 0 = v.getLsbD 0 ∧
      e.fld CORE_CTL.IMG_GRAN n 0 = bitsOf v.toNat 16 16 :=
  ⟨_, h, (d.coreCtlSet n v).modCp_to_cp n p, d.coreCtlSet_run n v, d.coreCtlSet_gran n v⟩

/-! The image copy (R126). -/

/-- The stores of the control processors lie above every local store. -/
theorem lsAddr_lt_storeKey {n m x dd off : Nat} (hn : n < 256) (hx : x ≤ lsSize) : lsAddr n x < storeKey m dd off := by
  unfold lsSize at hx
  unfold lsAddr storeKey
  omega

theorem storeKey_sub_base (n dd j : Nat) : storeKey n dd j - storeKey n dd 0 = j := by
  unfold storeKey
  omega

theorem storeKey_mono (n dd : Nat) {i j : Nat} (h : i ≤ j) : storeKey n dd i ≤ storeKey n dd j := Nat.add_le_add_left h _

/-- The I-store of a core lies below its D-store. -/
theorem storeKey_half {n j : Nat} (h : j < 65536) : storeKey n 0 j < storeKey n 1 0 := by
  unfold storeKey
  omega

/-- Half an image that is intact is copied whole, and leaves every other byte and check bit. -/
theorem Dev.halfCopied {d : Dev} {n dd src : Nat} (hn : n < 256) (hs : src % 32 = 0) (hfit : src + 65536 ≤ lsSize) (hi : d.intact (lsAddr n src) 65536) :
    ∃ e : Dev, d.copyHalf n dd src = (false, e) ∧ (∀ j, j < 65536 → e.byte (storeKey n dd j) = d.byte (lsAddr n (src + j))) ∧
      (∀ k, k < storeKey n dd 0 → e.byte k = d.byte k) ∧ ∀ k, k < storeKey n dd 0 / 32 → Tbl.get 0 e.chk k = Tbl.get 0 d.chk k := by
  have halign : lsAddr n src % 32 = 0 := by unfold lsAddr; omega
  obtain ⟨hok, hbyte, hchk, -, -⟩ := d.copyHalf_intact n dd src hfit halign hn hi
  refine ⟨(d.copyHalf n dd src).2, Prod.ext hok rfl, fun j hj => ?_, fun k hk => ?_, fun k hk => ?_⟩
  · have hbase := storeKey_sub_base n dd j
    have hlo : storeKey n dd 0 ≤ storeKey n dd j := storeKey_mono n dd (Nat.zero_le j)
    rw [hbyte, if_pos (by omega), hbase]
  · rw [hbyte, if_neg (by omega)]
  · rw [hchk, if_neg (by omega)]

section Copy
variable {d : Dev} {n src : Nat} (hn : n < 256) (hs : src % 32 = 0) (hfit : src + 131072 ≤ lsSize) (hint : d.intact (lsAddr n src) 131072)
include hn hs hfit hint

/-- An image that is intact is copied whole: its first half to the I-store, its second to the D-store. -/
theorem Dev.imageCopied : ∃ e1 e : Dev, d.copyHalf n 0 src = (false, e1) ∧ e1.copyHalf n 1 (src + 65536) = (false, e) ∧
    ∀ j, j < 65536 → e.byte (storeKey n 0 j) = d.byte (lsAddr n (src + j)) ∧ e.byte (storeKey n 1 j) = d.byte (lsAddr n (src + 65536 + j)) := by
  have hhalf : ∀ k, src ≤ k → k ≤ src + 65536 → d.intact (lsAddr n k) 65536 := fun k hlo hhi cw hcw => by
    refine hint cw ?_
    rw [mem_cwsOf] at hcw ⊢
    unfold lsAddr at hcw ⊢
    omega
  obtain ⟨e1, h1, hbyte1, hkeep1, hchk1⟩ := Dev.halfCopied (dd := 0) hn hs (by omega) (hhalf src (Nat.le_refl _) (by omega))
  have hint1 : e1.intact (lsAddr n (src + 65536)) 65536 := fun cw hcw => by
    have hlast : lsAddr n (src + 131072) < storeKey n 0 0 := lsAddr_lt_storeKey hn hfit
    rw [hchk1]
    · exact hhalf (src + 65536) (by omega) (Nat.le_refl _) cw hcw
    · rw [mem_cwsOf] at hcw
      unfold lsAddr at hcw hlast
      omega
  obtain ⟨e, h2, hbyte2, hkeep2, -⟩ := Dev.halfCopied (dd := 1) hn (by omega) ((Nat.add_assoc src 65536 65536).trans_le hfit) hint1
  refine ⟨e1, e, h1, h2, fun j hj => ⟨?_, ?_⟩⟩
  · rw [hkeep2 _ (storeKey_half hj), hbyte1 j hj]
  · rw [hbyte2 j hj, hkeep1 _ (lsAddr_lt_storeKey hn (by omega))]

/-- IMAGE_COPY_DONE of an intact image, once its time has passed, leaves it in the stores with the processor running. -/
theorem Dev.imageDone_intact (hst : (d.core n).cp.st = .copying) (ht : (d.core n).cp.copyAt + 2048 * 2000 ≤ d.clkSum (clusterOf n))
    (hgran : 64 * d.fld CORE_CTL.IMG_GRAN n 0 = src) : ∃ e : Dev, d.imageDone n = e.cpRun n ∧
    ∀ j, j < 65536 → e.byte (storeKey n 0 j) = d.byte (lsAddr n (src + j)) ∧ e.byte (storeKey n 1 j) = d.byte (lsAddr n (src + 65536 + j)) := by
  obtain ⟨e1, e, h1, h2, hbytes⟩ := Dev.imageCopied hn hs hfit hint
  refine ⟨e, (if_pos ⟨hst, ht⟩).trans ?_, hbytes⟩
  dsimp only
  rw [hgran, h1]
  dsimp only
  rw [h2]
  rfl

end Copy

/-- Settles O17: by what the write of CORE_CTL holds; the two halves of the image go to stores that lie apart from it and from each other. -/
theorem processorStart : Obligations.ProcessorStart := by
  intro s n v
  refine ⟨fun hd hv hoff hrun hload => ?starts, fun hd hv hoff hrun hload => ?copies, fun hd hv hrun => ?resets, fun r hr => ?other, fun hst ht hfit hint => ?copied⟩
  case starts =>
    have hstart : s.dev.coreCtlWrite .mgmt n v = (s.dev.coreCtlSet n v).modCp n fun _ => { Cp.init with st := .running } := by
      simp only [s.dev.coreCtlWrite_mgmt n v hd hv, hrun, hoff, hload, Bool.not_false, Bool.and_self, Bool.false_eq_true, if_true, if_false]
    obtain ⟨e, he, hcp, hbit, -⟩ := Dev.coreCtlWrite_to hstart
    exact exec_ev (exec_cpStart .mgmt n v s) he ⟨hcp, hbit.trans hrun⟩
  case copies =>
    have hcopy : s.dev.coreCtlWrite .mgmt n v =
        (s.dev.coreCtlSet n v).modCp n fun _ => { Cp.init with st := .copying, copyAt := s.dev.clkSum (clusterOf n) } := by
      simp only [s.dev.coreCtlWrite_mgmt n v hd hv, hrun, hoff, hload, Bool.not_false, Bool.and_self, if_true]
    obtain ⟨e, he, hcp, -, hgran⟩ := Dev.coreCtlWrite_to hcopy
    exact exec_ev (exec_cpStart .mgmt n v s) he ⟨hcp, hgran⟩
  case resets =>
    have hreset : s.dev.coreCtlWrite .mgmt n v = (s.dev.coreCtlSet n v).modCp n fun _ => Cp.init := by
      simp only [s.dev.coreCtlWrite_mgmt n v hd hv, hrun, Bool.not_false, Bool.false_and, Bool.false_eq_true, if_true, if_false]
    obtain ⟨e, he, hcp, hbit, -⟩ := Dev.coreCtlWrite_to hreset
    exact exec_ev (exec_cpStart .mgmt n v s) he ⟨hcp, hbit.trans hrun⟩
  case other =>
    rw [exec_cpStart]
    exact ⟨s, State.ev_self (s.dev.coreCtlWrite_other n v hr), rfl⟩
  case copied =>
    obtain ⟨e, hdone, hbytes⟩ := Dev.imageDone_intact n.isLt (by omega) hfit hint hst ht rfl
    exact exec_ev (exec_imageCopyDone n s) hdone ⟨e.modCp_to_cp n _, hbytes⟩

end Sys2Proof.Machine
end

section
/-! SUPPORT. The banks of the local store (R108 to R110). -/

namespace Sys2Proof.Machine

theorem exec_lsAccess (n : CoreId) (bank : Fin 32) (reqs : List LsReq) (s : State) : exec (.lsAccess n bank reqs) s = s.ev fun d => d.lsGrant n bank reqs := rfl

/-- What the bank does with the request it has granted. -/
def Dev.lsServe (d : Dev) (n : Nat) (q : LsReq) : Dev :=
  if q.write then (d.lsWrite n q.addr (q.data.take q.len)).emit (.memResp (endCore n) .ok [])
  else (d.lsRead n q.addr q.len).2.2.emit (.memResp (endCore n) (d.lsRead n q.addr q.len).2.1 (d.lsRead n q.addr q.len).1)

section Bank
variable {d : Dev} {n bank : Nat} {q : LsReq}

/-- A bank with no waiting request grants the one that reaches it; nothing but the arbiter of the bank has changed when it is served. -/
theorem Dev.lsGrant_alone (hfit : q.addr + q.len ≤ lsSize) (hline : q.addr % 64 + q.len ≤ 64) (hlen : 1 ≤ q.len) (hbank : lsBank q.addr = bank)
    (hfree : ∀ x ∈ (d.core n).lsQ, lsBank x.2.addr ≠ bank) :
    ∃ e : Dev, e.mem = d.mem ∧ e.chk = d.chk ∧ e.out = d.out ∧ e.core n = d.core n ∧ d.lsGrant n bank [q] = e.lsServe n q := by
  have hnone : (d.core n).lsQ.filter (fun x => lsBank x.2.addr == bank) = [] := List.filter_eq_nil_iff.2 fun x hx => by simp [hfree x hx]
  have hidle : (d.core n).lsQ.any (fun x => x.2.port == q.port && lsBank x.2.addr == bank) = false := List.any_eq_false.2 fun x hx => by simp [hfree x hx]
  have hnew : ∀ t, (t, q) ∉ (d.core n).lsQ := fun t ht => hfree _ ht hbank
  unfold Dev.lsGrant
  simp only [hnone, hidle, hfit, hline, hlen, hbank, List.find?_cons, decide_true, Bool.and_self, beq_self_eq_true, Bool.not_false, List.filter_cons, if_true,
    List.filter_nil, List.dedup_cons_of_notMem, List.not_mem_nil, not_false_eq_true, List.dedup_nil, List.map_cons, List.map_nil, Dev.core_setCore, List.filter_append,
    List.nil_append, List.foldl_nil, oldest, List.length_singleton, Nat.sub_self]
  obtain ⟨e, he⟩ := (d.setCore n { d.core n with lsQ := (d.core n).lsQ ++ [(d.cclk n, q)] }).tie_single (arbKey 7 (n * 32 + bank)) q.port
  have hcount : ∀ f : Dev, f.pmcCore n 7 0 = f := fun f => if_pos (Or.inl rfl)
  have herase : ((d.core n).lsQ ++ [(d.cclk n, q)]).erase (d.cclk n, q) = (d.core n).lsQ := by
    rw [List.erase_append_right _ (hnew _), List.erase_cons_head, List.append_nil]
  have hcore : e.core n = { d.core n with lsQ := (d.core n).lsQ ++ [(d.cclk n, q)] } := by
    rw [Dev.tie_only _ _ _ _ _ he]
    exact Dev.core_setCore d n _
  rw [hcount, he]
  refine ⟨e.setCore n (d.core n), ?_, ?_, ?_, Dev.core_setCore e n _, ?_⟩
  · rw [Dev.setCore_mem, Dev.tie_only _ _ _ _ _ he, Dev.setCore_mem]
  · rw [Dev.setCore_chk, Dev.tie_only _ _ _ _ _ he, Dev.setCore_chk]
  · rw [Dev.setCore_out, Dev.tie_only _ _ _ _ _ he, Dev.setCore_out]
  · simp only [beq_self_eq_true, hcore, herase]
    rfl

/-- The bank stores the bytes of a write over intact memory. -/
theorem Dev.lsServe_write (hw : q.write = true) (hlen : q.data.length = q.len) (hi : d.intact (lsAddr n q.addr) q.len) :
    d.lsServe n q = (d.write (lsAddr n q.addr) q.data).emit (.memResp (endCore n) .ok []) := by
  rw [Dev.lsServe, if_pos hw, List.take_of_length_le hlen.le, Dev.lsWrite_intact d n q.addr q.data (hlen ▸ hi)]

/-- The bank answers the stored bytes to a read of intact memory. -/
theorem Dev.lsServe_read (hr : q.write = false) (hi : d.intact (lsAddr n q.addr) q.len) :
    d.lsServe n q = d.emit (.memResp (endCore n) .ok ((List.range q.len).map fun i => ⟨d.byte (lsAddr n q.addr + i), false⟩)) := by
  rw [Dev.lsServe, hr, if_neg Bool.false_ne_true, Dev.lsRead_intact d n q.addr q.len hi]

end Bank

/-- Settles O19: the request is the only one at the bank, so it is served in its cycle, over memory that is intact. -/
theorem localStoreBankServes : Obligations.LocalStoreBankServes := by
  intro s n bank q hfit hline hlen hbank hfree hi
  obtain ⟨e, hmem, hchk, hout, hcore, hgrant⟩ := Dev.lsGrant_alone hfit hline hlen hbank hfree
  have hbyte : ∀ k, e.byte k = s.dev.byte k := fun k => by rw [Dev.byte, hmem, Dev.byte]
  have hie : e.intact (lsAddr n q.addr) q.len := fun cw hcw => by rw [hchk]; exact hi cw hcw
  refine ⟨fun hw hdata hclean => ?write, fun hr => ?read⟩
  case write =>
    obtain ⟨hwrote, -⟩ := e.write_clean (lsAddr n q.addr) q.data hclean (hdata ▸ hie)
    have hserve := hgrant.trans (Dev.lsServe_write hw hdata hie)
    rw [Dev.write_eq] at hserve
    refine exec_ev (exec_lsAccess n bank [q] s) hserve ⟨fun j => ?_, congrArg _ hout, hcore⟩
    rw [← hbyte]
    exact hwrote j
  case read =>
    have hserve := hgrant.trans (Dev.lsServe_read hr hie)
    simp only [hbyte] at hserve
    exact exec_ev (exec_lsAccess n bank [q] s) hserve ⟨hmem, hcore, congrArg _ hout⟩

end Sys2Proof.Machine
end

section
/-! SUPPORT. Descriptors that move data, launch and broadcast, and the completions they post (R117, R121, R297 to R302, R310, R317; log 136). -/

namespace Sys2Proof.Machine

/-! The work of COPY, COPY_CONVERT and REDUCE_INTO (R297). -/

/-- The bytes that a copy's descriptor names are read, changed by conv and written; then its work has gone out. -/
def Dev.copied (d : Dev) (id : Nat) (b : BitVec 512) (conv : List PByte → List PByte) (ext : List PByte) : Dev :=
  let r := d.dqRead (dq b 8 0 1 == 1) (dq b 16 0 64) (copyLens b).1 (dq b 8 2 2) ext
  let w := r.2.2.1.dqWrite (dq b 8 1 1 == 1) id (dq b 24 0 64) (dq b 8 4 2) (conv r.1) r.2.2.2
  w.2.descSent id (r.2.1.first w.1)

theorem Dev.dqCopy_plain (d : Dev) (id : Nat) (ext : List PByte) :
    d.dqCopy id 0x01 ext = d.qop id 0x01 fun x => d.whole fun d => d.copied id x.body (fun bs => bs) ext := by
  simp only [Dev.dqCopy, Nat.reduceEqDiff, if_false, Dev.copied]

theorem Dev.dqCopy_converts (d : Dev) (id : Nat) (ext : List PByte) :
    d.dqCopy id 0x02 ext = d.qop id 0x02 fun x => d.whole fun d =>
      d.copied id x.body (convElems (dq x.body 9 0 3) (dq x.body 10 0 3) (dq x.body 32 0 40)) ext := by
  simp only [Dev.dqCopy, if_true, Dev.copied]

/-- The bytes that a REDUCE_INTO names are read and reduced into its destination; then its work has gone out. -/
def Dev.reduced (d : Dev) (id : Nat) (b : BitVec 512) (ext : List PByte) : Dev :=
  let r := d.dqRead false (dq b 16 0 52) (dq b 32 0 32) 0 ext
  let w := r.2.2.1.accRed endQueue (dq b 8 0 2) (dq b 24 0 52) r.1 0 r.2.2.2
  w.2.descSent id (r.2.1.first w.1)

/-! The rows of the descriptors' work and of completions. -/

section Rows
variable (s : State) (id : Nat) (ext : List PByte)

theorem exec_copy : exec (.copy id ext) s = s.ev fun d => d.dqCopy id 0x01 ext := rfl
theorem exec_copyConvert : exec (.copyConvert id ext) s = s.ev fun d => d.dqCopy id 0x02 ext := rfl
theorem exec_reduceInto : exec (.reduceInto id ext) s = s.ev fun d => d.qop id 0x38 fun x => d.whole fun d => d.reduced id x.body ext := rfl
theorem exec_tileLaunch : exec (.tileLaunch id) s = s.ev fun d => d.dqLaunch id := rfl
theorem exec_bsuBroadcast : exec (.bsuBroadcast id) s = s.ev fun d => d.dqBroadcast id := rfl
theorem exec_queueNop : exec (.queueNop id) s = s.ev fun d => d.qop id 0x7E fun _ => d.descDone id .ok 0 0 := rfl
theorem exec_fence : exec (.fence id) s = s.ev fun d => d.dqFence id := rfl
theorem exec_completionPost (j : RingId) (ok : Bool) : exec (.completionPost j ok) s = s.ev fun d => d.cplPost j ok := rfl
theorem exec_msixSend (j : RingId) : exec (.msixSend j) s = s.ev fun d => d.cplMessage j := rfl
theorem exec_msixUnmask (v : Fin 2048) : exec (.msixUnmask v) s = s.ev fun d => d.msixUnmask v := rfl
theorem exec_launchReport (tag : Nat) : exec (.launchReport tag) s = s.ev fun d => d.launchEnd tag := rfl

end Rows

/-! A step of an engine (log 136), and a started descriptor. -/

/-- An event that lacks nothing it would wait for is carried out whole. -/
theorem Dev.whole_done {d e : Dev} {f : Dev → Dev} (he : f d.unasked = e) (hw : e.waits = []) : d.whole f = e :=
  (if_pos (by rw [he, hw]; rfl)).trans he

section Started
variable {d : Dev} {id op : Nat} {x : Desc} (hx : d.flight id = some x) (hs : x.sent = false) (hf : x.fin = none) (hop : dqOp x.body = op)
include hx hs hf hop

/-- A started descriptor with its opcode, whose work has not gone out, does what its opcode does. -/
theorem Dev.qop_started (f : Desc → Dev) : d.qop id op f = f x := by
  rw [Dev.qop, hx]
  exact if_pos ⟨hop, by rw [hs]; rfl, hf⟩

/-- One that lacks nothing it would wait for does it whole. -/
theorem Dev.qop_whole {f : Desc → Dev → Dev} (hw : (f x d.unasked).waits = []) : (d.qop id op fun x => d.whole (f x)) = f x d.unasked := by
  rw [Dev.qop_started hx hs hf hop, Dev.whole_done rfl hw]

end Started

/-! TILE_LAUNCH (R117). -/

/-- A change of the descriptor with a number that keeps the number. -/
theorem Dev.flight_modFlight {d : Dev} {id : Nat} {x : Desc} {f : Desc → Desc} (hx : d.flight id = some x) (hf : ∀ y, (f y).id = y.id) :
    (d.modFlight id f).flight id = some (f x) := by
  have hid : ∀ y : Desc, (if y.id = id then f y else y).id = y.id := fun y => by split; exacts [hf y, rfl]
  have hxid : x.id = id := by simpa using List.find?_some hx
  unfold Dev.flight at hx
  simp only [Dev.flight, Dev.modFlight, List.find?_map, Function.comp_def, hid, hx, Option.map_some, hxid, if_true]

/-- Core n is given an entry for its mailbox. -/
def Dev.mboxGive (e : BitVec 256) (d : Dev) (n : Nat) : Dev := d.setCore n { d.core n with mboxHeld := (d.core n).mboxHeld ++ [e] }

section Give
variable (e : BitVec 256) (d : Dev) (l : List Nat)

theorem Dev.mboxGive_all_kept : (l.foldl (Dev.mboxGive e) d).descs = d.descs ∧ (l.foldl (Dev.mboxGive e) d).mem = d.mem :=
  List.foldlRecOn l _ (motive := fun t : Dev => t.descs = d.descs ∧ t.mem = d.mem) ⟨rfl, rfl⟩ fun _ ht _ _ => ht

/-- A core that is not in the list keeps its state. -/
theorem Dev.mboxGive_all_other {n : Nat} (hn : n ∉ l) : (l.foldl (Dev.mboxGive e) d).core n = d.core n :=
  List.foldlRecOn l _ (motive := fun t : Dev => t.core n = d.core n) rfl fun _ ht _ hm =>
    (Dev.core_setCore_ne _ _ (ne_of_mem_of_not_mem hm hn).symm).trans ht

/-- A core that is in the list once is given one entry. -/
theorem Dev.mboxGive_all_member {n : Nat} (hn : n ∈ l) (hl : l.Nodup) :
    ((l.foldl (Dev.mboxGive e) d).core n).mboxHeld = (d.core n).mboxHeld ++ [e] := by
  induction l generalizing d with
  | nil => cases hn
  | cons m l ih =>
    obtain ⟨hm, hl⟩ := List.nodup_cons.1 hl
    rw [List.foldl_cons]
    obtain rfl | hn := List.mem_cons.1 hn
    · rw [Dev.mboxGive_all_other e _ l hm, Dev.mboxGive, Dev.core_setCore]
    · rw [ih _ hn hl, Dev.mboxGive, Dev.core_setCore_ne _ _ (ne_of_mem_of_not_mem hn hm)]

end Give

/-- Settles O33: each descriptor does what its opcode does; the cores of a launch's set are each in it once. -/
theorem descriptorsMoveData : Obligations.DescriptorsMoveData := by
  intro s id x hx hs hf
  refine ⟨fun ext hop => ?copy, fun ext hop => ?convert, fun ext hop => ?reduce, fun hop hfirst => ?launch, fun hop => ?broadcast, fun hop => ?nop, fun hop hquiet => ?fence⟩
  case copy =>
    intro r w e hw
    exact exec_ev (exec_copy s id ext) ((s.dev.dqCopy_plain id ext).trans (Dev.qop_whole hx hs hf hop hw)) rfl
  case convert =>
    intro r w e hw
    exact exec_ev (exec_copyConvert s id ext) ((s.dev.dqCopy_converts id ext).trans (Dev.qop_whole hx hs hf hop hw)) rfl
  case reduce =>
    intro r w e hw
    exact exec_ev (exec_reduceInto s id ext) (Dev.qop_whole hx hs hf hop hw) rfl
  case launch =>
    have hlaunch : s.dev.dqLaunch id = (dqSet x.body).foldl (Dev.mboxGive (launchEntry x (s.dev.fld RING_CFG.PARTITION x.ring 0)))
        (s.dev.modFlight id fun y => { y with sent := true, cores := dqSet x.body }) :=
      (Dev.qop_started hx hs hf hop _).trans (if_neg (by rw [hfirst]; exact Bool.false_ne_true))
    obtain ⟨hdescs, hmem⟩ := Dev.mboxGive_all_kept (launchEntry x (s.dev.fld RING_CFG.PARTITION x.ring 0))
      (s.dev.modFlight id fun y => { y with sent := true, cores := dqSet x.body }) (dqSet x.body)
    refine exec_ev (exec_tileLaunch s id) hlaunch ⟨?_, hmem, fun n hn => ?_, fun n hn => ?_⟩
    · have hlaunched := Dev.flight_modFlight (f := fun y => { y with sent := true, cores := dqSet x.body }) hx fun _ => rfl
      rw [Dev.flight, ← hdescs] at hlaunched
      exact hlaunched
    · exact Dev.mboxGive_all_member _ _ _ hn (List.nodup_range.filter _)
    · exact Dev.mboxGive_all_other _ _ _ hn
  case broadcast =>
    exact exec_ev (exec_bsuBroadcast s id) (Dev.qop_started hx hs hf hop _) rfl
  case nop =>
    exact exec_ev (exec_queueNop s id) (Dev.qop_started hx hs hf hop _) rfl
  case fence =>
    have hfence : s.dev.dqFence id = s.dev.descDone id .ok 0 0 :=
      (Dev.qop_started hx hs hf hop _).trans (if_neg (by rw [hquiet]; exact Bool.false_ne_true))
    exact exec_ev (exec_fence s id) hfence rfl

/-! Counting a device event leaves the words that no register table describes (R317, R539). -/

/-- From d to e only registers change, and none from the MSI-X table on. -/
structure MonitorOnly (d e : Dev) : Prop where
  regs : RegsOnly d e
  raw : ∀ k, 0x120000 ≤ k → e.rawWord k = d.rawWord k

theorem MonitorOnly.refl (d : Dev) : MonitorOnly d d := ⟨.refl d, fun _ _ => rfl⟩
theorem MonitorOnly.trans {a b c : Dev} (h : MonitorOnly a b) (h' : MonitorOnly b c) : MonitorOnly a c :=
  ⟨h.regs.trans h'.regs, fun k hk => (h'.raw k hk).trans (h.raw k hk)⟩

theorem Dev.pmcAdd_monitor (d : Dev) {cnt ovf : Fld} {u i : Nat} (hc : cnt.pos.off u i < 0x120000) (ho : ovf.pos.off u 0 < 0x120000) (k : Nat) :
    MonitorOnly d (d.pmcAdd cnt ovf u i k).1 := by
  have hset (v : Nat) : MonitorOnly d (d.setFld cnt u i v) := ⟨(RegsOnly.refl d).setFld cnt u i v, fun _ hk => Tbl.get_set_ne _ _ _ (by omega)⟩
  have hbits (e : Dev) (m : Nat) : MonitorOnly e (e.setBits ovf u 0 m) := ⟨⟨_, _, rfl⟩, fun _ hk => Tbl.get_set_ne _ _ _ (by omega)⟩
  unfold Dev.pmcAdd
  dsimp only
  split
  · exact .refl d
  · split
    · exact hset _
    · exact (hset _).trans (hbits _ _)

theorem Dev.pmcDev_monitor (d : Dev) (code k : Nat) : MonitorOnly d (d.pmcDev code k) := by
  unfold Dev.pmcDev
  split
  · exact .refl d
  · refine List.foldlRecOn _ _ (motive := MonitorOnly d) (.refl d) fun e he i hi => ?_
    have hlt := List.mem_range.1 hi
    split
    · exact he.trans (e.pmcAdd_monitor (by simp [RegPos.off]; omega) (by simp [RegPos.off]) _)
    · exact he

theorem MonitorOnly.out {d e : Dev} (h : MonitorOnly d e) : e.out = d.out := by
  obtain ⟨⟨_, _, rfl⟩, -⟩ := h
  rfl

theorem MonitorOnly.cfg {d e : Dev} (h : MonitorOnly d e) : e.cfg = d.cfg := by
  obtain ⟨⟨_, _, rfl⟩, -⟩ := h
  rfl

theorem MonitorOnly.msixMasked {d e : Dev} (h : MonitorOnly d e) (v : Nat) : e.msixMasked v = d.msixMasked v := by
  rw [Dev.msixMasked, h.cfg, h.raw _ (by unfold msixCtl; omega), Dev.msixMasked]

theorem MonitorOnly.msixPending {d e : Dev} (h : MonitorOnly d e) (v : Nat) : e.msixPending v = d.msixPending v := by
  rw [Dev.msixPending, h.raw _ (by unfold msixPba; omega), Dev.msixPending]

/-! The message of a vector (R317). -/

section Msix
variable (d : Dev) (v : Nat)

theorem Dev.rawWord_setRaw (off : Nat) (w : BitVec 64) : (d.setRaw off w).rawWord off = w := Tbl.get_set_same _ _ _ _
theorem Dev.rawWord_setRaw_ne {off k : Nat} (w : BitVec 64) (h : k ≠ off) : (d.setRaw off w).rawWord k = d.rawWord k := Tbl.get_set_ne _ _ _ h

/-- The words of the pending bits lie above the table. -/
theorem msixCtl_lt_msixPba {u v : Nat} (hv : v < 2048) : msixCtl v < msixPba u := by
  unfold msixCtl msixPba
  omega

theorem Dev.setPending_masked (x : Bool) {u : Nat} (hu : u < 2048) : (d.setPending v x).msixMasked u = d.msixMasked u := by
  rw [Dev.msixMasked, Dev.setPending, Dev.rawWord_setRaw_ne _ _ (msixCtl_lt_msixPba hu).ne]
  rfl

theorem Dev.setPending_off : (d.setPending v false).msixPending v = false := by
  have hlt : v % 64 < 64 := Nat.mod_lt _ (by decide)
  rw [Dev.msixPending, Dev.setPending, Dev.rawWord_setRaw, if_neg Bool.false_ne_true, BitVec.getLsbD_and, BitVec.getLsbD_not, BitVec.getLsbD_ofNat,
    Nat.testBit_two_pow_self, decide_eq_true hlt, Bool.and_true, Bool.not_true, Bool.and_false, Bool.and_false]

/-- Vector v with its mask bit cleared. -/
def Dev.msixOpen : Dev := d.setRaw (msixCtl v) (d.rawWord (msixCtl v) ||| BitVec.ofNat 64 (2 ^ 32))

theorem Dev.msixOpen_masked (hen : d.cfg.msixEn = true) (hfn : d.cfg.msixMask = false) : (d.msixOpen v).msixMasked v = false := by
  rw [Dev.msixMasked, Dev.msixOpen, Dev.rawWord_setRaw, BitVec.getLsbD_or]
  simp [Dev.setRaw, hen, hfn]

theorem Dev.msixOpen_pending (hv : v < 2048) : (d.msixOpen v).msixPending v = d.msixPending v := by
  rw [Dev.msixPending, Dev.msixOpen, Dev.rawWord_setRaw_ne _ _ (msixCtl_lt_msixPba hv).ne', Dev.msixPending]

end Msix

/-- A vector that nothing masks sends its pending message, and only that. -/
theorem Dev.msixRelease_unmasked {d : Dev} {v : Nat} (hm : d.msixMasked v = false) (hv : v < 2048) :
    (d.msixRelease v).msixMasked v = false ∧ (d.msixPending v = true → (d.msixRelease v).out = .msix v :: d.out ∧ (d.msixRelease v).msixPending v = false) := by
  have hcount := (d.setPending v false).pmcDev_monitor 0x0A 1
  unfold Dev.msixRelease
  split
  next hsend =>
    refine ⟨?_, fun _ => ⟨?_, ?_⟩⟩
    · exact (hcount.msixMasked v).trans ((d.setPending_masked v false hv).trans hm)
    · exact congrArg _ hcount.out
    · exact (hcount.msixPending v).trans (d.setPending_off v)
  next hkept =>
    exact ⟨hm, fun hp => absurd (by rw [hp, hm]; rfl) hkept⟩

/-! Completion records and the ends of launches (R121, R298, R301). -/

section Post
variable {d d1 : Dev} {j : Nat} {c : Cpl} (hpick : d.unasked.cplPick j = some (c, d1)) (hlocal : d1.bit CQ_BASE.LOCAL j 0 = false)
include hpick hlocal

/-- A record that host memory accepts is written to it. -/
theorem Dev.cplPost_accepted {e : Dev} (he : ((((d1.emit (.hostWrite (d1.cplAddr j) (d1.cplBytes j c))).cplLeave j c).cplWritten j c).ringSettle c.ring).cqRelease j = e)
    (hw : e.waits = []) : d.cplPost j true = e := by
  refine Dev.whole_done ?_ hw
  dsimp only
  rw [hpick]
  dsimp only
  rw [hlocal, if_neg Bool.false_ne_true, if_pos rfl, he]

/-- A record that host memory refuses is lost. -/
theorem Dev.cplPost_refused {e : Dev} (he : (((d1.cplLeave j c).cplRefused j).ringSettle c.ring).cqRelease j = e)
    (hw : e.waits = []) : d.cplPost j false = e := by
  refine Dev.whole_done ?_ hw
  dsimp only
  rw [hpick]
  dsimp only
  rw [hlocal, if_neg Bool.false_ne_true, if_neg Bool.false_ne_true, he]

end Post

section LaunchEnd
variable {d : Dev} {tag : Nat} {x : Desc} (hc : x.cores = [])
  (hx : (d.descs.find? fun y : Desc => y.id % 65536 == tag && dqOp y.body == 0x10 && y.sent && y.fin.isNone) = some x)
include hx hc

/-- A launch that lacks no report ends with the worst of them. -/
theorem Dev.launchEnd_reported : d.launchEnd tag = match x.worst with
    | some (n, st) => d.descDone x.id st 0 n
    | none => d.descDone x.id .ok 0 0 := by
  rw [Dev.launchEnd, hx]
  exact if_pos hc

end LaunchEnd

/-- Settles O35: a record is written whole or refused whole; counting the messages sent leaves the table and the pending bits of MSI-X. -/
theorem completionsPost : Obligations.CompletionsPost := by
  intro s j
  refine ⟨fun c d1 hpick hlocal => ⟨?accepted, ?refused⟩, fun hen hsince hdue => ?message, fun v hen hfn => ?unmask, fun tag x n st hx hcores => ⟨?worst, ?allOk⟩⟩
  case accepted =>
    intro e hw
    exact exec_ev (exec_completionPost s j true) (Dev.cplPost_accepted hpick hlocal rfl hw) rfl
  case refused =>
    intro e hw
    exact exec_ev (exec_completionPost s j false) (Dev.cplPost_refused hpick hlocal rfl hw) rfl
  case message =>
    have hsend : s.dev.cplMessage j = (s.dev.modRing j fun r => { r with since := 0, firstAt := none, urgent := false }).msixFire (s.dev.fld IRQ_CFG.VECTOR j 0) := by
      refine if_pos ?_
      obtain hu | hc := hdue
      · simp [hen, hsince, hu]
      · simp [hen, hsince, hc]
    exact exec_ev (exec_msixSend s j) hsend rfl
  case unmask =>
    obtain ⟨hmasked, hsent⟩ := Dev.msixRelease_unmasked (s.dev.msixOpen_masked v hen hfn) v.isLt
    exact exec_ev (exec_msixUnmask s v) rfl ⟨hmasked, fun hp => hsent ((s.dev.msixOpen_pending v v.isLt).trans hp)⟩
  case worst =>
    intro hworst
    have hend := Dev.launchEnd_reported hcores hx
    rw [hworst] at hend
    exact exec_ev (exec_launchReport s tag) hend rfl
  case allOk =>
    intro hworst
    have hend := Dev.launchEnd_reported hcores hx
    rw [hworst] at hend
    exact exec_ev (exec_launchReport s tag) hend rfl

end Sys2Proof.Machine
end

section
/-! SUPPORT. The core DMA engine: its channels, the tiles it sends, its descriptors' completion and the claims of a check unit (R131 to R145, R466; logs 136, 142). -/

namespace Sys2Proof.Machine

/-! The rows of the core DMA engine. -/

section Rows
variable (s : State) (n : CoreId)

theorem exec_dmaCopy (ch : Fin 2) (ext : List PByte) : exec (.dmaCopy n ch ext) s = s.ev fun d => d.dmaGeneral n 1 ch ext := rfl
theorem exec_dmaReduce (ch : Fin 2) (ext : List PByte) : exec (.dmaReduce n ch ext) s = s.ev fun d => d.dmaGeneral n 4 ch ext := rfl
theorem exec_dmaWeight (ext : List PByte) : exec (.dmaWeight n ext) s = s.ev fun d => d.dmaWeight n ext := rfl
theorem exec_dmaInput (ext : InputFetch) : exec (.dmaInput n ext) s = s.ev fun d => d.dmaInput n ext.data ext.badRows := rfl
theorem exec_tileEmit (bad : Bool) : exec (.tileEmit ⟨n, bad⟩) s = s.ev fun d => d.tileEmit n bad := rfl
theorem exec_descriptorComplete (id : Nat) : exec (.descriptorComplete n id) s = s.ev fun d => d.descComplete n id := rfl
theorem exec_chkClaim (id : Nat) : exec (.chkClaim n id) s = s.ev fun d => d.chkClaim n id := rfl

end Rows

/-! A channel carries out a descriptor that is checked and holds its claim (R131, R132, R143). -/

section Channels
variable {d : Dev} {n : Nat} {x : DmaDesc} (hlive : d.dmaLive n = true) (hchk : x.checked = true) (hclaim : dmaClaimed x = true)

/-- A descriptor's checks are made once (R135). -/
theorem Dev.dmaStart_checked (d : Dev) (n : Nat) (hchk : x.checked = true) : d.dmaStart n x = (true, d) := if_pos hchk

include hlive hchk hclaim

theorem Dev.dmaGeneral_starts {kind : Nat} {c : Fin 2} (hx : ((d.dma n).held.find? fun y => y.stage == .onChannel c && dKind y == kind) = some x)
    (hstart : (d.dma n).startable x = true) (ext : List PByte) :
    d.dmaGeneral n kind c ext = d.whole fun d => (d.dmaUnits n x ext).dmaFinish n x.id .ok := by
  simp only [Dev.dmaGeneral, hlive, hx, hstart, if_true, Dev.dmaStart_checked d n hchk, hclaim, Bool.not_true, Bool.or_self, Bool.false_eq_true, if_false]

theorem Dev.dmaWeight_starts {c : ArrCmd} (hc : (((d.coreLoads n 0x10).take 2).find? fun c => !((d.dma n).tiles.any fun t => t.loadId == c.id)) = some c)
    (hroom : (d.dma n).tiles.length < 2) (hx : (d.dma n).head 2 (bitsOf c.word.toNat 23 3) = some x) (ext : List PByte) :
    d.dmaWeight n ext = d.whole fun d => d.weightTile n c x ext := by
  simp only [Dev.dmaWeight, hc, hroom, hlive, decide_true, Bool.and_self, hx, if_true, Dev.dmaStart_checked d n hchk, hclaim, Bool.not_true, Bool.or_self, Bool.false_eq_true, if_false]

theorem Dev.dmaInput_starts {k : Nat} (hroom : ((d.dma n).inputs.map fun p => p.2.length).sum < 256)
    (hk : inputNext (d.dma n).inputs (d.vecsTaken n) (d.coreLoads n 0x11) [] = some k) (hx : (d.dma n).head 3 k = some x) (ext : List PByte) (bad : List (Fin 128)) :
    d.dmaInput n ext bad = d.whole fun d => d.inputVec n k x ext bad := by
  have hgo : ¬(((d.dma n).inputs.map fun p => p.2.length).sum ≥ 256 ∨ (!d.dmaLive n) = true) := by
    rw [hlive]
    rintro (h | h)
    · omega
    · cases h
  simp only [Dev.dmaInput, if_neg hgo, hk, hx, Dev.dmaStart_checked d n hchk, hclaim, Bool.not_true, Bool.or_self, Bool.false_eq_true, if_false]

end Channels

/-! TILE_EMIT (R69, R137, R486). -/

section Emit
variable {d : Dev} {n : Nat} {t : Tile} (ht : ((d.dma n).tiles.find? fun t => decide (t.emitted < 4)) = some t)
include ht

/-- A group that stays in the core's own column, or that the link does not spoil, leaves with the poison its tile had. -/
theorem Dev.tileEmit_sound {bad : Bool} (hb : bad = false ∨ d.arrOf n = n) :
    d.tileEmit n bad = d.setDma n { d.dma n with tiles := (d.dma n).tiles.map fun q =>
      if q.loadId = t.loadId then { q with emitted := q.emitted + 1, poison := t.poison, at' := if q.emitted = 0 then d.ns else q.at' } else q } := by
  have hsound : (bad && d.arrOf n != n) = false := by
    obtain rfl | h := hb
    · rfl
    · rw [h, bne_self_eq_false, Bool.and_false]
  simp only [Dev.tileEmit, ht, hsound, Bool.false_eq_true, if_false]

/-- A group that the link spoils on its way to the partner's array is poisoned and counted. -/
theorem Dev.tileEmit_spoilt (hpartner : d.arrOf n ≠ n) :
    d.tileEmit n true = (d.count LNK_COLUMN.COLLINK (n % 128) 0 1).setDma n { d.dma n with tiles := (d.dma n).tiles.map fun q =>
      if q.loadId = t.loadId then { q with emitted := q.emitted + 1, poison := t.emitted :: t.poison, at' := if q.emitted = 0 then d.ns else q.at' } else q } := by
  have hspoilt : (true && d.arrOf n != n) = true := by rw [Bool.true_and, bne_iff_ne]; exact hpartner
  simp only [Dev.tileEmit, ht, hspoilt, if_true]
  rfl

end Emit

/-! DESCRIPTOR_COMPLETE (R145). -/

/-- A ready descriptor that no stream of vectors feeds, holds no claim and has no write outstanding writes DONE. -/
theorem Dev.descComplete_ready {d : Dev} {n id : Nat} {x : DmaDesc} (hlive : d.dmaLive n = true) (hx : d.dmaDesc n id = some x) (hkind : dKind x ≠ 3)
    (hready : descReady x = true) (hwrites : (d.uio.any fun u => u.owner == .dma n id) = false) (hclaim : x.chk = false) :
    d.descComplete n id =
      (let d1 := (d.lsWrite n (64 * x.gran + 63) (toPBytes 1 (0x80 + x.status.code))).modDesc n id fun x => { x with stage := .finished, chk := false, written := true }
       ((d1.setDma n (d1.dma n).assign).pmcCore n 0x09 1).dmaWordDone n x.cmdId) := by
  have hvec : ((some x).any fun x => dKind x == 3) = false := by simpa using hkind
  simp only [Dev.descComplete, hx, hvec, hready, hlive, hwrites, hclaim, Bool.not_true, Bool.or_self, Bool.false_eq_true, if_false]

/-! The photo-finish rule grants one of those that ask (R29). -/

theorem mem_insertAsc {x y : Nat} {l : List Nat} : y ∈ insertAsc x l ↔ y = x ∨ y ∈ l := by
  induction l with
  | nil => exact List.mem_singleton.trans (by simp)
  | cons z l ih =>
    rw [insertAsc]
    split
    · exact List.mem_cons
    · rw [List.mem_cons, ih, List.mem_cons]
      tauto

theorem mem_sortAsc {y : Nat} {l : List Nat} : y ∈ sortAsc l ↔ y ∈ l := by
  induction l with
  | nil => rfl
  | cons x l ih => rw [sortAsc, mem_insertAsc, ih, List.mem_cons]

theorem Arb.mem_of_mem_order {a : Arb} {y : Nat} {l : List Nat} (h : y ∈ a.order l) : y ∈ l := by
  have hsorted : ∀ z ∈ if a.toggle then (sortAsc l).reverse else sortAsc l, z ∈ l := fun z hz => by
    split at hz
    · exact mem_sortAsc.1 (List.mem_reverse.1 hz)
    · exact mem_sortAsc.1 hz
  unfold Arb.order at h
  generalize (if a.toggle then (sortAsc l).reverse else sortAsc l) = o at h hsorted
  refine hsorted y ?_
  dsimp only at h
  split at h
  next => exact h
  next w _ =>
    split at h
    next hw =>
      obtain h | h := List.mem_append.1 h
      · exact List.mem_of_mem_filter h
      · exact List.mem_singleton.1 h ▸ List.contains_iff_mem.1 hw
    next => exact h

theorem Arb.mem_of_grant {a b : Arb} {y : Nat} {l : List Nat} (h : a.grant l = some (y, b)) : y ∈ l := by
  unfold Arb.grant at h
  split at h
  next => cases h
  next => cases h; exact List.mem_singleton.2 rfl
  next =>
    split at h
    next => cases h
    next hord => cases h; exact Arb.mem_of_mem_order (hord ▸ List.mem_cons_self)

theorem Dev.mem_of_tie {d e : Dev} {key y : Nat} {l : List Nat} (h : d.tie key l = some (y, e)) : y ∈ l := by
  unfold Dev.tie at h
  split at h
  next => cases h
  next hg => cases h; exact Arb.mem_of_grant hg

/-! CHK_CLAIM (R143, R466; log 142). -/

/-- Claims that arrive change the engines of the cores alone. -/
theorem Dev.chkArrive_only (d : Dev) (k : Nat) : ∃ c, d.chkArrive k = { d with cores := c } := by
  refine List.foldlRecOn _ _ (motive := fun t : Dev => ∃ c, t = { d with cores := c }) ⟨_, rfl⟩ fun t ht n _ => ?_
  split
  · refine List.foldlRecOn _ _ (motive := fun t : Dev => ∃ c, t = { d with cores := c }) ht ?_
    rintro _ ⟨c, rfl⟩ x _
    exact ⟨_, rfl⟩
  · exact ht

section Arrived
variable (d : Dev) (k : Nat)

theorem Dev.chkArrive_bit (f : Fld) (u i : Nat) : (d.chkArrive k).bit f u i = d.bit f u i := by
  obtain ⟨c, hc⟩ := d.chkArrive_only k
  rw [hc]
  rfl

theorem Dev.chkArrive_fresh (u : Nat) : (d.chkArrive k).chkFresh u = d.chkFresh u := by
  obtain ⟨c, hc⟩ := d.chkArrive_only k
  rw [hc]
  rfl

end Arrived

/-- The engines of a cluster are numbered from 0 to 7. -/
theorem Dev.lt_of_mem_chkFirst {d : Dev} {k j : Nat} (h : j ∈ d.chkFirst k) : j < 8 := by
  unfold Dev.chkFirst at h
  dsimp only at h
  split at h
  · cases h
  · exact List.mem_range.1 (List.mem_of_mem_filter (List.mem_of_mem_filter h))

/-- A unit that is not claimed was not claimed in this cycle. -/
theorem Dev.chkFresh_of_free {d : Dev} {k : Nat} (h : d.bit CHK_CFG.CLAIMED k 0 = false) : d.chkFresh k = false := by
  rw [Dev.chkFresh, h]
  rfl

section Claim
variable {d : Dev} {n id : Nat} (hlive : d.dmaLive n = true) (hwaits : ((d.dma n).chkWaiting.any fun x => x.id == id) = true)
include hlive hwaits

/-- While the unit is held or snoops, and no claim of this cycle meets the register path's, the claims of its cluster wait. -/
theorem Dev.chkClaim_held (hheld : (d.bit CHK_CFG.CLAIMED (clusterOf n) 0 || d.bit CHK_SNOOP.EN (clusterOf n) 0) = true)
    (hmet : d.chkFresh (clusterOf n) = false) : d.chkClaim n id = d.chkArrive (clusterOf n) := by
  simp only [Dev.chkClaim, hwaits, hlive, Dev.chkArrive_fresh, Dev.chkArrive_bit, hmet, hheld, Bool.false_and, Bool.not_true, Bool.not_false,
    Bool.or_self, Bool.and_self, Bool.false_eq_true, if_true, if_false]

/-- A free unit goes to the engine that the photo-finish rule takes of those whose claims arrived first. -/
theorem Dev.chkClaim_free {j : Nat} {d1 : Dev} {x : DmaDesc} (hfree : d.bit CHK_CFG.CLAIMED (clusterOf n) 0 = false) (hoff : d.bit CHK_SNOOP.EN (clusterOf n) 0 = false)
    (htie : (d.chkArrive (clusterOf n)).tie (arbKey 14 (clusterOf n)) ((d.chkArrive (clusterOf n)).chkFirst (clusterOf n)) = some (j, d1))
    (hx : (d1.dma (8 * clusterOf n + j)).claimant = some x) :
    d.chkClaim n id = (d1.chkTake (clusterOf n) j).modDesc (8 * clusterOf n + j) x.id fun x => { x with chk := true } := by
  have hj : j ≠ 8 := (Dev.lt_of_mem_chkFirst (Dev.mem_of_tie htie)).ne
  simp only [Dev.chkClaim, hwaits, hlive, Dev.chkArrive_fresh, Dev.chkArrive_bit, Dev.chkFresh_of_free hfree, hfree, hoff, htie, hx, if_neg hj, Bool.false_and,
    Bool.not_true, Bool.not_false, Bool.or_self, Bool.and_false, Bool.false_eq_true, if_false, List.append_nil]

end Claim

/-- Settles O26: each event is carried out as its hypotheses stand; a free unit is not contested by the register path, so that the tie is between the cluster's engines. -/
theorem dmaRuns : Obligations.DmaRuns := by
  intro s n
  refine ⟨fun ch ext x hx hlive hchk hclaim hstart => ?copy, fun ch ext x hx hlive hchk hclaim hstart => ?reduce,
    fun ext c x hc hlive hroom hx hchk hclaim => ?weight, fun ext bad k x hlive hroom hk hx hchk hclaim => ?input,
    fun t ht => ⟨fun bad hb => ?sound, fun hpartner => ?spoilt⟩,
    fun id x hlive hx hkind hready hwrites hclaim => ?complete,
    fun id j x d1 => ?claim⟩
  case copy =>
    intro e hw
    exact exec_ev (exec_dmaCopy s n ch ext) ((Dev.dmaGeneral_starts hlive hchk hclaim hx hstart ext).trans (Dev.whole_done rfl hw)) rfl
  case reduce =>
    intro e hw
    exact exec_ev (exec_dmaReduce s n ch ext) ((Dev.dmaGeneral_starts hlive hchk hclaim hx hstart ext).trans (Dev.whole_done rfl hw)) rfl
  case weight =>
    intro e hw
    exact exec_ev (exec_dmaWeight s n ext) ((Dev.dmaWeight_starts hlive hchk hclaim hc hroom hx ext).trans (Dev.whole_done rfl hw)) rfl
  case input =>
    intro e hw
    exact exec_ev (exec_dmaInput s n ⟨ext, bad⟩) ((Dev.dmaInput_starts hlive hchk hclaim hroom hk hx ext bad).trans (Dev.whole_done rfl hw)) rfl
  case sound =>
    exact exec_ev (exec_tileEmit s n bad) (Dev.tileEmit_sound ht hb) rfl
  case spoilt =>
    exact exec_ev (exec_tileEmit s n true) (Dev.tileEmit_spoilt ht hpartner) rfl
  case complete =>
    exact exec_ev (exec_descriptorComplete s n id) (Dev.descComplete_ready hlive hx hkind hready hwrites hclaim) rfl
  case claim =>
    intro k hlive hid
    have hwaits : ((s.dev.dma n).chkWaiting.any fun x => x.id == id) = true := by simpa using hid
    refine ⟨fun hheld hmet => ?_, fun hfree hoff htie hx => ?_⟩
    · exact exec_ev (exec_chkClaim s n id) (Dev.chkClaim_held hlive hwaits hheld hmet) rfl
    · exact exec_ev (exec_chkClaim s n id) (Dev.chkClaim_free hlive hwaits hfree hoff htie hx) rfl

end Sys2Proof.Machine
end

section
/-! SUPPORT. Slice controllers: the row commands, the queues, and bands, decay, narrow mode and self-refresh (R152 to R180). -/

namespace Sys2Proof.Machine

/-! The rows of this part, each one event. -/

section Rows
variable (n : CoreId) (s : State)

theorem exec_act : exec (.act n) s = s.ev fun d => d.slcAct n := rfl
theorem exec_rd : exec (.rd n) s = s.ev fun d => d.slcRd n := rfl
theorem exec_wr : exec (.wr n) s = s.ev fun d => (d.slcWr n).netAdmit n := rfl
theorem exec_refpb : exec (.refpb n) s = s.ev fun d => d.slcRefpb n := rfl
theorem exec_mrw : exec (.mrw n) s = s.ev fun d => d.slcMrw n := rfl
theorem exec_rowMoveComplete (flips : List BitFlip) : exec (.rowMoveComplete n flips) s = s.ev fun d => d.slcMove n flips := rfl
theorem exec_netRequest (q : MemReq) : exec (.netRequest n q) s = s.ev fun d => if netFits n q then d.slcNet n q else d := rfl
theorem exec_rowRequest (row : Nat) : exec (.rowRequest n row) s = s.ev fun d => if row < 393216 then d.slcRow n row false else d := rfl
theorem exec_refreshDue (layer : Fin 12) (bank : Fin 16) :
    exec (.refreshDue n layer bank) s = s.ev fun d => d.slcRefDue n (layer.val * 16 + bank.val) := rfl
theorem exec_bandApply : exec (.bandApply n) s = s.ev fun d => d.slcBandApply n := rfl
theorem exec_trackerDecay : exec (.trackerDecay n) s = s.ev fun d => d.slcDecay n := rfl
theorem exec_narrowModeSwitch : exec (.narrowModeSwitch n) s = s.ev fun d => d.slcNarrow n := rfl
theorem exec_sre : exec (.sre n) s = s.ev fun d => d.slcSre n := rfl
theorem exec_srx : exec (.srx n) s = s.ev fun d => d.slcSrx n := rfl

end Rows

/-! What each row command does when the row slot goes to it (R155 to R157, R163, R171). -/

section RowCommands
variable {d d1 : Dev} {n : Nat}

/-- The slice once the row slot has gone to candidate c: its row is open, and a write has left WB for it (R155, R156, R165). -/
def Slice.acted (sl : Slice) (ns : Nat) (c : RowCand) : Slice :=
  { (sl.tookSlot ns).activated ns c.row (if c.wb = none ∧ sl.mergesNow c.row = true then 80 else 40) with
    opens := sl.opens ++ [⟨c.row, ns, c.wb, sl.busyAt (rowBank c.row) (ns + 2), sl.seq⟩]
    wb := (c.wb.map fun w => sl.wb.filter fun v => v.seq != w.seq).getD sl.wb }

theorem Dev.slcAct_acted {c : RowCand} (h : d.rowSlot n = (.act c, d1)) : d.slcAct n = d1.setSlice n ((d1.slice n).acted d1.ns c) := by
  simp only [Dev.slcAct, h]
  obtain ⟨arr, idx, seq, row, wb⟩ := c
  cases wb <;> rfl

theorem Dev.slcRd_moves {o : OpenRow} (h : ((d.slice n).opens.find? fun o => o.write.isNone && decide (o.at' + 12 ≤ d.ns)) = some o) :
    d.slcRd n = d.setSlice n { d.slice n with
      opens := (d.slice n).opens.filter (· != o), moves := (d.slice n).moves ++ [⟨o.row, o.at' + 12, o.busy, o.seq⟩] } := by
  simp only [Dev.slcRd, h]

theorem Dev.slcWr_writes {o : OpenRow} {w : WbEnt} (h : ((d.slice n).opens.find? fun o => o.write.isSome && decide (o.at' + 12 ≤ d.ns)) = some o)
    (hw : o.write = some w) :
    d.slcWr n = (let d1 := (d.setSlice n { d.slice n with opens := (d.slice n).opens.filter (· != o) }).pmcCore n 0x0C 1
      if o.busy then d1.violation n o.row else d1.wbCommit n w) := by
  simp only [Dev.slcWr, h, hw]

theorem Dev.slcRefpb_refreshes {b : Nat} (h : d.rowSlot n = (.refresh b, d1)) :
    d.slcRefpb n = (let sl := ((d1.slice n).tookSlot d1.ns).refreshed d1.ns b
      (d1.setSlice n { sl with hist := d1.ns :: sl.hist.filter fun t => decide (d1.ns < t + 32) }).pmcCore n 0x0D 1) := by
  simp only [Dev.slcRefpb, h]

theorem Dev.slcMrw_narrow {l h : Nat} {rest : List Nat} (hslot : d.rowSlot n = (.mrw, d1)) (hleft : (d1.slice n).mrwLeft = l :: rest)
    (hhalf : (d1.slice n).narrowHalf = some h) :
    d.slcMrw n = d1.setSlice n { d1.slice n with
      lastSlot := some d1.ns, mrwLeft := rest, layerMode := Tbl.set 0 (d1.slice n).layerMode l (h + 1)
      mode := if rest = [] then .switching else (d1.slice n).mode } := by
  simp only [Dev.slcMrw, hslot, hleft, hhalf]

end RowCommands

/-- Settles O27: what the row slot goes to is done, each command from the state that its choice leaves. -/
theorem sliceRowCommands : Obligations.SliceRowCommands := by
  refine fun s n => ⟨fun c d1 h => ?act, fun o h => ?rd, fun o w h hw => ?wr, fun b d1 h => ?refpb, fun d1 l rest h hslot hleft hhalf => ?mrw⟩
  case act => exact exec_ev (exec_act n s) (Dev.slcAct_acted h) rfl
  case rd => exact exec_ev (exec_rd n s) (Dev.slcRd_moves h) rfl
  case wr => exact exec_ev (exec_wr n s) (congrArg (·.netAdmit n) (Dev.slcWr_writes h hw)) rfl
  case refpb => exact exec_ev (exec_refpb n s) (Dev.slcRefpb_refreshes h) rfl
  case mrw => exact exec_ev (exec_mrw n s) (Dev.slcMrw_narrow hslot hleft hhalf) rfl

/-! Requests enter the queues (R29, R162, R174, R175). -/

section Queues
variable {d : Dev} {n : Nat}

/-- A newcomer that meets no other class in its SCLK takes the last place in the slice's order. -/
theorem Dev.arrPlace_last (d : Dev) (n key idx : Nat) :
    d.arrPlace n key idx [] = ((d.slice n).seq, d.setSlice n { d.slice n with seq := (d.slice n).seq + 1 }) := rfl

theorem Dev.slcNet_enters {q : MemReq} (hr : (d.slice n).resetting = false) (hroom : (d.slice n).net.length < 64)
    (halone : q.write = true → (d.slice n).rivals d.ns (stackRow q.addr) = []) :
    d.slcNet n q = ((d.setSlice n { d.slice n with seq := (d.slice n).seq + 1 }).setSlice n
      { d.slice n with net := (d.slice n).net ++ [⟨q, d.ns, (d.slice n).seq, false⟩], seq := (d.slice n).seq + 1 }).netAdmit n := by
  have hnone : (if q.write then (d.slice n).rivals d.ns (stackRow q.addr) else []) = [] := by
    split
    · exact halone ‹_›
    · rfl
  simp only [Dev.slcNet, hr, Bool.false_eq_true, if_false, if_pos hroom, hnone, Dev.arrPlace_last, Dev.slice_setSlice]
  rfl

theorem Dev.slcNet_held {q : MemReq} (hr : (d.slice n).resetting = false) (hfull : 64 ≤ (d.slice n).net.length) :
    d.slcNet n q = d.setSlice n { d.slice n with netHeld := (d.slice n).netHeld ++ [⟨q, d.ns, (d.slice n).seq, false⟩] } := by
  simp only [Dev.slcNet, hr, Bool.false_eq_true, if_false, if_neg hfull.not_gt]

theorem Dev.slcNet_aborted (q : MemReq) (hr : (d.slice n).resetting = true) :
    d.slcNet n q = d.memReply q.src .resetAbort (poisonBytes (if q.write then 0 else q.len)) := if_pos hr

theorem Dev.slcRow_enters {row : Nat} (own : Bool) (hroom : (d.slice n).rowQ.length < 32) (halone : (d.slice n).rivals d.ns row = []) :
    d.slcRow n row own = (d.setSlice n { d.slice n with seq := (d.slice n).seq + 1 }).setSlice n
      { d.slice n with rowQ := (d.slice n).rowQ ++ [⟨row, d.ns, (d.slice n).seq, own⟩], seq := (d.slice n).seq + 1 } := by
  simp only [Dev.slcRow, if_pos hroom, halone, Dev.arrPlace_last, Dev.slice_setSlice]
  rfl

theorem Dev.slcRefDue_owed {b : Nat} (hdue : d.refDue n b ≤ d.ns) (hdebt : Tbl.get 0 (d.slice n).debt b < 8) (hsr : (d.slice n).srAt = none) :
    d.slcRefDue n b = d.setSlice n { d.slice n with
      debt := Tbl.set 0 (d.slice n).debt b (Tbl.get 0 (d.slice n).debt b + 1)
      due := Tbl.set none (d.slice n).due b (some (d.refDue n b + d.refInterval n)) } := if_pos ⟨hdue, hdebt, hsr⟩

/-- A due time written for a bank is when its next refresh is due. -/
theorem Dev.refDue_set {b t : Nat} {u : Tbl (Option Nat)} (h : (d.slice n).due = Tbl.set none u b (some t)) : d.refDue n b = t := by
  rw [Dev.refDue, h, Tbl.get_set_same, Option.getD_some]

/-- A row that has reached the controller from a free bank answers the one whole-row read that waits for it (R156, R162, R450). -/
theorem Dev.slcMove_answers {m : RowMove} {rest : List RowMove} {e : RowEnt} (hm : (d.slice n).moves = m :: rest) (ht : m.at' + 6 ≤ d.ns)
    (hb : m.busy = false) (hnet : (d.slice n).net = []) (hq : (d.slice n).rowQ = [e]) (hown : e.own = false) (hrow : e.row = m.row)
    (hseq : e.seq < m.seq) (hw : (d.slice n).writeBefore e.row e.seq = false) (flips : List BitFlip) :
    d.slcMove n flips = (let cws := d.rowDecode n m.row flips
      let d1 := ((d.setSlice n { d.slice n with moves := rest }).pmcCore n 0x0C 1).rowEvents n m.row cws
      ((d1.setSlice n { d1.slice n with rowQ := (d1.slice n).rowQ.filter fun f => f.seq != e.seq }).emit
        (.memResp n (rowAnswer cws 0 1024).1 (rowAnswer cws 0 1024).2)).netAdmit n) := by
  have harrived : ¬ d.ns < m.at' + (if (d.slice n).mode = .narrow then 6 else 5) := by split <;> omega
  have hhit : (e.row == m.row && decide (e.seq < m.seq) && !(d.slice n).writeBefore e.row e.seq) = true := by simp [hrow, hseq, hrow ▸ hw]
  simp only [Dev.slcMove, hm, if_neg harrived, hb, Bool.false_eq_true, if_false, hnet, hq, List.filter_cons, hhit, if_true, List.filter_nil, List.foldl_cons,
    List.foldl_nil, Dev.rowAns, hown, rowStatus]

end Queues

/-- Settles O28: with no rival in its SCLK (R29) a request takes the last place in the slice's order; a row that moves to the controller meets one read. -/
theorem sliceQueues : Obligations.SliceQueues := by
  intro s n
  refine ⟨fun q hfits hr hroom halone => ?enters, fun q hfits hr hfull => ?held, fun q hfits hr => ?aborted, fun row hrow hroom halone => ?row,
    fun layer bank hdue hdebt hsr => ?owed, fun m rest e hm ht hb hnet hq hown hrow hseq hw => ?answers⟩
  case enters => exact exec_ev (exec_netRequest n s q) ((if_pos hfits).trans (Dev.slcNet_enters hr hroom halone)) rfl
  case held => exact exec_ev (exec_netRequest n s q) ((if_pos hfits).trans (Dev.slcNet_held hr hfull)) rfl
  case aborted => exact exec_ev (exec_netRequest n s q) ((if_pos hfits).trans (Dev.slcNet_aborted q hr)) rfl
  case row => exact exec_ev (exec_rowRequest n s row) ((if_pos hrow).trans (Dev.slcRow_enters false hroom halone)) rfl
  case owed =>
    refine exec_ev (exec_refreshDue n s layer bank) (Dev.slcRefDue_owed hdue hdebt hsr) ⟨?_, Dev.refDue_set (u := (s.dev.slice n).due) ?_, fun b hne => ?_, rfl, rfl⟩
    · rw [Dev.keep_slice, Dev.slice_setSlice, Tbl.get_set_same]
    · rw [Dev.keep_slice, Dev.slice_setSlice]
    · rw [Dev.keep_slice, Dev.slice_setSlice, Tbl.get_set_ne _ _ _ hne]
  case answers => exact exec_ev (exec_rowMoveComplete n s []) (Dev.slcMove_answers hm ht hb hnet hq hown hrow hseq hw []) rfl

/-! Bands, decay, narrow mode and self-refresh (R155, R161, R170, R171, R173). -/

section States
variable {d : Dev} {n : Nat}

/-- A change of the band in use moves due times and the halt of bank-side work, and nothing else. -/
theorem Dev.slcReband_eq (d : Dev) (n old : Nat) :
    ∃ due halt res, d.slcReband n old = d.setSlice n { d.slice n with due := due, haltAt := halt, resume := res } := by
  unfold Dev.slcReband
  dsimp only
  split_ifs <;> exact ⟨_, _, _, rfl⟩

/-- The slice as its controller takes over a reported band and HOLD (R161). -/
def Slice.reported (sl : Slice) (ns band : Nat) (held : Bool) : Slice :=
  { (if sl.band = band then sl else { sl with bandOld := sl.band, bandAt := some ns, band := band }) with hold4x := held }

theorem Slice.reported_band (sl : Slice) (ns band : Nat) (held : Bool) : (sl.reported ns band held).band = band := by
  unfold Slice.reported
  split
  · assumption
  · rfl

theorem Slice.reported_debt (sl : Slice) (ns band : Nat) (held : Bool) : (sl.reported ns band held).debt = sl.debt := by
  unfold Slice.reported
  split <;> rfl

theorem Dev.slcBandApply_eq (d : Dev) (n : Nat) :
    d.slcBandApply n = (d.setSlice n ((d.slice n).reported d.ns (d.bandOf (columnOf n)) d.held)).slcReband n (d.refInterval n) := rfl

theorem Dev.slcDecay_due (h : (d.slice n).decayAt + 2 ^ 30 ≤ d.ns) :
    d.slcDecay n = d.setSlice n { (d.slice n).decayed with decayAt := (d.slice n).decayAt + 2 ^ 30 } := if_pos h

/-- The switch ends on a half without a dead connection: NARROW is the one error it raises (R171, steps 5 and 6). -/
theorem Dev.slcNarrow_ends {h : Nat} (hm : (d.slice n).mode = .switching) (ho : (d.slice n).opens = []) (hv : (d.slice n).moves = [])
    (hh : (d.slice n).narrowHalf = some h) (hd : ((d.slice n).dead.any fun v => v / 4352 == h) = false) :
    d.slcNarrow n = ((d.setSlice n { d.slice n with
      stopFree := d.ns + 1000, mode := .narrow, half := h, narrowHalf := none, degraded := (d.slice n).degraded,
      resume := (d.slice n).resume || !(d.slice n).bq.isEmpty }).slcErr n SLC_ERR.NARROW).journal 0x05 [n, h] := by
  have hquiet : (d.slice n).mode = .switching ∧ (d.slice n).opens = [] ∧ (d.slice n).moves = [] := ⟨hm, ho, hv⟩
  simp only [Dev.slcNarrow, if_pos hquiet, hh, Option.getD_some, hd, Bool.or_false, Bool.false_eq_true, if_false]

theorem Dev.slcSre_enters (hw : (d.slice n).srWanted = true) (hd : (d.slice n).drained = true) (hu : (d.slice n).unitsQuiet d.ns = true)
    (hp : (d.slice n).refreshPaid = true) (ho : d.slotOpen n = true) :
    d.slcSre n = d.setSlice n { (d.slice n).tookSlot d.ns with debt := [], srAt := some d.ns } := if_pos ⟨hw, hd, hu, hp, ho⟩

theorem Dev.slcSrx_leaves {at' : Nat} (hs : (d.slice n).srAt = some at') (hw : (d.slice n).srWanted = false) (ht : at' + 1000 ≤ d.ns)
    (hfree : (d.slice n).slotTaken d.ns = false) :
    d.slcSrx n = d.setSlice n { (d.slice n).tookSlot d.ns with
      srAt := none, noActUntil := d.ns + 200, debt := [], units := [], resume := true
      due := (List.range 192).foldl (fun u b => Tbl.set none u b (some (d.ns + b * d.refInterval n / 192))) (d.slice n).due } := by
  simp only [Dev.slcSrx, hs]
  exact if_pos ⟨by simp [hw], ht, by simp [hfree]⟩

end States

/-- Settles O29: each event is carried out as its conditions hold; a change of band is the one whose whole effect stays open, and it touches due times and halts alone. -/
theorem sliceStates : Obligations.SliceStates := by
  refine fun s n => ⟨?band, fun hdue => ?decay, fun h hm ho hv hh hd => ?narrow, fun hw hd hu hp ho => ?enters, fun at' hs hw ht hfree => ?leaves⟩
  case band =>
    obtain ⟨due, halt, res, he⟩ := Dev.slcReband_eq (s.dev.setSlice n ((s.dev.slice n).reported s.dev.ns (s.dev.bandOf (columnOf n)) s.dev.held)) n (s.dev.refInterval n)
    refine exec_ev (exec_bandApply n s) ((s.dev.slcBandApply_eq n).trans he) ?_
    simp only [Dev.keep_slice, Dev.slice_setSlice]
    exact ⟨Slice.reported_band _ _ _ _, rfl, Slice.reported_debt _ _ _ _, rfl, rfl⟩
  case decay => exact exec_ev (exec_trackerDecay n s) (Dev.slcDecay_due hdue) rfl
  case narrow => exact exec_ev (exec_narrowModeSwitch n s) (Dev.slcNarrow_ends hm ho hv hh hd) rfl
  case enters => exact exec_ev (exec_sre n s) (Dev.slcSre_enters hw hd hu hp ho) rfl
  case leaves =>
    refine exec_ev (exec_srx n s) (Dev.slcSrx_leaves hs hw ht hfree) ?_
    simp [Slice.tookSlot]

end Sys2Proof.Machine
end

section
/-! SUPPORT. Bank-side units: operations carried out on their row, and the arrival, start and end of their commands (R182 to R188, R196 to R203). -/

namespace Sys2Proof.Machine

/-! The rows of this part, each one event. -/

section Rows
variable (n : CoreId) (layer : Fin 12) (bank : Fin 16) (s : State)

theorem exec_bsuCommand (src : Fin 3) (cmd : BitVec 256) : exec (.bsuCommand n src cmd) s = s.ev fun d => d.bsuDeliver n src none cmd := rfl
theorem exec_bsuFill : exec (.bsuFill n layer bank) s = s.ev fun d => d.bankOp n (16 * layer.val + bank.val) 0x01 := rfl
theorem exec_bsuRmax : exec (.bsuRmax n layer bank) s = s.ev fun d => d.bankOp n (16 * layer.val + bank.val) 0x02 := rfl
theorem exec_bsuRsum : exec (.bsuRsum n layer bank) s = s.ev fun d => d.bankOp n (16 * layer.val + bank.val) 0x03 := rfl
theorem exec_bsuExps : exec (.bsuExps n layer bank) s = s.ev fun d => d.bankOp n (16 * layer.val + bank.val) 0x04 := rfl
theorem exec_bsuScale : exec (.bsuScale n layer bank) s = s.ev fun d => d.bankOp n (16 * layer.val + bank.val) 0x05 := rfl
theorem exec_bsuSvwr : exec (.bsuSvwr n layer bank) s = s.ev fun d => d.bankOp n (16 * layer.val + bank.val) 0x06 := rfl
theorem exec_bsuSvset : exec (.bsuSvset n layer bank) s = s.ev fun d => d.bankOp n (16 * layer.val + bank.val) 0x07 := rfl
theorem exec_bsuStart : exec (.bsuStart n) s = s.ev fun d => d.bsuStart n := rfl
theorem exec_bsuComplete : exec (.bsuComplete n) s = s.ev fun d => d.bsuComplete n := rfl
theorem exec_stallLimitExpire : exec (.stallLimitExpire n) s = s.ev fun d => d.bsuStall n := rfl

end Rows

/-! What each operation makes of its row (R183, R184, R197). -/

/-- The elements of a row as its unit decodes them. -/
def Dev.bankElems (d : Dev) (n row : Nat) (fp : Bool) : List Nat := bElems fp ((d.bankRow n row).flatMap fun p => p.2.map (·.v))

/-- The codewords of a row that failed. -/
def Dev.bankBad (d : Dev) (n row : Nat) : List Bool := (d.bankRow n row).map fun p => !p.1.status.isOk

/-- The failures of a row's codewords, in their order. -/
def Dev.bankStatuses (d : Dev) (n row : Nat) : List Status := ((d.bankRow n row).map fun p => p.1.status).filter fun st => !st.isOk

section Operations
variable {c : BitVec 256} (d : Dev) (n row : Nat) (u : BankUnit)

theorem Dev.bankRun_fill (h : bOp c = 0x01) : d.bankRun n row u c = bankFill u c := by simp only [Dev.bankRun, h]
theorem Dev.bankRun_rmax (h : bOp c = 0x02) :
    d.bankRun n row u c = bankReduce f32Max u c (d.bankElems n row (bFp32 c)) (d.bankBad n row) (d.bankStatuses n row) := by
  simp only [Dev.bankRun, h, Dev.bankElems, Dev.bankBad, Dev.bankStatuses]
theorem Dev.bankRun_rsum (h : bOp c = 0x03) :
    d.bankRun n row u c = bankReduce f32Add u c (d.bankElems n row (bFp32 c)) (d.bankBad n row) (d.bankStatuses n row) := by
  simp only [Dev.bankRun, h, Dev.bankElems, Dev.bankBad, Dev.bankStatuses]
theorem Dev.bankRun_exps (h : bOp c = 0x04) :
    d.bankRun n row u c = bankExps u c (d.bankElems n row (bFp32 c)) (d.bankBad n row) (d.bankStatuses n row) := by
  simp only [Dev.bankRun, h, Dev.bankElems, Dev.bankBad, Dev.bankStatuses]
theorem Dev.bankRun_scale (h : bOp c = 0x05) :
    d.bankRun n row u c = bankScale u c (d.bankElems n row (bFp32 c)) (d.bankBad n row) (d.bankStatuses n row) := by
  simp only [Dev.bankRun, h, Dev.bankElems, Dev.bankBad, Dev.bankStatuses]
theorem Dev.bankRun_svwr (h : bOp c = 0x06) : d.bankRun n row u c = bankSvwr u c := by simp only [Dev.bankRun, h]
theorem Dev.bankRun_svset (h : bOp c = 0x07) : d.bankRun n row u c = bankSvset u c := by simp only [Dev.bankRun, h]

end Operations

/-- An operation that has arrived in its unit is carried out: the code events of a row that it reads are counted first. -/
theorem Dev.bankOp_arrived {d : Dev} {n b op : Nat} {l : OpLatch} {c : BsuCmd} {o : BankOut} (hl : ((d.slice n).unit b).latch = some l)
    (hd : l.done = false) (hop : l.op = op) (hc : ((d.slice n).bq.find? fun c => c.seq == l.cmdSeq) = some c)
    (harr : l.endAt ≤ d.ns + bBusy op) (ho : d.bankRun n l.row ((d.slice n).unit b) c.cmd = o) :
    d.bankOp n b op = (if bReads op then d.bankEvents n l.row else d).bankPut n b l o := by
  simp only [Dev.bankOp, hl, hop, harr, and_self, if_true, Dev.bankNow, hd, Bool.false_eq_true, if_false, hc, ho]

/-! Arrival (R185, R196, R203). -/

section Arrival
variable {d : Dev} {n : Nat}

theorem Dev.bsuDeliver_accepts {src : Fin 3} (owner : Option Nat) (cmd : BitVec 256) (hroom : (d.slice n).bsuFull = false)
    (hpend : src = 2 → (d.slice n).bsuPending = false) :
    d.bsuDeliver n src owner cmd = d.bsuAccept n ⟨src, owner, cmd, d.ns, 0, [], none, d.ns⟩ := by
  have hkept : ¬ (src = 2 ∧ (d.slice n).bsuPending = true) := fun ⟨hsrc, hp⟩ => Bool.false_ne_true ((hpend hsrc).symm.trans hp)
  simp only [Dev.bsuDeliver, hroom, Bool.false_eq_true, false_or, if_neg hkept, if_false]

variable {c : BsuCmd} (hr : (d.slice n).resetting = false) (hs : (d.slice n).srAt = none) (hw : (d.slice n).srWanted = false)
include hr hs hw

/-- A sound command that meets no other source and no access to its rows takes the last place in the slice's order. -/
theorem Dev.bsuAccept_queues (hbad : bBad c.cmd = false)
    (halone : ((d.slice n).bq.filter fun e => e.arr == d.ns && e.src != c.src && e.started.isEmpty) = [])
    (hrows : ∀ i < bCount c.cmd, (d.slice n).rivals d.ns (bRow c.cmd i) = []) :
    d.bsuAccept n c = (d.setSlice n { d.slice n with seq := (d.slice n).seq + 1 }).setSlice n
      { d.slice n with bq := bqInsert { c with seq := (d.slice n).seq, arr := d.ns } (d.slice n).bq, seq := (d.slice n).seq + 1 } := by
  have hnone : ((List.range (bCount c.cmd)).flatMap fun i => (d.slice n).rivals d.ns (bRow c.cmd i)) = [] :=
    List.flatMap_eq_nil_iff.mpr fun i hi => hrows i (List.mem_range.mp hi)
  simp only [Dev.bsuAccept, hr, hs, hw, hbad, Option.isSome_none, Bool.or_self, Bool.false_eq_true, if_false, halone, List.map_nil, if_true, hnone,
    List.filter_nil, Dev.arrPlace_last, Dev.slice_setSlice]
  rfl

theorem Dev.bsuAccept_refuses (hbad : bBad c.cmd = true) :
    d.bsuAccept n c = (d.bsuErr n BSU_ERR.BAD_CMD (bFirst c.cmd)).bsuReport n c .badDescriptor 0 := by
  simp only [Dev.bsuAccept, hr, hs, hw, hbad, Option.isSome_none, Bool.or_self, Bool.false_eq_true, if_false, if_true]

end Arrival

/-! Start and end (R187, R188, R199, R202). -/

section Ends
variable {d d1 : Dev} {n : Nat} {c : BsuCmd}

theorem Dev.bsuStart_starts {seq i : Nat} (hslot : d.rowSlot n = (.start seq i, d1)) (hc : ((d1.slice n).bq.find? fun c => c.seq == seq) = some c) :
    d.bsuStart n = ((d1.setSlice n { d1.slice n with lastSlot := some d1.ns }).bsuStartOne n seq i).bsuStartMore n seq (rowLayer (bRow c.cmd i))
      (List.range (bCount c.cmd)) (d1.hurdleLayer n - 1) := by
  simp only [Dev.bsuStart, hslot, hc]

theorem Dev.bsuComplete_reports
    (hc : ((d.slice n).bq.find? fun c => c.started.length == bCount c.cmd && (d.slice n).bsuEnded c d.ns) = some c) :
    d.bsuComplete n = ((d.setSlice n ((d.slice n).bsuDrop c.seq)).bsuReport n c ((c.fail.map (·.2)).getD .ok) (bCount c.cmd)).bsuNext n := by
  simp only [Dev.bsuComplete, hc]
  cases c.fail <;> rfl

theorem Dev.bsuStall_reports {h : Nat} (hh : d.haltSince n = some h)
    (hc : ((d.slice n).bq.find? fun c => d.fld BSU_CFG.STALL_LIMIT n 0 * 1000000 != 0 &&
      decide (max (max c.arr c.lastStart) h + d.fld BSU_CFG.STALL_LIMIT n 0 * 1000000 ≤ d.ns) && (d.slice n).bsuEnded c d.ns &&
      c.started.length != bCount c.cmd) = some c) :
    d.bsuStall n = (((d.setSlice n ((d.slice n).bsuDrop c.seq)).bsuErr n BSU_ERR.STALLED (bFirst c.cmd)).bsuReport n c .thermalHold
      c.started.length).bsuNext n := by
  simp only [Dev.bsuStall, hh, hc]

end Ends

/-- Settles O38: each operation is the arrived one of its unit; a command is accepted, started and ended by the one rule that its hypotheses select. -/
theorem bankSideUnits : Obligations.BankSideUnits := by
  refine ⟨fun s n layer bank l c hl hd hop hc => ?operations, fun s n =>
    ⟨fun src cmd hroom hpend hr hs hw => ⟨fun hbad halone hrows => ?queued, fun hbad => ?refused⟩,
     fun seq i d1 c hslot hc => ?started, fun c hc => ?completed, fun h c hh hc => ?stalled⟩⟩
  case operations =>
    have carriedOut {op : Nat} {o : BankOut} (h : bOp c.cmd = op) := Dev.bankOp_arrived (o := o) hl hd (hop.trans h) hc
    refine ⟨fun h harr => ?fill, fun h harr => ?rmax, fun h harr => ?rsum, fun h harr => ?exps, fun h harr => ?scale, fun h harr => ?svwr, fun h harr => ?svset⟩
    case fill => exact exec_ev (exec_bsuFill n layer bank s) (carriedOut h harr (Dev.bankRun_fill _ _ _ _ h)) rfl
    case rmax => exact exec_ev (exec_bsuRmax n layer bank s) (carriedOut h harr (Dev.bankRun_rmax _ _ _ _ h)) rfl
    case rsum => exact exec_ev (exec_bsuRsum n layer bank s) (carriedOut h harr (Dev.bankRun_rsum _ _ _ _ h)) rfl
    case exps => exact exec_ev (exec_bsuExps n layer bank s) (carriedOut h harr (Dev.bankRun_exps _ _ _ _ h)) rfl
    case scale => exact exec_ev (exec_bsuScale n layer bank s) (carriedOut h harr (Dev.bankRun_scale _ _ _ _ h)) rfl
    case svwr => exact exec_ev (exec_bsuSvwr n layer bank s) (carriedOut h harr (Dev.bankRun_svwr _ _ _ _ h)) rfl
    case svset => exact exec_ev (exec_bsuSvset n layer bank s) (carriedOut h harr (Dev.bankRun_svset _ _ _ _ h)) rfl
  case queued =>
    refine exec_ev (exec_bsuCommand n s src cmd) ((Dev.bsuDeliver_accepts none cmd hroom hpend).trans (Dev.bsuAccept_queues hr hs hw hbad halone hrows)) ⟨?_, rfl, rfl⟩
    rw [Dev.keep_slice, Dev.slice_setSlice]
  case refused =>
    exact exec_ev (exec_bsuCommand n s src cmd) ((Dev.bsuDeliver_accepts none cmd hroom hpend).trans (Dev.bsuAccept_refuses hr hs hw hbad)) rfl
  case started => exact exec_ev (exec_bsuStart n s) (Dev.bsuStart_starts hslot hc) rfl
  case completed => exact exec_ev (exec_bsuComplete n s) (Dev.bsuComplete_reports hc) rfl
  case stalled => exact exec_ev (exec_stallLimitExpire n s) (Dev.bsuStall_reports hh hc) rfl

end Sys2Proof.Machine
end

section
/-! SUPPORT. What stands aside: the data array, the code's logs and board memory's buffers never look at regions, arbiters or requests over the port (R224, R229, R232, R365 to R369, R457 to R473). -/

namespace Sys2Proof.Machine

/-- The device with other regions, arbiters and requests over the port: what the data array and board memory never look at. -/
def Dev.aside (d : Dev) (r : Tbl Region) (a : Tbl Arb) (u : List Uio) : Dev := { d with regions := r, arbs := a, uio := u }

theorem Dev.aside_self (d : Dev) : d.aside d.regions d.arbs d.uio = d := rfl

section Aside
variable (d : Dev) (r : Tbl Region) (a : Tbl Arb) (v : List Uio)

@[simp] theorem Dev.count_aside (f : Fld) (u i n : Nat) : (d.aside r a v).count f u i n = (d.count f u i n).aside r a v := rfl
@[simp] theorem Dev.setFld_aside (f : Fld) (u i n : Nat) : (d.aside r a v).setFld f u i n = (d.setFld f u i n).aside r a v := rfl
@[simp] theorem Dev.emit_aside (o : Output) : (d.aside r a v).emit o = (d.emit o).aside r a v := rfl
@[simp] theorem Dev.histEcc_aside (st kind : Nat) : (d.aside r a v).histEcc st kind = (d.histEcc st kind).aside r a v := rfl
@[simp] theorem Dev.sumAsk_aside (e : SumEnt) : (d.aside r a v).sumAsk e = (d.sumAsk e).aside r a v := rfl
@[simp] theorem Dev.eccSet_aside (t : EccTbl) (f : EccFlds → Fld) (e n : Nat) : (d.aside r a v).eccSet t f e n = (d.eccSet t f e n).aside r a v := rfl
@[simp] theorem Dev.eccGet_aside (t : EccTbl) (f : EccFlds → Fld) (e : Nat) : (d.aside r a v).eccGet t f e = d.eccGet t f e := rfl
@[simp] theorem Dev.eccFind_aside (t : EccTbl) (cw kind st : Nat) : (d.aside r a v).eccFind t cw kind st = d.eccFind t cw kind st := rfl
@[simp] theorem Dev.eccPlace_aside (t : EccTbl) : (d.aside r a v).eccPlace t = d.eccPlace t := rfl
@[simp] theorem Dev.eccNew_aside (t : EccTbl) (e cw bit kind st unit n : Nat) :
    (d.aside r a v).eccNew t e cw bit kind st unit n = (d.eccNew t e cw bit kind st unit n).aside r a v := rfl
@[simp] theorem Dev.readCw_aside (cw : Nat) (l : List Nat) : (d.aside r a v).readCw cw l = d.readCw cw l := rfl
@[simp] theorem Dev.mergeCls_aside (k len : Nat) : (d.aside r a v).mergeCls k len = d.mergeCls k len := rfl
@[simp] theorem Dev.read_aside (k len : Nat) : (d.aside r a v).read k len = d.read k len := rfl

@[simp] theorem Dev.raise_aside (g : List Fld) (m : Fld) (u i : Nat) (b : Fld) (l : List (Fld × Nat)) :
    (d.aside r a v).raise g m u i b l = (d.raise g m u i b l).aside r a v := by
  have hfirst : l.foldl (fun e p => e.setFld p.1 u i p.2) ((d.setBit b u i true).aside r a v) = _ :=
    List.foldl_hom (Dev.aside · r a v) fun e p => e.setFld_aside r a v p.1 u i p.2
  refine Eq.trans ?_ (apply_ite (Dev.aside · r a v) _ _ _).symm
  exact congrArg (ite _ _) hfirst

@[simp] theorem Dev.event_aside (log : Nat) (kind : EvKind) (p : List Nat) :
    (d.aside r a v).event log kind p = (d.event log kind p).aside r a v := by
  unfold Dev.event Dev.aside
  dsimp only
  split_ifs <;> rfl

@[simp] theorem Dev.eccPut_aside (t : EccTbl) (cw bit kind st unit : Nat) :
    (d.aside r a v).eccPut t cw bit kind st unit = ((d.eccPut t cw bit kind st unit).1.aside r a v, (d.eccPut t cw bit kind st unit).2) := by
  simp only [Dev.eccPut, Dev.eccFind_aside, Dev.eccPlace_aside]
  split
  · rfl
  · split <;> rfl

@[simp] theorem Dev.eccLog_aside (t : EccTbl) (cw bit kind st unit : Nat) :
    (d.aside r a v).eccLog t cw bit kind st unit = (d.eccLog t cw bit kind st unit).aside r a v := by
  obtain ⟨d1, new, h⟩ : ∃ x y, d.eccPut t cw bit kind st unit = (x, y) := ⟨_, _, rfl⟩
  simp only [Dev.eccLog, Dev.eccPut_aside, h, Dev.sumAsk_aside, Dev.eccFind_aside, Dev.eccGet_aside, Dev.eccSet_aside]
  split
  · rfl
  · cases new
    · cases d1.eccFind t cw kind st <;> cases d1.eccFind .sum cw kind st <;> rfl
    · by_cases hk : (kind != 0) = true <;> simp [hk]

@[simp] theorem Dev.eccEvent_aside (st unit cw : Nat) (cls : CwClass) :
    (d.aside r a v).eccEvent st unit cw cls = (d.eccEvent st unit cw cls).aside r a v := by
  cases cls <;> simp [Dev.eccEvent]

@[simp] theorem Dev.putCw_aside (cw : Nat) (b : List PByte) : (d.aside r a v).putCw cw b = (d.putCw cw b).aside r a v := by
  by_cases hp : anyPoison b = true
  · simp only [Dev.putCw, if_pos hp, Dev.aside]
  · simp only [Dev.putCw, if_neg hp, Dev.aside]

@[simp] theorem Dev.scrubCw_aside (cw : Nat) (cls : CwClass) : (d.aside r a v).scrubCw cw cls = (d.scrubCw cw cls).aside r a v := by
  cases cls <;> simp [Dev.scrubCw]

@[simp] theorem Dev.bcrErr_aside (c : Nat) (bit : Fld) (l : Nat) : (d.aside r a v).bcrErr c bit l = (d.bcrErr c bit l).aside r a v :=
  Dev.raise_aside ..

/-! The data array (R229, R232). -/

@[simp] theorem Dev.dataEvent_aside (c : Nat) (p : Nat × CwClass) : (d.aside r a v).dataEvent c p = (d.dataEvent c p).aside r a v := by
  obtain ⟨cw, cls⟩ := p
  cases cls <;> simp [Dev.dataEvent]

@[simp] theorem Dev.dataEvents_aside (c : Nat) (l : List (Nat × CwClass)) :
    l.foldl (fun e p => e.dataEvent c p) (d.aside r a v) = (l.foldl (fun e p => e.dataEvent c p) d).aside r a v :=
  List.foldl_hom (Dev.aside · r a v) fun e p => e.dataEvent_aside r a v c p

theorem Dev.dataRead_aside (c key len : Nat) :
    (d.aside r a v).dataRead c key len = ((d.dataRead c key len).1, (d.dataRead c key len).2.1, (d.dataRead c key len).2.2.aside r a v) := by
  simp [Dev.dataRead]

@[simp] theorem Dev.writeCw_aside (cw off : Nat) (b : List PByte) : (d.aside r a v).writeCw cw off b = (d.writeCw cw off b).aside r a v := by
  unfold Dev.writeCw
  split <;> simp

theorem Dev.writeFrom_aside (fuel k : Nat) (b : List PByte) : (d.aside r a v).writeFrom fuel k b = (d.writeFrom fuel k b).aside r a v := by
  induction fuel generalizing d k b with
  | zero => rfl
  | succ n ih =>
    cases b with
    | nil => rfl
    | cons x t => simp only [Dev.writeFrom, Dev.writeCw_aside, ih]

@[simp] theorem Dev.write_aside (k : Nat) (b : List PByte) : (d.aside r a v).write k b = (d.write k b).aside r a v := Dev.writeFrom_aside ..

theorem Dev.dataWrite_aside (c key : Nat) (b : List PByte) :
    (d.aside r a v).dataWrite c key b = ((d.dataWrite c key b).1, (d.dataWrite c key b).2.aside r a v) := by
  simp [Dev.dataWrite]

theorem Dev.redCw_aside (c op cw off : Nat) (b : List PByte) :
    (d.aside r a v).redCw c op cw off b = ((d.redCw c op cw off b).1, (d.redCw c op cw off b).2.aside r a v) := by
  obtain ⟨cls, old, h⟩ : ∃ x y, d.readCw cw [] = (x, y) := ⟨_, _, rfl⟩
  cases cls <;> by_cases hb : anyPoison b = true <;> simp [Dev.redCw, h, hb]

/-- A packet applied within one codeword more; the first status that is not OK stands (R229). -/
def Dev.redPart (c op key : Nat) (b : List PByte) (p : Status × Dev) (cw : Nat) : Status × Dev :=
  let lo := max (32 * cw) key
  let part := (b.drop (lo - key)).take (32 * cw + 32 - lo)
  let t := p.2.redCw c op cw (lo % 32) (if anyPoison b then poisonBytes part.length else part)
  (p.1.first t.1, t.2)

/-- What has been applied of a packet is counted, and a bad target recorded (R229, R238, R240). -/
def Dev.redNote (d : Dev) (c key : Nat) (bad : Bool) (st : Status) : Dev :=
  let e := d.count BCR_RED.APPLIED c 0 1
  if !bad && !st.isOk then e.bcrErr c BCR_ERR.RED_ERR (backAddr (key / 32) / 4096) else e

theorem Dev.redApply_eq (c op key : Nat) (b : List PByte) :
    d.redApply c op key b =
      (let p := (cwsOf key b.length).foldl (Dev.redPart c op key b) (.ok, d)
       (p.1, p.2.redNote c key (anyPoison b) p.1)) := rfl

theorem Dev.redNote_aside (c key : Nat) (bad : Bool) (st : Status) : (d.aside r a v).redNote c key bad st = (d.redNote c key bad st).aside r a v := by
  unfold Dev.redNote
  split <;> simp

theorem Dev.redApply_aside (c op key : Nat) (b : List PByte) :
    (d.aside r a v).redApply c op key b = ((d.redApply c op key b).1, (d.redApply c op key b).2.aside r a v) := by
  have hparts : (cwsOf key b.length).foldl (Dev.redPart c op key b) (.ok, d.aside r a v) = _ :=
    List.foldl_hom (g₁ := Dev.redPart c op key b) (init := (.ok, d)) (Prod.map id (Dev.aside · r a v)) fun p cw => by
      simp [Dev.redPart, Dev.redCw_aside]
  simp only [Dev.redApply_eq, hparts, Prod.map_fst, Prod.map_snd, id, Dev.redNote_aside]

/-! Answers to requests (R27, R334, R335). -/

theorem Dev.portReply_aside (tag : Nat) (st : Status) (b : List PByte) : (d.aside r a v).portReply tag st b = (d.portReply tag st b).aside r a v := by
  have hport : (d.aside r a v).port = d.port := rfl
  have hset (l : List PortReq) : { d.aside r a v with port := l } = Dev.aside { d with port := l } r a v := rfl
  simp only [Dev.portReply, hport, hset, Dev.count_aside, Dev.event_aside]
  split
  · rfl
  · split_ifs <;> rfl

@[simp] theorem Dev.memReply_aside (src : Nat) (st : Status) (b : List PByte) : (d.aside r a v).memReply src st b = (d.memReply src st b).aside r a v := by
  unfold Dev.memReply
  split
  · exact Dev.portReply_aside ..
  · rfl

theorem Dev.scratchDo_aside (c : Nat) (w : Waiter) : (d.aside r a v).scratchDo c w = (d.scratchDo c w).aside r a v := by
  cases w with
  | read q => simp [Dev.scratchDo, Dev.dataRead_aside]
  | write q => simp [Dev.scratchDo, Dev.dataWrite_aside]
  | red op src b data hint => simp [Dev.scratchDo, Dev.redApply_aside]
  | op o hint own => rfl

/-! Board memory (R365, R366, R369). -/

@[simp] theorem Dev.gdrEvent_aside (chan cw : Nat) (cls : CwClass) : (d.aside r a v).gdrEvent chan cw cls = (d.gdrEvent chan cw cls).aside r a v := by
  cases cls <;> simp [Dev.gdrEvent, Dev.gdrErr]

theorem Dev.wcbDrainCw_aside (chan : Nat) (e : WcbEnt) (w : Nat) : (d.aside r a v).wcbDrainCw chan e w = (d.wcbDrainCw chan e w).aside r a v := by
  have hkey : (d.aside r a v).gdrU chan e.blk (32 * w) = d.gdrU chan e.blk (32 * w) := rfl
  simp only [Dev.wcbDrainCw, hkey]
  split_ifs <;> simp

@[simp] theorem Dev.pmcAdd_aside (cnt ovf : Fld) (u i k : Nat) :
    (d.aside r a v).pmcAdd cnt ovf u i k = ((d.pmcAdd cnt ovf u i k).1.aside r a v, (d.pmcAdd cnt ovf u i k).2) := by
  have hsoft : (d.aside r a v).softNow cnt u i = d.softNow cnt u i := rfl
  have hfld : (d.aside r a v).fld cnt u i = d.fld cnt u i := rfl
  simp only [Dev.pmcAdd, hsoft, hfld]
  split_ifs <;> rfl

@[simp] theorem Dev.wcbOf_aside (chan : Nat) : (d.aside r a v).wcbOf chan = d.wcbOf chan := rfl
@[simp] theorem Dev.setWcb_aside (chan : Nat) (l : List WcbEnt) : (d.aside r a v).setWcb chan l = (d.setWcb chan l).aside r a v := rfl

@[simp] theorem Dev.pmcDev_aside (code k : Nat) : (d.aside r a v).pmcDev code k = (d.pmcDev code k).aside r a v := by
  unfold Dev.pmcDev
  split
  · rfl
  · refine List.foldl_hom (Dev.aside · r a v) fun e i => ?_
    have hbit : (e.aside r a v).bit DEV_PCTL.EN 0 i = e.bit DEV_PCTL.EN 0 i := rfl
    have hfld : (e.aside r a v).fld DEV_PCTL.EVENT 0 i = e.fld DEV_PCTL.EVENT 0 i := rfl
    simp only [hbit, hfld, Dev.pmcAdd_aside]
    split <;> rfl

theorem Dev.wcbDrainOne_aside (chan : Nat) (e : WcbEnt) : (d.aside r a v).wcbDrainOne chan e = (d.wcbDrainOne chan e).aside r a v := by
  have hcws : (List.range 120).foldl (fun d w => d.wcbDrainCw chan e w) (d.aside r a v) = _ :=
    List.foldl_hom (Dev.aside · r a v) fun d w => Dev.wcbDrainCw_aside d r a v chan e w
  simp only [Dev.wcbDrainOne, hcws]
  split <;> simp

theorem Dev.gdrDrain_aside (c : Nat) (e : WcbEnt) : (d.aside r a v).gdrDrain c e = (d.gdrDrain c e).aside r a v := by
  unfold Dev.gdrDrain
  rw [← Dev.wcbDrainOne_aside]
  rfl

theorem Dev.gddrNeed_aside (u len : Nat) : (d.aside r a v).gddrNeed u len = (d.gddrNeed u len).aside r a v :=
  List.foldl_hom (Dev.aside · r a v) fun _ c => List.foldl_hom (Dev.aside · r a v) fun e w => e.gdrDrain_aside r a v c w

end Aside

/-- An answer to a requester that is not the port goes out as it is. -/
theorem Dev.memReply_emit {d : Dev} {src : Nat} {st : Status} {data : List PByte} (h : src < 65536) : d.memReply src st data = d.emit (.memResp src st data) :=
  if_neg (Nat.not_le.2 h)

end Sys2Proof.Machine
end

section
/-! SUPPORT. A region's controller: what finds its region idle is granted its banks and carried out at once (R211, R212, R231). -/

namespace Sys2Proof

/-- A table of defaults reads as the default everywhere. -/
theorem Tbl.get_of_forall {α : Type} {x : α} {t : Tbl α} (h : ∀ p ∈ t, p.2 = x) (k : Nat) : Tbl.get x t k = x := by
  induction t with
  | nil => rfl
  | cons e t ih =>
    simp only [Tbl.get]
    split
    · exact h e (by simp)
    · exact ih fun p hp => h p (by simp [hp])

end Sys2Proof

namespace Sys2Proof.Machine

/-! A region at rest (R231). -/

/-- Nothing is queued at a region, no fill is in progress and none waits for a way: a cycle of its controller grants nothing. -/
structure Region.Settled (r : Region) : Prop where
  queue : r.queue = []
  fills : ∀ p ∈ r.fills, p.2 = none
  fillWait : r.fillWait = []

/-- An idle region, by its parts. -/
structure Region.AtRest (r : Region) (ns : Nat) : Prop extends r.Settled where
  held : r.held = []
  waiting : r.waiting = []
  zeroAt : r.zeroAt = none
  cyc : r.cyc < 2 * ns

theorem Region.atRest_of_idle {r : Region} {ns : Nat} (h : r.idle ns = true) : r.AtRest ns := by
  simp only [Region.idle, Region.quiet, Region.partBusy, Bool.and_eq_true, List.isEmpty_iff, List.all_eq_true, Bool.not_eq_true', Option.isNone_iff_eq_none,
    Option.isSome_eq_false_iff, decide_eq_true_eq] at h
  obtain ⟨⟨⟨⟨⟨⟨⟨⟨hqueue, hheld⟩, hwaiting⟩, hfills⟩, hfillWait⟩, -⟩, -⟩, hzeroAt⟩, hcyc⟩ := h
  exact ⟨⟨hqueue, hfills, hfillWait⟩, hheld, hwaiting, hzeroAt, hcyc⟩

theorem Region.Settled.fill {r : Region} (h : r.Settled) (l : Nat) : r.fill l = none := Tbl.get_of_forall h.fills l

/-! The controller's cycles (R231). -/

section Cycles
variable {d : Dev} {c : Nat}

/-- A cycle's beginning sets the cycle and the banks granted in it, of the region alone. -/
theorem Dev.regBegin_cases (d : Dev) (c t : Nat) :
    d.regBegin c t = d ∨ ∃ u, d.regBegin c t = d.setRegion c { d.region c with cyc := t, used := u } := by
  unfold Dev.regBegin
  dsimp only
  split
  · exact .inr ⟨_, rfl⟩
  · exact .inl rfl

/-- What a cycle's beginning leaves of the device, and of the region. -/
theorem Dev.regBegin_kept (d : Dev) (c t : Nat) :
    (d.regBegin c t).outMem = d.outMem ∧ ∃ n u, (d.regBegin c t).region c = { d.region c with cyc := n, used := u } := by
  obtain h | ⟨u, h⟩ := d.regBegin_cases c t <;> rw [h]
  · exact ⟨rfl, _, _, rfl⟩
  · exact ⟨rfl, _, _, Dev.region_setRegion ..⟩

theorem Dev.regBegin_settled (h : (d.region c).Settled) (t : Nat) : ((d.regBegin c t).region c).Settled := by
  obtain ⟨-, n, u, hr⟩ := d.regBegin_kept c t
  rw [hr]
  exact ⟨h.queue, h.fills, h.fillWait⟩

theorem Dev.fillScan_settled (h : ∀ p ∈ (d.region c).fills, p.2 = none) : d.fillScan c = d :=
  List.foldlRecOn (motive := (· = d)) _ _ rfl fun e he p hp => by rw [h p hp]; exact he

theorem Dev.fillRetry_settled (h : (d.region c).Settled) : d.fillRetry c = d := by
  rw [Dev.fillRetry, h.fillWait]; rfl

theorem Dev.regCycle_settled (h : (d.region c).Settled) (t : Nat) : d.regCycle c t = d.regBegin c t := by
  have hq := (Dev.regBegin_settled h t).queue
  simp only [Dev.regCycle, Dev.fillScan_settled h.fills, hq, List.isEmpty_nil, if_true]

/-- The cycles of a settled region begin, and grant nothing. -/
theorem Dev.regWork_settled (h : (d.region c).Settled) : d.regWork c = (d.regBegin c (2 * d.ns)).regBegin c (2 * d.ns + 1) := by
  have h1 := Dev.regBegin_settled h (2 * d.ns)
  rw [Dev.regWork, Dev.regCycle_settled h, Dev.regCycle_settled h1, Dev.fillRetry_settled (Dev.regBegin_settled h1 _)]

theorem Dev.regWork_kept (h : (d.region c).Settled) :
    (d.regWork c).outMem = d.outMem ∧ ∃ n u, (d.regWork c).region c = { d.region c with cyc := n, used := u } := by
  obtain ⟨hout, n, u, hr⟩ := d.regBegin_kept c (2 * d.ns)
  obtain ⟨hout', n', u', hr'⟩ := (d.regBegin c (2 * d.ns)).regBegin_kept c (2 * d.ns + 1)
  rw [Dev.regWork_settled h]
  exact ⟨hout'.trans hout, n', u', by rw [hr', hr]⟩

end Cycles

/-! Something that finds its region idle is granted at once (R231). -/

section Alone
variable {d : Dev} {c : Nat}

/-- One entry has reached a region that nothing waits at, in a cycle that has granted no bank. -/
structure Dev.Asked (d : Dev) (c : Nat) (e : RegEnt) : Prop where
  queue : (d.region c).queue = [e]
  used : (d.region c).used = []
  waiting : (d.region c).waiting = []

theorem Dev.regFree_alone {w : Waiter} {e : RegEnt} (hw : (d.region c).waiting = []) (hact : e.act = .acc w) : d.regFree c e = true := by
  cases w <;> simp [Dev.regFree, hact, Dev.lineBusy, Region.missred, hw]

theorem Dev.regPick_alone {w : Waiter} {e : RegEnt} (h : d.Asked c e) (hact : e.act = .acc w) :
    d.regPick c = some (e, { d with arbs := Tbl.set ⟨false, none⟩ d.arbs (arbKey 13 c) (d.arb (arbKey 13 c)) }) := by
  have hbanks : (e.banks.isEmpty || (decide (0 < 24) && e.banks.any fun b => !([] : List Nat).contains b)) = true := by
    cases e.banks <;> simp
  have hcands : d.regCands c [] [] [e] = [e] := by
    simp only [Dev.regCands, List.any_nil, Dev.regFree_alone h.waiting hact, List.length_nil, hbanks, Bool.not_true, Bool.or_self, Bool.false_eq_true, if_false]
  have htie : d.tie (arbKey 13 c) [e.idx] =
      some (e.idx, { d with arbs := Tbl.set ⟨false, none⟩ d.arbs (arbKey 13 c) (d.arb (arbKey 13 c)) }) := rfl
  have hdedup : [e.idx].dedup = [e.idx] := rfl
  simp only [Dev.regPick, h.queue, h.used, hcands, oldest, beq_self_eq_true, List.filter_cons, if_true, List.filter_nil, List.map_cons, List.map_nil, hdedup, htie,
    Bool.and_self, List.find?_cons_of_pos, Option.map_some]

theorem Dev.regGrant_alone {e : RegEnt} (hq : (d.region c).queue = [e]) (hu : (d.region c).used = []) (hb : e.banks.Nodup) (hn : e.banks.length ≤ 24) :
    d.regGrant c e = (d.setRegion c { d.region c with queue := [], used := e.banks }).regDo c e := by
  have htake : ((e.banks.filter fun b => !([] : List Nat).contains b).dedup).take (24 - ([] : List Nat).length) = e.banks := by
    simp [List.dedup_eq_self.2 hb, List.take_of_length_le hn]
  have hleft : e.banks.foldl (fun l b => l.erase b) e.banks = [] := by
    rw [← List.diff_eq_foldl, hb.sdiff_eq_filter]
    simp
  simp only [Dev.regGrant, hq, hu, htake, hleft, if_true, List.erase_cons_head, List.nil_append]

theorem Dev.regRound_empty (h : (d.region c).queue = []) (fuel : Nat) : d.regRound c fuel = d := by
  cases fuel with
  | zero => rfl
  | succ n => simp only [Dev.regRound, Dev.regPick, h, Dev.regCands, oldest]

/-- Cycle t begins and grants these banks, with the arbiter as it was: one requester alone is no tie. -/
def Dev.granted (d : Dev) (c t : Nat) (banks : List Nat) : Dev :=
  let e := d.setRegion c { d.region c with cyc := t, used := [] }
  ({ e with arbs := Tbl.set ⟨false, none⟩ e.arbs (arbKey 13 c) (e.arb (arbKey 13 c)) } : Dev).setRegion c { e.region c with queue := [], used := banks }

/-- A cycle that finds one entry in the queue, and nothing that waits, grants it and carries it out. -/
theorem Dev.regCycle_alone {w : Waiter} {e : RegEnt} {t : Nat} (hq : (d.region c).queue = [e]) (hact : e.act = .acc w) (hw : (d.region c).waiting = [])
    (hf : ∀ p ∈ (d.region c).fills, p.2 = none) (hz : (d.region c).zeroAt = none) (ht : (d.region c).cyc < t) (hb : e.banks.Nodup) (hn : e.banks.length ≤ 24) :
    d.regCycle c t = ((d.granted c t e.banks).regDo c e).regRound c e.banks.length := by
  have hbegin : d.regBegin c t = d.setRegion c { d.region c with cyc := t, used := [] } := by simp [Dev.regBegin, ht, hz]
  have hasked : (d.setRegion c { d.region c with cyc := t, used := [] }).Asked c e := by
    refine ⟨?_, ?_, ?_⟩ <;> rw [Dev.region_setRegion]
    exacts [hq, hw]
  have hturns : ((d.setRegion c { d.region c with cyc := t, used := [] }).region c).turns = e.banks.length + 1 := by
    rw [Region.turns, hasked.queue]
    simp
  simp only [Dev.regCycle, Dev.fillScan_settled hf, hbegin, hturns, hasked.queue, List.isEmpty_cons, Bool.false_eq_true, if_false]
  rw [Dev.regRound, Dev.regPick_alone hasked hact]
  exact congrArg (Dev.regRound · c e.banks.length) (Dev.regGrant_alone hasked.queue hasked.used hb hn)

/-- Device e is d with the arbiters as they may be after a grant, and with region c granted its banks for what has reached it alone. -/
structure Dev.GrantedTo (d e : Dev) (c : Nat) (banks : List Nat) : Prop where
  aside : ∃ r a, e = d.aside r a d.uio
  here : e.region c = { d.region c with queue := [], cyc := 2 * d.ns, used := banks }
  other : ∀ n, n ≠ c → e.region n = d.region n

theorem Dev.granted_to (d : Dev) (c line idx : Nat) (banks : List Nat) (act : RegAct) :
    d.GrantedTo ((d.regEnq c line idx banks act).granted c (2 * d.ns) banks) c banks where
  aside := ⟨_, _, rfl⟩
  here := by simp only [Dev.granted, Dev.regEnq, Dev.region_setRegion]
  other n hn := by
    have hset (e : Dev) (r : Region) : (e.setRegion c r).region n = e.region n := Dev.region_setRegion_ne e r hn
    exact (hset _ _).trans ((hset _ _).trans (hset _ _))

/-- What finds its region idle is granted at once and carried out; where that leaves the region settled, the second cycle grants nothing. -/
theorem Dev.regPut_alone {line idx : Nat} {banks : List Nat} {w : Waiter} (h : (d.region c).AtRest d.ns) (hb : banks.Nodup) (hn : banks.length ≤ 24) :
    ∃ e, d.GrantedTo e c banks ∧
      (((e.accDo c line w).region c).Settled → d.regPut c line idx banks (.acc w) = (e.accDo c line w).regBegin c (2 * d.ns + 1)) := by
  refine ⟨_, d.granted_to c line idx banks (.acc w), fun hs => ?_⟩
  have hreg : (d.regEnq c line idx banks (.acc w)).region c = { d.region c with queue := [⟨d.ns, idx, line, banks, .acc w⟩] } := by
    rw [Dev.regEnq, Dev.region_setRegion, h.queue, List.nil_append]
  have hfirst : (d.regEnq c line idx banks (.acc w)).regCycle c (2 * d.ns) = ((d.regEnq c line idx banks (.acc w)).granted c (2 * d.ns) banks).accDo c line w :=
    (Dev.regCycle_alone (congrArg Region.queue hreg) rfl (by rw [hreg]; exact h.waiting) (by rw [hreg]; exact h.fills) (by rw [hreg]; exact h.zeroAt)
      (by rw [hreg]; exact h.cyc) hb hn).trans (Dev.regRound_empty hs.queue _)
  have hns : (d.regEnq c line idx banks (.acc w)).ns = d.ns := rfl
  rw [Dev.regPut, Dev.regWork, hns, hfirst, Dev.regCycle_settled hs, Dev.fillRetry_settled (Dev.regBegin_settled hs _)]

end Alone

/-! Scratch (R211, R212, R229). -/

section Scratch
variable {d : Dev} {c : Nat}

theorem Dev.GrantedTo.scratchBacked {e : Dev} {banks : List Nat} (h : d.GrantedTo e c banks) (a len : Nat) : e.scratchBacked a len = d.scratchBacked a len := by
  have hzeroing : ∀ n, (e.region n).zeroing = (d.region n).zeroing := fun n => by
    by_cases hn : n = c
    · rw [hn, h.here]
    · rw [h.other n hn]
  have hfld : ∀ f u i, e.fld f u i = d.fld f u i := by
    obtain ⟨⟨_, _, rfl⟩, -, -⟩ := h
    exact fun _ _ _ => rfl
  simp only [Dev.scratchBacked, Dev.granBacked, hzeroing, hfld]

/-- The banks of bytes that 24 accesses cover are 24 at most, each once. -/
theorem banksOf_nodup {a len : Nat} (h : a % 64 + len ≤ 1536) : (banksOf a len).Nodup := by
  refine List.Nodup.map_on (fun i hi j hj hij => ?_) List.nodup_range
  have := List.mem_range.1 hi
  have := List.mem_range.1 hj
  omega

theorem banksOf_length {a len : Nat} : (banksOf a len).length = (a % 64 + len + 63) / 64 := by simp [banksOf]

theorem lt_of_mem_banksOf {a len b : Nat} (h : b ∈ banksOf a len) : b < 32 := by
  obtain ⟨i, -, rfl⟩ := List.mem_map.1 h
  exact Nat.mod_lt _ (by decide)

variable {w : Waiter} (hs : d.scratchBacked w.span.1 w.span.2 = true) (hr : scratchRegion w.span.1 = c)
include hs hr

theorem Dev.accDo_scratch (l : Nat) : d.accDo c l w = d.scratchDo c w := by
  have hin : (d.scratchBacked w.span.1 w.span.2 && scratchRegion w.span.1 == c) = true := by simp [hs, hr]
  cases w with
  | read q => exact if_pos hin
  | write q => exact if_pos hin
  | red op src a b hint => exact if_pos hin
  | op o hint own => simp [Waiter.span, Dev.scratchBacked, scratchBase] at hs

/-- An access to backed scratch that finds its region idle is made at once. -/
theorem Dev.regPut_scratch {line idx : Nat} {banks : List Nat} (h : (d.region c).AtRest d.ns) (hb : banks.Nodup) (hn : banks.length ≤ 24) :
    (d.regPut c line idx banks (.acc w)).outMem = (d.scratchDo c w).outMem := by
  obtain ⟨e, he, hput⟩ := Dev.regPut_alone (line := line) (idx := idx) (w := w) h hb hn
  have hdo : e.accDo c line w = e.scratchDo c w := Dev.accDo_scratch (by rw [he.scratchBacked]; exact hs) hr line
  obtain ⟨r, a, rfl⟩ := he.aside
  have hregion : ((d.aside r a d.uio).scratchDo c w).region c = (d.aside r a d.uio).region c := by
    rw [Dev.scratchDo_aside]; rfl
  have hsettled : (((d.aside r a d.uio).accDo c line w).region c).Settled := by
    rw [hdo, hregion, he.here]
    exact ⟨rfl, h.fills, h.fillWait⟩
  rw [hput hsettled, (Dev.regBegin_kept _ _ _).1, hdo, Dev.scratchDo_aside]
  rfl

end Scratch

end Sys2Proof.Machine
end

section
/-! SUPPORT. Accesses and reductions at a region, in reach or idle (R27, R211 to R217, R224 to R231). -/

namespace Sys2Proof.Machine

section Rows
variable (s : State) (c : RegionId)

theorem exec_regionRead (q : MemReq) : exec (.regionRead c q) s = s.ev fun d => d.regionRead c q := rfl
theorem exec_regionWrite (q : MemReq) : exec (.regionWrite c q) s = s.ev fun d => d.regionWrite c q := rfl
theorem exec_addFp32 (src a : Nat) (b : List PByte) (hint : Fin 4) : exec (.addFp32 c src a b hint) s = s.ev fun d => d.regionRed c 0 src a b hint := rfl
theorem exec_addInt32 (src a : Nat) (b : List PByte) (hint : Fin 4) : exec (.addInt32 c src a b hint) s = s.ev fun d => d.regionRed c 1 src a b hint := rfl
theorem exec_maxFp32 (src a : Nat) (b : List PByte) (hint : Fin 4) : exec (.maxFp32 c src a b hint) s = s.ev fun d => d.regionRed c 2 src a b hint := rfl
theorem exec_maxInt32 (src a : Nat) (b : List PByte) (hint : Fin 4) : exec (.maxInt32 c src a b hint) s = s.ev fun d => d.regionRed c 3 src a b hint := rfl

end Rows

/-! What reaches a region that is in reach (R27, R217, R224, R230). -/

section Reached
variable {d : Dev} {c : Nat} (hr : d.regionReach c = true)
include hr

theorem Dev.regionRead_reached {q : MemReq} (hl : inLine q.addr q.len = true) :
    d.regionRead c q = d.regPut c (d.served q.addr / 4096) 0 (d.banksFor c 0 (.read { q with addr := d.served q.addr }))
      (.acc (.read { q with addr := d.served q.addr })) := by
  simp only [Dev.regionRead, hl, hr, Bool.not_true, Bool.false_eq_true, if_false, Waiter.span]

theorem Dev.regionWrite_reached {q : MemReq} (hl : inLine q.addr q.len = true) (hd : q.data.length = q.len) (ho : d.ownRo 64 q.addr = false)
    (hw : d.roWin (d.served q.addr) = false) :
    d.regionWrite c q = d.regPut c (d.served q.addr / 4096) 0 (d.banksFor c 0 (.write { q with addr := d.served q.addr }))
      (.acc (.write { q with addr := d.served q.addr })) := by
  simp only [Dev.regionWrite, hl, hr, hd, ho, hw, bne_self_eq_false, Bool.not_true, Bool.or_self, Bool.false_eq_true, if_false, Waiter.span]

/-- A packet that the region has room for, with none held before it. -/
theorem Dev.regionRed_taken {a : Nat} {b : List PByte} (hf : redFits a b = true) (hh : (d.region c).held = [])
    (ht : (d.region c).takesRed (d.served a / 4096) = true) (op : Fin 4) (src : Nat) (hint : Fin 4) :
    d.regionRed c op src a b hint = d.redPut c (.red op src (d.served a) b hint) := by
  simp only [Dev.regionRed, hf, hr, hh, ht, List.isEmpty_nil, Bool.not_true, Bool.and_self, Bool.false_eq_true, if_false, if_true]

end Reached

/-! At an idle region (R211, R214, R224, R229). -/

theorem Region.AtRest.takesRed {r : Region} {ns : Nat} (h : r.AtRest ns) (l : Nat) : r.takesRed l = true := by
  simp [Region.takesRed, Region.redq, Region.missred, h.queue, h.waiting, h.fillWait]

section Idle
variable {d : Dev} {c : Nat} {w : Waiter} (hs : d.scratchBacked w.span.1 w.span.2 = true) (hc : scratchRegion w.span.1 = c)
  (hidle : (d.region c).AtRest d.ns)
include hs hc

theorem Dev.regionFor_scratch : d.regionFor c w.span.1 w.span.2 = true := by simp [Dev.regionFor, hs, hc]

include hidle

/-- A read or write of backed scratch is granted its banks and made. -/
theorem Dev.regPut_scratchPlain {banks : List Nat} (hbanks : banks = if d.regionFor c w.span.1 w.span.2 then banksOf w.span.1 w.span.2 else [])
    (hfit : w.span.1 % 64 + w.span.2 ≤ 1536) (line idx : Nat) :
    (d.regPut c line idx banks (.acc w)).outMem = (d.scratchDo c w).outMem := by
  rw [hbanks, if_pos (Dev.regionFor_scratch hs hc)]
  exact Dev.regPut_scratch hs hc hidle (banksOf_nodup hfit) (by rw [banksOf_length]; omega)

/-- A reduction packet is granted the bank it reads and its turn of the reduction unit, number 32. -/
theorem Dev.regPut_scratchRed {banks : List Nat} (hbanks : banks = if d.regionFor c w.span.1 w.span.2 then banksOf w.span.1 w.span.2 ++ [32] else [32])
    (hfit : w.span.1 % 64 + w.span.2 ≤ 64) (line idx : Nat) :
    (d.regPut c line idx banks (.acc w)).outMem = (d.scratchDo c w).outMem := by
  have hnew : 32 ∉ banksOf w.span.1 w.span.2 := fun h => absurd (lt_of_mem_banksOf h) (by decide)
  rw [hbanks, if_pos (Dev.regionFor_scratch hs hc)]
  refine Dev.regPut_scratch hs hc hidle ((banksOf_nodup (by omega)).append (List.nodup_singleton _) (by simpa using hnew)) ?_
  rw [List.length_append, banksOf_length, List.length_singleton]
  omega

end Idle

section IdleRows
variable {d : Dev} {c : Nat} (hr : d.regionReach c = true) (hidle : (d.region c).AtRest d.ns)
include hr hidle

section Access
variable {q : MemReq} (hserved : d.served q.addr = q.addr) (hs : d.scratchBacked q.addr q.len = true) (hc : scratchRegion q.addr = c)
  (hl : inLine q.addr q.len = true) (hfit : q.addr % 64 + q.len ≤ 1536)
include hserved hs hc hl hfit

theorem Dev.regionRead_scratch : (d.regionRead c q).outMem = (d.scratchDo c (.read q)).outMem := by
  rw [Dev.regionRead_reached hr hl, hserved]
  exact Dev.regPut_scratchPlain (w := .read q) hs hc hidle rfl hfit _ _

theorem Dev.regionWrite_scratch (hd : q.data.length = q.len) (ho : d.ownRo 64 q.addr = false) (hw : d.roWin q.addr = false) :
    (d.regionWrite c q).outMem = (d.scratchDo c (.write q)).outMem := by
  rw [Dev.regionWrite_reached hr hl hd ho (hserved.symm ▸ hw), hserved]
  exact Dev.regPut_scratchPlain (w := .write q) hs hc hidle rfl hfit _ _

end Access

theorem Dev.regionRed_scratch {a : Nat} {b : List PByte} (hserved : d.served a = a) (hs : d.scratchBacked a b.length = true)
    (hcache : d.cacheable a b.length = false) (hc : scratchRegion a = c) (hf : redFits a b = true) (op : Fin 4) (src : Nat) (hint : Fin 4) :
    (d.regionRed c op src a b hint).outMem = (d.scratchDo c (.red op src a b hint)).outMem := by
  have hfit : a % 64 + b.length ≤ 64 := by
    simp only [redFits, Bool.and_eq_true, decide_eq_true_eq] at hf
    exact hf.2
  have hqueued : d.redPut c (.red op src a b hint) =
      d.regPut c (a / 4096) 1 (d.banksFor c (a / 4096) (.red op src a b hint)) (.acc (.red op src a b hint)) := by
    simp [Dev.redPut, Waiter.span, hcache]
  rw [Dev.regionRed_taken hr hf hidle.held (hidle.takesRed _), hserved, hqueued]
  exact Dev.regPut_scratchRed (w := .red op src a b hint) hs hc hidle rfl hfit _ _

end IdleRows

/-! The elements of a reduction (R224). -/

theorem sx_toNat (x : BitVec 32) : sx 32 x.toNat = x.toInt := by
  have := x.isLt
  rw [sx, BitVec.toInt_eq_toNat_cond, Nat.mod_eq_of_lt x.isLt]
  split_ifs <;> omega

theorem redElem_max (st x : BitVec 32) : redElem 3 st.toNat x.toNat = (if st.toInt < x.toInt then x else st).toNat := by
  simp only [redElem, sx_toNat]
  split <;> rfl

theorem mem_of_outMem_emit {d e : Dev} {o : Output} (h : d.outMem = (e.emit o).outMem) : o ∈ d.out ∧ d.mem = e.mem := by
  obtain ⟨hout, hmem⟩ := Prod.ext_iff.1 h
  change d.out = o :: e.out at hout
  exact ⟨hout ▸ List.mem_cons_self, hmem⟩

/-- Settles O39: what reaches an idle region is granted at once, and made of scratch whatever the controller holds beside it. -/
theorem regionAccesses : Obligations.RegionAccesses := by
  refine ⟨fun s c hr => ⟨fun q hl => ⟨?read, fun hd ho hw => ?write⟩, fun src a b hint hf hh ht => ?reduce⟩,
    fun s c hr hidle => ⟨fun q hserved hs hc hl hfit hsrc => ⟨?scratchRead, fun hd ho hw => ?scratchWrite⟩,
      fun src a b hint hserved hs hcache hc hf => ?scratchReduce⟩, fun st x => ?elements⟩
  case read => exact exec_ev (exec_regionRead s c q) (Dev.regionRead_reached hr hl) rfl
  case write => exact exec_ev (exec_regionWrite s c q) (Dev.regionWrite_reached hr hl hd ho hw) rfl
  case reduce =>
    have taken (op : Fin 4) := Dev.regionRed_taken hr hf hh ht op src hint
    exact ⟨exec_ev (exec_addFp32 s c src a b hint) (taken 0) rfl, exec_ev (exec_addInt32 s c src a b hint) (taken 1) rfl,
      exec_ev (exec_maxFp32 s c src a b hint) (taken 2) rfl, exec_ev (exec_maxInt32 s c src a b hint) (taken 3) rfl⟩
  case scratchRead =>
    have hdo : s.dev.scratchDo c (.read q) = (s.dev.dataRead c q.addr q.len).2.2.emit (.memResp q.src _ _) := Dev.memReply_emit hsrc
    exact exec_ev (exec_regionRead s c q) rfl
      (mem_of_outMem_emit ((Dev.regionRead_scratch hr (Region.atRest_of_idle hidle) hserved hs hc hl hfit).trans (congrArg Dev.outMem hdo)))
  case scratchWrite =>
    have hdo : s.dev.scratchDo c (.write q) = (s.dev.dataWrite c q.addr q.data).2.emit (.memResp q.src _ []) := Dev.memReply_emit hsrc
    exact exec_ev (exec_regionWrite s c q) rfl
      (mem_of_outMem_emit ((Dev.regionWrite_scratch hr (Region.atRest_of_idle hidle) hserved hs hc hl hfit hd ho hw).trans (congrArg Dev.outMem hdo)))
  case scratchReduce =>
    have made (op : Fin 4) := mem_of_outMem_emit (Dev.regionRed_scratch hr (Region.atRest_of_idle hidle) hserved hs hcache hc hf op src hint)
    exact ⟨exec_ev (exec_addFp32 s c src a b hint) rfl (made 0), exec_ev (exec_addInt32 s c src a b hint) rfl (made 1),
      exec_ev (exec_maxFp32 s c src a b hint) rfl (made 2), exec_ev (exec_maxInt32 s c src a b hint) rfl (made 3)⟩
  case elements => exact ⟨(BitVec.toNat_add st x).symm, redElem_max st x, rfl, rfl⟩

end Sys2Proof.Machine
end

section
/-! SUPPORT. Line operations at an idle region, and changes of what of a region is scratch (R213, R219 to R223, R231). -/

namespace Sys2Proof.Machine

/-! The rows of this part, each one event. -/

section Rows
variable (s : State) (c : RegionId) (l : Nat)

theorem exec_clean : exec (.clean c l) s = s.ev fun d => d.regionOp c l .clean 0 none [] := rfl
theorem exec_flush : exec (.flush c l) s = s.ev fun d => d.regionOp c l .flush 0 none [] := rfl
theorem exec_invalidate : exec (.invalidate c l) s = s.ev fun d => d.regionOp c l .invalidate 0 none [] := rfl
theorem exec_discard : exec (.discard c l) s = s.ev fun d => d.regionOp c l .discard 0 none [] := rfl
theorem exec_sethint (h : Fin 4) : exec (.sethint c l h) s = s.ev fun d => d.regionOp c l .sethint h none [] := rfl
theorem exec_prefetch (h : Fin 4) (ext : List PByte) : exec (.prefetch c l h ext) s = s.ev fun d => d.regionOp c l .prefetch h none ext := rfl
theorem exec_cacheFill (ext : List PByte) : exec (.cacheFill c l ext) s = s.ev fun d => d.regionFill c l ext := rfl
theorem exec_partitionChange (r : Req) (m : BitVec 16) : exec (.partitionChange r c m) s = s.ev fun d => d.partWrite c m := rfl
theorem exec_partitionChangeDone : exec (.partitionChangeDone c) s = s.ev fun d => d.partDone c := rfl
theorem exec_trapClear (r : Req) : exec (.trapClear r c) s = s.ev fun d => d.trapClear c := rfl

end Rows

/-! What each operation leaves of its line (R220 to R223). -/

/-- From d to e line i of region c becomes y; nothing joins what the controller or the port has to do. -/
structure Dev.LineTo (d e : Dev) (c i : Nat) (y : Option Line) : Prop where
  line : (e.region c).line i = y
  settled : (d.region c).Settled → (e.region c).Settled
  uio : e.uio = d.uio

@[simp] theorem Region.line_setLine (r : Region) (i : Nat) (y : Option Line) : (r.setLine i y).line i = y := Tbl.get_set_same ..
@[simp] theorem Region.line_dropWay (r : Region) (i : Nat) : (r.dropWay i).line i = none := Tbl.get_set_same none none r.lines i

section LineTo
variable {d : Dev} {c i : Nat} {x : Line}

theorem Dev.LineTo.refl (hx : (d.region c).line i = some x) : d.LineTo d c i (some x) := ⟨hx, id, rfl⟩

theorem Dev.modLine_to (hx : (d.region c).line i = some x) (f : Line → Line) : d.LineTo (d.modLine c i f) c i (some (f x)) := by
  have hr : (d.modLine c i f).region c = (d.region c).setLine i (some (f x)) := by
    rw [Dev.modLine, hx]
    exact Dev.region_setRegion ..
  refine ⟨?_, fun h => ?_, rfl⟩ <;> rw [hr]
  · exact Region.line_setLine ..
  · exact ⟨h.queue, h.fills, h.fillWait⟩

theorem Dev.trapRecord_region (d : Dev) (c l : Nat) : ∃ t n, d.trapRecord c l = d.setRegion c { d.region c with traps := t, stamp := n } := ⟨_, _, rfl⟩

/-- A line dropped leaves its way; its record in the trap table is all else that becomes of it (R220, R221). -/
theorem Dev.dropLine_cases (hx : (d.region c).line i = some x) :
    ∃ t n, (d.dropLine c i).region c = { (d.region c).dropWay i with traps := t, stamp := n } ∧ (d.dropLine c i).outMem = d.outMem ∧ (d.dropLine c i).uio = d.uio := by
  simp only [Dev.dropLine, hx]
  split
  · obtain ⟨t, n, ht⟩ := (d.setRegion c ((d.region c).dropWay i)).trapRecord_region c x.l
    refine ⟨t, n, ?_, ?_, ?_⟩ <;> rw [ht]
    · rw [Dev.region_setRegion, Dev.region_setRegion]
    · rfl
    · rfl
  · exact ⟨_, _, Dev.region_setRegion .., rfl, rfl⟩

theorem Dev.dropLine_to (hx : (d.region c).line i = some x) : d.LineTo (d.dropLine c i) c i none := by
  obtain ⟨t, n, hr, -, hu⟩ := Dev.dropLine_cases hx
  refine ⟨?_, fun h => ?_, hu⟩ <;> rw [hr]
  · exact Region.line_dropWay ..
  · exact ⟨h.queue, h.fills, h.fillWait⟩

/-- Board memory takes the bytes of a line out of its buffer, which touches no region. -/
theorem Dev.LineTo.gddrNeed {e : Dev} {y : Option Line} (h : d.LineTo e c i y) (u len : Nat) : d.LineTo (e.gddrNeed u len) c i y := by
  have hself := e.gddrNeed_aside e.regions e.arbs e.uio u len
  rw [Dev.aside_self] at hself
  have hr : (e.gddrNeed u len).region c = e.region c := by rw [hself]; rfl
  refine ⟨hr ▸ h.line, fun hs => hr ▸ h.settled hs, ?_⟩
  rw [hself]
  exact h.uio

section At
variable (hx : (d.region c).line i = some x) (l hint : Nat) (owner : UioOwner)
include hx

theorem Dev.lineOpAt_invalidate : d.LineTo (d.lineOpAt c l i .invalidate hint owner) c i none := Dev.dropLine_to hx
theorem Dev.lineOpAt_discard : d.LineTo (d.lineOpAt c l i .discard hint owner) c i (some { x with st := .dead }) := Dev.modLine_to hx _
theorem Dev.lineOpAt_sethint : d.LineTo (d.lineOpAt c l i .sethint hint owner) c i
    (some { x with st := match hint with | 1 => .keep | 2 => .firstOut | 3 => .dead | _ => .normal }) := Dev.modLine_to hx _

theorem Dev.lineOpAt_flush_dead (hdead : x.st = .dead) : d.LineTo (d.lineOpAt c l i .flush hint owner) c i none := by
  have hevict : d.evict c i owner = d.dropLine c i := by simp only [Dev.evict, hx, hdead, if_true]
  simp only [Dev.lineOpAt, hevict]
  split
  · exact (Dev.dropLine_to hx).gddrNeed _ _
  · exact Dev.dropLine_to hx

theorem Dev.writeBack_clean (hclean : x.dirty = 0) : d.LineTo (d.writeBack c i owner) c i (some x) := by
  have hnone : d.writeBack c i owner = d.modLine c i fun x => { x with dirty := 0 } := by
    simp only [Dev.writeBack, hx, hclean]
    refine congrArg (Dev.modLine · c i _) (List.foldlRecOn (motive := (· = d)) _ _ rfl fun e he s _ => ?_)
    simpa using he
  rw [hnone]
  convert Dev.modLine_to hx _ using 2
  rw [← hclean]

theorem Dev.lineOpAt_clean_undirty (hclean : x.dirty = 0) : d.LineTo (d.lineOpAt c l i .clean hint owner) c i (some x) := by
  simp only [Dev.lineOpAt]
  split
  · exact .refl hx
  split
  · exact (Dev.writeBack_clean hx owner hclean).gddrNeed _ _
  · exact Dev.writeBack_clean hx owner hclean

end At
end LineTo

/-! A line operation of the region that is its line's home (R222, R223, R231). -/

section Operation
variable {d : Dev} {c l : Nat}

theorem Dev.regionOp_reached (hh : homeRegion (l * 4096) = c) (hc : d.cacheable (l * 4096) 4096 = true) (hr : d.regionReach c = true) (o : LineOp) (hint : Fin 4)
    (own : Option (Nat × Nat)) (ext : List PByte) :
    d.regionOp c l o hint own ext =
      ((d.regPut c l 4 (d.banksFor c l (.op o hint own)) (.acc (.op o hint own))).fillHost c l ext).regWork c := by
  simp only [Dev.regionOp, hh, hc, hr, bne_self_eq_false, Bool.not_true, Bool.or_self, Bool.false_eq_true, if_false]

theorem Dev.fillHost_nil (d : Dev) (c l : Nat) : d.fillHost c l [] = d := by
  unfold Dev.fillHost
  split <;> rfl

variable {i : Nat} {x : Line} (hi : (d.region c).find l = some i) (hx : (d.region c).line i = some x)
include hi hx

/-- One that writes nothing back needs its start alone. -/
theorem Dev.banksFor_op {o : LineOp} (ho : x.st = .dead ∨ x.dirty = 0 ∨ (o == .clean || o == .flush) = false) (hint : Fin 4) (own : Option (Nat × Nat)) :
    d.banksFor c l (.op o hint own) = [33] := by
  have hnone : sectorBanks 0 = [] := by decide
  simp only [Dev.banksFor, hi, Option.bind_some, hx]
  obtain h | h | h := ho
  · simp [h]
  · rw [h, hnone, ite_self]
  · simp [h]

theorem Dev.refetchAt_zero : d.refetchAt c l 0 = d := by
  simp only [Dev.refetchAt, hi, Dev.refetch, hx]
  exact List.foldlRecOn (motive := (· = d)) _ _ rfl fun e he s _ => by simpa using he

/-- Behind nothing that waits, and with no fill in progress, it is carried out on its line where it lies. -/
theorem Dev.lineDo_op {o : LineOp} (ho : o ≠ .prefetch) (hs : (d.region c).Settled) (hw : (d.region c).waiting = []) (hint : Fin 4) (own : Option (Nat × Nat)) :
    d.lineDo c l (.op o hint own) = (d.lineOpAt c l i o hint (.op c l)).opFinish c l o own .ok := by
  have hneed : (Waiter.op o hint own).need = 0 := if_neg ho
  have hbusy : d.lineBusy c l = false := by rw [Dev.lineBusy, hw]; rfl
  simp only [Dev.lineDo, hneed, Dev.refetchAt_zero hi hx, hbusy, hs.fill, Dev.covered, hi, Dev.serve, FillBuf.status]
  simp

/-- At an idle region it starts at once; the region has nothing left to do once it is done. -/
theorem Dev.regionOp_idle (hh : homeRegion (l * 4096) = c) (hc : d.cacheable (l * 4096) 4096 = true) (hr : d.regionReach c = true)
    (hidle : (d.region c).AtRest d.ns) (huio : (d.uio.any fun u => u.owner == .op c l) = false) {o : LineOp} (ho : o ≠ .prefetch)
    (hb : x.st = .dead ∨ x.dirty = 0 ∨ (o == .clean || o == .flush) = false) (hint : Fin 4) {y : Option Line}
    (hto : ∀ e : Dev, (e.region c).line i = some x → e.LineTo (e.lineOpAt c l i o hint (.op c l)) c i y) :
    ∃ e : Dev, e.outMem = d.outMem ∧ (e.region c).line i = some x ∧
      (d.regionOp c l o hint none []).outMem = ((e.lineOpAt c l i o hint (.op c l)).emit (.lineDone c l o .ok)).outMem ∧
      ((d.regionOp c l o hint none []).region c).line i = y := by
  obtain ⟨e, he, hput⟩ := Dev.regPut_alone (line := l) (idx := 4) (w := .op o hint none) hidle (List.nodup_singleton 33) (by decide)
  obtain ⟨r, a, hea⟩ := he.aside
  have hei : (e.region c).find l = some i := by rw [he.here]; exact hi
  have hex : (e.region c).line i = some x := by rw [he.here]; exact hx
  have hes : (e.region c).Settled := by rw [he.here]; exact ⟨rfl, hidle.fills, hidle.fillWait⟩
  have hew : (e.region c).waiting = [] := by rw [he.here]; exact hidle.waiting
  have hdone : e.accDo c l (.op o hint none) = (e.lineOpAt c l i o hint (.op c l)).emit (.lineDone c l o .ok) := by
    refine (Dev.lineDo_op hei hex ho hes hew hint none).trans (if_neg ?_)
    rw [(hto e hex).uio, hea]
    exact ne_true_of_eq_false huio
  have hsettled : ((e.accDo c l (.op o hint none)).region c).Settled := by
    rw [hdone]
    exact (hto e hex).settled hes
  have hrow : d.regionOp c l o hint none [] = ((e.accDo c l (.op o hint none)).regBegin c (2 * d.ns + 1)).regWork c := by
    rw [Dev.regionOp_reached hh hc hr, Dev.banksFor_op hi hx hb, hput hsettled, Dev.fillHost_nil]
  obtain ⟨hout, n, u, hreg⟩ := Dev.regBegin_kept (e.accDo c l (.op o hint none)) c (2 * d.ns + 1)
  obtain ⟨hout', n', u', hreg'⟩ := Dev.regWork_kept (Dev.regBegin_settled hsettled (2 * d.ns + 1))
  refine ⟨e, by rw [hea]; rfl, hex, ?_, ?_⟩
  · rw [hrow, hout', hout, hdone]
  · rw [hrow, hreg', hreg, hdone]
    exact (hto e hex).line

end Operation

/-! Partition changes (R213). -/

section Partition
variable {d : Dev} {c : Nat}

/-- A change that goes on asks for lines to leave, or notes that they have; what it turns into scratch stands. -/
theorem Dev.partStep_kept (d : Dev) (c : Nat) :
    (d.partStep c).outMem = d.outMem ∧ (d.partStep c).regs = d.regs ∧ ((d.partStep c).region c).zeroing = (d.region c).zeroing := by
  unfold Dev.partStep
  dsimp only
  split
  · exact ⟨rfl, rfl, rfl⟩
  split
  · split
    · exact ⟨rfl, rfl, rfl⟩
    · refine ⟨rfl, rfl, ?_⟩
      rw [Dev.region_setRegion]
  · refine List.foldlRecOn (motive := fun e : Dev => e.outMem = d.outMem ∧ e.regs = d.regs ∧ (e.region c).zeroing = (d.region c).zeroing) _ _
      ⟨rfl, rfl, rfl⟩ fun e ⟨hout, hregs, hzero⟩ p _ => ⟨hout, hregs, ?_⟩
    rw [Dev.regEnq, Dev.region_setRegion]
    exact hzero

/-- A change that is taken: the mask stands at once, and the granules that join scratch wait. -/
theorem Dev.partWrite_taken {m : BitVec 16} (hz : (d.region c).zeroing = none) (hne : BitVec.ofNat 16 (d.fld BCR_PART.SCRATCH_MASK c 0) ≠ m)
    (hq : BitVec.ofNat 16 (d.fld BCR_PART.SCRATCH_MASK c 0) &&& ~~~m = 0 ∨ (d.region c).queue = []) :
    d.partWrite c m = ((d.setFld BCR_PART.SCRATCH_MASK c 0 m.toNat).setRegion c
      { d.region c with zeroing := some (m &&& ~~~BitVec.ofNat 16 (d.fld BCR_PART.SCRATCH_MASK c 0)), zeroAt := none }).partStep c := by
  have hbusy : (d.region c).partBusy = false := by rw [Region.partBusy, hz]; rfl
  have hdrain : (if BitVec.ofNat 16 (d.fld BCR_PART.SCRATCH_MASK c 0) &&& ~~~m = 0 then d else d.regDrain c (d.region c).queue.length) = d := by
    obtain h | h := hq
    · exact if_pos h
    · rw [h]; exact ite_self d
  simp only [Dev.partWrite, hbusy, Bool.false_eq_true, if_false, if_neg hne, hdrain]
  rfl

theorem Dev.partWrite_busy (m : BitVec 16) (hb : (d.region c).partBusy = true) : d.partWrite c m = d.bcrErr c BCR_ERR.PART_REFUSED 0 := if_pos hb

/-- A region error sets its bit. -/
theorem Dev.bcrErr_bit (d : Dev) (c : Nat) {b : Fld} (l : Nat) (hfits : b.fits = true) (hw : b.w = 1) (ha : BCR_ERR.FIRST_LINE.apart b = true) :
    (d.bcrErr c b l).bit b c 0 = true := by
  unfold Dev.bcrErr Dev.raise
  split
  · exact Dev.bit_setBit _ _ _ _ _ hfits hw
  · exact (congrArg (· != 0) (Dev.fld_setFld_apart _ _ _ _ _ _ _ _ rfl ha)).trans (Dev.bit_setBit _ _ _ _ _ hfits hw)

theorem Dev.zeroSpans_region (d : Dev) (c : Nat) (l : List Nat) (f : Nat → Nat) (len : Nat) :
    (l.foldl (fun d g => d.zeroSpan (f g) len) d).region c = d.region c :=
  List.foldlRecOn (motive := fun e : Dev => e.region c = d.region c) _ _ rfl fun _ he _ _ => he

/-- A change whose granules have had their time ends with them zero. -/
theorem Dev.partDone_zeroed {t0 : Nat} (hz : (d.region c).zeroAt = some t0) (ht : t0 + 1024 * (d.region c).granules.length ≤ d.ns) :
    d.partDone c =
      (let e := (d.region c).granules.foldl (fun d g => d.zeroSpan (scratchBase + c * 2 ^ 24 + g * 2 ^ 20) (2 ^ 20)) d
       e.setRegion c { d.region c with zeroing := none, zeroAt := none }) := by
  have hstep : d.partStep c = d := by
    unfold Dev.partStep
    simp [hz]
  simp only [Dev.partDone, hstep, hz, if_pos ht, Dev.zeroSpans_region]

end Partition

/-- Settles O40: an operation that writes nothing back starts at once and leaves an idle region settled, with its line as its own rule says. -/
theorem linesAndPartitions : Obligations.LinesAndPartitions := by
  refine ⟨fun s c l hh hc hr => ⟨?queued, fun i x hidle hi hx huio => ?idle, fun ext hf => ?fill⟩,
    fun s c => ⟨fun r m hz hne hq => ?taken, fun r m hb => ?refused, fun t0 hz ht => ?ended, fun r => ?cleared⟩⟩
  case queued =>
    have go (o : LineOp) (h : Fin 4) := Dev.regionOp_reached hh hc hr o h none []
    exact ⟨exec_ev (exec_clean s c l) (go .clean 0) rfl, exec_ev (exec_flush s c l) (go .flush 0) rfl, exec_ev (exec_invalidate s c l) (go .invalidate 0) rfl,
      exec_ev (exec_discard s c l) (go .discard 0) rfl, fun h => exec_ev (exec_sethint s c l h) (go .sethint h) rfl,
      fun h => exec_ev (exec_prefetch s c l h []) (go .prefetch h) rfl⟩
  case idle =>
    have idle {o : LineOp} (ho : o ≠ .prefetch) (hb) (hint : Fin 4) {y : Option Line} :=
      Dev.regionOp_idle hi hx hh hc hr (Region.atRest_of_idle hidle) huio ho hb hint (y := y)
    refine ⟨?invalidate, ?discard, fun h => ?sethint, fun hclean => ?clean, fun hdead => ?flush⟩
    case invalidate =>
      obtain ⟨e, he, hex, hout, hline⟩ := idle (o := .invalidate) (by decide) (.inr (.inr rfl)) 0 fun e hex => Dev.lineOpAt_invalidate hex l 0 _
      obtain ⟨-, -, -, hdrop, -⟩ := Dev.dropLine_cases hex
      obtain ⟨hmem, hmem'⟩ := mem_of_outMem_emit hout
      exact exec_ev (exec_invalidate s c l) rfl ⟨hline, hmem, hmem'.trans (congrArg Prod.snd (hdrop.trans he))⟩
    case discard =>
      obtain ⟨e, he, hex, hout, hline⟩ := idle (o := .discard) (by decide) (.inr (.inr rfl)) 0 fun e hex => Dev.lineOpAt_discard hex l 0 _
      obtain ⟨hmem, hmem'⟩ := mem_of_outMem_emit hout
      exact exec_ev (exec_discard s c l) rfl ⟨hline, hmem, hmem'.trans (congrArg Prod.snd he)⟩
    case sethint =>
      obtain ⟨e, he, hex, hout, hline⟩ := idle (o := .sethint) (by decide) (.inr (.inr rfl)) h fun e hex => Dev.lineOpAt_sethint hex l h _
      obtain ⟨hmem, hmem'⟩ := mem_of_outMem_emit hout
      refine exec_ev (exec_sethint s c l h) rfl ⟨hline.trans ?_, hmem, hmem'.trans (congrArg Prod.snd he)⟩
      fin_cases h <;> rfl
    case clean =>
      obtain ⟨e, he, hex, hout, hline⟩ := idle (o := .clean) (by decide) (.inr (.inl hclean)) 0 fun e hex => Dev.lineOpAt_clean_undirty hex l 0 _ hclean
      exact exec_ev (exec_clean s c l) rfl ⟨hline, (mem_of_outMem_emit hout).1⟩
    case flush =>
      obtain ⟨e, he, hex, hout, hline⟩ := idle (o := .flush) (by decide) (.inl hdead) 0 fun e hex => Dev.lineOpAt_flush_dead hex l 0 _ hdead
      exact exec_ev (exec_flush s c l) rfl ⟨hline, (mem_of_outMem_emit hout).1⟩
  case fill =>
    have hsome : ((s.dev.region c).fill l).isNone = false := by rw [← Option.not_isSome, hf]; rfl
    exact exec_ev (exec_cacheFill s c l ext) (if_neg (ne_true_of_eq_false hsome)) rfl
  case taken =>
    refine exec_ev (exec_partitionChange s c r m) (Dev.partWrite_taken hz hne hq) ?_
    obtain ⟨hout, hregs, hzero⟩ := Dev.partStep_kept ((s.dev.setFld BCR_PART.SCRATCH_MASK c 0 m.toNat).setRegion c
      { s.dev.region c with zeroing := some (m &&& ~~~BitVec.ofNat 16 (s.dev.fld BCR_PART.SCRATCH_MASK c 0)), zeroAt := none }) c
    have hmask : (s.dev.setFld BCR_PART.SCRATCH_MASK c 0 m.toNat).fld BCR_PART.SCRATCH_MASK c 0 = m.toNat := by
      rw [Dev.fld_setFld _ _ _ _ _ rfl]
      exact Nat.mod_eq_of_lt m.isLt
    refine ⟨?_, ?_, congrArg Prod.snd hout⟩
    · rw [Dev.keep_fld, Dev.fld_regs hregs]
      exact hmask
    · rw [Dev.keep_region, hzero, Dev.region_setRegion]
  case refused =>
    refine exec_ev (exec_partitionChange s c r m) (Dev.partWrite_busy m hb) ⟨Dev.bcrErr_bit _ _ _ rfl rfl rfl, ?_⟩
    obtain ⟨_, _, h⟩ : RegsOnly s.dev (s.dev.bcrErr c BCR_ERR.PART_REFUSED 0) := Dev.raise_regs ..
    rw [h]
    exact ⟨rfl, rfl⟩
  case ended =>
    refine exec_ev (exec_partitionChangeDone s c) (Dev.partDone_zeroed hz ht) ?_
    rw [Dev.keep_region, Dev.region_setRegion]
    exact ⟨rfl, rfl, rfl⟩
  case cleared =>
    refine exec_ev (exec_trapClear s c r) rfl ?_
    rw [Dev.keep_region, Dev.trapClear, Dev.region_setRegion]
    exact ⟨rfl, rfl, rfl, rfl⟩

end Sys2Proof.Machine
end

section
/-! SUPPORT. Cache ranges, check values and batons of the queue engine (R222, R223, R304, R307, R468, R469). -/

namespace Sys2Proof.Machine

/-! The rows of this part, each one event. -/

section Rows
variable (s : State) (id : Nat)

theorem exec_cacheRange (ext : List PByte) : exec (.cacheRange id ext) s = s.ev fun d => d.dqCache id ext := rfl
theorem exec_chkRun (ext : List PByte) : exec (.chkRun id ext) s = s.ev fun d => d.dqChk id ext := rfl
theorem exec_batonSignalAdd : exec (.batonSignalAdd id) s = s.ev fun d => d.dqBaton id 0x20 0 .add := rfl
theorem exec_batonSignalSet : exec (.batonSignalSet id) s = s.ev fun d => d.dqBaton id 0x20 1 .set := rfl
theorem exec_batonWait : exec (.batonWait id) s = s.ev fun d => d.dqBaton id 0x21 0 .wait := rfl
theorem exec_batonWaitHandoff : exec (.batonWaitHandoff id) s = s.ev fun d => d.dqBaton id 0x21 1 .handoff := rfl

end Rows

/-! A check value (R468, R469). -/

/-- The bytes that a CHK_RUN names are read and fed to its stream, and it ends with what becomes of them; it has no result address. -/
def Dev.chkEnded (d : Dev) (id : Nat) (b : BitVec 512) (ext : List PByte) : Dev :=
  let r := d.dqRead false (dq b 16 0 52) (dq b 24 0 40) 0 ext
  let poly := dq b 8 0 1 == 1
  let c : ChkStream := ⟨poly, dq b 8 1 2, if dq b 8 4 1 = 1 then BitVec.ofNat 64 (dq b 32 0 64) else crcInit poly, BitVec.ofNat 64 (dq b 48 0 64), []⟩
  let v := (crcFinal poly (c.feed (dq b 16 0 52) r.1).reg).toNat
  (r.2.2.1.modFlight id fun y => { y with sent := true }).descDone id
    (if r.2.1 ≠ .ok then r.2.1 else if dq b 8 3 1 = 1 ∧ v ≠ dq b 40 0 64 then .crcMismatch else .ok) 0 (v % 2 ^ 32)

/-- Some I/O unit is on and free. -/
def Dev.chkIoFree (d : Dev) : Bool := (List.range 4).any fun u => d.domOn (443 + u) && !d.bit CHK_CFG.CLAIMED (32 + u) 0

/-! A baton command (R304, R307, R308). -/

/-- The number of the baton that a command names. -/
def dqBatonNo (b : BitVec 512) : Nat := (dq b 16 0 64 % 2 ^ 52 - batonBase) / 64

/-- The operation on its baton that a command sends, with the time that it may wait until. -/
def Dev.batonOp (d : Dev) (id : Nat) (b : BitVec 512) (kind : BtnKind) (limit : Option Nat) : BtnOp :=
  { kind := kind, baton := dqBatonNo b, v := dq b 12 0 32, src := .desc id, port := ioPort (batonRegion (dqBatonNo b)), arr := d.ns, limit := limit }

section Descriptor
variable {d : Dev} {id : Nat} {x : Desc} (hx : d.flight id = some x) (hs : x.sent = false) (hf : x.fin = none)
include hx hs hf

theorem Dev.dqChk_free (ext : List PByte) (hop : dqOp x.body = 0x40) (hfree : d.chkIoFree = true) (hres : dq x.body 56 0 52 = 0)
    (hw : (d.unasked.chkEnded id x.body ext).waits = []) : d.dqChk id ext = d.unasked.chkEnded id x.body ext := by
  obtain ⟨u, hu, hon⟩ := List.any_eq_true.1 hfree
  simp only [Bool.and_eq_true, Bool.not_eq_true'] at hon
  obtain ⟨hdom, hunclaimed⟩ := hon
  have hmem : u ∈ (List.range 4).filter fun u => d.domOn (443 + u) := List.mem_filter.2 ⟨hu, hdom⟩
  have hall : (((List.range 4).filter fun u => d.domOn (443 + u)).all fun u => d.bit CHK_CFG.CLAIMED (32 + u) 0) = false :=
    List.all_eq_false.2 ⟨u, hmem, by rw [hunclaimed]; exact Bool.false_ne_true⟩
  refine (Dev.qop_started hx hs hf hop _).trans (Dev.whole_done ?_ hw)
  refine (if_neg (List.ne_nil_of_mem hmem)).trans ((if_neg (ne_true_of_eq_false hall)).trans ?_)
  simp only [hres, if_true]
  rfl

/-- A baton command whose baton's unit is reached goes there. -/
theorem Dev.dqBaton_reached {op bop : Nat} {kind : BtnKind} (hop : dqOp x.body = op) (hbop : dq x.body 8 0 1 = bop) (hquiet : op = 0x20 → d.ringQuietBefore x = true)
    (hown : d.remoteFid (dq x.body 16 0 64) = false)
    (hr : d.regionReach (batonRegion (dqBatonNo x.body)) = true) :
    d.dqBaton id op bop kind = (d.modFlight id fun y => { y with sent := true }).btnSend
      (d.batonOp id x.body kind (if op = 0x21 ∧ dq x.body 24 0 32 ≠ 0 then some (d.ns + 1000 * dq x.body 24 0 32) else none)) := by
  have hgo : ¬ (dq x.body 8 0 1 ≠ bop ∨ (op = 0x20 ∧ (!d.ringQuietBefore x) = true)) := by
    rintro (h | ⟨hsignal, h⟩)
    · exact h hbop
    · rw [hquiet hsignal] at h
      cases h
  refine (Dev.qop_started hx hs hf hop _).trans ((if_neg hgo).trans ((if_neg ?_).trans (if_pos hr)))
  exact ne_true_of_eq_false hown

end Descriptor

/-- Settles O34: each started descriptor does what its opcode does; a CHK_RUN as an event that lacks nothing it would wait for. -/
theorem descriptorsAct : Obligations.DescriptorsAct := by
  refine fun s id x hx hs hf => ⟨fun ext hop => ?range, fun ext hop hfree hres => ?check, fun hown hr => ?baton⟩
  case range => exact exec_ev (exec_cacheRange s id ext) (Dev.qop_started hx hs hf hop _) rfl
  case check =>
    intro r poly c v e hw
    exact exec_ev (exec_chkRun s id ext) (Dev.dqChk_free hx hs hf ext hop hfree hres hw) rfl
  case baton =>
    intro k d1 op lim
    have sent {o bop : Nat} {kind : BtnKind} (hop : dqOp x.body = o) (hbop : dq x.body 8 0 1 = bop) (hquiet : o = 0x20 → s.dev.ringQuietBefore x = true) :=
      Dev.dqBaton_reached (kind := kind) hx hs hf hop hbop hquiet hown hr
    have hlim : (if (0x21 : Nat) = 0x21 ∧ dq x.body 24 0 32 ≠ 0 then some (s.dev.ns + 1000 * dq x.body 24 0 32) else none) = lim := by
      simp only [true_and, ite_not]
      rfl
    refine ⟨fun hop hquiet hbop => ?add, fun hop hquiet hbop => ?set, fun hop hbop => ?wait, fun hop hbop => ?handoff⟩
    case add => exact exec_ev (exec_batonSignalAdd s id) (sent hop hbop fun _ => hquiet) rfl
    case set => exact exec_ev (exec_batonSignalSet s id) (sent hop hbop fun _ => hquiet) rfl
    case wait => exact exec_ev (exec_batonWait s id) (sent hop hbop nofun) (by rw [hlim]; rfl)
    case handoff => exact exec_ev (exec_batonWaitHandoff s id) (sent hop hbop nofun) (by rw [hlim]; rfl)

end Sys2Proof.Machine
end

section
/-! SUPPORT. Context slots, look-aside entries and the phases of an attention step (R247 to R267, R297). -/

namespace Sys2Proof.Machine

/-! The rows of this part, each one event. -/

section Rows
variable (s : State) (id : Nat) (ext : List PByte)

theorem exec_kvMap : exec (.kvMap id ext) s = s.ev fun d => d.kvLoad id ext := rfl
theorem exec_kvMapRelease : exec (.kvMapRelease id) s = s.ev fun d => d.kvRelease id := rfl
theorem exec_kvMapInval : exec (.kvMapInval id) s = s.ev fun d => d.kvInval id := rfl
theorem exec_labInv (r : Req) (k : ClusterId) : exec (.labInv r k) s = s.ev fun d => d.labDrop k fun _ => true := rfl
theorem exec_attnStep : exec (.attnStep id) s = s.ev fun d => d.attnStart id := rfl
theorem exec_append : exec (.append ext) s = s.ev fun d => d.attnAppend ext := rfl
theorem exec_score : exec (.score ext) s = s.ev fun d => d.attnScore ext := rfl
theorem exec_attnMax : exec .attnMax s = s.ev fun d => d.attnMaxRun := rfl
theorem exec_normalise : exec .normalise s = s.ev fun d => d.attnNormalise := rfl
theorem exec_output : exec .output s = s.ev fun d => d.attnOutput := rfl
theorem exec_attnStepComplete : exec .attnStepComplete s = s.ev fun d => d.attnEnd := rfl

/-- A lookup within the layers and KV heads of a loaded context is carried out. -/
theorem exec_pageWalk {k : ClusterId} {slot : Fin 16} {layer head : Nat} (v : Nat) {c : Ctx} (hc : s.dev.ctx k slot = some c) (hl : layer ≤ c.f 20 0 8)
    (hh : head < c.kvh) : exec (.pageWalk k slot layer head v) s = s.ev fun d => d.whole fun d => (d.lookup k slot c layer head v).2 := by
  change execPageWalk k slot layer head v s = _
  simp only [execPageWalk, State.ev, hc, hl, hh, and_self, if_true]

end Rows

/-! KV_MAP (R247, R249, R297). -/

/-- A context descriptor has been read into d: its slot is loaded in every walker, or what is wrong with it ends the KV_MAP. -/
def Dev.ctxRead (d : Dev) (id slot : Nat) (st : Status) (body : BitVec 512) : Dev :=
  if st ≠ .ok then d.descDone id st 0 0
  else if d.ctxBad body then d.descDone id .badDescriptor 0 0
  else ((List.range 32).foldl (fun d k => d.setCtx k slot (some ⟨body, dq body 12 0 21, 0⟩)) (d.labDropSlot slot)).descDone id .ok 0 0

/-- Without RELEASE and INVAL the first flag is 0. -/
theorem dq_first_of_pair {b : BitVec 512} {byte : Nat} (h : dq b byte 0 2 = 0) : dq b byte 0 1 = 0 := by
  simp only [dq, bitsOf] at *
  omega

section KvMap
variable {d : Dev} {id : Nat} {x : Desc} (hx : d.flight id = some x) (hs : x.sent = false) (hf : x.fin = none) (hop : dqOp x.body = 0x50)
  (hrun : (d.attn.any fun a => dq a.body 8 0 4 == dq x.body 8 0 4) = false)
  (hwait : (d.descs.any fun y : Desc => decide (y.seq < x.seq) && (dqOp y.body == 0x51 || dqOp y.body == 0x50) && dq y.body 8 0 4 == dq x.body 8 0 4 && y.fin.isNone) = false)
include hx hs hf hop hrun hwait

/-- A KV_MAP whose slot no step uses does what its flags say. -/
theorem Dev.kvOp_unused {flags : Nat} (hflags : (if dq x.body 9 0 1 = 1 then 1 else dq x.body 9 0 2) = flags) (f : Nat → Desc → Dev) :
    d.kvOp id flags f = f (dq x.body 8 0 4) x := by
  refine (Dev.qop_started hx hs hf hop _).trans (if_neg ?_)
  simp only [hrun, hwait, hflags, ne_eq, not_true_eq_false, decide_false, Bool.or_self, Bool.false_eq_true, not_false_eq_true]

/-- With neither flag the slot is loaded with what the read brings. -/
theorem Dev.kvLoad_unused (hflags : dq x.body 9 0 2 = 0) (ext : List PByte) {e : Dev}
    (he : (let r := d.unasked.accRead endQueue (dq x.body 16 0 52) 64 0 ext
      r.2.2.ctxRead id (dq x.body 8 0 4) r.2.1 (BitVec.ofNat 512 (ofPBytes r.1))) = e) (hw : e.waits = []) : d.kvLoad id ext = e :=
  (Dev.kvOp_unused hx hs hf hop hrun hwait (by rw [dq_first_of_pair hflags, hflags]; rfl) _).trans (Dev.whole_done he hw)

theorem Dev.kvRelease_unused (hflag : dq x.body 9 0 1 = 1) :
    d.kvRelease id = ((List.range 32).foldl (fun d k => d.setCtx k (dq x.body 8 0 4) none) d).descDone id .ok 0 0 :=
  Dev.kvOp_unused hx hs hf hop hrun hwait (if_pos hflag) _

theorem Dev.kvInval_unused (hinval : dq x.body 9 0 2 = 2) (hkeep : dq x.body 9 0 1 = 0) : d.kvInval id = (d.labDropSlot (dq x.body 8 0 4)).descDone id .ok 0 0 :=
  Dev.kvOp_unused hx hs hf hop hrun hwait (by rw [hkeep, hinval]; rfl) _

end KvMap

/-! Look-aside entries (R253). -/

/-- An entry stays where it is another walker's, or is not one that the test discards. -/
theorem Dev.mem_labDrop {d : Dev} {k : Nat} {p : LabEnt → Bool} {i : Nat} {e : Option LabEnt} :
    (i, e) ∈ (d.labDrop k p).lab ↔ (i, e) ∈ d.lab ∧ (i / 512 = k → e.any p = false) := by
  simp [Dev.labDrop, imp_iff_not_or]

/-! The end of a descriptor (R283, R301). -/

/-- From d to e only descriptors in flight, rings, their watched lines, registers and what is asked of the host change. -/
def QueueOnly (d e : Dev) : Prop := ∃ ds rs ws r c o, e = { d with descs := ds, rings := rs, watch := ws, regs := r, cyc := c, out := o }

theorem QueueOnly.refl (d : Dev) : QueueOnly d d := ⟨_, _, _, _, _, _, rfl⟩
theorem QueueOnly.attn {d e : Dev} (h : QueueOnly d e) : e.attn = d.attn := by
  obtain ⟨_, _, _, _, _, _, rfl⟩ := h
  rfl

section Queue
variable {d e : Dev} (h : QueueOnly d e)
include h

theorem QueueOnly.trans {f : Dev} (h' : QueueOnly e f) : QueueOnly d f := by
  obtain ⟨_, _, _, _, _, _, rfl⟩ := h
  obtain ⟨_, _, _, _, _, _, rfl⟩ := h'
  exact ⟨_, _, _, _, _, _, rfl⟩

theorem QueueOnly.setRing (i : Nat) (r : Ring) : QueueOnly d (e.setRing i r) := h.trans ⟨_, _, _, _, _, _, rfl⟩
theorem QueueOnly.modRing (i : Nat) (f : Ring → Ring) : QueueOnly d (e.modRing i f) := h.setRing ..
theorem QueueOnly.setBit (f : Fld) (u i : Nat) (v : Bool) : QueueOnly d (e.setBit f u i v) := h.trans ⟨_, _, _, _, _, _, rfl⟩

theorem QueueOnly.watchDrop (l : Nat) : QueueOnly d (e.watchDrop l) := by
  refine h.trans ?_
  unfold Dev.watchDrop
  split <;> exact ⟨_, _, _, _, _, _, rfl⟩

theorem QueueOnly.slotRead (i : Nat) : QueueOnly d (e.slotRead i) := by
  refine h.trans ?_
  unfold Dev.slotRead
  dsimp only
  repeat' split
  all_goals exact ⟨_, _, _, _, _, _, rfl⟩

theorem QueueOnly.ringOn (i : Nat) : QueueOnly d (e.ringOn i) := by
  unfold Dev.ringOn
  dsimp only
  split
  · split
    · exact ((h.setBit ..).modRing ..).slotRead _
    · refine QueueOnly.slotRead ?_ _
      split
      · exact ((h.setBit ..).modRing ..).modRing ..
      · exact (((h.setBit ..).modRing ..).modRing ..).slotRead _
  · exact (h.setBit ..).setBit ..

theorem QueueOnly.cqRelease (j : Nat) : QueueOnly d (e.cqRelease j) := by
  unfold Dev.cqRelease
  split
  exacts [(h.modRing ..).watchDrop _, h]

theorem QueueOnly.ringSettle (i : Nat) : QueueOnly d (e.ringSettle i) := by
  unfold Dev.ringSettle
  dsimp only
  split
  · split
    · exact (((h.setRing ..).cqRelease _).watchDrop _).ringOn _
    · exact ((h.setRing ..).cqRelease _).watchDrop _
  · exact h.cqRelease _

/-- The end of a descriptor is the queue engine's own matter. -/
theorem QueueOnly.descDone (id : Nat) (st : Status) (a b : Nat) : QueueOnly d (e.descDone id st a b) := by
  unfold Dev.descDone
  split
  · exact h
  · split
    · exact h
    · split
      · exact (h.trans ⟨_, _, _, _, _, _, rfl⟩).ringSettle _
      · exact h.trans ⟨_, _, _, _, _, _, rfl⟩

end Queue

/-! The start of a step (R255 to R257). -/

/-- The step that operands describe over a loaded context, with its pages not yet listed. -/
def Attn.ofOperands (id : Nat) (body : BitVec 512) (c : Ctx) : Attn :=
  ⟨id, body, c, if dq body 13 1 1 == 1 || decide (dq body 9 0 8 < c.next) then c.len + 1 else c.len, if dq body 13 1 1 == 1 then 1 else 2, [], .ok, [], [], none, []⟩

/-- The initial values of a step's partial (R257). -/
def Attn.initial (a : Attn) : List PByte :=
  (List.replicate a.cols (toPBytes 4 0xFF800000)).flatten ++ toPBytes (4 * a.cols) 0 ++ toPBytes (512 * a.cols) 0

theorem Dev.scratchBacked_unasked (d : Dev) (a n : Nat) : d.unasked.scratchBacked a n = d.scratchBacked a n := by
  rw [Dev.scratchBacked, Dev.scratchBacked]
  rfl
theorem Dev.winCovers_unasked (d : Dev) (fuel a n : Nat) : d.unasked.winCovers fuel a n = d.winCovers fuel a n := by
  induction fuel generalizing a n with
  | zero => rfl
  | succ fuel ih =>
    rw [Dev.winCovers, Dev.winCovers]
    simp only [ih]
    rfl
theorem Dev.backed_unasked (d : Dev) (a n : Nat) : d.unasked.backed a n = d.backed a n := by
  rw [Dev.backed, Dev.backed, Dev.scratchBacked_unasked, Dev.winCovers_unasked]
  rfl
/-- Whether a step is refused is a matter of its operands and of the memory there is. -/
theorem Dev.attnBad_unasked (d : Dev) (a : Attn) : d.unasked.attnBad a = d.attnBad a := by
  rw [Dev.attnBad, Dev.attnBad, Dev.backed_unasked, Dev.backed_unasked, Dev.scratchBacked_unasked]

section Start
variable {d : Dev} {id : Nat} {x : Desc} {c : Ctx} (hx : d.flight id = some x) (hs : x.sent = false) (hf : x.fin = none) (hop : dqOp x.body = 0x51)
  (hidle : d.attn = none)
  (hfirst : (d.descs.any fun y : Desc => decide (y.seq < x.seq) && y.fin.isNone && (dqOp y.body == 0x51 || (dqOp y.body == 0x50 && dq y.body 8 0 4 == dq x.body 8 0 4))) = false)
  (hc : d.ctx 0 (dq x.body 8 0 4) = some c) (hloaded : ((List.range 32).any fun k => (d.ctx k (dq x.body 8 0 4)).isNone) = false)
  (hsound : d.attnBad (.ofOperands id x.body c) = none)
include hx hs hf hop hidle hfirst hc hloaded hsound

/-- A sound step whose turn it is begins, its partial with its initial values; one that does not append enters its cores' launch queues at once. -/
theorem Dev.attnStart_sound {b : Attn} (hb : { Attn.ofOperands id x.body c with pages := (Attn.ofOperands id x.body c).allPages } = b) {d1 e : Dev}
    (hd : ((d.unasked.modFlight id fun y => { y with sent := true }).accWrite endQueue b.partial' b.initial 0 .none []).2 = d1)
    (he : (if dq x.body 13 1 1 == 1 then { d1 with attn := some b } else Dev.attnEnter { d1 with attn := some b }) = e) (hw : e.waits = []) :
    d.attnStart id = e := by
  refine (Dev.qop_started hx hs hf hop _).trans (Dev.whole_done ?_ hw)
  have hturn : ¬(d.unasked.attn.isSome || d.unasked.descs.any fun y : Desc => decide (y.seq < x.seq) && y.fin.isNone &&
      (dqOp y.body == 0x51 || (dqOp y.body == 0x50 && dq y.body 8 0 4 == dq x.body 8 0 4))) = true := by
    rw [hidle, hfirst]
    exact Bool.false_ne_true
  replace hc : d.unasked.ctx 0 (dq x.body 8 0 4) = some c := hc
  rw [← Dev.attnBad_unasked] at hsound
  refine (if_neg hturn).trans ?_
  simp only [hc]
  refine (if_neg (ne_true_of_eq_false hloaded)).trans ?_
  unfold Attn.ofOperands at hsound hb
  subst hb
  simp only [Attn.initial] at hd
  simp only [hsound, hd]
  exact he

end Start

/-! The phases (R257 to R260, R263 to R267). -/

section Phases
variable {d : Dev} {a : Attn}

theorem Dev.attnAppend_phase (ha : d.attn = some a) (hp : a.phase = 1) (ext : List PByte) {e : Dev}
    (he : (let r := d.unasked.appendFrames a; if r.1.any Option.isNone then r.2.appendRefuse a else r.2.appendStore a r.1 ext) = e) (hw : e.waits = []) :
    d.attnAppend ext = e := by
  rw [Dev.attnAppend, ha]
  exact (if_neg (not_not_intro hp)).trans (Dev.whole_done he hw)

/-- A phase of array work is carried out in its turn, out of HOLD and with its cores free. -/
theorem Dev.not_arrayHeld {n : Nat} (hp : a.phase = n) (hh : d.held = false) (hfree : d.attnCoresFree a = true) :
    ¬(a.phase ≠ n ∨ d.held = true ∨ (!d.attnCoresFree a) = true) := by
  simp [hp, hh, hfree]

theorem Dev.attnScore_phase (ha : d.attnEnter.attn = some a) (hp : a.phase = 2) (hh : d.attnEnter.held = false) (hfree : d.attnEnter.attnCoresFree a = true)
    (ext : List PByte) {e : Dev}
    (he : (let r := a.pages.foldl (Dev.scorePage a ext) ([], d.attnEnter.unasked)
      (r.2.modAttn fun b => { b with pages := r.1, phase := 3 }).attnLeave a) = e) (hw : e.waits = []) : d.attnScore ext = e := by
  simp only [Dev.attnScore, ha]
  exact (if_neg (Dev.not_arrayHeld hp hh hfree)).trans (Dev.whole_done he hw)

theorem Dev.attnMaxRun_phase (ha : d.attnLost.attn = some a) (hp : a.phase = 3) {e : Dev}
    (he : (let r := (d.attnLost.unasked.maxReduce a).accRead endQueue a.partial' (4 * a.cols) 0 []
      r.2.2.modAttn fun x => { x with phase := 4, mref := (vElems a.cols 4 r.1).map fun e => (e.v, e.p) }) = e) (hw : e.waits = []) : d.attnMaxRun = e := by
  simp only [Dev.attnMaxRun, ha]
  exact (if_neg (not_not_intro hp)).trans (Dev.whole_done he hw)

theorem Dev.attnNormalise_phase (ha : d.attn = some a) (hp : a.phase = 4) (hn : a.wait = none) :
    d.attnNormalise = (let cores := ((a.pages.filter fun p => !p.out && (d.pageLost p).isNone).map (·.core)).dedup
      cores.foldl (fun d n => d.normSend a n) ((d.normMark a (3 * cores.length)).modFlight a.id fun x => { x with reports := [] })) := by
  rw [Dev.attnNormalise, ha]
  exact if_neg (by simp [hp, hn])

theorem Dev.attnOutput_phase (ha : d.attnTurn.attnEnter.attn = some a) (hp : a.phase = 5) (hh : d.attnTurn.attnEnter.held = false)
    (hfree : d.attnTurn.attnEnter.attnCoresFree a = true) {e : Dev}
    (he : (let cores := (List.range 256).filter fun n => a.pages.any fun p => p.core == n && !p.out && !p.skip
      let r := cores.foldl (Dev.outCore a) ([], d.attnTurn.attnEnter.unasked)
      let q := r.2.shuffle 256 cores
      (q.1.foldl (fun d n => d.coreReduce a n (Tbl.get CoreOut.init r.1 n)) q.2).outEnd a) = e) (hw : e.waits = []) : d.attnOutput = e := by
  simp only [Dev.attnOutput, ha]
  exact (if_neg (Dev.not_arrayHeld hp hh hfree)).trans (Dev.whole_done he hw)

theorem Dev.attnEnd_phase (ha : d.attn = some a) (hp : a.phase = 6) : d.attnEnd = { d with attn := none }.descDone a.id a.st 0 0 := by
  rw [Dev.attnEnd, ha]
  exact if_pos (.inl hp)

end Phases

/-- Settles O41: each row is carried out in its turn, once it lacks nothing; the end of a step leaves none running, since its descriptor's end is the queue engine's own matter. -/
theorem attentionSteps : Obligations.AttentionSteps := by
  refine ⟨fun s => ⟨fun id x hx hs hf hop hrun hwait => ?contexts, fun r k => ?emptied, fun k slot layer head v c hc hl hh hw => ?walk⟩,
    fun s => ⟨fun id x c hx hs hf hop hidle hfirst hc hloaded => ?start, fun a ha hp => ?ended⟩,
    fun s a ext => ⟨fun ha hp => ⟨fun hfound hw => ?appended, fun hmissing hw => ?refused⟩, fun ha hp hh hfree => ?score, fun ha hp => ?max, fun ha hp hn => ?normalise,
      fun ha hp hh hfree => ?output⟩⟩
  case contexts =>
    intro slot
    refine ⟨fun ext hflags => ?load, fun hflag => ?release, fun hinval hkeep => ?inval⟩
    case load =>
      intro r body e
      have read {e : Dev} := Dev.kvLoad_unused hx hs hf hop hrun hwait hflags ext (e := e)
      exact ⟨fun hok hgood hw => exec_ev (exec_kvMap s id ext) (read ((if_neg (not_not_intro hok)).trans (if_neg (ne_true_of_eq_false hgood))) hw) rfl,
        fun hbad hw => exec_ev (exec_kvMap s id ext) (read (if_pos hbad) hw) rfl,
        fun hok hbad hw => exec_ev (exec_kvMap s id ext) (read ((if_neg (not_not_intro hok)).trans (if_pos hbad)) hw) rfl⟩
    case release => exact exec_ev (exec_kvMapRelease s id) (Dev.kvRelease_unused hx hs hf hop hrun hwait hflag) rfl
    case inval => exact exec_ev (exec_kvMapInval s id) (Dev.kvInval_unused hx hs hf hop hrun hwait hinval hkeep) rfl
  case emptied =>
    exact exec_ev (exec_labInv s r k) rfl ⟨fun i hi e he => Bool.noConfusion ((Dev.mem_labDrop.1 he).2 hi),
      fun i e hi => Dev.mem_labDrop.trans (and_iff_left fun h => absurd h hi), rfl, rfl⟩
  case walk => exact exec_ev (exec_pageWalk s v hc hl hh) (Dev.whole_done rfl hw) rfl
  case start =>
    intro app a b init d1 hsound hw
    have begins {e : Dev} := Dev.attnStart_sound hx hs hf hop hidle hfirst hc hloaded hsound (b := b) rfl (d1 := d1) rfl (e := e)
    exact ⟨fun happ => exec_ev (exec_attnStep s id) (begins (if_pos happ) hw) rfl,
      fun happ hw => exec_ev (exec_attnStep s id) (begins (if_neg (ne_true_of_eq_false happ)) hw) rfl⟩
  case ended => exact exec_ev (exec_attnStepComplete s) (Dev.attnEnd_phase ha hp) ⟨((QueueOnly.refl _).descDone ..).attn, rfl⟩
  case appended => exact exec_ev (exec_append s ext) (Dev.attnAppend_phase ha hp ext (if_neg (ne_true_of_eq_false hfound)) hw) rfl
  case refused => exact exec_ev (exec_append s ext) (Dev.attnAppend_phase ha hp ext (if_pos hmissing) hw) rfl
  case score =>
    intro r e hw
    exact exec_ev (exec_score s ext) (Dev.attnScore_phase ha hp hh hfree ext rfl hw) rfl
  case max =>
    intro r e hw
    exact exec_ev (exec_attnMax s) (Dev.attnMaxRun_phase ha hp rfl hw) rfl
  case normalise => exact exec_ev (exec_normalise s) (Dev.attnNormalise_phase ha hp hn) rfl
  case output =>
    intro cores r q e hw
    exact exec_ev (exec_output s) (Dev.attnOutput_phase ha hp hh hfree rfl hw) rfl

end Sys2Proof.Machine
end

section
/-! SUPPORT. Ring pairs enabled, drained and disabled (R283, R290 to R292; log 40). -/

namespace Sys2Proof.Machine

/-! The rows of this part, each one event. -/

section Rows
variable (s : State) (r : Req) (i : RingId)

theorem exec_ringEnable : exec (.ringEnable r i) s = s.ev fun d => d.ringEnable i := rfl
theorem exec_ringDisable : exec (.ringDisable r i) s = s.ev fun d => d.ringDisable i := rfl

end Rows

theorem QueueOnly.mem {d e : Dev} (h : QueueOnly d e) : e.mem = d.mem := by
  obtain ⟨_, _, _, _, _, _, rfl⟩ := h
  rfl

/-! The two halves of a ring pair: reads of slots and a completion ring's use leave what is of the submission ring (R283, R292). -/

/-- What of a ring pair is its submission ring's. -/
def Ring.submission (r : Ring) : Ring :=
  { Ring.init with state := r.state, pendingEn := r.pendingEn, sqHead := r.sqHead, sqTail := r.sqTail, avail := r.avail, fetched := r.fetched }

section Halves
variable (d : Dev) (j i : Nat)

@[simp] theorem Dev.ring_modRing (f : Ring → Ring) : (d.modRing i f).ring i = f (d.ring i) := Dev.ring_setRing ..

theorem Dev.modRing_submission {f : Ring → Ring} (hf : ∀ r, (f r).submission = r.submission) :
    ((d.modRing j f).ring i).submission = (d.ring i).submission := by
  obtain rfl | h := eq_or_ne i j
  · rw [Dev.ring_modRing, hf]
  · rw [Dev.modRing, Dev.ring_setRing_ne _ _ h]

theorem Dev.watchDrop_ring (l : Nat) : (d.watchDrop l).ring i = d.ring i := by
  unfold Dev.watchDrop
  split <;> rfl

/-- Of the rings, the read of a slot changes when the slot is polled next. -/
theorem Dev.slotRead_rings : (d.slotRead i).rings = (d.modRing i fun r => { r with pollAt := d.ns + if d.watches i then d.pollNs i else 0 }).rings := by
  unfold Dev.slotRead
  dsimp only
  repeat' split
  all_goals rfl

theorem Dev.slotRead_submission : ((d.slotRead j).ring i).submission = (d.ring i).submission := by
  rw [Dev.ring, Dev.slotRead_rings]
  exact d.modRing_submission j i fun _ => rfl

theorem Dev.cqRelease_submission : ((d.cqRelease j).ring i).submission = (d.ring i).submission := by
  unfold Dev.cqRelease
  split
  · rw [Dev.watchDrop_ring, Dev.modRing_submission]
    exact fun _ => rfl
  · rfl

theorem Dev.cqRelease_descs : (d.cqRelease j).descs = d.descs := by
  unfold Dev.cqRelease Dev.watchDrop
  repeat' split
  all_goals rfl

end Halves

/-! Enable (R283, R292). -/

section Enable
variable {d : Dev} {i : Nat}

/-- A ring pair whose indexes can be supplied runs, its submission ring empty. -/
theorem Dev.ringOn_supplied (hi : d.canSupply i = true) (hj : d.canSupply (d.cqOf i) = true) :
    ((d.ringOn i).ring i).submission = { Ring.init with state := .running } := by
  have hrun : (((d.setBit RING_CFG.ENABLE i 0 true).modRing i fun r =>
      { r with state := .running, pendingEn := false, sqHead := 0, sqTail := 0, avail := [], fetched := [] }).ring i).submission = { Ring.init with state := .running } := by
    rw [Dev.ring_modRing]
    rfl
  unfold Dev.ringOn
  simp only [hi, hj, Bool.and_self, if_true]
  split
  · rw [Dev.slotRead_submission, hrun]
  · rw [Dev.slotRead_submission]
    split
    · rw [Dev.modRing_submission, hrun]
      exact fun _ => rfl
    · rw [Dev.slotRead_submission, Dev.modRing_submission, hrun]
      exact fun _ => rfl

theorem Dev.ringOn_refused (h : (d.canSupply i && d.canSupply (d.cqOf i)) = false) :
    d.ringOn i = (d.setBit RING_CFG.ENABLE i 0 false).setBit RING_STATUS.CFG_IGNORED i 0 true :=
  if_neg (ne_true_of_eq_false h)

theorem Dev.ringEnable_disabled (h : (d.ring i).state = .disabled) : d.ringEnable i = d.ringOn i := by
  simp only [Dev.ringEnable, h]

theorem Dev.ringEnable_draining (h : (d.ring i).state = .draining) :
    d.ringEnable i = (d.setBit RING_CFG.ENABLE i 0 true).modRing i fun r => { r with pendingEn := true } := by
  simp only [Dev.ringEnable, h]

end Enable

/-! Drain (R283, R292). -/

section Drain
variable {d : Dev} {i : Nat}

/-- A draining ring with descriptors in flight goes on draining. -/
theorem Dev.ringSettle_busy (h : d.inflight i ≠ []) : d.ringSettle i = d.cqRelease (d.cqOf i) := if_neg fun hs => h hs.2

/-- A draining ring with nothing in flight, which is not asked for again, is disabled. -/
theorem Dev.ringSettle_drained (hs : (d.ring i).state = .draining) (h : d.inflight i = []) (hp : (d.ring i).pendingEn = false) :
    ((d.ringSettle i).ring i).submission = { (d.ring i).submission with state := .disabled, avail := [], fetched := [] } := by
  unfold Dev.ringSettle
  simp only [hs, h, hp, and_self, if_true, Bool.false_eq_true, if_false]
  rw [Dev.watchDrop_ring, Dev.cqRelease_submission, Dev.ring_setRing, Ring.submission, Ring.submission, hp]

/-- The device as ENABLE written 0 makes running or stopped ring i drain. -/
def Dev.drainBegun (d : Dev) (i : Nat) : Dev := (d.setBit RING_CFG.ENABLE i 0 false).modRing i fun r => { r with state := .draining }

theorem Dev.drainBegun_ring (d : Dev) (i : Nat) : (d.drainBegun i).ring i = { d.ring i with state := .draining } := Dev.ring_modRing ..
theorem Dev.drainBegun_queue (d : Dev) (i : Nat) : QueueOnly d (d.drainBegun i) := ((QueueOnly.refl d).setBit ..).modRing ..

theorem Dev.ringDisable_on (h : (d.ring i).state = .running ∨ (d.ring i).state = .stopped) : d.ringDisable i = (d.drainBegun i).ringSettle i := by
  have hring : (d.setBit RING_CFG.ENABLE i 0 false).ring i = d.ring i := rfl
  obtain h | h := h <;> simp only [Dev.ringDisable, hring, h, Dev.drainBegun]

end Drain

/-- Settles O30: an enable starts a ring that can be supplied, is refused to one that cannot, and waits for one that drains; a disable begins the drain, which is over at once with nothing in flight. -/
theorem ringsEnableAndDrain : Obligations.RingsEnableAndDrain := by
  refine fun s r i => ⟨fun hs hi hj => ?enable, fun hs hn => ?refuse, fun hs => ?remember, fun hs hbusy => ?drain, fun hs hidle hp => ?disable⟩
  case enable =>
    have hrun := Dev.ringOn_supplied hi hj
    exact exec_ev (exec_ringEnable s r i) (Dev.ringEnable_disabled hs)
      ⟨congrArg Ring.state hrun, congrArg Ring.sqHead hrun, congrArg Ring.sqTail hrun, congrArg Ring.avail hrun, congrArg Ring.fetched hrun,
        ((QueueOnly.refl s.dev).ringOn i).mem⟩
  case refuse =>
    have hset := (s.dev.setBit RING_CFG.ENABLE i 0 false).bit_setBit RING_STATUS.CFG_IGNORED i 0 true (by decide) rfl
    exact exec_ev (exec_ringEnable s r i) ((Dev.ringEnable_disabled hs).trans (Dev.ringOn_refused hn)) ⟨hset, rfl⟩
  case remember =>
    exact exec_ev (exec_ringEnable s r i) (Dev.ringEnable_draining hs) ((s.dev.setBit RING_CFG.ENABLE i 0 true).ring_modRing i fun r => { r with pendingEn := true })
  case drain =>
    have hring := (s.dev.drainBegun i).cqRelease_submission ((s.dev.drainBegun i).cqOf i) i
    rw [Dev.drainBegun_ring] at hring
    exact exec_ev (exec_ringDisable s r i) ((Dev.ringDisable_on hs).trans (Dev.ringSettle_busy hbusy))
      ⟨congrArg Ring.state hring, Dev.cqRelease_descs .., ((s.dev.drainBegun_queue i).cqRelease _).mem⟩
  case disable =>
    have hring := s.dev.drainBegun_ring i
    have hend := Dev.ringSettle_drained (d := s.dev.drainBegun i) (i := i) (by rw [hring]) hidle (by rw [hring]; exact hp)
    exact exec_ev (exec_ringDisable s r i) (Dev.ringDisable_on hs)
      ⟨congrArg Ring.state hend, congrArg Ring.fetched hend, ((s.dev.drainBegun_queue i).ringSettle i).mem⟩

end Sys2Proof.Machine
end

section
/-! SUPPORT. Doorbell slots polled, snooped and read (R289 to R292, R311, R325, R406). -/

namespace Sys2Proof.Machine

/-! The rows of this part, each one event. -/

section Rows
variable (s : State)

theorem exec_doorbellPoll (i : RingId) (slot : Option Word) : exec (.doorbellPoll i slot) s = s.ev fun d => d.tailWake (d.doorbellPoll i slot) := rfl
theorem exec_doorbellSnoop (line : Nat) : exec (.doorbellSnoop line) s = s.ev fun d => d.doorbellSnoop line := rfl
theorem exec_doorbellRead (line : Nat) (data : List PByte) : exec (.doorbellRead line data) s = s.ev fun d => d.tailWake (d.doorbellRead line data) := rfl

end Rows

/-- Out of PARKED a cause of the wake is noted, and no more. -/
theorem Dev.tailWake_awake (d : Dev) {e : Dev} (h : e.power ≠ .parked) : ∃ w, d.tailWake e = { e with pwr := w } := by
  unfold Dev.tailWake Dev.wake
  dsimp only
  split
  · split
    · exact ⟨_, rfl⟩
    · exact ⟨_, rfl⟩
  · exact ⟨_, rfl⟩

/-! What a slot says (R289, R292, R311). -/

/-- From d to e only rings and registers change, and what the cycle notes of these. -/
def RingsRegs (d e : Dev) : Prop := ∃ rs r c, e = { d with rings := rs, regs := r, cyc := c }

theorem RingsRegs.refl (d : Dev) : RingsRegs d d := ⟨_, _, _, rfl⟩
theorem RingsRegs.trans {a b c : Dev} (h : RingsRegs a b) (h' : RingsRegs b c) : RingsRegs a c := by
  obtain ⟨_, _, _, rfl⟩ := h
  obtain ⟨_, _, _, rfl⟩ := h'
  exact ⟨_, _, _, rfl⟩

section Frame
variable {d e : Dev} (h : RingsRegs d e)
include h

theorem RingsRegs.watch : e.watch = d.watch := by obtain ⟨_, _, _, rfl⟩ := h; rfl
theorem RingsRegs.mem : e.mem = d.mem := by obtain ⟨_, _, _, rfl⟩ := h; rfl
theorem RingsRegs.power : e.power = d.power := by obtain ⟨_, _, _, rfl⟩ := h; rfl

end Frame

section Slot
variable (d : Dev) (i : Nat)

theorem Dev.tailSeen_ringsRegs (tail : Nat) : RingsRegs d (d.tailSeen i tail) := by
  unfold Dev.tailSeen
  dsimp only
  split_ifs <;> exact ⟨_, _, _, rfl⟩

theorem Dev.headSeen_ringsRegs (head : Nat) : RingsRegs d (d.headSeen i head) := by
  unfold Dev.headSeen
  dsimp only
  split <;> exact ⟨_, _, _, rfl⟩

theorem Dev.slotSeen_ringsRegs (slot : Option Word) : RingsRegs d (d.slotSeen i slot) := by
  cases slot with
  | none => exact .refl d
  | some w => exact (d.tailSeen_ringsRegs i _).trans (Dev.headSeen_ringsRegs _ i _)

/-- A tail within the ring, past what was available, makes the descriptors before it available, and changes no register. -/
theorem Dev.tailSeen_advance {tail : Nat} (hon : (d.ring i).on = true) (hfit : idxDiff tail (d.ring i).sqHead ≤ d.sqLen i)
    (hnew : idxDiff (((d.ring i).avail.getLast?.map (·.1)).getD (d.ring i).sqHead) (d.ring i).sqHead < idxDiff tail (d.ring i).sqHead) :
    (d.tailSeen i tail).ring i = { d.ring i with sqTail := tail, avail := (d.ring i).avail ++ [(tail, d.ns)] } ∧ (d.tailSeen i tail).regs = d.regs := by
  have hon' : ¬(!(d.ring i).on) = true := by rw [hon]; exact Bool.false_ne_true
  have htail : d.tailSeen i tail = (d.modRing i fun r => { r with sqTail := tail }).modRing i fun r => { r with avail := r.avail ++ [(tail, d.ns)] } :=
    (if_neg hon').trans ((if_neg (Nat.not_lt.2 hfit)).trans (if_pos hnew))
  rw [htail]
  exact ⟨by simp only [Dev.ring_modRing], rfl⟩

/-- What a slot says of a completion ring leaves the registers and what is of the submission ring. -/
theorem Dev.headSeen_regs (head : Nat) : (d.headSeen i head).regs = d.regs := by
  unfold Dev.headSeen
  dsimp only
  split <;> rfl

theorem Dev.headSeen_ring (head : Nat) : ∃ h, (d.headSeen i head).ring i = { d.ring i with cqHead := h } := by
  unfold Dev.headSeen
  dsimp only
  split
  · exact ⟨head, d.ring_modRing i _⟩
  · exact ⟨_, rfl⟩

end Slot

/-! Polls (R291). -/

/-- The device with the next poll of ring pair i due a period from now. -/
def Dev.polled (d : Dev) (i : Nat) : Dev := d.modRing i fun r => { r with pollAt := d.ns + d.pollNs i }

theorem Dev.polled_ring (d : Dev) (i : Nat) : (d.polled i).ring i = { d.ring i with pollAt := d.ns + d.pollNs i } := Dev.ring_modRing ..

section Poll
variable {d : Dev} {i : Nat} (hlink : d.linkOn = true) (hon : (d.ring i).on = true) (hpolls : d.polls i = true) (hdue : (d.ring i).pollAt ≤ d.ns)
  (hread : ((Tbl.get none d.watch (d.slotLine i)).any (·.reading)) = false)
include hlink hon hpolls hdue hread

/-- A poll that is due reads its slot, unless its line is being read anyway. -/
theorem Dev.doorbellPoll_due (slot : Option Word) : d.doorbellPoll i slot = (d.polled i).slotSeen i slot :=
  (if_pos (by simp [hlink, hon, hpolls, hdue])).trans (if_neg (ne_true_of_eq_false hread))

/-- The poll that brings an advanced tail changes its ring, and no register. -/
theorem Dev.doorbellPoll_advance {slot : Word} (hfit : idxDiff (bitsOf slot.toNat 0 32) (d.ring i).sqHead ≤ d.sqLen i)
    (hnew : idxDiff (((d.ring i).avail.getLast?.map (·.1)).getD (d.ring i).sqHead) (d.ring i).sqHead < idxDiff (bitsOf slot.toNat 0 32) (d.ring i).sqHead) :
    (d.doorbellPoll i (some slot)).regs = d.regs ∧ ∃ h, (d.doorbellPoll i (some slot)).ring i = { d.ring i with
      pollAt := d.ns + d.pollNs i, sqTail := bitsOf slot.toNat 0 32, avail := (d.ring i).avail ++ [(bitsOf slot.toNat 0 32, d.ns)], cqHead := h } := by
  have hring := d.polled_ring i
  obtain ⟨htail, hregs⟩ := (d.polled i).tailSeen_advance i (tail := bitsOf slot.toNat 0 32)
    (by rw [hring]; exact hon) (by rw [hring]; exact hfit) (by rw [hring]; exact hnew)
  rw [Dev.doorbellPoll_due hlink hon hpolls hdue hread, Dev.slotSeen]
  refine ⟨(Dev.headSeen_regs ..).trans hregs, ?_⟩
  obtain ⟨h, hhead⟩ := ((d.polled i).tailSeen i (bitsOf slot.toNat 0 32)).headSeen_ring i (bitsOf slot.toNat 32 32)
  exact ⟨h, by rw [hhead, htail, hring]; rfl⟩

end Poll

/-! Watched lines (R290, R325). -/

section Line
variable {d : Dev} {line : Nat} {w : Watch} (hw : Tbl.get none d.watch line = some w)
include hw

/-- A snoop that meets the read of its line asks for one read more. -/
theorem Dev.doorbellSnoop_reading (hr : w.reading = true) : d.doorbellSnoop line = { d with watch := Tbl.set none d.watch line (some ⟨true, true⟩) } := by
  rw [Dev.doorbellSnoop, hw]
  exact if_pos hr

/-- A line taken away is read again over CXL.cache. -/
theorem Dev.doorbellSnoop_held (hr : w.reading = false) (hc : d.cacheOn = true) :
    d.doorbellSnoop line = ({ d.pmcDev 0x04 1 with watch := Tbl.set none d.watch line (some ⟨true, false⟩) }).emit (.hostRead (64 * line) 64) := by
  rw [Dev.doorbellSnoop, hw]
  exact (if_neg (ne_true_of_eq_false hr)).trans (if_neg (by rw [hc]; exact Bool.false_ne_true))

/-- The rings whose slots lie in a line and that use it. -/
def Dev.lineUsers (d : Dev) (line : Nat) : List Nat :=
  (d.rings.filter fun p => d.slotLine p.1 == line && (d.watches p.1 || d.polls p.1) && (p.2.on || p.2.inUse)).map (·.1)

/-- A line that returns is idle, and every ring that uses it takes its slot. -/
theorem Dev.doorbellRead_returned (hr : w.reading = true) (ha : w.again = false) {data : List PByte} (hl : data.length = 64) (hlink : d.linkOn = true) :
    d.doorbellRead line data = (d.lineUsers line).foldl (fun d i => d.slotSeen i (slotOf data (d.fld DB_ADDR.ADDR i 0 % 8 * 8)))
      { d with watch := Tbl.set none d.watch line (some ⟨false, false⟩) } := by
  rw [Dev.doorbellRead, hw]
  refine (if_neg (by simp [hr, hl, hlink])).trans ?_
  simp only [ha, Bool.false_eq_true, if_false]
  rfl

end Line

/-- Taking slots changes rings and registers alone. -/
theorem RingsRegs.slots {d e : Dev} (h : RingsRegs d e) (slot : Dev → Nat → Option Word) (l : List Nat) : RingsRegs d (l.foldl (fun d i => d.slotSeen i (slot d i)) e) :=
  List.foldlRecOn l _ (motive := RingsRegs d) h fun _ he i _ => he.trans (Dev.slotSeen_ringsRegs _ i _)

/-- Settles O31: a poll that is due takes its slot; a snooped line is read again, once at a time; a line that returns serves every ring that uses it. -/
theorem doorbellsAreRead : Obligations.DoorbellsAreRead := by
  refine fun s => ⟨fun i slot hawake hlink hon hpolls hdue hread hfit hnew => ?poll, fun line w hw hr => ?again, fun line w hw hr hc => ?snoop,
    fun line w data hw hr ha hl hlink => ?returned⟩
  case poll =>
    obtain ⟨hregs, head, hring⟩ := Dev.doorbellPoll_advance hlink hon hpolls hdue hread hfit hnew
    have hframe : RingsRegs s.dev (s.dev.doorbellPoll i (some slot)) := by
      rw [Dev.doorbellPoll_due hlink hon hpolls hdue hread]
      exact RingsRegs.trans ⟨_, _, _, rfl⟩ (Dev.slotSeen_ringsRegs _ i _)
    obtain ⟨v, hwake⟩ := s.dev.tailWake_awake (e := s.dev.doorbellPoll i (some slot)) (by rw [hframe.power]; exact hawake)
    exact exec_ev (exec_doorbellPoll s i (some slot)) hwake
      ⟨congrArg Ring.sqTail hring, congrArg Ring.pollAt hring, congrArg Ring.avail hring, (congrArg Ring.state hring :), hframe.mem, hregs⟩
  case again => exact exec_ev (exec_doorbellSnoop s line) (Dev.doorbellSnoop_reading hw hr) rfl
  case snoop =>
    have hset : Tbl.get none (Tbl.set none s.dev.watch line (some ⟨true, false⟩)) line = some ⟨true, false⟩ := Tbl.get_set_same ..
    obtain ⟨_, _, hcount⟩ := (s.dev.pmcDev_monitor 0x04 1).regs
    exact exec_ev (exec_doorbellSnoop s line) (Dev.doorbellSnoop_held hw hr hc) (by rw [hcount]; exact ⟨hset, rfl, rfl, rfl⟩)
  case returned =>
    have hread := congrArg s.dev.tailWake (Dev.doorbellRead_returned hw hr ha hl hlink)
    refine exec_ev (exec_doorbellRead s line data) hread ⟨fun hawake => ?_, rfl⟩
    have hframe := (RingsRegs.refl { s.dev with watch := Tbl.set none s.dev.watch line (some ⟨false, false⟩) }).slots
      (fun d i => slotOf data (d.fld DB_ADDR.ADDR i 0 % 8 * 8)) (s.dev.lineUsers line)
    obtain ⟨v, hwake⟩ := s.dev.tailWake_awake (by rw [hframe.power]; exact hawake)
    rw [hwake]
    exact ⟨(congrArg (Tbl.get none · line) hframe.watch).trans (Tbl.get_set_same none (some ⟨false, false⟩) s.dev.watch line), hframe.mem⟩

end Sys2Proof.Machine
end

section
/-! SUPPORT. Descriptors fetched and started (R280, R294; log 136). -/

namespace Sys2Proof.Machine

/-! The rows of this part, each one event. -/

section Rows
variable (s : State)

theorem exec_descriptorFetch (i : RingId) (ext : List PByte) : exec (.descriptorFetch i ext) s = s.ev fun d => d.descFetch i ext := rfl
theorem exec_descriptorStart : exec .descriptorStart s = s.ev fun d => d.descStart := rfl

end Rows

/-! Fetch (R280, R294). -/

/-- A ring with its next available descriptor fetched: its entries are available up to an index, by the doorbell read of an age, and then as the rest says. -/
def Ring.fetch (r : Ring) (upto age : Nat) (rest : List (Nat × Nat)) (b : List PByte) : Ring :=
  { r with
    sqHead := (r.sqHead + 1) % 2 ^ 32
    avail := if (r.sqHead + 1) % 2 ^ 32 = upto then rest else r.avail
    fetched := r.fetched ++ [⟨r.sqHead, BitVec.ofNat 512 (ofPBytes b), anyPoison b, age⟩] }

/-- A running ring over the link whose base is in host memory takes the bytes that come from there. -/
theorem Dev.descFetch_host {d : Dev} {i upto age : Nat} {rest : List (Nat × Nat)} {ext : List PByte} (ha : (d.ring i).avail = (upto, age) :: rest)
    (hs : (d.ring i).state = .running) (hlink : d.linkOn = true) (hp : d.power = .run) (hlocal : d.bit SQ_BASE.LOCAL i 0 = false) (hlen : ext.length = 64) :
    d.descFetch i ext = d.unasked.modRing i fun r => r.fetch upto age rest ext := by
  have hgo : ¬((d.ring i).state ≠ .running ∨ (!d.linkOn) = true ∨ d.power ≠ .run) := by simp [hs, hlink, hp]
  have htake : (ext ++ poisonBytes 64).take 64 = ext := List.take_left' hlen
  simp only [Dev.descFetch, ha]
  refine (if_neg hgo).trans (Dev.whole_done ?_ rfl)
  simp only [show d.unasked.bit SQ_BASE.LOCAL i 0 = false from hlocal, Bool.false_eq_true, if_false, htake]
  simp only [Dev.modRing, Ring.fetch]
  rfl

/-! Start (R294). -/

/-- What the checks of the descriptor with a number and an opcode make of it: a failure ends it, and so does a pass where there is nothing to do. -/
def Dev.descJudged (d : Dev) (id op : Nat) : Option (Status × Nat) → Dev
  | some (st, k) => d.descDone id st k 0
  | none => if op = 0x7E then d.descDone id .ok 0 0 else d

section Start
variable {d : Dev} (hroom : d.descs.length < 1024) (hp : d.power = .run) (hok : d.bit LNK_STATUS.D2D_FATAL 0 0 = false)
  {i : Nat} {d1 : Dev} {f : Fetched} {rest : List Fetched} (hpick : d.unasked.ringPick = some (i, d1)) (hf : (d1.ring i).fetched = f :: rest) (hclean : f.poison = false)
include hroom hp hok hpick hf hclean

/-- The descriptor whose turn it is enters the engine, and its checks say what becomes of it. -/
theorem Dev.descStart_checked {r : Option (Status × Nat)} {d2 e : Dev} (hcheck : (d1.descPlace i f f.body rest).dqCheck i f.body = (r, d2))
    (he : d2.descJudged d1.nextDesc (dqOp f.body) r = e) (hw : e.waits = []) : d.descStart = e := by
  have hgo : ¬(1024 ≤ d.descs.length ∨ d.power ≠ .run ∨ d.bit LNK_STATUS.D2D_FATAL 0 0 = true) := by simp [hroom, hp, hok]
  refine (if_neg hgo).trans (Dev.whole_done ?_ hw)
  simp only [hpick, hf, hclean, Bool.false_eq_true, if_false, hcheck]
  cases r with
  | none => exact he
  | some _ => exact he

end Start

/-- Settles O32: a fetch takes its descriptor's bytes from host memory; a start is an event that lacks nothing it would wait for. -/
theorem descriptorsStart : Obligations.DescriptorsStart := by
  refine fun s => ⟨fun i ext upto age rest ha hs hlink hp hlocal hlen => ?fetch, fun hroom hp hok i d1 f rest hpick hf hclean => ?start⟩
  case fetch =>
    have hring := s.dev.unasked.ring_modRing i fun r => r.fetch upto age rest ext
    exact exec_ev (exec_descriptorFetch s i ext) (Dev.descFetch_host ha hs hlink hp hlocal hlen) ⟨hring, rfl, rfl, rfl⟩
  case start =>
    have started {r : Option (Status × Nat)} {d2 e : Dev} := Dev.descStart_checked hroom hp hok hpick hf hclean (r := r) (d2 := d2) (e := e)
    refine ⟨fun d2 hc hop hw => ?runs, fun d2 hc hop hw => ?nop, fun st k d2 hc hw => ?failed⟩
    case runs => exact exec_ev (exec_descriptorStart s) (started hc (if_neg hop) hw) rfl
    case nop => exact exec_ev (exec_descriptorStart s) (started hc (if_pos hop) hw) rfl
    case failed => exact exec_ev (exec_descriptorStart s) (started hc rfl hw) rfl

end Sys2Proof.Machine
end

section
/-! SUPPORT. Batons: operations whose turn it is, releases, time limits and loads of records (R303 to R306, R309). -/

namespace Sys2Proof.Machine

/-! The rows of this part, each one event. -/

section Rows
variable (s : State) (c : RegionId) (bad : Bool)

theorem exec_batonAdd : exec (.batonAdd c bad) s = s.ev fun d => d.btnTake c .add bad := rfl
theorem exec_batonSet : exec (.batonSet c bad) s = s.ev fun d => d.btnTake c .set bad := rfl
theorem exec_batonWaitOp : exec (.batonWaitOp c bad) s = s.ev fun d => d.btnTake c .wait bad := rfl
theorem exec_batonHandoff : exec (.batonHandoff c bad) s = s.ev fun d => d.btnTake c .handoff bad := rfl
theorem exec_batonRelease : exec (.batonRelease c) s = s.ev fun d => d.btnRelease c := rfl
theorem exec_batonTimeout : exec (.batonTimeout c) s = s.ev fun d => d.btnTimeout c := rfl

/-- A load of a record within the batons' addresses reaches the unit. -/
theorem exec_batonRecordLoad (src : Nat) {a size : Nat} (hlo : batonBase ≤ a) (hhi : a + size ≤ batonEnd) :
    exec (.batonRecordLoad src a size false) s = s.ev fun d => d.btnAccess (.mem src) (srcPort src (batonRegion ((a - batonBase) / 64))) a size none := by
  change execBatonRecordLoad src a size false s = _
  simp only [execBatonRecordLoad, State.ev, hlo, hhi, and_self, if_true, Bool.false_and, Bool.false_eq_true, if_false]

end Rows

/-! Operations (R304 to R306). -/

theorem Dev.baton_setBaton (d : Dev) (b v : Nat) : (d.setBaton b v).baton b = BitVec.ofNat 32 v := Tbl.get_set_same ..

/-- A WAIT that is granted is acknowledged with VALUE. -/
theorem Dev.btnGrant_wait (d : Dev) {o : BtnOp} (hk : o.kind = .wait) : d.btnGrant o = d.btnAck o .ok 0 (d.baton o.baton).toNat := by
  simp only [Dev.btnGrant, hk, reduceCtorEq, if_false]

/-- A HANDOFF that is granted increments VALUE. -/
theorem Dev.btnGrant_handoff (d : Dev) {o : BtnOp} (hk : o.kind = .handoff) :
    d.btnGrant o = (d.setBaton o.baton ((d.baton o.baton).toNat + 1)).btnAck o .ok 0 (((d.baton o.baton).toNat + 1) % 2 ^ 32) := by
  simp only [Dev.btnGrant, hk, if_true, Dev.baton_setBaton, BitVec.toNat_ofNat]

theorem Dev.btnOps_btnBad (d : Dev) (c : Nat) : (d.btnOps c).btnBad = d.btnBad := rfl

section Perform
variable {d : Dev} {c : Nat} {o : BtnOp} (hc : batonRegion o.baton = c) (hgood : d.btnBad.contains o.baton = false) (hclean : o.poison = false)
include hc hgood hclean

/-- An ADD adds its value to VALUE. -/
theorem Dev.btnPerform_add (hk : o.kind = .add) :
    d.btnPerform o = ((d.btnOps c).setBaton o.baton ((d.baton o.baton).toNat + o.v)).btnAck o .ok 0 (d.baton o.baton).toNat := by
  simp only [Dev.btnPerform, Dev.btnOps_btnBad, hc, hgood, hclean, hk, Bool.false_eq_true, if_false]

/-- A SET replaces VALUE. -/
theorem Dev.btnPerform_set (hk : o.kind = .set) : d.btnPerform o = ((d.btnOps c).setBaton o.baton o.v).btnAck o .ok 0 (d.baton o.baton).toNat := by
  simp only [Dev.btnPerform, Dev.btnOps_btnBad, hc, hgood, hclean, hk, Bool.false_eq_true, if_false]

/-- A WAIT or HANDOFF is granted where VALUE satisfies it, else registered where there is room. -/
theorem Dev.btnPerform_waits (hk : o.kind = .wait ∨ o.kind = .handoff) : d.btnPerform o =
    if btnMet o.kind (d.baton o.baton).toNat o.v then (d.btnOps c).btnGrant o
    else if (d.bw c).length < 64 then (d.btnOps c).setBw c (d.bw c ++ [o])
    else ((d.btnOps c).btnErr BTN_ERR.WAIT_FULL o.baton).btnAck o .deadline 1 0 := by
  obtain hk | hk := hk <;>
  · simp only [Dev.btnPerform, Dev.btnOps_btnBad, hc, hgood, hclean, hk, Bool.false_eq_true, if_false]
    rfl

/-- A WAIT or HANDOFF that VALUE satisfies is granted. -/
theorem Dev.btnPerform_granted (hk : o.kind = .wait ∨ o.kind = .handoff) (hm : btnMet o.kind (d.baton o.baton).toNat o.v = true) :
    d.btnPerform o = (d.btnOps c).btnGrant o := by
  rw [Dev.btnPerform_waits hc hgood hclean hk, if_pos hm]

/-- One that VALUE does not satisfy is registered, where there is room. -/
theorem Dev.btnPerform_registered (hk : o.kind = .wait ∨ o.kind = .handoff) (hm : btnMet o.kind (d.baton o.baton).toNat o.v = false) (hroom : (d.bw c).length < 64) :
    d.btnPerform o = (d.btnOps c).setBw c (d.bw c ++ [o]) := by
  rw [Dev.btnPerform_waits hc hgood hclean hk, if_neg (ne_true_of_eq_false hm), if_pos hroom]

end Perform

/-! The operation whose turn it is (R305). -/

/-- The unit of region c with operation o taken from its queue. -/
def Dev.btnTaken (d : Dev) (c : Nat) (o : BtnOp) : Dev := d.setBq c (btnLeave d.ns (d.bq c) o)

/-- With no release first, the next operation is performed, and the loads that are next are answered. -/
theorem Dev.btnTake_next {d d1 e : Dev} {c : Nat} {o : BtnOp} {k : BtnKind} (hsat : d.btnSat c = none) (hnext : d.btnNext c = some (o, d1)) (hk : o.kind = k)
    (he : (d1.btnTaken c o).btnPerform o = e) : d.btnTake c k false = e.btnLoads c ((d1.btnTaken c o).bq c).length := by
  rw [Dev.btnTake, hsat, if_neg (by simp), hnext]
  dsimp only
  rw [if_pos hk, ← he]
  rfl

/-! Releases and time limits (R305, R306). -/

theorem Dev.btnRelease_satisfied {d : Dev} {c : Nat} {o : BtnOp} (h : d.btnSat c = some o) :
    d.btnRelease c = ((d.setBw c ((d.bw c).erase o)).btnOps c).btnGrant o := by
  rw [Dev.btnRelease, h]

/-- The oldest registration ends when its time is up, unless it is being released. -/
theorem Dev.btnTimeout_oldest {d : Dev} {c u : Nat} {o : BtnOp} {rest : List BtnOp} (hb : d.bw c = o :: rest) (hl : o.limit = some u) (hu : u ≤ d.ns)
    (hsat : d.btnSat c ≠ some o) : d.btnTimeout c = ((d.setBw c rest).count BTN_REGION.TIMEOUTS c 0 1).btnAck o .deadline 0 0 := by
  simp only [Dev.btnTimeout, hb]
  rw [List.find?_cons_of_pos (by simp [hl, hu, hsat])]
  simp only [List.erase_cons_head]

/-! Loads of records (R303, R305). -/

/-- From d to e only the batons' queues and the arbiters change. -/
def TurnOnly (d e : Dev) : Prop := ∃ q a, e = { d with btnQ := q, arbs := a }

theorem TurnOnly.trans {a b c : Dev} (h : TurnOnly a b) (h' : TurnOnly b c) : TurnOnly a c := by
  obtain ⟨_, _, rfl⟩ := h
  obtain ⟨_, _, rfl⟩ := h'
  exact ⟨_, _, rfl⟩

section Turn
variable {d e : Dev} (h : TurnOnly d e)
include h

theorem TurnOnly.btnSat (c : Nat) : e.btnSat c = d.btnSat c := by obtain ⟨_, _, rfl⟩ := h; rfl
theorem TurnOnly.btnBad : e.btnBad = d.btnBad := by obtain ⟨_, _, rfl⟩ := h; rfl
theorem TurnOnly.btnWord (b : Nat) : e.btnWord b = d.btnWord b := by obtain ⟨_, _, rfl⟩ := h; rfl

end Turn

/-- The only operation that waits at a unit is the next. -/
theorem Dev.btnNext_only {d : Dev} {c : Nat} {o : BtnOp} (hq : d.bq c = [o]) : ∃ e, TurnOnly d e ∧ d.btnNext c = some (o, e) := by
  obtain ⟨e, he⟩ := d.tie_single (arbKey 2 o.baton) o.port
  refine ⟨e, ⟨_, _, Dev.tie_only _ _ _ _ _ he⟩, ?_⟩
  rw [Dev.btnNext, hq]
  simp [he]

theorem Dev.bq_btnSend (d : Dev) (o : BtnOp) : (d.btnSend o).bq (batonRegion o.baton) = d.bq (batonRegion o.baton) ++ [o] := Tbl.get_set_same ..

/-- VALUE and the count of waiters are the bytes of a load of all 8. -/
theorem Dev.btnData_record {d : Dev} {b off : Nat} (hgood : d.btnBad.contains b = false) (hoff : off % 8 = 0) : d.btnData b off 8 = (toPBytes 8 (d.btnWord b), .ok, d) := by
  rw [Dev.btnData, if_neg (ne_true_of_eq_false hgood), hoff]
  rfl

/-- A load that is next is answered, with no release first. -/
theorem Dev.btnLoads_next {d d1 e : Dev} {c n : Nat} {o : BtnOp} {b : List PByte} {st : Status} (hsat : d.btnSat c = none) (hnext : d.btnNext c = some (o, d1))
    (hk : o.kind = .load) (hdata : (d1.btnTaken c o).btnData o.baton o.off o.size = (b, st, e)) : d.btnLoads c (n + 1) = (e.btnReply o.src st b).btnLoads c n := by
  rw [Dev.btnTaken] at hdata
  rw [Dev.btnLoads, hsat, if_neg (by simp), hnext]
  refine (if_pos hk).trans ?_
  dsimp only
  rw [hdata]

/-- The load of VALUE and the count of waiters from the record at an address. -/
def Dev.recordLoad (d : Dev) (src : BtnSrc) (port a : Nat) : BtnOp :=
  { kind := .load, baton := (a - batonBase) / 64, v := 0, src := src, port := port, arr := d.ns, limit := none, off := a % 64, size := 8 }

section Load
variable {d : Dev} {a : Nat} (ha : a % 64 = 0)
include ha

/-- A load from the start of a record goes to the record's unit. -/
theorem Dev.btnAccess_record (src : BtnSrc) (port : Nat) : d.btnAccess src port a 8 none =
    (d.btnSend (d.recordLoad src port a)).btnLoads (batonRegion ((a - batonBase) / 64)) ((d.btnSend (d.recordLoad src port a)).bq (batonRegion ((a - batonBase) / 64))).length := by
  have hvalid : ¬(!btnValid a 8 (none : Option (List PByte)).isSome) = true := by
    simp [btnValid]
    omega
  exact (if_neg hvalid).trans (if_neg (by omega))

/-- A load of a good record whose unit is at rest is answered at once. -/
theorem Dev.btnAccess_answered (hq : d.bq (batonRegion ((a - batonBase) / 64)) = []) (hsat : d.btnSat (batonRegion ((a - batonBase) / 64)) = none)
    (hgood : d.btnBad.contains ((a - batonBase) / 64) = false) (src : BtnSrc) (port : Nat) :
    ∃ e, TurnOnly d e ∧ d.btnAccess src port a 8 none = e.btnReply src .ok (toPBytes 8 (d.btnWord ((a - batonBase) / 64))) := by
  have hqueue : (d.btnSend (d.recordLoad src port a)).bq (batonRegion ((a - batonBase) / 64)) = [d.recordLoad src port a] :=
    (d.bq_btnSend (d.recordLoad src port a)).trans (congrArg (· ++ [d.recordLoad src port a]) hq)
  obtain ⟨e, he, hnext⟩ := Dev.btnNext_only hqueue
  have hsent : TurnOnly d (d.btnSend (d.recordLoad src port a)) := ⟨_, _, rfl⟩
  have htaken : TurnOnly d (e.btnTaken (batonRegion ((a - batonBase) / 64)) (d.recordLoad src port a)) := (hsent.trans he).trans ⟨_, _, rfl⟩
  have hdata := Dev.btnData_record (b := (a - batonBase) / 64) (by rw [htaken.btnBad]; exact hgood) (show a % 64 % 8 = 0 by omega)
  rw [htaken.btnWord] at hdata
  refine ⟨_, htaken, (Dev.btnAccess_record ha src port).trans ?_⟩
  rw [hqueue]
  exact Dev.btnLoads_next ((hsent.btnSat _).trans hsat) hnext rfl hdata

end Load

/-- Settles O36: the operation that is next is performed by its kind; a release and a time limit end their registration; a load at a unit at rest is answered at once. -/
theorem batonOperations : Obligations.BatonOperations := by
  refine fun s c => ⟨fun o d1 hsat hnext hgood hclean hc => ?next, fun o hsat => ?release, fun o rest u hb hl hu hsat => ?timeout,
    fun src a hlo hhi ha hq hsat hgood hsrc => ?load⟩
  case next =>
    intro d0 d2 after old
    have taken {k : BtnKind} {e : Dev} (hk : o.kind = k) := Dev.btnTake_next hsat hnext hk (e := e)
    have granted := Dev.btnPerform_granted (d := d0) hc hgood hclean
    have registered := Dev.btnPerform_registered (d := d0) hc hgood hclean
    refine ⟨fun hk => ?add, fun hk => ?set, fun hk hm => ?wait, fun hk hm hroom => ?waits, fun hk hm => ?handoff, fun hk hm hroom => ?handoffWaits⟩
    case add => exact exec_ev (exec_batonAdd s c false) (taken hk (Dev.btnPerform_add hc hgood hclean hk)) rfl
    case set => exact exec_ev (exec_batonSet s c false) (taken hk (Dev.btnPerform_set hc hgood hclean hk)) rfl
    case wait =>
      rw [← hk] at hm
      exact exec_ev (exec_batonWaitOp s c false) (taken hk ((granted (.inl hk) hm).trans (Dev.btnGrant_wait _ hk))) rfl
    case waits =>
      rw [← hk] at hm
      exact exec_ev (exec_batonWaitOp s c false) (taken hk (registered (.inl hk) hm hroom)) rfl
    case handoff =>
      have hmet : btnMet o.kind old o.v = true := by rw [hk]; exact beq_iff_eq.2 hm
      exact exec_ev (exec_batonHandoff s c false) (taken hk ((granted (.inr hk) hmet).trans (Dev.btnGrant_handoff _ hk))) rfl
    case handoffWaits =>
      have hmet : btnMet o.kind old o.v = false := by rw [hk]; exact beq_false_of_ne hm
      exact exec_ev (exec_batonHandoff s c false) (taken hk (registered (.inr hk) hmet hroom)) rfl
  case release => exact exec_ev (exec_batonRelease s c) (Dev.btnRelease_satisfied hsat) rfl
  case timeout => exact exec_ev (exec_batonTimeout s c) (Dev.btnTimeout_oldest hb hl hu hsat) rfl
  case load =>
    obtain ⟨_, ⟨_, _, rfl⟩, hanswer⟩ := Dev.btnAccess_answered ha hq hsat hgood (.mem src) (srcPort src (batonRegion ((a - batonBase) / 64)))
    exact exec_ev (exec_batonRecordLoad s src hlo hhi) (hanswer.trans (Dev.memReply_emit hsrc)) ⟨rfl, rfl, rfl, rfl, rfl⟩

end Sys2Proof.Machine
end

section
/-! SUPPORT. A step and the command at the front of the queue; a step and the fuses (R558). -/

namespace Sys2Proof.Machine

/-- Settles O1: the command is taken off the queue and carried out with the rest (logs 2, 10, 161). -/
theorem stepRunsFrontCommand : Obligations.StepRunsFrontCommand := fun _ _ => rfl

/-- Settles O4: a step leaves the fuses or burns them, and burning unburns none. -/
theorem fusesOnlyBurn : Obligations.FusesOnlyBurn := by
  intro s t hstep
  rcases step_fuse hstep with h | ⟨g, h⟩
  · rw [h]; exact Fuse.burnsTo_refl _
  · rw [h]; exact Fuse.burnsTo_burn _ g

end Sys2Proof.Machine
end

section
/-! SUPPORT. A request for the relay inbox that is longer than the inbox is no chunk: it is served as a plain write (R330, R341). -/

namespace Sys2Proof.Machine

theorem exec_relayChunk (fid : BitVec 12) (chunk : List PByte) (s : State) :
    exec (.relayChunk fid chunk) s = s.ev fun d => if d.linkOn then d.inPut ⟨fid.toNat, true, inboxBase, chunk.length, chunk⟩ else d := rfl

/-- A device with its link up and every window off, two of whose own accesses have met holes: a further one adds nothing to what is recorded (R33, R39). -/
def linkedDev : Dev := ((Dev.reset.setFld FAB_PORT.SPEED 0 0 1).hole endPort inboxBase true).hole endPort inboxBase true

theorem linkedDev_linkOn : linkedDev.linkOn = true := by decide +kernel

theorem linkedDev_hole (src a : Nat) : linkedDev.hole src a true = linkedDev := by
  have hwas : linkedDev.bit DEV_ERR.ADDR_HOLE 0 0 = true := by decide +kernel
  have hset : (linkedDev.setBit DEV_ERR.MULTIPLE 0 0 true).setBit DEV_ERR.ADDR_HOLE 0 0 true = linkedDev := by decide +kernel
  simp only [Dev.hole, hwas, Bool.true_or, if_true, hset]

theorem linkedDev_window (a : Nat) : linkedDev.window a = none := by
  have hoff : ∀ w ∈ List.range 63, linkedDev.begun.bit FAB_WIN_A.EN w 0 = false := by decide +kernel
  have hnone : ((List.range 63).find? fun w => linkedDev.winMatch w a) = none :=
    List.find?_eq_none.2 fun w hw => by simp [Dev.winMatch, hoff w hw]
  unfold Dev.window
  rw [hnone]
  exact ite_self _

theorem linkedDev_ownHop (a : Nat) : linkedDev.ownHop a = none := by rw [Dev.ownHop, linkedDev_window]

theorem linkedDev_served (a : Nat) : linkedDev.served a = a := by rw [Dev.served, Dev.ownGo, linkedDev_ownHop]

theorem linkedDev_ownRo (a : Nat) : ∀ fuel, linkedDev.ownRo fuel a = false
  | 0 => rfl
  | fuel + 1 => by simp only [Dev.ownRo, linkedDev_ownHop]

theorem linkedDev_roWin (a : Nat) : linkedDev.roWin a = false := by simp only [Dev.roWin, linkedDev_window]

/-- No board memory is fitted. -/
theorem linkedDev_gddrHas {a : Nat} (ha : inboxBase ≤ a) (len : Nat) : linkedDev.gddrHas a len = false := by
  have hnone : linkedDev.gddr.usableMib * 2 ^ 20 = 0 := by decide +kernel
  have hpast : ¬ a - gddrBase + len ≤ 0 := by unfold inboxBase at ha; unfold gddrBase; omega
  simp only [Dev.gddrHas, Dev.gdrBacked, hnone, decide_eq_false hpast, Bool.and_false]

theorem linkedDev_cacheable {a : Nat} (ha : inboxBase ≤ a) (len : Nat) : linkedDev.cacheable a len = false := by
  simp only [Dev.cacheable, linkedDev_gddrHas ha, linkedDev_window, Bool.or_self]

theorem not_scratchBacked_of_inbox (d : Dev) {a : Nat} (ha : inboxBase ≤ a) (len : Nat) : d.scratchBacked a len = false := by
  have hpast : ¬ a + len ≤ scratchEnd := by unfold inboxBase at ha; unfold scratchEnd; omega
  simp only [Dev.scratchBacked, decide_eq_false hpast, Bool.and_false, Bool.false_and]

theorem not_lsBacked_of_inbox {a : Nat} (ha : inboxBase ≤ a) (len : Nat) : lsBacked a len = false := by
  have hpast : ¬ a < lsEnd := by unfold inboxBase at ha; unfold lsEnd; omega
  simp only [lsBacked, decide_eq_false hpast, Bool.and_false, Bool.false_and]

/-- From the inbox on nothing is there: a write of the port's is discarded. -/
theorem linkedDev_accWrite1 {a : Nat} (ha : inboxBase ≤ a) (b : List PByte) (ext : List PByte) :
    linkedDev.accWrite1 endPort a b 0 .none ext = (.ok, linkedDev) := by
  have hstack : ¬ a + b.length ≤ stackEnd := by unfold inboxBase at ha; unfold stackEnd; omega
  have hbaton : ¬ (batonBase ≤ a ∧ a + b.length ≤ batonEnd) := by unfold inboxBase at ha; unfold batonEnd; omega
  simp only [Dev.accWrite1, linkedDev_ownRo, linkedDev_roWin, linkedDev_served, Bool.or_self, Bool.false_eq_true, if_false, Dev.accWriteAt, if_neg hstack,
    not_scratchBacked_of_inbox linkedDev ha, not_lsBacked_of_inbox ha, if_neg hbaton, linkedDev_cacheable ha, linkedDev_window, linkedDev_hole]

theorem linkedDev_accWriteN (a0 : Nat) (fuel : Nat) : ∀ {a : Nat}, inboxBase ≤ a → ∀ b : List PByte,
    linkedDev.accWriteN endPort a0 0 .none [] fuel a b = (.ok, linkedDev) := by
  induction fuel with
  | zero => intro a _ b; rfl
  | succ n ih =>
    intro a ha b
    cases b with
    | nil => rfl
    | cons x t =>
      simp only [Dev.accWriteN, linkedDev_accWrite1 ha, ih (Nat.le_trans ha (Nat.le_add_right _ _))]
      rfl

/-- A request with nothing before it, served without waiting. -/
theorem Dev.inPut_first {d : Dev} (hinq : d.inq = []) (hwaits : d.waits = []) (q : InReq) (hserve : (d.inServe q).waits = []) :
    d.inPut q = d.inServe q := by
  have hd : { d with inq := [], waits := [] } = d := by rw [← hinq, ← hwaits]
  simp only [Dev.inPut, hinq, List.length_nil, List.nil_append, Dev.inPump, hd, hserve, List.isEmpty_nil, if_true]

/-- A request at the inbox that reaches past its end is answered as the plain write that it is. -/
theorem linkedDev_inServe_past {fid : Nat} {chunk : List PByte} (hlen : 2 ^ 20 < chunk.length) :
    linkedDev.inServe ⟨fid, true, inboxBase, chunk.length, chunk⟩ = linkedDev.emit (.uioResp fid .ok []) := by
  have hpast : ¬ inboxBase + chunk.length ≤ fabBase := by unfold inboxBase fabBase; omega
  have hbaton : inBaton true inboxBase chunk.length = false := by
    have : ¬ inboxBase + chunk.length ≤ batonEnd := by unfold inboxBase batonEnd; omega
    simp [inBaton, this]
  simp only [Dev.inServe, hpast, hbaton, and_false, Bool.false_eq_true, false_and, if_false, if_true, Dev.accWrite,
    linkedDev_accWriteN inboxBase _ (Nat.le_refl _)]

theorem linkedDev_inPut_past {fid : Nat} {chunk : List PByte} (hlen : 2 ^ 20 < chunk.length) :
    linkedDev.inPut ⟨fid, true, inboxBase, chunk.length, chunk⟩ = linkedDev.emit (.uioResp fid .ok []) := by
  have hserve := linkedDev_inServe_past (fid := fid) hlen
  have hwaits : linkedDev.waits = [] := by decide +kernel
  rw [Dev.inPut_first (by decide +kernel) hwaits _ (by rw [hserve]; exact hwaits), hserve]

/-- A chunk of any length but 512 is refused (R341). -/
theorem Dev.chunkArrive_of_length_ne {d : Dev} {fid : Nat} {b : List PByte} (h : b.length ≠ 512) :
    d.chunkArrive fid b = (.unsupported, d.fabErr FAB_ERR.IN_REFUSED (some fid)) := by
  simp only [Dev.chunkArrive, h, ne_eq, not_false_eq_true, true_or, if_true]

/-- More bytes than the inbox has. -/
def longChunk : List PByte := List.replicate (2 ^ 20 + 1) ⟨0, false⟩

theorem longChunk_length : longChunk.length = 2 ^ 20 + 1 := List.length_replicate

/-- Refutes O42: nothing bounds a chunk's length, and one longer than the inbox is served as a plain write, which is answered OK; `chunkArrive` says UNSUPPORTED. -/
theorem not_relaySteps : ¬ Obligations.RelaySteps := by
  intro h
  have hchunk := (h.1 { State.reset with dev := linkedDev }).2 1 longChunk linkedDev_linkOn (by decide +kernel) (by decide +kernel)
  have hne : longChunk.length ≠ 512 := by rw [longChunk_length]; decide
  have hlinked : linkedDev.unasked = linkedDev := by decide +kernel
  simp only [hlinked, Dev.chunkArrive_of_length_ne hne] at hchunk
  obtain ⟨t, hx, ht⟩ := hchunk (by decide +kernel) (by decide +kernel)
  rw [exec_relayChunk, State.ev_next, Host.Outcome.next.injEq] at hx
  have hout := congrArg Dev.out (hx ▸ ht)
  rw [if_pos linkedDev_linkOn, linkedDev_inPut_past (by rw [longChunk_length]; decide)] at hout
  exact absurd hout (by decide +kernel)

end Sys2Proof.Machine
end

section
/-! SUPPORT. What stands of two writes of one cycle: a counter that software has written keeps its value (R13), and a value two paths write is arbitrated between paths 0 and 1 alone (R29, R392, R412). -/

namespace Sys2Proof.Machine

theorem exec_pmcWrap (u : PmcUnit) (i : Fin 8) (s : State) : exec (.pmcWrap u i) s = s.ev fun d => d.pmcWrap u i := rfl
theorem exec_pldmEffecter (vdm : Bool) (n : Nat) (v : BitVec 12) (s : State) : exec (.pldmEffecter vdm n v) s = s.ev fun d => d.pldmEffect vdm n v.toNat := rfl
theorem exec_paceSpreadStep (s : State) : exec .paceSpreadStep s = s.evAux fun d => d.paceSpread := rfl

/-- With 3V3_AUX an event of the always-on domain is carried out. -/
theorem State.evAux_of_aux {s : State} (h : s.dev.auxAt ≠ none) (f : Dev → Dev) : s.evAux f = s.ev f := by
  simp only [State.evAux, State.ev_next, if_pos (Option.isSome_iff_ne_none.2 h)]

/-- What holds of the machine an event leads to holds of the one that its function makes. -/
theorem State.ev_reached {s : State} {f : Dev → Dev} {P : Dev → Prop} (h : ∃ t, s.ev f = .next t ∧ P t.dev) : P (s.dev.keep (f s.dev)) := by
  obtain ⟨t, hx, ht⟩ := h
  rw [State.ev_next, Host.Outcome.next.injEq] at hx
  subst hx
  exact ht

/-- Device counter 0, enabled, which software writes to its maximum in this cycle. -/
def softCounter : Dev :=
  ((Dev.reset.setFld DEV_PCTL.EN 0 0 1).putFld DEV_PCNT.COUNT 0 0 (2 ^ 48 - 1)).softMark (DEV_PCNT.COUNT.pos.off 0 0) DEV_PCNT.COUNT.mask.toNat

/-- Refutes O57: a counter that software has written in the same cycle keeps what was written (R13), and so does not wrap. -/
theorem not_countersAndLifeLog : ¬ Obligations.CountersAndLifeLog := by
  intro h
  obtain ⟨_, _, _, hdevice⟩ := h.1 { State.reset with dev := softCounter }
  obtain ⟨t, hx, hcount, _⟩ := hdevice 0 (by decide +kernel) (by decide +kernel)
  have hkept := State.ev_reached (P := fun d => d.fld DEV_PCNT.COUNT 0 0 = 0) ⟨t, exec_pmcWrap .device 0 _ ▸ hx, hcount⟩
  exact absurd hkept (by decide +kernel)

/-- A ready PLDM service, and coolant data whose last writer, of this moment, is neither path: no command leaves this, and the statement speaks of every state. -/
def strayCoolant : Dev := { Dev.reset with auxAt := some 0, svc := [.pldm], therm := { Dev.reset.therm with coolBy := some (Dev.reset.ns, 2) } }

/-- Refutes O49: a write of this moment by a path other than the two leaves neither of them the winner, so that effecter 1 changes nothing; the statement keeps out only path 0. -/
theorem not_boardPorts : ¬ Obligations.BoardPorts := by
  intro h
  obtain ⟨_, _, hpldm⟩ := h.2 { State.reset with dev := strayCoolant } (by decide +kernel)
  obtain ⟨_, _, _, hinlet, _⟩ := hpldm (by decide +kernel)
  obtain ⟨t, hx, hwritten, _⟩ := hinlet 5 (by decide +kernel)
  have hkept := State.ev_reached (P := fun d => d.fld THM_COOLANT.INLET 0 0 = 5) ⟨t, exec_pldmEffecter false 1 5 _ ▸ hx, hwritten⟩
  exact absurd hkept (by decide +kernel)

/-- A plan that spreads the rise of a cap from 0 to 8, and a preset whose last writer, of this moment, is neither path: no command leaves this, and the statement speaks of every state. -/
def strayPreset : Dev :=
  { Dev.reset.setFld TK_PACE.RUNNING 0 0 1 with
    auxAt := some 0
    pace := ⟨0, 0, false, some ((0, 8), (0, 8), 0)⟩
    pwr := { Dev.reset.pwr with presetBy := some (Dev.reset.ns, 2) } }

/-- Refutes O52: a write of this moment by a path other than the two leaves the pacer no winner, so that the caps keep their values; the statement keeps out only path 0. -/
theorem not_timekeeperAndPacer : ¬ Obligations.TimekeeperAndPacer := by
  intro h
  have haux : strayPreset.auxAt ≠ none := by decide +kernel
  obtain ⟨_, _, _, hspread, _⟩ := h.2 { State.reset with dev := strayPreset } haux
  obtain ⟨t, hx, hcap, _⟩ := hspread 0 8 0 8 0 (by decide +kernel) (by decide +kernel) (by decide +kernel) (by decide +kernel) (by decide +kernel)
    (by decide) (by decide) (by decide) (by decide) (by decide)
  rw [exec_paceSpreadStep, State.evAux_of_aux haux] at hx
  exact absurd (State.ev_reached (P := fun d => d.fld PWR_LIMIT.ARRAY_CAP 0 0 = 0 + (8 - 0) * (0 + 1) / 8) ⟨t, hx, hcap⟩) (by decide +kernel)

end Sys2Proof.Machine
end

section
/-! SUPPORT. SPDM and IDE requests, and when they are served (R561 to R563; the bytes of the messages are log 68). -/

namespace Sys2Proof.Machine

/-! The rows of this part, each one event. -/

theorem exec_spdmGetVersion (q : SpdmReq) (s : State) : exec (.spdmGetVersion q) s = s.ev fun d => d.spdmVersion q := rfl
theorem exec_spdmGetCapabilities (q : SpdmReq) (s : State) : exec (.spdmGetCapabilities q) s = s.ev fun d => d.spdmCaps q := rfl
theorem exec_spdmNegotiateAlgorithms (q : SpdmReq) (s : State) : exec (.spdmNegotiateAlgorithms q) s = s.ev fun d => d.spdmAlgs q := rfl
theorem exec_spdmGetDigests (q : SpdmReq) (s : State) : exec (.spdmGetDigests q) s = s.ev fun d => d.spdmDigests q := rfl
theorem exec_spdmGetCertificate (q : SpdmReq) (slot off len : Nat) (s : State) : exec (.spdmGetCertificate q slot off len) s = s.ev fun d => d.spdmCert q slot off len := rfl
theorem exec_spdmChallenge (q : SpdmReq) (slot : Nat) (s : State) : exec (.spdmChallenge q slot) s = s.ev fun d => d.spdmChallenge q slot := rfl
theorem exec_spdmGetMeasurements (q : SpdmReq) (index : Nat) (signed : Bool) (s : State) :
    exec (.spdmGetMeasurements q index signed) s = s.ev fun d => d.spdmMeas q index signed := rfl
theorem exec_spdmKeyExchange (q : SpdmReq) (s : State) : exec (.spdmKeyExchange q) s = s.ev fun d => d.spdmKeyEx q := rfl
theorem exec_spdmFinish (q : SpdmReq) (s : State) : exec (.spdmFinish q) s = s.ev fun d => d.spdmFinish q := rfl
theorem exec_spdmHeartbeat (q : SpdmReq) (s : State) : exec (.spdmHeartbeat q) s = s.ev fun d => d.spdmBeat q := rfl
theorem exec_spdmKeyUpdate (q : SpdmReq) (s : State) : exec (.spdmKeyUpdate q) s = s.ev fun d => d.spdmRekey q := rfl
theorem exec_spdmEndSession (q : SpdmReq) (s : State) : exec (.spdmEndSession q) s = s.ev fun d => d.spdmEnd q := rfl
theorem exec_ideQuery (q : SpdmReq) (s : State) : exec (.ideQuery q) s = s.ev fun d => d.ideQuery q := rfl
theorem exec_ideKeyProg (q : SpdmReq) (stream : Nat) (ks : Bool) (key : BitVec 256) (s : State) :
    exec (.ideKeyProg q stream ks key) s = s.ev fun d => d.ideProg q stream ks key := rfl
theorem exec_ideKSetGo (q : SpdmReq) (stream : Nat) (ks : Bool) (s : State) : exec (.ideKSetGo q stream ks) s = s.ev fun d => d.ideGo q stream ks := rfl
theorem exec_ideKSetStop (q : SpdmReq) (stream : Nat) (ks : Bool) (s : State) : exec (.ideKSetStop q stream ks) s = s.ev fun d => d.ideStop q stream ks := rfl

/-! Answers. -/

/-- A service that is ready is given its request. -/
theorem Dev.needs_ready {d : Dev} {svc : Service} (h : d.svc.contains svc = true) (chan : Channel) (i : Instr) (f : Dev → Dev) : d.needs svc chan i f = f d := if_pos h

@[simp] theorem Dev.spdmOf_setSpdm (d : Dev) (doe : Bool) (x : Spdm) : (d.setSpdm doe x).spdmOf doe = x := Tbl.get_set_same _ _ _ _

/-- An answer takes request and response into the transcript. -/
@[simp] theorem Dev.spdmOf_spdmSay (d : Dev) (q : SpdmReq) (b : List Byte) :
    (d.spdmSay q b).spdmOf q.overDoe = ⟨(d.spdmOf q.overDoe).stage, (d.spdmOf q.overDoe).script ++ q.body ++ b⟩ := Tbl.get_set_same _ _ _ _

@[simp] theorem Dev.spdmSay_stage (d : Dev) (q : SpdmReq) (b : List Byte) : ((d.spdmSay q b).spdmOf q.overDoe).stage = (d.spdmOf q.overDoe).stage := by rw [Dev.spdmOf_spdmSay]

@[simp] theorem Dev.keep_spdmOf (d e : Dev) (doe : Bool) : (d.keep e).spdmOf doe = e.spdmOf doe := rfl
@[simp] theorem Dev.spdmSay_out (d : Dev) (q : SpdmReq) (b : List Byte) : (d.spdmSay q b).out = .spdm q.overDoe q.session b :: d.out := rfl
@[simp] theorem Dev.spdmSay_mem (d : Dev) (q : SpdmReq) (b : List Byte) : (d.spdmSay q b).mem = d.mem := rfl
@[simp] theorem Dev.spdmSay_sessions (d : Dev) (q : SpdmReq) (b : List Byte) : (d.spdmSay q b).sessions = d.sessions := rfl
@[simp] theorem Dev.spdmSay_draws (d : Dev) (q : SpdmReq) (b : List Byte) : (d.spdmSay q b).draws = d.draws := rfl

/-- Outside any session a connection that is far enough is served. -/
theorem Dev.spdmServe_outside {d : Dev} {q : SpdmReq} {stage : Nat} (hsvc : d.svc.contains .spdm = true) (hq : q.session = none)
    (hstage : stage ≤ (d.spdmOf q.overDoe).stage) (i : Instr) (f : Dev → Dev) : d.spdmServe i q stage f = f d := by
  simp [Dev.spdmServe, Dev.needs_ready hsvc, hq, Nat.not_lt.2 hstage]

/-- In an open session a connection that has been set up is served. -/
theorem Dev.spdmInside_open {d : Dev} {q : SpdmReq} {n : Nat} {x : Session} (hsvc : d.svc.contains .spdm = true) (hq : q.session = some n)
    (hx : d.sessionOf q = some x) (hopen : x.open' = true) (hstage : 3 ≤ (d.spdmOf q.overDoe).stage) (i : Instr) (f : Dev → Dev) :
    d.spdmInside i q f = f d := by
  simp [Dev.spdmInside, Dev.spdmServe, Dev.needs_ready hsvc, hq, hx, hopen, Nat.not_lt.2 hstage]

/-- After END_SESSION no session is the one it named. -/
theorem Dev.sessionOf_filter (d : Dev) (q : SpdmReq) :
    ({ d with sessions := d.sessions.filter fun x => !(some x.id == q.session && x.doe == q.overDoe) } : Dev).sessionOf q = none := by
  cases hq : q.session with
  | none => simp [Dev.sessionOf, hq]
  | some n =>
    simp only [Dev.sessionOf, hq, Option.bind_some, List.find?_eq_none, List.mem_filter]
    intro x ⟨_, hx⟩ hname
    simp_all

/-- FAB_PORT shows cache and memory traffic as protected exactly while a key set of its stream is in use. -/
theorem Dev.ideShow_cm (d : Dev) : d.ideShow.bit FAB_PORT.IDE_CM 0 0 = d.ide.any fun k => k.go && k.stream == 3 :=
  Dev.bit_setBit _ _ _ _ _ rfl rfl

@[simp] theorem Dev.ideShow_ide (d : Dev) : d.ideShow.ide = d.ide := rfl

/-! Outside any session (R561, R562). -/

section Outside
variable {s : State} {q : SpdmReq} (hsvc : s.dev.svc.contains .spdm = true) (hq : q.session = none)
include hsvc hq

theorem exec_spdmGetVersion_served : ∃ t, exec (.spdmGetVersion q) s = .next t ∧
    t.dev.spdmOf q.overDoe = ⟨1, q.body ++ [0x10, 0x04, 0, 0, 0, 1, 0, 0x12]⟩ ∧
    t.dev.out = .spdm q.overDoe none [0x10, 0x04, 0, 0, 0, 1, 0, 0x12] :: s.dev.out ∧ t.dev.mem = s.dev.mem := by
  have hserved : s.dev.spdmVersion q = (s.dev.setSpdm q.overDoe ⟨1, []⟩).spdmSay q [0x10, 0x04, 0, 0, 0, 1, 0, 0x12] :=
    Dev.spdmServe_outside hsvc hq (Nat.zero_le _) _ _
  refine exec_ev (exec_spdmGetVersion q s) hserved ⟨?_, ?_, rfl⟩
  · simp only [Dev.keep_spdmOf, Dev.spdmOf_spdmSay, Dev.spdmOf_setSpdm, List.nil_append]
  · simp only [Dev.keep_out, Dev.spdmSay_out, hq]; rfl

/-- A step of the connection's set-up: the stage it reaches is kept by the answer. -/
theorem exec_spdmStage {i : Instr} {f : Dev → Dev} {stage next : Nat} {b : List Byte} (hx : exec i s = s.ev f) (hstage : stage ≤ (s.dev.spdmOf q.overDoe).stage)
    (hf : f s.dev = s.dev.spdmServe i q stage fun d => (d.setSpdm q.overDoe { d.spdmOf q.overDoe with stage := next }).spdmSay q b) :
    ∃ t, exec i s = .next t ∧ (t.dev.spdmOf q.overDoe).stage = next ∧ t.dev.mem = s.dev.mem := by
  rw [Dev.spdmServe_outside hsvc hq hstage] at hf
  refine exec_ev hx hf ⟨?_, rfl⟩
  simp only [Dev.keep_spdmOf, Dev.spdmSay_stage, Dev.spdmOf_setSpdm]

theorem exec_spdmGetCertificate_served {off : Nat} (hstage : 3 ≤ (s.dev.spdmOf q.overDoe).stage) (hoff : off ≤ Config.certChain.length) (len : Nat) :
    ∃ t, exec (.spdmGetCertificate q 0 off len) s = .next t ∧
      (let b := (Config.certChain.drop off).take len
       t.dev = s.dev.keep (s.dev.spdmSay q ([0x12, 0x02, 0, 0] ++ toBytes 2 b.length ++ toBytes 2 (Config.certChain.length - off - b.length) ++ b))) := by
  refine exec_ev (exec_spdmGetCertificate q 0 off len s) (Dev.spdmServe_outside hsvc hq hstage _ _) ?_
  rw [if_neg (by simp [Nat.not_lt.2 hoff])]

theorem exec_spdmChallenge_served (hstage : 3 ≤ (s.dev.spdmOf q.overDoe).stage) : ∃ t, exec (.spdmChallenge q 0) s = .next t ∧
    t.dev = s.dev.keep ((s.dev.draw 32).2.spdmSigned q ([0x12, 0x03, 0, 1] ++ sha512 Config.certChain ++ (s.dev.draw 32).1 ++ toBytes 2 0)) :=
  exec_ev (exec_spdmChallenge q 0 s) (Dev.spdmServe_outside hsvc hq hstage _ _) rfl

/-- Asked for their number, the measurements answer with a nonce of 32 bytes. -/
theorem exec_spdmGetMeasurements_count (hstage : 3 ≤ (s.dev.spdmOf q.overDoe).stage) : ∃ t, exec (.spdmGetMeasurements q 0 false) s = .next t ∧
    t.dev.draws = s.dev.draws + 4 ∧ (t.dev.spdmOf q.overDoe).stage = (s.dev.spdmOf q.overDoe).stage ∧ t.dev.mem = s.dev.mem := by
  obtain ⟨b, hb⟩ : ∃ b, s.dev.spdmMeas q 0 false = (s.dev.draw 32).2.spdmSay q b := ⟨_, Dev.spdmServe_outside hsvc hq hstage _ _⟩
  exact exec_ev (exec_spdmGetMeasurements q 0 false s) hb ⟨rfl, (s.dev.draw 32).2.spdmSay_stage q b, rfl⟩

/-- KEY_EXCHANGE begins the session of the first number that is free, with 128 random bytes. -/
theorem exec_spdmKeyExchange_begins {i : Nat} (hstage : 3 ≤ (s.dev.spdmOf q.overDoe).stage) (hroom : s.dev.sessions.length < 4)
    (hi : (([0, 1, 2, 3, 4].map (· + 1)).find? fun i => !(s.dev.sessions.any fun x => x.id == i)) = some i) :
    ∃ t, exec (.spdmKeyExchange q) s = .next t ∧ t.dev.sessions = s.dev.sessions ++ [⟨i, q.overDoe, false, 0⟩] ∧ t.dev.draws = s.dev.draws + 16 := by
  refine exec_ev (exec_spdmKeyExchange q s) (Dev.spdmServe_outside hsvc hq hstage _ _) ?_
  have hfree : (((List.range 5).map (· + 1)).find? fun i => !(s.dev.sessions.any fun x => x.id == i)) = some i := hi
  rw [if_neg (Nat.not_le.2 hroom), hfree]
  exact ⟨rfl, rfl⟩

end Outside

/-! Inside a session (R562, R563). -/

/-- FINISH opens the session it is made in. -/
theorem exec_spdmFinish_opens {s : State} {q : SpdmReq} {x : Session} (hsvc : s.dev.svc.contains .spdm = true) (hx : s.dev.sessionOf q = some x) (hopen : x.open' = false) :
    ∃ t, exec (.spdmFinish q) s = .next t ∧ t.dev = s.dev.keep ((s.dev.modSession q fun x => { x with open' := true }).spdmSay q [0x12, 0x65, 0, 0]) := by
  refine exec_ev (exec_spdmFinish q s) (Dev.needs_ready hsvc _ _ _) ?_
  simp only [hx, hopen, Bool.false_eq_true, if_false]

section Inside
variable {s : State} {q : SpdmReq} {n : Nat} {x : Session} (hsvc : s.dev.svc.contains .spdm = true) (hq : q.session = some n) (hx : s.dev.sessionOf q = some x)
  (hopen : x.open' = true) (hstage : 3 ≤ (s.dev.spdmOf q.overDoe).stage)
include hsvc hq hx hopen hstage

theorem exec_spdmEndSession_ends : ∃ t, exec (.spdmEndSession q) s = .next t ∧ t.dev.sessionOf q = none ∧ t.dev.mem = s.dev.mem :=
  exec_ev (exec_spdmEndSession q s) (Dev.spdmInside_open hsvc hq hx hopen hstage _ _) ⟨s.dev.sessionOf_filter q, rfl⟩

/-- An IDE request over DOE is served. -/
theorem Dev.ideServe_open (hdoe : q.overDoe = true) (i : Instr) (f : Dev → Dev) : s.dev.ideServe i q f = f s.dev :=
  (Dev.spdmInside_open hsvc hq hx hopen hstage i _).trans (if_pos hdoe)

theorem exec_ideKeyProg_stores (hdoe : q.overDoe = true) {stream : Nat} (hstream : stream < 4) (ks : Bool) (key : BitVec 256) :
    ∃ t, exec (.ideKeyProg q stream ks key) s = .next t ∧
      t.dev.ide = (s.dev.ide.filter fun k => !(k.stream == stream && k.keySet == ks)) ++ [⟨stream, ks, key, false⟩] ∧
      t.dev.bit FAB_PORT.IDE_CM 0 0 = t.dev.ide.any (fun k => k.go && k.stream == 3) ∧ t.dev.mem = s.dev.mem :=
  exec_ev (exec_ideKeyProg q stream ks key s) ((Dev.ideServe_open hsvc hq hx hopen hstage hdoe _ _).trans (if_neg (Nat.not_le.2 hstream))) ⟨rfl, Dev.ideShow_cm _, rfl⟩

theorem exec_ideKSetGo_uses (hdoe : q.overDoe = true) {stream : Nat} {ks : Bool} (hkey : (s.dev.ide.any fun k => k.stream == stream && k.keySet == ks) = true) :
    ∃ t, exec (.ideKSetGo q stream ks) s = .next t ∧
      t.dev.ide = (s.dev.ide.map fun k : IdeKey => if k.stream = stream then { k with go := k.keySet == ks } else k) ∧
      t.dev.bit FAB_PORT.IDE_CM 0 0 = t.dev.ide.any (fun k => k.go && k.stream == 3) :=
  exec_ev (exec_ideKSetGo q stream ks s) ((Dev.ideServe_open hsvc hq hx hopen hstage hdoe _ _).trans (if_pos hkey)) ⟨rfl, Dev.ideShow_cm _⟩

theorem exec_ideKSetStop_stops (hdoe : q.overDoe = true) (stream : Nat) (ks : Bool) :
    ∃ t, exec (.ideKSetStop q stream ks) s = .next t ∧
      t.dev.ide = (s.dev.ide.map fun k : IdeKey => if k.stream = stream ∧ k.keySet = ks then { k with go := false } else k) ∧
      t.dev.bit FAB_PORT.IDE_CM 0 0 = t.dev.ide.any (fun k => k.go && k.stream == 3) :=
  exec_ev (exec_ideKSetStop q stream ks s) (Dev.ideServe_open hsvc hq hx hopen hstage hdoe _ _) ⟨rfl, Dev.ideShow_cm _⟩

end Inside

/-- Settles O46: each request is served as its own lemma says, once the connection, and the session where there is one, is found far enough. -/
theorem spdmSessions : Obligations.SpdmSessions := by
  refine ⟨fun s q hsvc hq => ⟨exec_spdmGetVersion_served hsvc hq, ?_, ?_, fun hstage => ⟨?_, ?_, ?_, ?_, ?_⟩⟩,
    fun s q n x hsvc hq hx => ⟨exec_spdmFinish_opens hsvc hx, fun hopen hstage => ⟨?_, ?_, ?_, fun hdoe => ⟨?_, ?_, ?_, ?_⟩⟩⟩⟩
  case _ => exact fun hstage => exec_spdmStage hsvc hq (exec_spdmGetCapabilities q s) hstage rfl
  case _ => exact fun hstage => exec_spdmStage hsvc hq (exec_spdmNegotiateAlgorithms q s) hstage rfl
  case _ => exact exec_ev (exec_spdmGetDigests q s) (Dev.spdmServe_outside hsvc hq hstage _ _) rfl
  case _ => exact fun off len hoff => exec_spdmGetCertificate_served hsvc hq hstage hoff len
  case _ => exact exec_spdmChallenge_served hsvc hq hstage
  case _ => exact exec_spdmGetMeasurements_count hsvc hq hstage
  case _ => exact fun i hroom hi => exec_spdmKeyExchange_begins hsvc hq hstage hroom hi
  case _ => exact exec_ev (exec_spdmHeartbeat q s) (Dev.spdmInside_open hsvc hq hx hopen hstage _ _) rfl
  case _ => exact exec_ev (exec_spdmKeyUpdate q s) (Dev.spdmInside_open hsvc hq hx hopen hstage _ _) rfl
  case _ => exact exec_spdmEndSession_ends hsvc hq hx hopen hstage
  case _ => exact exec_ev (exec_ideQuery q s) (Dev.ideServe_open hsvc hq hx hopen hstage hdoe _ _) rfl
  case _ => exact fun stream ks key hstream => exec_ideKeyProg_stores hsvc hq hx hopen hstage hdoe hstream ks key
  case _ => exact fun stream ks hkey => exec_ideKSetGo_uses hsvc hq hx hopen hstage hdoe hkey
  case _ => exact fun stream ks => exec_ideKSetStop_stops hsvc hq hx hopen hstage hdoe stream ks

end Sys2Proof.Machine
end

section
/-! SUPPORT. Commands of SEC_CMD: when they are carried out, how they end, and what of them reaches the fuses (R557 to R560, R565, R569 to R571). -/

namespace Sys2Proof.Machine

/-! The rows of this part, each one event. -/

theorem exec_fwUpdate (r : Req) (a : BitVec 52) (s : State) : exec (.fwUpdate r a) s = s.evFuse fun d => d.sec fun d => d.whole fun d => d.fwUpdate a.toNat := rfl
theorem exec_commitSvn (r : Req) (type : Fin 4) (s : State) : exec (.commitSvn r type) s = s.evFuse fun d => d.sec fun d => d.commitSvn type := rfl
theorem exec_revoke (r : Req) (a : BitVec 52) (s : State) : exec (.revoke r a) s = s.evFuse fun d => d.sec fun d => d.whole fun d => d.revokeKey a.toNat := rfl
theorem exec_debugUnlock (r : Req) (a : BitVec 52) (s : State) : exec (.debugUnlock r a) s = s.evFuse fun d => d.sec fun d => d.whole fun d => d.unlock a.toNat := rfl
theorem exec_nonceGen (s : State) : exec .nonceGen s = s.ev fun d => d.nonceGen := rfl

/-- What holds of the machine an event of the root of trust makes holds of the next state's. -/
theorem exec_evFuse {i : Instr} {s : State} {f : Dev → Dev} (hx : exec i s = s.evFuse f) {e : Dev} (he : f s.dev = e) {P : State → Prop}
    (hP : P { s with dev := s.dev.keepClock e }) : ∃ t, exec i s = .next t ∧ P t :=
  ⟨_, by rw [hx, State.evFuse_next, he], hP⟩

/-! A command, and how it ends. -/

section Idle
variable {d : Dev} (hmgmt : d.mgmt = true) (hidle : d.bit SEC_CMDST.BUSY 0 0 = false)
include hmgmt hidle

/-- With management firmware running and SEC_CMD idle a command is carried out. -/
theorem Dev.sec_idle (f : Dev → Dev) : d.sec f = f d := if_pos (by simp [hmgmt, hidle])

/-- A command that need not wait for what it reads is carried out at once. -/
theorem Dev.sec_whole {e : Dev} {f : Dev → Dev} (he : f d.unasked = e) (hw : e.waits = []) : (d.sec fun d => d.whole f) = e :=
  (Dev.sec_idle hmgmt hidle _).trans (Dev.whole_done he hw)

end Idle

theorem SecStatus.code_lt (st : SecStatus) : st.code < 2 ^ SEC_CMDST.STATUS.w := by cases st <;> decide

theorem Dev.secDone_done (d : Dev) (st : SecStatus) : (d.secDone st).bit SEC_CMDST.DONE 0 0 = true := by
  rw [Dev.secDone, Dev.bit, Dev.fld_setFld_apart _ _ _ _ _ _ _ _ rfl rfl]
  exact d.bit_setBit SEC_CMDST.DONE 0 0 true rfl rfl

theorem Dev.secDone_status (d : Dev) (st : SecStatus) : (d.secDone st).fld SEC_CMDST.STATUS 0 0 = st.code := by
  rw [Dev.secDone, Dev.fld_setFld _ _ _ _ _ rfl, Nat.mod_eq_of_lt st.code_lt]

/-- The end of a command leaves every other register alone. -/
theorem Dev.secDone_fld (d : Dev) (st : SecStatus) (g : Fld) (u i : Nat) (hoff : g.pos.off u i ≠ SEC_CMDST.DONE.pos.off 0 0) :
    (d.secDone st).fld g u i = d.fld g u i :=
  (Dev.fld_setFld_off _ SEC_CMDST.STATUS g 0 0 _ u i hoff).trans (Dev.fld_setFld_off _ SEC_CMDST.DONE g 0 0 _ u i hoff)

@[simp] theorem Dev.secDone_mem (d : Dev) (st : SecStatus) : (d.secDone st).mem = d.mem := rfl
@[simp] theorem Dev.secDone_fuse (d : Dev) (st : SecStatus) : (d.secDone st).fuse = d.fuse := rfl
@[simp] theorem Dev.secDone_sessions (d : Dev) (st : SecStatus) : (d.secDone st).sessions = d.sessions := rfl
@[simp] theorem Dev.secDone_ide (d : Dev) (st : SecStatus) : (d.secDone st).ide = d.ide := rfl
@[simp] theorem Dev.secDone_waits (d : Dev) (st : SecStatus) : (d.secDone st).waits = d.waits := rfl

/-! FW_UPDATE (R559, R560). -/

/-- An image that fails its checks ends the command with the failure. -/
theorem Dev.fwUpdate_failed {d d1 : Dev} {a : Nat} {st : SecStatus} {h b : List Byte} (himage : d.imageAt 1 a = (st, h, b, d1)) (hst : st ≠ .ok) :
    d.fwUpdate a = d1.secDone st := by
  rw [Dev.fwUpdate, himage]
  cases st with
  | ok => exact absurd rfl hst
  | _ => rfl

/-- An image that is sound is written to the slot that did not boot. -/
def Dev.fwStored (d : Dev) (h b : List Byte) : Dev := { d with mem := storeBytes d.mem (fwKey ((1 - d.fld SEC_STATUS.BOOT_SLOT 0 0) * 0x400000)) (h ++ b) }

theorem Dev.fwUpdate_sound {d d1 : Dev} {a : Nat} {h b : List Byte} (himage : d.imageAt 1 a = (.ok, h, b, d1)) (hnvm : d1.nvmBlocked = false) :
    d.fwUpdate a = (d1.fwStored h b).secDone
      (let p := (d1.fwStored h b).fwSlot (1 - d1.fld SEC_STATUS.BOOT_SLOT 0 0)
       if (d1.fwStored h b).imageCheck 1 p.1 p.2 = .ok then .ok else .store) := by
  rw [Dev.fwUpdate, himage]
  exact if_neg (by simp [hnvm])

/-! COMMIT_SVN and REVOKE (R558, R560). -/

/-- Burning a version count up to one of 63 bits at most leaves that count, and the other fuses. -/
theorem Fuse.burn_svnMgmt {f : Fuse} {v : Nat} (hlow : f.svnMgmt < v) (hhigh : v ≤ 63) : f.burn { f with svnMgmt := v } = { f with svnMgmt := v } := by
  have hmgmt : max f.svnMgmt (min 63 v) = v := by omega
  have hself := f.burn_self
  have hcore := congrArg Fuse.svnCore hself
  have hrevoked := congrArg Fuse.revoked hself
  simp only [Fuse.burn] at hcore hrevoked
  simp only [Fuse.burn, hmgmt, hcore, hrevoked]

/-- A slot that is burned as revoked is revoked. -/
theorem Fuse.burn_revoked {f g : Fuse} {i : Nat} (hi : i < 2) (hg : i ∈ g.revoked) : (f.burn g).revoked.contains i = true := by
  by_cases hf : i ∈ f.revoked
  · simp [Fuse.burn, hf]
  · simp [Fuse.burn, hf, hg, Nat.lt_succ_iff.1 hi]

theorem Dev.commitSvn_raises {d : Dev} (hlow : d.fuse.svnMgmt < d.fld SEC_STATUS.RUN_SVN_MGMT 0 0) (hnvm : d.nvmBlocked = false) :
    d.commitSvn 1 = ({ d with fuse := { d.fuse with svnMgmt := d.fld SEC_STATUS.RUN_SVN_MGMT 0 0 } } : Dev).secDone .ok :=
  (if_neg (Nat.not_le.2 hlow)).trans (if_neg (by simp [hnvm]))

theorem Dev.commitSvn_reached {d : Dev} (h : d.fld SEC_STATUS.RUN_SVN_CORE 0 0 ≤ d.fuse.svnCore) : d.commitSvn 2 = d.secDone .ok := if_pos h

/-- The revocation of a key slot other than the token's. -/
theorem Dev.revokeKey_sound {d d1 : Dev} {a : Nat} {tk : List Byte} (htoken : d.tokenAt a true = (.ok, tk, d1)) (hslot : hdrNum tk 56 2 < 2)
    (hlast : d1.fuse.revoked.contains (1 - hdrNum tk 56 2) = false) (hkey : hdrNum tk 4 1 ≠ hdrNum tk 56 2) (hnvm : d1.nvmBlocked = false) :
    ∃ l, hdrNum tk 56 2 ∈ l ∧ d.revokeKey a = ({ d1 with fuse := { d1.fuse with revoked := l } } : Dev).secDone .ok := by
  refine ⟨if d1.fuse.revoked.contains (hdrNum tk 56 2) then d1.fuse.revoked else d1.fuse.revoked ++ [hdrNum tk 56 2], ?_, ?_⟩
  · split
    · rename_i h; simpa using h
    · simp
  · rw [Dev.revokeKey, htoken]
    simp only [if_neg (Nat.not_le.2 hslot), hlast, if_neg hkey, hnvm, Bool.false_eq_true, if_false]

/-! DEBUG_UNLOCK (R565). -/

/-- A sound token opens debug with the token's permissions. -/
def Dev.debugOpen (d : Dev) (perms : Nat) : Dev := ((d.setBit SEC_STATUS.DEBUG_UNLOCKED 0 0 true).setFld SEC_STATUS.PERMS 0 0 perms).trustClear

theorem Dev.unlock_sound {d d1 : Dev} {a : Nat} {tk : List Byte} (htoken : d.tokenAt a false = (.ok, tk, d1)) :
    d.unlock a = (d1.debugOpen (hdrNum tk 48 1 % 8)).secDone .ok := by
  simp only [Dev.unlock, htoken, Dev.debugOpen]

/-- The end of the sessions and of the IDE keys leaves every register but the port's. -/
theorem Dev.trustClear_fld (d : Dev) (g : Fld) (u i : Nat) (hoff : g.pos.off u i ≠ FAB_PORT.IDE_IO.pos.off 0 0) : d.trustClear.fld g u i = d.fld g u i :=
  (Dev.fld_setFld_off _ FAB_PORT.IDE_CM g 0 0 _ u i hoff).trans (Dev.fld_setFld_off _ FAB_PORT.IDE_IO g 0 0 _ u i hoff)

theorem Dev.debugOpen_unlocked (d : Dev) (perms : Nat) : (d.debugOpen perms).bit SEC_STATUS.DEBUG_UNLOCKED 0 0 = true := by
  rw [Dev.debugOpen, Dev.bit, Dev.trustClear_fld _ _ _ _ (by decide), Dev.fld_setFld_apart _ _ _ _ _ _ _ _ rfl rfl]
  exact d.bit_setBit SEC_STATUS.DEBUG_UNLOCKED 0 0 true rfl rfl

theorem Dev.debugOpen_perms (d : Dev) {perms : Nat} (h : perms < 8) : (d.debugOpen perms).fld SEC_STATUS.PERMS 0 0 = perms := by
  rw [Dev.debugOpen, Dev.trustClear_fld _ _ _ _ (by decide), Dev.fld_setFld _ _ _ _ _ rfl]
  exact Nat.mod_eq_of_lt (Nat.lt_of_lt_of_le h (by decide))

@[simp] theorem Dev.debugOpen_waits (d : Dev) (perms : Nat) : (d.debugOpen perms).waits = d.waits := by
  simp only [Dev.debugOpen, Dev.trustClear, Dev.setBit_waits, Dev.setFld_waits]
@[simp] theorem Dev.debugOpen_sessions (d : Dev) (perms : Nat) : (d.debugOpen perms).sessions = [] := by
  simp only [Dev.debugOpen, Dev.trustClear, Dev.setBit_sessions]
@[simp] theorem Dev.debugOpen_ide (d : Dev) (perms : Nat) : (d.debugOpen perms).ide = [] := by
  simp only [Dev.debugOpen, Dev.trustClear, Dev.setBit_ide]

/-! The nonce (R571). -/

/-- Setting a register of every index of a range leaves each with its own value. -/
theorem Dev.fld_setRange (f : Fld) (u n : Nat) (v : Nat → Nat) (hfits : f.fits = true) (hidx : ∀ i j, i < n → j < n → i ≠ j → f.pos.off u i ≠ f.pos.off u j) (d : Dev)
    {i : Nat} (hi : i < n) : ((List.range n).foldl (fun e j => e.setFld f u j (v j)) d).fld f u i = v i % 2 ^ f.w := by
  induction n with
  | zero => omega
  | succ n ih =>
    rw [List.range_succ, List.foldl_append, List.foldl_cons, List.foldl_nil]
    by_cases hlast : i = n
    · rw [hlast, Dev.fld_setFld _ _ _ _ _ hfits]
    · rw [Dev.fld_setFld_off _ _ _ _ _ _ _ _ (hidx i n hi (Nat.lt_succ_self n) hlast)]
      exact ih (fun a b ha hb => hidx a b (by omega) (by omega)) (by omega)

/-- The four words of the nonce, before the draws are counted. -/
def Dev.nonceWords (d : Dev) : Dev := (List.range 4).foldl (fun e i => e.setFld SEC_DBG_NONCE.NONCE 0 i (Config.random (d.draws + i)).toNat) d

theorem Dev.nonceGen_eq (d : Dev) : d.nonceGen = (d.nonceWords.draw 32).2 := rfl

theorem Dev.draw_regs (d : Dev) (n : Nat) : (d.draw n).2.regs = d.regs := rfl
theorem Dev.draw_mem (d : Dev) (n : Nat) : (d.draw n).2.mem = d.mem := rfl
theorem Dev.draw_draws (d : Dev) (n : Nat) : (d.draw n).2.draws = d.draws + (n + 7) / 8 := rfl

theorem Dev.nonceWords_mem (d : Dev) : d.nonceWords.mem = d.mem :=
  List.foldlRecOn (motive := fun e : Dev => e.mem = d.mem) _ _ rfl fun _ he _ _ => he

theorem Dev.nonceWords_draws (d : Dev) : d.nonceWords.draws = d.draws :=
  List.foldlRecOn (motive := fun e : Dev => e.draws = d.draws) _ _ rfl fun _ he _ _ => he

theorem Dev.nonceGen_nonce (d : Dev) {i : Nat} (hi : i < 4) : d.nonceGen.fld SEC_DBG_NONCE.NONCE 0 i = (Config.random (d.draws + i)).toNat := by
  have hword : d.nonceWords.fld SEC_DBG_NONCE.NONCE 0 i = (Config.random (d.draws + i)).toNat % 2 ^ SEC_DBG_NONCE.NONCE.w :=
    Dev.fld_setRange SEC_DBG_NONCE.NONCE 0 4 (fun j => (Config.random (d.draws + j)).toNat) rfl (fun a b _ _ hab => by simp [RegPos.off]; omega) d hi
  rw [Dev.nonceGen_eq, Dev.fld_regs (Dev.draw_regs _ _), hword]
  exact Nat.mod_eq_of_lt (BitVec.isLt _)

theorem Dev.nonceGen_mem (d : Dev) : d.nonceGen.mem = d.mem := by rw [Dev.nonceGen_eq, Dev.draw_mem, Dev.nonceWords_mem]

theorem Dev.nonceGen_draws (d : Dev) : d.nonceGen.draws = d.draws + 4 := by rw [Dev.nonceGen_eq, Dev.draw_draws, Dev.nonceWords_draws]

/-- Settles O47: each command, once it is carried out, ends as its own lemma says; the fuses take what it burns. -/
theorem securityCommands : Obligations.SecurityCommands := by
  intro s r
  refine ⟨fun hmgmt hidle => ⟨?_, ?_, ?_, ?_, ?_, ?_⟩, ?_⟩
  case _ =>
    intro a st h b d1 himage hst hw
    exact exec_evFuse (exec_fwUpdate r a s) (Dev.sec_whole hmgmt hidle (Dev.fwUpdate_failed himage hst) hw) ⟨rfl, d1.secDone_done st, d1.secDone_status st⟩
  case _ =>
    intro a h b d1 himage hnvm hw
    exact exec_evFuse (exec_fwUpdate r a s) (Dev.sec_whole hmgmt hidle (Dev.fwUpdate_sound himage hnvm) hw) ⟨rfl, Dev.secDone_done _ _, Dev.secDone_status _ _⟩
  case _ =>
    intro hlow hhigh hnvm
    exact exec_evFuse (exec_commitSvn r 1 s) ((Dev.sec_idle hmgmt hidle _).trans (Dev.commitSvn_raises hlow hnvm))
      ⟨Fuse.burn_svnMgmt hlow hhigh, Dev.secDone_done _ _, Dev.secDone_status _ _⟩
  case _ =>
    intro hreached
    exact exec_evFuse (exec_commitSvn r 2 s) ((Dev.sec_idle hmgmt hidle _).trans (Dev.commitSvn_reached hreached))
      ⟨congrArg Fuse.svnCore s.dev.fuse.burn_self, Dev.secDone_status _ _⟩
  case _ =>
    intro a tk d1 htoken hw hslot hlast hkey hnvm _
    obtain ⟨l, hl, hrevoke⟩ := Dev.revokeKey_sound htoken hslot hlast hkey hnvm
    exact exec_evFuse (exec_revoke r a s) (Dev.sec_whole hmgmt hidle hrevoke hw) ⟨Fuse.burn_revoked hslot hl, Dev.secDone_done _ _⟩
  case _ =>
    intro a tk d1 htoken hw
    have hwaits : ((d1.debugOpen (hdrNum tk 48 1 % 8)).secDone .ok).waits = [] := by rw [Dev.secDone_waits, Dev.debugOpen_waits, hw]
    refine exec_evFuse (exec_debugUnlock r a s) (Dev.sec_whole hmgmt hidle (Dev.unlock_sound htoken) hwaits)
      ⟨?_, ?_, ?_, ?_, Dev.secDone_status _ _⟩
    · rw [Dev.keepClock_bit, Dev.bit, Dev.secDone_fld _ _ _ _ _ (by decide)]
      exact Dev.debugOpen_unlocked _ _
    · rw [Dev.keepClock_fld, Dev.secDone_fld _ _ _ _ _ (by decide), Dev.debugOpen_perms _ (Nat.mod_lt _ (by decide))]
    · rw [Dev.keepClock_sessions, Dev.secDone_sessions, Dev.debugOpen_sessions]
    · rw [Dev.keepClock_ide, Dev.secDone_ide, Dev.debugOpen_ide]
  case _ =>
    refine exec_ev (e := s.dev.nonceGen) (exec_nonceGen s) rfl ⟨?_, fun i hi => ?_, ?_⟩
    · rw [Dev.keep_draws, Dev.nonceGen_draws]
    · rw [Dev.keep_fld, Dev.nonceGen_nonce _ hi]
    · rw [Dev.keep_mem, Dev.nonceGen_mem]

end Sys2Proof.Machine
end

section
/-! SUPPORT. Split mode, scrub reads and the enabling of a snoop: what the first write of each leaves as it was (R459, R461, R466, R474, R475). -/

namespace Sys2Proof.Machine

/-! The rows of this part, each one event. -/

theorem exec_splitData (s : State) : exec .splitData s = s.ev fun d => d.splitGo 0 := rfl
theorem exec_splitCheck (s : State) : exec .splitCheck s = s.ev fun d => d.splitGo 1 := rfl
theorem exec_splitRaw (s : State) : exec .splitRaw s = s.ev fun d => d.splitGo 2 := rfl
theorem exec_splitRead (s : State) : exec .splitRead s = s.ev fun d => d.splitGo 3 := rfl
theorem exec_patrolScrub (store : Fin 4) (a : Nat) (fl : List BitFlip) (passEnd late : Bool) (s : State) :
    exec (.patrolScrub store a fl passEnd late) s = s.ev fun d => d.scrub store a fl passEnd late := rfl
theorem exec_chkSnoopEnable (r : Req) (u : Fin 36) (s : State) : exec (.chkSnoopEnable r u) s = s.ev fun d =>
    if d.bit CHK_SNOOP.EN u 0 then (d.setBit CHK_SNOOP.EN u 0 true).chkSnoopSettle u else (d.setBit CHK_SNOOP.EN u 0 true).chkSnoopOn u := rfl

/-! Split mode. -/

/-! The write of a mode leaves what GO decides by. -/

theorem Dev.setMode_fld (d : Dev) (m : Nat) (g : Fld) (u i : Nat) (hoff : g.pos.off u i ≠ ECC_SPLIT_CTL.MODE.pos.off 0 0) :
    (d.setFld ECC_SPLIT_CTL.MODE 0 0 m).fld g u i = d.fld g u i := d.fld_setFld_off ECC_SPLIT_CTL.MODE g 0 0 m u i hoff

theorem Dev.setMode_splitOpen (d : Dev) (m : Nat) : (d.setFld ECC_SPLIT_CTL.MODE 0 0 m).splitOpen = d.splitOpen := by
  have hfuse : (d.setFld ECC_SPLIT_CTL.MODE 0 0 m).fuse = d.fuse := rfl
  have hdone : (d.setFld ECC_SPLIT_CTL.MODE 0 0 m).done = d.done := d.setMode_fld m STARTER_STATUS.DONE 0 0 (by decide)
  simp only [Dev.splitOpen, Dev.bit, hfuse, hdone, Dev.setMode_fld _ _ SEC_STATUS.DEBUG_UNLOCKED 0 0 (by decide), Dev.setMode_fld _ _ SEC_STATUS.PERMS 0 0 (by decide)]

theorem Dev.setMode_splitHas (d : Dev) (m a : Nat) : (d.setFld ECC_SPLIT_CTL.MODE 0 0 m).splitHas a = d.splitHas a := by
  have hgran (c g : Nat) : (d.setFld ECC_SPLIT_CTL.MODE 0 0 m).granBacked c g = d.granBacked c g := by
    simp only [Dev.granBacked, Dev.setMode_fld _ _ BCR_PART.SCRATCH_MASK c 0 (by simp [RegPos.off]; omega)]
    rfl
  have hgddr : (d.setFld ECC_SPLIT_CTL.MODE 0 0 m).gddrHas a 32 = d.gddrHas a 32 := rfl
  simp only [Dev.splitHas, Dev.scratchBacked, hgran, hgddr]

/-- GO in a mode, its target already settled. -/
def Dev.splitAct (d : Dev) (m a : Nat) : Dev :=
  match m with
  | 0 => d.putRaw a d.splitBytes (d.rawCheck a)
  | 1 => d.putRaw a (d.cwData (a / 32)) d.splitCheckWord
  | 2 => d.putRaw a d.splitBytes d.splitCheckWord
  | _ => d.splitReport a

/-- GO decides by the machine as it was before the mode was written. -/
theorem Dev.splitGo_eq (d : Dev) (m : Nat) :
    d.splitGo m = if (d.splitOpen && d.splitHas (32 * d.fld ECC_SPLIT_ADDR.ADDR 0 0)) = false then (d.setFld ECC_SPLIT_CTL.MODE 0 0 m).setBit ECC_SPLIT_CTL.ERR 0 0 true
      else ((d.setFld ECC_SPLIT_CTL.MODE 0 0 m).splitSettle (32 * d.fld ECC_SPLIT_ADDR.ADDR 0 0)).splitAct m (32 * d.fld ECC_SPLIT_ADDR.ADDR 0 0) := by
  have haddr := d.setMode_fld m ECC_SPLIT_ADDR.ADDR 0 0 (by decide)
  have hopen := d.setMode_splitOpen m
  have hhas := d.setMode_splitHas m (32 * d.fld ECC_SPLIT_ADDR.ADDR 0 0)
  simp only [Dev.splitGo, haddr, hopen, hhas, ← Bool.not_and, Bool.not_eq_true']
  rfl

/-- Where split mode reaches the target, GO acts. -/
theorem Dev.splitGo_open {d : Dev} (h : (d.splitOpen && d.splitHas (32 * d.fld ECC_SPLIT_ADDR.ADDR 0 0)) = true) (m : Nat) :
    d.splitGo m = ((d.setFld ECC_SPLIT_CTL.MODE 0 0 m).splitSettle (32 * d.fld ECC_SPLIT_ADDR.ADDR 0 0)).splitAct m (32 * d.fld ECC_SPLIT_ADDR.ADDR 0 0) :=
  (d.splitGo_eq m).trans (if_neg (by simp [h]))

/-- The class of a codeword has one of five codes. -/
theorem CwClass.code_lt (c : CwClass) : c.code < 2 ^ ECC_SPLIT_CTL.CLASS.w := by cases c <;> simp [CwClass.code]

theorem Dev.splitReport_class (d : Dev) (a : Nat) : (d.splitReport a).fld ECC_SPLIT_CTL.CLASS 0 0 = (hxClass (Tbl.get 0 d.chk (a / 32))).code :=
  (Dev.fld_setFld _ _ _ _ _ rfl).trans (Nat.mod_eq_of_lt (CwClass.code_lt _))

/-- Elsewhere GO sets ERR, and memory stays. -/
theorem exec_splitGo_refused {i : Instr} {s : State} {m : Nat} (hx : exec i s = s.ev fun d => d.splitGo m)
    (hno : (s.dev.splitOpen && s.dev.splitHas (32 * s.dev.fld ECC_SPLIT_ADDR.ADDR 0 0)) = false) :
    ∃ t, exec i s = .next t ∧ t.dev.bit ECC_SPLIT_CTL.ERR 0 0 = true ∧ t.dev.mem = s.dev.mem := by
  refine exec_ev hx ((s.dev.splitGo_eq m).trans (if_pos hno)) ⟨?_, rfl⟩
  exact Dev.bit_setBit _ ECC_SPLIT_CTL.ERR 0 0 true rfl rfl

/-! Scrub reads. -/

/-- What ECC_SCRUB shows of a store at the end of a pass. -/
def Dev.scrubPassed (d : Dev) (store : Nat) (late : Bool) : Dev :=
  ((d.count ECC_SCRUB.PASSES 0 store 1).setFld ECC_SCRUB.PROGRESS 0 store 0).setBit ECC_SCRUB.BEHIND 0 store late

section Scrub
variable {d : Dev} {a : Nat} (fl : List BitFlip) (late : Bool) (hrun : d.power = .run)
include hrun

theorem Dev.scrub_stack (ha : a < stackEnd) (hfree : d.scrubFree (stackCore a) (stackRow a) = true) : d.scrub 0 a fl true late = (d.scrubRow a fl).scrubPassed 0 late := by
  simp [Dev.scrub, hrun, hfree, ha, Dev.scrubPassed]

theorem Dev.scrub_cache : d.scrub 1 a fl true late = (d.scrubCache a fl).scrubPassed 1 late := by simp [Dev.scrub, hrun, Dev.scrubPassed]

theorem Dev.scrub_ls : d.scrub 2 a fl true late = (d.scrubLs a fl).scrubPassed 2 late := by simp [Dev.scrub, hrun, Dev.scrubPassed]

theorem Dev.scrub_gddr (hidle : d.gddrHas (a / 32 * 32) 32 = true → d.gdrIdle (d.gdrChan (a - gddrBase)) = true) :
    d.scrub 3 a fl true late = (d.scrubGddr a fl).scrubPassed 3 late := by
  have hgo : ¬ (d.gddrHas (a / 32 * 32) 32 = true ∧ d.gdrIdle (d.gdrChan (a - gddrBase)) = false) := fun h => by simp [hidle h.1] at h
  simp [Dev.scrub, hrun, hgo, Dev.scrubPassed]

end Scrub

/-! Snoops. -/

theorem Dev.chkFresh_setEn (d : Dev) (u : Nat) : (d.setBit CHK_SNOOP.EN u 0 true).chkFresh u = d.chkFresh u := by
  have hclaimed : (d.setBit CHK_SNOOP.EN u 0 true).fld CHK_CFG.CLAIMED u 0 = d.fld CHK_CFG.CLAIMED u 0 :=
    Dev.fld_setFld_off _ _ _ _ _ _ _ _ (by simp [RegPos.off])
  simp only [Dev.chkFresh, Dev.bit, hclaimed]
  rfl

/-- A snoop of a unit that no claim of this cycle has taken settles. -/
theorem Dev.chkSnoopOn_stale {d : Dev} {u : Nat} (h : d.chkFresh u = false) : d.chkSnoopOn u = d.chkSnoopSettle u := by
  simp [Dev.chkSnoopOn, h]

theorem exec_chkSnoopEnable_settles {s : State} {u : Fin 36} (r : Req) (h : s.dev.bit CHK_SNOOP.EN u 0 = true ∨ s.dev.chkFresh u = false) :
    ∃ t, exec (.chkSnoopEnable r u) s = .next t ∧ t.dev = s.dev.keep ((s.dev.setBit CHK_SNOOP.EN u 0 true).chkSnoopSettle u) := by
  refine exec_ev (exec_chkSnoopEnable r u s) ?_ rfl
  split
  · rfl
  · rename_i hen
    exact Dev.chkSnoopOn_stale ((s.dev.chkFresh_setEn u).trans (h.resolve_left hen))

theorem exec_chkSnoopEnable_arbitrates {s : State} {u : Fin 36} (r : Req) (h : s.dev.bit CHK_SNOOP.EN u 0 = false) :
    ∃ t, exec (.chkSnoopEnable r u) s = .next t ∧ t.dev = s.dev.keep ((s.dev.setBit CHK_SNOOP.EN u 0 true).chkSnoopOn u) :=
  exec_ev (exec_chkSnoopEnable r u s) (if_neg (by simp [h])) rfl

/-- Settles O53: the mode changes nothing that GO decides by, and a scrub read's conditions and a snoop's are the model's own. -/
theorem errorChecks : Obligations.ErrorChecks := by
  refine ⟨fun s => ⟨fun hgo => ?_, fun hno => ⟨exec_splitGo_refused (exec_splitData s) hno, exec_splitGo_refused (exec_splitRead s) hno⟩⟩,
    fun s => ⟨fun a fl late hrun => ⟨?_, ?_, ?_, ?_⟩, fun r u => ⟨exec_chkSnoopEnable_settles r, fun hen _ => exec_chkSnoopEnable_arbitrates r hen⟩⟩⟩
  case refine_1 =>
    refine ⟨?_, ?_, ?_, ?_⟩
    · exact exec_ev (exec_splitData s) (Dev.splitGo_open hgo 0) rfl
    · exact exec_ev (exec_splitCheck s) (Dev.splitGo_open hgo 1) rfl
    · exact exec_ev (exec_splitRaw s) (Dev.splitGo_open hgo 2) rfl
    · refine exec_ev (exec_splitRead s) (Dev.splitGo_open hgo 3) ⟨rfl, ?_⟩
      rw [Dev.keep_fld]
      exact Dev.splitReport_class _ _
  case refine_2 => exact fun ha hfree => exec_ev (exec_patrolScrub 0 a fl true late s) (Dev.scrub_stack fl late hrun ha hfree) rfl
  case refine_3 => exact exec_ev (exec_patrolScrub 1 a fl true late s) (Dev.scrub_cache fl late hrun) rfl
  case refine_4 => exact exec_ev (exec_patrolScrub 2 a fl true late s) (Dev.scrub_ls fl late hrun) rfl
  case refine_5 => exact fun hidle => exec_ev (exec_patrolScrub 3 a fl true late s) (Dev.scrub_gddr fl late hrun hidle) rfl

end Sys2Proof.Machine
end

section
/-! SUPPORT. What a journal record leaves (R541, R547, R548), and STARTER steps: beginning, passing, failing, running out of time (R505, R506, R548). -/

namespace Sys2Proof.Machine

/-! A journal record. -/

/-- From d to e a journal record has been made: memory, what waits in retention SRAM and the count of records dropped may differ. -/
def Journaled (d e : Dev) : Prop :=
  ∃ m p n r c, e = { d with mem := m, lifePend := p, lifeSeq := n, regs := r, cyc := c } ∧ ∀ o, o ≠ LIFE_STATUS.DROPPED.pos.off 0 0 → Tbl.get 0 r o = Tbl.get 0 d.regs o

theorem Dev.retireAdd_mem (d : Dev) (w : Nat) : ∃ m, d.retireAdd w = { d with mem := m } := by
  unfold Dev.retireAdd
  split
  · exact ⟨_, rfl⟩
  · exact ⟨_, rfl⟩

theorem Dev.journalWrite_mem (d : Dev) (r : List Byte) : ∃ m, d.journalWrite r = { d with mem := m } := by
  unfold Dev.journalWrite
  dsimp only
  split
  · obtain ⟨m, hm⟩ := Dev.retireAdd_mem { d with mem := storeBytes d.mem (mramKey (d.journalBase + ofBytes ((r.drop 4).take 4) % 4096 * 64)) r } _
    exact ⟨m, hm⟩
  · exact ⟨_, rfl⟩

theorem Dev.journal_journaled (d : Dev) (code : Nat) (payload : List Nat) : Journaled d (d.journal code payload) := by
  unfold Dev.journal
  dsimp only
  split
  · split
    · exact ⟨_, _, _, _, _, rfl, fun _ _ => rfl⟩
    · exact ⟨_, _, _, _, _, rfl, fun o ho => Tbl.get_set_ne _ _ _ ho⟩
  · obtain ⟨m, hm⟩ := Dev.journalWrite_mem { d with lifeSeq := d.lifeSeq + 1 } _
    exact ⟨m, _, _, _, _, hm, fun _ _ => rfl⟩

theorem Journaled.fld {d e : Dev} (h : Journaled d e) (f : Fld) (u i : Nat) (hoff : f.pos.off u i ≠ LIFE_STATUS.DROPPED.pos.off 0 0) : e.fld f u i = d.fld f u i := by
  obtain ⟨m, p, n, r, c, rfl, hregs⟩ := h
  simp only [Dev.fld, Dev.word, hregs _ hoff]

theorem Journaled.low {d e : Dev} (h : Journaled d e) : LowSame d e := by
  obtain ⟨m, p, n, r, c, rfl, hregs⟩ := h
  exact fun o ho => hregs o (Nat.ne_of_lt (Nat.lt_trans ho (by decide)))

theorem Journaled.step {d e : Dev} (h : Journaled d e) : e.step = d.step := by
  obtain ⟨m, p, n, r, c, rfl, _⟩ := h
  rfl

/-! The training of the board memory (R360). -/

theorem LowSame.raise (d : Dev) (g : List Fld) (m : Fld) (u i : Nat) (b : Fld) (l : List (Fld × Nat)) (hm : 0x80000 ≤ m.pos.off u i) (hb : 0x80000 ≤ b.pos.off u i)
    (hl : ∀ p ∈ l, 0x80000 ≤ p.1.pos.off u i) : LowSame d (d.raise g m u i b l) := by
  unfold Dev.raise
  split
  · exact (LowSame.setBit d m u i true hm).trans (LowSame.setBit _ b u i true hb)
  · exact (LowSame.setBit d b u i true hb).trans (LowSame.foldl_mem _ l (fun e p hp => LowSame.setFld e p.1 u i p.2 (hl p hp)) _)

theorem LowSame.setGddr (d : Dev) (g : Gddr) : LowSame d { d with gddr := g } := fun _ _ => rfl

/-- Which channels are trained and which have failed. -/
def Dev.gddrMarks (d : Dev) (ch bad : List Nat) : Dev :=
  (List.range 8).foldl (fun e c => (e.setBit GDR_CHAN.TRAINED c 0 (ch.contains c && !bad.contains c)).setBit GDR_CHAN.FAILED c 0 (bad.contains c)) d

theorem Dev.gddrMarks_low (d : Dev) (ch bad : List Nat) : LowSame d (d.gddrMarks ch bad) :=
  LowSame.foldl _ (fun e c => (LowSame.setBit e GDR_CHAN.TRAINED c 0 _ (by simp [RegPos.off]; omega)).trans
    (LowSame.setBit _ GDR_CHAN.FAILED c 0 _ (by simp [RegPos.off]; omega))) _ d

theorem Dev.gddrMarks_mem (d : Dev) (ch bad : List Nat) : (d.gddrMarks ch bad).mem = d.mem :=
  List.foldlRecOn (motive := fun e : Dev => e.mem = d.mem) _ _ rfl fun _ he _ _ => he

/-- Training finds no board memory, or marks its channels; one that fails is recorded. -/
theorem Dev.gddrTrain_cases (d : Dev) (pass : Nat) : ∃ g ch bad, d.gddrTrain pass = { d with gddr := g } ∨ d.gddrTrain pass = { d.gddrMarks ch bad with gddr := g } ∨
    d.gddrTrain pass = ({ d.gddrMarks ch bad with gddr := g } : Dev).gdrErr GDR_ERR.TRAIN_FAIL none := by
  by_cases hnone : d.gdrChans = [] ∨ d.gddr.fitted = 0
  · exact ⟨_, [], [], .inl (if_pos hnone)⟩
  · obtain ⟨bad, hbad⟩ : ∃ l, l = if [1, 2, 4, 8].contains d.gdrChans.length then d.gdrChans.filter (fun c => !(bitOf pass c && d.gddr.fitted.getLsbD c)) else d.gdrChans := ⟨_, rfl⟩
    simp only [Dev.gddrTrain, if_neg hnone, ← hbad]
    by_cases hall : bad = []
    · exact ⟨_, d.gdrChans, bad, .inr (.inl (if_pos hall))⟩
    · exact ⟨_, d.gdrChans, bad, .inr (.inr (if_neg hall))⟩

theorem Dev.gddrTrain_low (d : Dev) (pass : Nat) : LowSame d (d.gddrTrain pass) := by
  obtain ⟨g, ch, bad, h | h | h⟩ := d.gddrTrain_cases pass
  · rw [h]; exact LowSame.setGddr d g
  · rw [h]; exact (d.gddrMarks_low ch bad).trans (LowSame.setGddr _ g)
  · rw [h]; exact ((d.gddrMarks_low ch bad).trans (LowSame.setGddr _ g)).trans (LowSame.raise _ _ _ _ _ _ _ (by decide) (by decide) (by simp))

theorem Dev.gddrTrain_mem (d : Dev) (pass : Nat) : (d.gddrTrain pass).mem = d.mem := by
  obtain ⟨g, ch, bad, h | h | h⟩ := d.gddrTrain_cases pass
  · rw [h]
  · rw [h]; exact d.gddrMarks_mem ch bad
  · rw [h]; exact (RegsOnly.mem (Dev.raise_regs _ _ _ _ _ _ _)).trans (d.gddrMarks_mem ch bad)

theorem Dev.stepTrain_low (d : Dev) : LowSame d d.stepTrain := by
  unfold Dev.stepTrain
  split
  · exact Dev.gddrTrain_low _ _
  · exact LowSame.refl d

theorem Dev.stepTrain_mem (d : Dev) : d.stepTrain.mem = d.mem := by
  unfold Dev.stepTrain
  split
  · exact Dev.gddrTrain_mem _ _
  · rfl

/-! A step begins. -/

section Begins
variable {d : Dev} {k : Nat} (hsvc : d.svc.contains .bar0 = true)
include hsvc

/-- The next step, with none running and its precondition met, does what R506 gives it. -/
theorem Dev.stepStart_turn (hstep : d.step = none) (hnext : d.done + 1 = k) (hmay : d.stepMay k = true) {run : Dev → Dev × Option Nat × Bool} {train : Option Nat}
    {e : Dev} {fail : Option Nat} {deg : Bool} (hrun : run (d.setFld STARTER_STATUS.RUNNING 0 0 k) = (e, fail, deg)) :
    d.stepStart k run train = { e with step := some ⟨d.ns, fail, deg, train⟩ } := by
  simp only [Dev.stepStart, hsvc, hstep, hnext, hmay, hrun, Bool.not_true, Bool.false_eq_true, if_false, Option.isSome_none, beq_self_eq_true, Bool.true_or, Bool.or_self,
    Dev.setFld_ns]

/-- While a step runs another is a FALSE_START. -/
theorem Dev.stepStart_running (hstep : d.step ≠ none) (run : Dev → Dev × Option Nat × Bool) (train : Option Nat) :
    d.stepStart k run train = d.setBit STARTER_STATUS.FALSE_START 0 0 true := by
  simp only [Dev.stepStart, hsvc, Option.isSome_iff_ne_none.2 hstep, Bool.not_true, Bool.false_eq_true, if_false, Bool.true_or, if_true]

end Begins

/-! A step ends. -/

/-- The running step is over, and with step 5 its training. -/
def Dev.stepOver (d : Dev) : Dev := ({ d.stepTrain with step := none } : Dev).setFld STARTER_STATUS.RUNNING 0 0 0

theorem Dev.stepOver_fld (d : Dev) (g : Fld) (hoff : g.pos.off 0 0 < 0x80000) (ha : STARTER_STATUS.RUNNING.apart g = true) : d.stepOver.fld g 0 0 = d.fld g 0 0 :=
  (Dev.fld_setFld_apart _ STARTER_STATUS.RUNNING g 0 0 0 0 0 rfl ha).trans (d.stepTrain_low.fld g 0 0 hoff)

theorem Dev.stepOver_running (d : Dev) : d.stepOver.fld STARTER_STATUS.RUNNING 0 0 = 0 := Dev.fld_setFld _ STARTER_STATUS.RUNNING 0 0 0 rfl

/-- What a step that passes shows beside STARTER_STATUS: the result of the vertical test, the memory active. -/
def Dev.stepShow (d : Dev) (k : Nat) (degraded : Bool) : Dev :=
  let d := if k = 4 then d.setFld LNK_STATUS.VT_RESULT 0 0 (if degraded then 2 else 1) else d
  if k = 8 then d.setBit FAB_PORT.MEM_ACTIVE 0 0 true else d

theorem Dev.stepShow_low (d : Dev) (k : Nat) (degraded : Bool) : LowSame d (d.stepShow k degraded) := by
  unfold Dev.stepShow
  dsimp only
  by_cases h4 : k = 4
  · simp only [h4, if_true]
    exact LowSame.setFld d LNK_STATUS.VT_RESULT 0 0 _ (by decide)
  · simp only [h4, if_false]
    split
    · exact LowSame.setBit d FAB_PORT.MEM_ACTIVE 0 0 true (by decide)
    · exact LowSame.refl d

/-- A step that passes. -/
def Dev.stepPassed (d : Dev) (r : StepRun) : Dev :=
  let k := d.fld STARTER_STATUS.RUNNING 0 0
  (((d.stepOver.stepShow k r.degraded).setFld STARTER_STATUS.DONE 0 0 k).setFld STARTER_STATUS.RESULT 0 0
    (if r.degraded || r.train.isSome && d.stepTrain.gddr.state == .disabled then 2 else 1)).setFld STARTER_STATUS.ELAPSED_MS 0 0 d.stepMs

section Ends
variable {d : Dev} {r : StepRun} (hstep : d.step = some r)
include hstep

theorem Dev.stepDone_passes (hin : d.ns ≤ r.at' + d.stepBound (d.fld STARTER_STATUS.RUNNING 0 0) * 1000000) (hfail : r.fail = none)
    (hk : 2 ≤ d.fld STARTER_STATUS.RUNNING 0 0) : d.stepDone true = d.stepPassed r := by
  have hone : d.fld STARTER_STATUS.RUNNING 0 0 ≠ 1 := by omega
  simp only [Dev.stepDone, hstep, if_neg (Nat.not_lt.2 hin), hone, false_and, if_false, hfail, Bool.not_true, Bool.false_eq_true]
  rfl

theorem Dev.stepDone_fails {c : Nat} (hin : d.ns ≤ r.at' + d.stepBound (d.fld STARTER_STATUS.RUNNING 0 0) * 1000000) (hfail : r.fail = some c)
    (hk : 2 ≤ d.fld STARTER_STATUS.RUNNING 0 0) : d.stepDone true = d.stepFail (d.fld STARTER_STATUS.RUNNING 0 0) c d.stepMs := by
  have hone : d.fld STARTER_STATUS.RUNNING 0 0 ≠ 1 := by omega
  simp only [Dev.stepDone, hstep, if_neg (Nat.not_lt.2 hin), hone, false_and, if_false, hfail]

theorem Dev.stepLate_fails (hlate : r.at' + d.stepBound (d.fld STARTER_STATUS.RUNNING 0 0) * 1000000 < d.ns) :
    d.stepLate = d.stepFail (d.fld STARTER_STATUS.RUNNING 0 0) 0xFF d.stepMs := by
  simp only [Dev.stepLate, hstep, if_pos hlate]

end Ends

/-! What STARTER_STATUS shows after a step's end. -/

theorem Dev.stepMs_elapsed_apart (g : Fld) (d : Dev) (v : Nat) (ha : STARTER_STATUS.ELAPSED_MS.apart g = true) :
    (d.setFld STARTER_STATUS.ELAPSED_MS 0 0 v).fld g 0 0 = d.fld g 0 0 := Dev.fld_setFld_apart _ _ _ _ _ _ _ _ rfl ha

section Passed
variable (d : Dev) (r : StepRun)

theorem Dev.stepPassed_done (hk : d.fld STARTER_STATUS.RUNNING 0 0 ≤ 10) : (d.stepPassed r).done = d.fld STARTER_STATUS.RUNNING 0 0 := by
  rw [Dev.done, Dev.stepPassed, Dev.fld_setFld_apart _ _ _ _ _ _ _ _ rfl rfl, Dev.fld_setFld_apart _ _ _ _ _ _ _ _ rfl rfl, Dev.fld_setFld _ _ _ _ _ rfl]
  exact Nat.mod_eq_of_lt (Nat.lt_of_le_of_lt hk (by decide))

theorem Dev.stepPassed_result : (d.stepPassed r).fld STARTER_STATUS.RESULT 0 0 = if r.degraded || r.train.isSome && d.stepTrain.gddr.state == .disabled then 2 else 1 := by
  rw [Dev.stepPassed, Dev.fld_setFld_apart _ _ _ _ _ _ _ _ rfl rfl, Dev.fld_setFld _ _ _ _ _ rfl]
  exact Nat.mod_eq_of_lt (by split <;> decide)

theorem Dev.stepPassed_running : (d.stepPassed r).fld STARTER_STATUS.RUNNING 0 0 = 0 := by
  rw [Dev.stepPassed, Dev.fld_setFld_apart _ _ _ _ _ _ _ _ rfl rfl, Dev.fld_setFld_apart _ _ _ _ _ _ _ _ rfl rfl, Dev.fld_setFld_apart _ _ _ _ _ _ _ _ rfl rfl,
    (Dev.stepShow_low _ _ _).fld _ _ _ (by decide), Dev.stepOver_running]

/-- Step 8 makes the memory active. -/
theorem Dev.stepPassed_memActive (hk : d.fld STARTER_STATUS.RUNNING 0 0 = 8) : (d.stepPassed r).bit FAB_PORT.MEM_ACTIVE 0 0 = true := by
  rw [Dev.bit, Dev.stepPassed, Dev.fld_setFld_off _ _ _ _ _ _ _ _ (by decide), Dev.fld_setFld_off _ _ _ _ _ _ _ _ (by decide), Dev.fld_setFld_off _ _ _ _ _ _ _ _ (by decide),
    Dev.stepShow, if_pos hk]
  exact Dev.bit_setBit _ FAB_PORT.MEM_ACTIVE 0 0 true rfl rfl

theorem RegsOnly.ite {d e f : Dev} {c : Prop} [Decidable c] (he : RegsOnly d e) (hf : RegsOnly d f) : RegsOnly d (if c then e else f) := by
  split
  · exact he
  · exact hf

theorem Dev.stepShow_keeps (d : Dev) (k : Nat) (degraded : Bool) : RegsOnly d (d.stepShow k degraded) := by
  have htest : RegsOnly d (if k = 4 then d.setFld LNK_STATUS.VT_RESULT 0 0 (if degraded then 2 else 1) else d) :=
    RegsOnly.ite ((RegsOnly.refl d).setFld _ _ _ _) (RegsOnly.refl d)
  exact RegsOnly.ite (htest.setBit _ _ _ _) htest

/-- A step that passes is over, and leaves memory. -/
theorem Dev.stepPassed_over : (d.stepPassed r).step = none ∧ (d.stepPassed r).mem = d.mem := by
  have hkeeps : RegsOnly d.stepOver (d.stepPassed r) := (((d.stepOver.stepShow_keeps _ _).setFld _ _ _ _).setFld _ _ _ _).setFld _ _ _ _
  obtain ⟨_, _, hp⟩ := hkeeps
  rw [hp]
  exact ⟨rfl, d.stepTrain_mem⟩

end Passed

/-- The result of the vertical test, where it has failed. -/
def Dev.stepBad (d : Dev) (k code : Nat) : Dev := if k = 4 ∧ code = 2 then d.setFld LNK_STATUS.VT_RESULT 0 0 3 else d

/-- STARTER_STATUS of a step that ends in failure. -/
def Dev.stepFailed (d : Dev) (k code : Nat) : Dev :=
  ((d.stepOver.setFld STARTER_STATUS.RESULT 0 0 3).setFld STARTER_STATUS.FAIL_STEP 0 0 k).setFld STARTER_STATUS.FAIL_CODE 0 0 code

theorem Dev.stepFail_eq (d : Dev) (k code ms : Nat) :
    d.stepFail k code ms = (((d.stepFailed k code).stepBad k code).setFld STARTER_STATUS.ELAPSED_MS 0 0 ms).journal 0x07 [k, code] := rfl

section Failed
variable (d : Dev) (k code ms : Nat)

theorem Dev.stepBad_low : LowSame d (d.stepBad k code) := by
  unfold Dev.stepBad
  split
  · exact LowSame.setFld d LNK_STATUS.VT_RESULT 0 0 3 (by decide)
  · exact LowSame.refl d

theorem Dev.stepFail_fld (g : Fld) (hoff : g.pos.off 0 0 < 0x80000) (ha : STARTER_STATUS.ELAPSED_MS.apart g = true) :
    (d.stepFail k code ms).fld g 0 0 = (d.stepFailed k code).fld g 0 0 := by
  rw [Dev.stepFail_eq, (Dev.journal_journaled _ _ _).low.fld _ _ _ hoff, Dev.fld_setFld_apart _ _ _ _ _ _ _ _ rfl ha, (Dev.stepBad_low _ _ _).fld _ _ _ hoff]

theorem Dev.stepFail_result : (d.stepFail k code ms).fld STARTER_STATUS.RESULT 0 0 = 3 := by
  rw [Dev.stepFail_fld _ _ _ _ _ (by decide) rfl, Dev.stepFailed, Dev.fld_setFld_apart _ _ _ _ _ _ _ _ rfl rfl, Dev.fld_setFld_apart _ _ _ _ _ _ _ _ rfl rfl,
    Dev.fld_setFld _ _ _ _ _ rfl]
  rfl

theorem Dev.stepFail_step {k : Nat} (hk : k < 16) : (d.stepFail k code ms).fld STARTER_STATUS.FAIL_STEP 0 0 = k := by
  rw [Dev.stepFail_fld _ _ _ _ _ (by decide) rfl, Dev.stepFailed, Dev.fld_setFld_apart _ _ _ _ _ _ _ _ rfl rfl, Dev.fld_setFld _ _ _ _ _ rfl]
  exact Nat.mod_eq_of_lt hk

theorem Dev.stepFail_code {code : Nat} (hcode : code < 256) : (d.stepFail k code ms).fld STARTER_STATUS.FAIL_CODE 0 0 = code := by
  rw [Dev.stepFail_fld _ _ _ _ _ (by decide) rfl, Dev.stepFailed, Dev.fld_setFld _ _ _ _ _ rfl]
  exact Nat.mod_eq_of_lt hcode

theorem Dev.stepFail_done : (d.stepFail k code ms).done = d.done := by
  rw [Dev.done, Dev.stepFail_fld _ _ _ _ _ (by decide) rfl, Dev.stepFailed, Dev.fld_setFld_apart _ _ _ _ _ _ _ _ rfl rfl, Dev.fld_setFld_apart _ _ _ _ _ _ _ _ rfl rfl,
    Dev.fld_setFld_apart _ _ _ _ _ _ _ _ rfl rfl]
  exact d.stepOver_fld STARTER_STATUS.DONE (by decide) rfl

theorem Dev.stepFail_over : (d.stepFail k code ms).step = none := by
  rw [Dev.stepFail_eq, (Dev.journal_journaled _ _ _).step, Dev.setFld_step, Dev.stepBad]
  split <;> rfl

end Failed

/-! The rows, each one event. -/

theorem exec_stepRails (s : State) : exec .stepRails s = s.ev fun d => d.stepStart 1 fun d => (d.railsUp, none, false) := rfl
theorem exec_stepClocks (s : State) : exec .stepClocks s = s.ev fun d => d.stepStart 2 fun d => (d.clocksUp, none, false) := rfl
theorem exec_stepD2dTraining (r : Req) (bad : List (Nat × Nat)) (s : State) :
    exec (.stepD2dTraining r bad) s = s.ev fun d => d.stepStart 3 fun d => ((d.d2dTrain bad).1, if (d.d2dTrain bad).2 then none else some 2, false) := rfl
theorem exec_stepVerticalTest (r : Req) (bc bm bl : List (Nat × Nat)) (bk : List Nat) (s : State) :
    exec (.stepVerticalTest r bc bm bl bk) s = s.ev fun d => d.stepStart 4 fun d =>
      ((d.vertTest bc bm bl bk).1, if (d.vertTest bc bm bl bk).2.1 then none else some 2, (d.vertTest bc bm bl bk).2.2) := rfl
theorem exec_stepStackCalibration (r : Req) (uncal : List (Nat × Nat)) (pass : BitVec 8) (s : State) :
    exec (.stepStackCalibration r uncal pass) s = s.ev fun d => d.stepStart 5 (fun d => (d.gddrTrainBegin, if uncal.isEmpty then none else some 2, false)) (some pass.toNat) := rfl
theorem exec_stepFill (s : State) : exec .stepFill s = s.ev fun d => d.stepStart 6 fun d => (d.fill, none, false) := rfl
theorem exec_stepMemoryTest (r : Req) (defects : List (Nat × Option Nat)) (s : State) :
    exec (.stepMemoryTest r defects) s = s.ev fun d => d.stepStart 7 fun d => (d.memTest defects, none, defects.any fun p => p.2.isNone) := rfl
theorem exec_stepCacheInit (s : State) : exec .stepCacheInit s = s.ev fun d => d.stepStart 8 fun d => (d.cacheInit, none, false) := rfl
theorem exec_stepFirmwareLoad (s : State) :
    exec .stepFirmwareLoad s = s.ev fun d => d.whole fun d => d.stepStart 9 fun d => (d.release.1, if d.release.2 then none else some 3, false) := rfl
theorem exec_stepFabricJoin (s : State) : exec .stepFabricJoin s = s.ev fun d => d.stepStart 10 fun d => (d, none, false) := rfl
theorem exec_stepComplete (ok : Bool) (s : State) : exec (.stepComplete ok) s = s.ev fun d => d.stepDone ok := rfl
theorem exec_stepTimeout (s : State) : exec .stepTimeout s = s.ev fun d => d.stepLate := rfl

/-- A step whose turn it is: what its row leads to. -/
theorem exec_step_turn {i : Instr} {s : State} {k : Nat} {run : Dev → Dev × Option Nat × Bool} {train : Option Nat} (hx : exec i s = s.ev fun d => d.stepStart k run train)
    (hsvc : s.dev.svc.contains .bar0 = true) (hturn : s.dev.step = none ∧ s.dev.done + 1 = k ∧ s.dev.stepMay k = true)
    {e : Dev} {fail : Option Nat} {deg : Bool} (hrun : run (s.dev.setFld STARTER_STATUS.RUNNING 0 0 k) = (e, fail, deg)) :
    ∃ t, exec i s = .next t ∧ t.dev = s.dev.keep { e with step := some ⟨s.dev.ns, fail, deg, train⟩ } := by
  obtain ⟨hstep, hnext, hmay⟩ := hturn
  exact exec_ev hx (Dev.stepStart_turn hsvc hstep hnext hmay hrun) rfl

/-- Step 9 reads images: it begins once it need not wait for them. -/
theorem exec_stepFirmwareLoad_turn {s : State} {e : Dev} (he : s.dev.unasked.setFld STARTER_STATUS.RUNNING 0 0 9 = e) (hsvc : s.dev.svc.contains .bar0 = true)
    (hturn : s.dev.step = none ∧ s.dev.done + 1 = 9 ∧ s.dev.stepMay 9 = true) (hw : e.release.1.waits = []) :
    ∃ t, exec .stepFirmwareLoad s = .next t ∧
      t.dev = s.dev.keep { e.release.1 with step := some ⟨s.dev.ns, if e.release.2 then none else some 3, false, none⟩ } := by
  obtain ⟨hstep, hnext, hmay⟩ := hturn
  have hgo : s.dev.unasked.stepStart 9 (fun d => (d.release.1, if d.release.2 then none else some 3, false)) = _ :=
    Dev.stepStart_turn (d := s.dev.unasked) hsvc hstep hnext hmay (by rw [he])
  exact exec_ev (exec_stepFirmwareLoad s) (Dev.whole_done hgo hw) rfl

/-- A running step 2 to 10 that has not failed its own check passes. -/
theorem exec_stepComplete_passes {s : State} {r : StepRun} (hstep : s.dev.step = some r)
    (hin : s.dev.ns ≤ r.at' + s.dev.stepBound (s.dev.fld STARTER_STATUS.RUNNING 0 0) * 1000000) (hfail : r.fail = none)
    (hlow : 2 ≤ s.dev.fld STARTER_STATUS.RUNNING 0 0) (hhigh : s.dev.fld STARTER_STATUS.RUNNING 0 0 ≤ 10) :
    ∃ t, exec (.stepComplete true) s = .next t ∧ t.dev.done = s.dev.fld STARTER_STATUS.RUNNING 0 0 ∧ t.dev.step = none ∧
      t.dev.fld STARTER_STATUS.RESULT 0 0 = (if r.degraded || r.train.isSome && s.dev.stepTrain.gddr.state == .disabled then 2 else 1) ∧ t.dev.fld STARTER_STATUS.RUNNING 0 0 = 0 ∧
      (s.dev.fld STARTER_STATUS.RUNNING 0 0 = 8 → t.dev.bit FAB_PORT.MEM_ACTIVE 0 0 = true) ∧ t.dev.mem = s.dev.mem := by
  obtain ⟨hover, hmem⟩ := s.dev.stepPassed_over r
  exact exec_ev (exec_stepComplete true s) (Dev.stepDone_passes hstep hin hfail hlow)
    ⟨s.dev.stepPassed_done r hhigh, hover, s.dev.stepPassed_result r, s.dev.stepPassed_running r, fun h8 => s.dev.stepPassed_memActive r h8, hmem⟩

/-- A running step that has failed its own check ends with its code. -/
theorem exec_stepComplete_fails {s : State} {r : StepRun} (hstep : s.dev.step = some r) {c : Nat} (hc : c < 256)
    (hin : s.dev.ns ≤ r.at' + s.dev.stepBound (s.dev.fld STARTER_STATUS.RUNNING 0 0) * 1000000) (hfail : r.fail = some c) (hlow : 2 ≤ s.dev.fld STARTER_STATUS.RUNNING 0 0) :
    ∃ t, exec (.stepComplete true) s = .next t ∧ t.dev.done = s.dev.done ∧ t.dev.step = none ∧ t.dev.fld STARTER_STATUS.RESULT 0 0 = 3 ∧
      t.dev.fld STARTER_STATUS.FAIL_STEP 0 0 = s.dev.fld STARTER_STATUS.RUNNING 0 0 ∧ t.dev.fld STARTER_STATUS.FAIL_CODE 0 0 = c :=
  exec_ev (exec_stepComplete true s) (Dev.stepDone_fails hstep hin hfail hlow)
    ⟨s.dev.stepFail_done _ _ _, s.dev.stepFail_over _ _ _, s.dev.stepFail_result _ _ _, s.dev.stepFail_step _ _ (s.dev.fld_lt STARTER_STATUS.RUNNING 0 0 rfl), s.dev.stepFail_code _ _ hc⟩

/-- A step past its bound ends with code 0xFF. -/
theorem exec_stepTimeout_fails {s : State} {r : StepRun} (hstep : s.dev.step = some r)
    (hlate : r.at' + s.dev.stepBound (s.dev.fld STARTER_STATUS.RUNNING 0 0) * 1000000 < s.dev.ns) :
    ∃ t, exec .stepTimeout s = .next t ∧ t.dev.step = none ∧ t.dev.fld STARTER_STATUS.RESULT 0 0 = 3 ∧
      t.dev.fld STARTER_STATUS.FAIL_STEP 0 0 = s.dev.fld STARTER_STATUS.RUNNING 0 0 ∧ t.dev.fld STARTER_STATUS.FAIL_CODE 0 0 = 0xFF :=
  exec_ev (exec_stepTimeout s) (Dev.stepLate_fails hstep hlate)
    ⟨s.dev.stepFail_over _ _ _, s.dev.stepFail_result _ _ _, s.dev.stepFail_step _ _ (s.dev.fld_lt STARTER_STATUS.RUNNING 0 0 rfl), s.dev.stepFail_code _ _ (by decide)⟩

/-- Settles O55: the eleven rows begin their steps by one lemma, and a step's three ends are lemmas of their own. -/
theorem starterSequence : Obligations.StarterSequence := by
  refine ⟨fun s r hsvc => ⟨?_, ?_, ?_, ?_, ?_, ?_, ?_, ?_, ?_, ?_, ?_⟩, fun s r hstep => ⟨?_, ?_, ?_⟩⟩
  case refine_1 => exact fun hturn => exec_step_turn (exec_stepRails s) hsvc hturn rfl
  case refine_2 => exact fun hturn => exec_step_turn (exec_stepClocks s) hsvc hturn rfl
  case refine_3 => exact fun bad hturn => exec_step_turn (exec_stepD2dTraining r bad s) hsvc hturn rfl
  case refine_4 => exact fun bc bm bl bk hturn => exec_step_turn (exec_stepVerticalTest r bc bm bl bk s) hsvc hturn rfl
  case refine_5 => exact fun uncal pass hturn => exec_step_turn (exec_stepStackCalibration r uncal pass s) hsvc hturn rfl
  case refine_6 => exact fun hturn => exec_step_turn (exec_stepFill s) hsvc hturn rfl
  case refine_7 => exact fun defects hturn => exec_step_turn (exec_stepMemoryTest r defects s) hsvc hturn rfl
  case refine_8 => exact fun hturn => exec_step_turn (exec_stepCacheInit s) hsvc hturn rfl
  case refine_9 =>
    intro hturn e f hw
    simp only [f] at hw
    exact exec_stepFirmwareLoad_turn (e := e) rfl hsvc hturn hw
  case refine_10 => exact fun hturn => exec_step_turn (exec_stepFabricJoin s) hsvc hturn rfl
  case refine_11 => exact fun hstep => exec_ev (exec_stepFill s) (Dev.stepStart_running hsvc hstep _ none) rfl
  case refine_12 => exact exec_stepComplete_passes hstep
  case refine_13 => exact fun c hc hin hfail hlow _ => exec_stepComplete_fails hstep hc hin hfail hlow
  case refine_14 => exact exec_stepTimeout_fails hstep

end Sys2Proof.Machine
end

section
/-! SUPPORT. Repair in service: swaps, missed commands, calibration bursts, lanes, replays (R480 to R492, R495). -/

namespace Sys2Proof.Machine

/-! The rows of this part, each one event. -/

theorem exec_spareSwap (n : CoreId) (s : State) : exec (.spareSwap n) s = s.ev fun d => d.spareSwap n := rfl
theorem exec_parityAlert (n : CoreId) (g : Fin 9) (again : Bool) (s : State) : exec (.parityAlert n g again) s = s.ev fun d => d.parityAlert n again := rfl
theorem exec_layerCalibration (n : CoreId) (bad : List (Nat × Nat)) (s : State) : exec (.layerCalibration n bad) s = s.ev fun d => d.layerCal n bad := rfl
theorem exec_laneRetire (id : RouterId) (port lane : Nat) (s : State) : exec (.laneRetire id port lane) s = s.ev fun d => d.laneRetire (routerNo id) port lane := rfl
theorem exec_d2dReplay (g : Fin 16) (last : BitVec 12) (s : State) : exec (.d2dReplay g last) s = s.ev fun d => d.d2dReplay g last.toNat := rfl
theorem exec_d2dHardFault (g : Fin 16) (lane : Fin 13) (lost : Bool) (s : State) : exec (.d2dHardFault g lane lost) s = s.ev fun d => d.d2dHard g lane lost := rfl
theorem exec_lapSample (s : State) : exec .lapSample s = s.ev fun d => d.lapRound := rfl

/-! Repair events. -/

/-- An error recorded: its bit is set, and neither the bit of a further error nor the fields of the first are it. -/
theorem Dev.raise_bit (d : Dev) (g : List Fld) (m : Fld) (u i : Nat) (b : Fld) (l : List (Fld × Nat)) (hb : b.fits = true) (hw : b.w = 1)
    (hl : ∀ p ∈ l, p.1.fits = true ∧ p.1.apart b = true) : (d.raise g m u i b l).bit b u i = true := by
  have hfirst (e : Dev) (he : e.bit b u i = true) : (l.foldl (fun e p => e.setFld p.1 u i p.2) e).bit b u i = true :=
    List.foldlRecOn (motive := fun e : Dev => e.bit b u i = true) l _ he fun e he p hp => by
      rw [Dev.bit, Dev.fld_setFld_apart _ _ _ _ _ _ _ _ (hl p hp).1 (hl p hp).2]
      exact he
  unfold Dev.raise
  split
  · exact Dev.bit_setBit _ _ _ _ _ hb hw
  · exact hfirst _ (Dev.bit_setBit _ _ _ _ _ hb hw)

theorem Dev.lnkErr_keeps (d : Dev) (b : Fld) (unit conn : Nat) : RegsOnly d (d.lnkErr b unit conn) := Dev.raise_regs _ _ _ _ _ _ _

/-- A repair event sets its bit. -/
theorem Dev.lnkErr_swap (d : Dev) (unit conn : Nat) : (d.lnkErr LNK_ERR.SWAP unit conn).bit LNK_ERR.SWAP 0 0 = true :=
  Dev.raise_bit _ _ _ _ _ _ _ rfl rfl (by simp; decide)

theorem Dev.lnkErr_retired (d : Dev) (unit conn : Nat) : (d.lnkErr LNK_ERR.LANE_RETIRED unit conn).bit LNK_ERR.LANE_RETIRED 0 0 = true :=
  Dev.raise_bit _ _ _ _ _ _ _ rfl rfl (by simp; decide)

theorem Journaled.bit {d e : Dev} (h : Journaled d e) (f : Fld) (u i : Nat) (hoff : f.pos.off u i ≠ LIFE_STATUS.DROPPED.pos.off 0 0) : e.bit f u i = d.bit f u i :=
  congrArg (· != 0) (h.fld f u i hoff)

theorem Journaled.slice {d e : Dev} (h : Journaled d e) (n : Nat) : e.slice n = d.slice n := by
  obtain ⟨m, p, s, r, c, rfl, _⟩ := h
  rfl

theorem Journaled.repairAt {d e : Dev} (h : Journaled d e) (n g : Nat) : e.repairAt n g = d.repairAt n g := by
  obtain ⟨m, p, s, r, c, rfl, _⟩ := h
  rfl

theorem Journaled.laneOff {d e : Dev} (h : Journaled d e) : e.laneOff = d.laneOff := by
  obtain ⟨m, p, s, r, c, rfl, _⟩ := h
  rfl

theorem RegsOnly.slice {d e : Dev} (h : RegsOnly d e) (n : Nat) : e.slice n = d.slice n := by
  obtain ⟨r, c, rfl⟩ := h
  rfl

theorem RegsOnly.repairAt {d e : Dev} (h : RegsOnly d e) (n g : Nat) : e.repairAt n g = d.repairAt n g := by
  obtain ⟨r, c, rfl⟩ := h
  rfl

theorem RegsOnly.laneOff {d e : Dev} (h : RegsOnly d e) : e.laneOff = d.laneOff := by
  obtain ⟨r, c, rfl⟩ := h
  rfl

theorem RegsOnly.count {d e : Dev} (h : RegsOnly d e) (f : Fld) (u i k : Nat) : RegsOnly d (e.count f u i k) := h.setFld _ _ _ _

/-! Swaps (R483, R484). -/

section Swap
variable {d : Dev} {n v : Nat} {rest : List Nat} (hreq : (d.slice n).swapReq = v :: rest)
include hreq

/-- With its group's spare free a swap is staged. -/
theorem Dev.spareSwap_stages (hidle : (d.slice n).swapStep = .idle) (hspare : d.grpState n (v / 32) = 0) (hen : d.bit LNK_CFG.SWAP_EN 0 0 = true)
    (hmode : (d.slice n).mode ≠ .switching) (hhalf : (d.slice n).narrowHalf = none) :
    d.spareSwap n = d.setSlice n { d.slice n with swapStep := .staging, mrwLeft := List.range 12 } := by
  simp [Dev.spareSwap, hreq, hidle, hspare, hen, hmode, hhalf]

/-- With no spare to take it the connection is dead. -/
theorem Dev.spareSwap_dead (hidle : (d.slice n).swapStep = .idle) (hno : d.grpState n (v / 32) ≠ 0 ∨ d.bit LNK_CFG.SWAP_EN 0 0 = false) :
    d.spareSwap n = ((((d.setSlice n { d.slice n with swapReq := rest }).lnkErr LNK_ERR.NOSPARE n v).grpLost n (v / 32)).journal 0x04 [n, 0, v]).connDead n v := by
  have hnot : ¬ (d.grpState n (v / 32) = 0 ∧ d.bit LNK_CFG.SWAP_EN 0 0 = true) := by
    rintro ⟨hspare, hen⟩
    rcases hno with h | h
    · exact h hspare
    · simp [h] at hen
  simp only [Dev.spareSwap, hreq, hidle, if_neg hnot]

theorem Dev.spareSwap_commits (hstop : (d.slice n).swapStep = .stopped) (hopens : (d.slice n).opens = []) (hmoves : (d.slice n).moves = []) : d.spareSwap n = d.swapCommit n v := by
  simp only [Dev.spareSwap, hreq, hstop, hopens, hmoves, and_self, if_true]

end Swap

/-- What a swap changes beside registers and the journal. -/
def Dev.swapTaken (d : Dev) (n v : Nat) : Dev :=
  ((d.setSlice n { d.slice n with
    swapReq := (d.slice n).swapReq.erase v, swapStep := .idle, swapped := (d.slice n).swapped ++ [v], stopFree := d.ns + 1007,
    noActUntil := max (d.slice n).noActUntil (d.ns + 7) }).setGrp n (v / 32) 1).setRepair n (v / 32) (v % 32)

theorem Dev.swapCommit_eq (d : Dev) (n v : Nat) :
    d.swapCommit n v = ((((d.swapTaken n v).count LNK_SLICE.DATA_USED n 0 1).count LNK_SLICE.SWAPS n 0 1).lnkErr LNK_ERR.SWAP n v).journal 0x04 [n, 0, v] := rfl

theorem Dev.swapCommit_marks (d : Dev) (n v : Nat) : ∃ e, RegsOnly (d.swapTaken n v) e ∧ e.bit LNK_ERR.SWAP 0 0 = true ∧ Journaled e (d.swapCommit n v) :=
  ⟨_, (((RegsOnly.refl _).count LNK_SLICE.DATA_USED n 0 1).count LNK_SLICE.SWAPS n 0 1).trans (Dev.lnkErr_keeps _ _ _ _), Dev.lnkErr_swap _ _ _,
    d.swapCommit_eq n v ▸ Dev.journal_journaled _ _ _⟩

theorem Dev.swapCommit_slice (d : Dev) (n v : Nat) : (d.swapCommit n v).slice n = { d.slice n with
    swapReq := (d.slice n).swapReq.erase v, swapStep := .idle, swapped := (d.slice n).swapped ++ [v], stopFree := d.ns + 1007,
    noActUntil := max (d.slice n).noActUntil (d.ns + 7) } := by
  obtain ⟨e, hregs, _, hjournal⟩ := d.swapCommit_marks n v
  exact (hjournal.slice n).trans ((hregs.slice n).trans (d.slice_setSlice n _))

theorem Dev.swapCommit_repairAt (d : Dev) (n v : Nat) : (d.swapCommit n v).repairAt n (v / 32) = v % 32 := by
  obtain ⟨e, hregs, _, hjournal⟩ := d.swapCommit_marks n v
  exact (hjournal.repairAt n _).trans ((hregs.repairAt n _).trans (Tbl.get_set_same _ _ _ _))

theorem Dev.swapCommit_swap (d : Dev) (n v : Nat) : (d.swapCommit n v).bit LNK_ERR.SWAP 0 0 = true := by
  obtain ⟨e, _, hbit, hjournal⟩ := d.swapCommit_marks n v
  exact (hjournal.bit _ _ _ (by decide)).trans hbit

/-- The last of a swap's twelve MRW stops the row path. -/
theorem Dev.slcMrw_swap {d d1 : Dev} {n l : Nat} {rest : List Nat} (hslot : d.rowSlot n = (.mrw, d1)) (hleft : (d1.slice n).mrwLeft = l :: rest)
    (hhalf : (d1.slice n).narrowHalf = none) :
    d.slcMrw n = d1.setSlice n { d1.slice n with lastSlot := some d1.ns, mrwLeft := rest, swapStep := if rest = [] then .stopped else (d1.slice n).swapStep } := by
  simp only [Dev.slcMrw, hslot, hleft, hhalf]

/-! Missed commands and calibration bursts (R485). -/

/-- The ACT of a missed command is issued again. -/
theorem Dev.parityAlert_again {d : Dev} {n : Nat} {o : OpenRow} (hopens : (d.slice n).opens = [o]) :
    d.parityAlert n false =
      (let at1 := d.bookAt n o.row 128 (max d.ns (max (d.slice n).noActUntil (d.slice n).calibAt))
       d.setSlice n { (d.slice n).booked d.ns at1 o.row 40 with opens := [{ o with at' := at1 }] }) := by
  simp only [Dev.parityAlert, hopens, List.getLast?_singleton, Bool.not_false, if_true, List.dropLast_singleton, List.nil_append]

/-- A write whose command is missed twice goes back to WB. -/
theorem Dev.parityAlert_write {d : Dev} {n : Nat} {o : OpenRow} {w : WbEnt} (hopens : (d.slice n).opens = [o]) (hwrite : o.write = some w) :
    d.parityAlert n true = d.setSlice n { d.slice n with opens := [], wb := w :: (d.slice n).wb } := by
  simp only [Dev.parityAlert, hopens, List.getLast?_singleton, hwrite, Bool.not_true, Bool.false_eq_true, if_false, List.dropLast_singleton]

/-- A burst that finds nothing takes its slot, for 80 SCLK. -/
theorem Dev.layerCal_clean {d d1 : Dev} {n : Nat} (hslot : d.rowSlot n = (.none, d1) ∨ d.rowSlot n = (.mrw, d1)) (hopen : d1.slotOpen n = true) :
    d.layerCal n [] = d1.setSlice n { d1.slice n with lastSlot := some d1.ns, calibAt := d1.ns + 80 } := by
  rcases hslot with h | h <;> simp [Dev.layerCal, h, hopen]

/-! Lanes (R482, R486). -/

/-- The count of a port's retired lanes. -/
def Dev.laneCounted (d : Dev) (r port : Nat) : Dev := match laneColumn r port with | some (c, f) => d.count f c 0 1 | none => d

theorem laneColumn_pos {r port c : Nat} {f : Fld} (h : laneColumn r port = some (c, f)) : f.pos = LNK_COLUMN.pos := by
  unfold laneColumn at h
  split at h
  · split at h
    · simp only [Option.some.injEq, Prod.mk.injEq] at h
      rw [← h.2]; split <;> rfl
    · simp at h
  · split at h
    · split at h
      · simp only [Option.some.injEq, Prod.mk.injEq] at h
        rw [← h.2]
      · split at h
        · simp only [Option.some.injEq, Prod.mk.injEq] at h
          rw [← h.2]
        · simp at h
    · simp at h

theorem Dev.laneCounted_keeps (d : Dev) (r port : Nat) : RegsOnly d (d.laneCounted r port) := by
  unfold Dev.laneCounted
  split
  · exact (RegsOnly.refl d).count _ _ _ _
  · exact RegsOnly.refl d

theorem Dev.laneCounted_bit (d : Dev) (r port : Nat) : (d.laneCounted r port).bit LNK_ERR.LANE_RETIRED 0 0 = d.bit LNK_ERR.LANE_RETIRED 0 0 := by
  unfold Dev.laneCounted
  split
  · rename_i c f h
    exact congrArg (· != 0) (Dev.fld_setFld_off _ _ _ _ _ _ _ _ (by rw [laneColumn_pos h]; simp [RegPos.off]; omega))
  · rfl

/-- A bad lane that is not the last of its port goes out of use. -/
def Dev.laneGone (d : Dev) (r port lane : Nat) : Dev :=
  { d with laneErr := Tbl.set [] d.laneErr (laneKey r port lane) [], laneOff := d.laneOff ++ [(r, port, lane)] }

section Lane
variable {d : Dev} {r port lane : Nat} (hbad : d.laneBad r port lane = true) (hup : (d.lanesUp r port).contains lane = true) (hen : d.bit LNK_CFG.RETIRE_EN 0 0 = true)
  (hmore : d.lanesUp r port ≠ [lane])
include hbad hup hen hmore

theorem Dev.laneRetire_marks : ∃ e, RegsOnly (d.laneGone r port lane) e ∧ e.bit LNK_ERR.LANE_RETIRED 0 0 = true ∧ Journaled e (d.laneRetire r port lane) := by
  have hsame : ({ d with laneErr := Tbl.set [] d.laneErr (laneKey r port lane) [] } : Dev).lanesUp r port ≠ [lane] := hmore
  refine ⟨((((d.laneGone r port lane).count LNK_STATUS.LANES_RETIRED 0 0 1).lnkErr LNK_ERR.LANE_RETIRED
    (match laneColumn r port with | some (c, _) => c | none => r) (16 * port + lane)).laneCounted r port), ?_, ?_, ?_⟩
  · exact (((RegsOnly.refl _).count _ _ _ _).trans (Dev.lnkErr_keeps _ _ _ _)).trans (Dev.laneCounted_keeps _ _ _)
  · rw [Dev.laneCounted_bit]; exact Dev.lnkErr_retired _ _ _
  · simp only [Dev.laneRetire, hbad, hup, hen, Bool.not_true, Bool.or_self, Bool.false_eq_true, if_false, if_neg hsame]
    exact Dev.journal_journaled _ _ _

theorem Dev.laneRetire_laneOff : (d.laneRetire r port lane).laneOff = d.laneOff ++ [(r, port, lane)] := by
  obtain ⟨e, hregs, _, hjournal⟩ := Dev.laneRetire_marks hbad hup hen hmore
  exact hjournal.laneOff.trans hregs.laneOff

theorem Dev.laneRetire_retired : (d.laneRetire r port lane).bit LNK_ERR.LANE_RETIRED 0 0 = true := by
  obtain ⟨e, _, hbit, hjournal⟩ := Dev.laneRetire_marks hbad hup hen hmore
  exact (hjournal.bit _ _ _ (by decide)).trans hbit

end Lane

/-- A lane out of use is not among those up. -/
theorem Dev.not_lanesUp {d : Dev} {r port lane : Nat} (h : (r, port, lane) ∈ d.laneOff) : (d.lanesUp r port).contains lane = false := by
  simp [Dev.lanesUp, h]

/-! Replays (R490). -/

theorem Dev.retryCount_d2d (d : Dev) (g : Nat) : (d.retryCount g).d2d = d.d2d := by
  obtain ⟨⟨_, _, hpmc⟩, -⟩ := ((d.count LNK_D2D.RETRIES 0 0 1).count LNK_D2D_GRP.RETRIES g 0 1).pmcDev_monitor 0x09 1
  simp only [Dev.retryCount, Dev.hist, Dev.putNum, hpmc]
  rfl

theorem Dev.d2dReplay_resends {d : Dev} {g last : Nat} (hup : d.bit LNK_STATUS.D2D_UP 0 0 = true) (hnak : (d.grp g).nak = true) (hlast : (last + 1) % 4096 = (d.grp g).next) :
    d.d2dReplay g last = (d.setD2d g { d.grp g with nak := false, replays := (d.grp g).replays + 1, at' := d.ns }).retryCount g := by
  simp only [Dev.d2dReplay, hup, hnak, hlast, and_self, if_true]

/-! The lap counter (R492). -/

theorem Dev.lapRound_eq (d : Dev) : d.lapRound = (List.range 16).foldl (fun d i => (d.therm.lapInput i).elim d (fun x => d.lapSample i x)) d := by
  have hround : (fun (d : Dev) i => match d.therm.lapInput i with | some x => d.lapSample i x | none => d) =
      fun d i => (d.therm.lapInput i).elim d (fun x => d.lapSample i x) := by
    funext d i
    cases d.therm.lapInput i <;> rfl
  exact congrArg (fun f => (List.range 16).foldl f d) hround

/-- Settles O54: each row is the model's own equation of its case, and what follows it (counts, a repair event, a journal record) leaves what the statement names. -/
theorem connectionRepair : Obligations.ConnectionRepair := by
  refine ⟨fun s n => ⟨fun v rest hreq hidle => ⟨?_, ?_⟩, ?_, ?_, ?_, ?_, ?_⟩, fun s => ⟨?_, ?_, ?_, ?_⟩⟩
  case refine_1 => exact fun hspare hen hmode hhalf => exec_ev (exec_spareSwap n s) (Dev.spareSwap_stages hreq hidle hspare hen hmode hhalf) rfl
  case refine_2 => exact fun hno => exec_ev (exec_spareSwap n s) (Dev.spareSwap_dead hreq hidle hno) rfl
  case refine_3 => exact fun d1 l rest hslot hleft hhalf => exec_ev (exec_mrw n s) (Dev.slcMrw_swap hslot hleft hhalf) rfl
  case refine_4 =>
    intro v rest hreq hstop hopens hmoves
    refine exec_ev (exec_spareSwap n s) (Dev.spareSwap_commits hreq hstop hopens hmoves) ⟨?_, s.dev.swapCommit_repairAt n v, s.dev.swapCommit_swap n v⟩
    have hrest : (s.dev.slice n).swapReq.erase v = rest := by rw [hreq]; exact List.erase_cons_head v rest
    exact (s.dev.swapCommit_slice n v).trans (by rw [hrest])
  case refine_5 => exact fun g o hopens => exec_ev (exec_parityAlert n g false s) (Dev.parityAlert_again hopens) ⟨s.dev.slice_setSlice n _, rfl, rfl⟩
  case refine_6 => exact fun g o w hopens hwrite => exec_ev (exec_parityAlert n g true s) (Dev.parityAlert_write hopens hwrite) ⟨s.dev.slice_setSlice n _, rfl⟩
  case refine_7 => exact fun d1 hslot hopen => exec_ev (exec_layerCalibration n [] s) (Dev.layerCal_clean hslot hopen) rfl
  case refine_8 =>
    intro id port lane hbad hup hen hmore
    have hoff := Dev.laneRetire_laneOff hbad hup hen hmore
    exact exec_ev (exec_laneRetire id port lane s) rfl ⟨hoff, Dev.not_lanesUp (by rw [Dev.keep_laneOff, hoff]; simp), Dev.laneRetire_retired hbad hup hen hmore⟩
  case refine_9 =>
    intro g last hup hnak hlast
    refine exec_ev (exec_d2dReplay g last s) (Dev.d2dReplay_resends hup hnak hlast) ⟨?_, fun k hk => ?_⟩
    · rw [Dev.grp, Dev.keep_d2d, Dev.retryCount_d2d]; exact s.dev.grp_setD2d g _
    · rw [Dev.grp, Dev.keep_d2d, Dev.retryCount_d2d]; exact Tbl.get_set_ne _ _ _ hk
  case refine_10 =>
    intro g lane hup
    exact exec_ev (exec_d2dHardFault g lane true s) (if_neg (by simp [hup])) rfl
  case refine_11 => exact exec_ev (exec_lapSample s) s.dev.lapRound_eq rfl

end Sys2Proof.Machine
end

section
/-! SUPPORT. Board memory: what code events leave of its controllers, and a read that nothing goes before (R360 to R363, R365 to R367, R369). -/

namespace Sys2Proof.Machine

/-! The rows of this part, each one event. -/

theorem exec_gddrWrite (q : MemReq) (s : State) : exec (.gddrWrite q) s = s.ev fun d =>
    if d.gddrHas q.addr q.data.length then (d.gddrWrite q.addr q.data).emit (.memResp q.src .ok []) else (d.hole q.src q.addr true).emit (.memResp q.src .ok []) := rfl
theorem exec_gddrRead (q : MemReq) (crit : Bool) (fl : List BitFlip) (s : State) : exec (.gddrRead q crit fl) s = s.ev fun d =>
    if d.gddrHas q.addr q.len then d.gdrArrive ⟨q.src, q.addr, q.len, crit, fl, d.ns, none, none⟩
    else (d.hole q.src q.addr false).emit (.memResp q.src .poisonRead (poisonBytes q.len)) := rfl
theorem exec_wcbDrain (ch : Fin 8) (blk : Nat) (needed : Bool) (s : State) : exec (.wcbDrain ch blk needed) s = s.ev fun d => d.wcbDrainDo ch blk needed := rfl
theorem exec_gddrRetry (r : Req) (pass : BitVec 8) (s : State) : exec (.gddrRetry r pass) s = s.ev fun d => d.gddrRetry pass.toNat := rfl
theorem exec_gddrRefresh (ch : Fin 8) (all : Bool) (s : State) : exec (.gddrRefresh ch all) s = s.ev fun d => d.gddrRefreshDo ch all := rfl
theorem exec_gddrRetrain (at' : ChanTemp) (ok : Bool) (s : State) : exec (.gddrRetrain at' ok) s = s.ev fun d => d.gddrRetrainDo at'.chan at'.temp ok := rfl

/-! What is reported on the way. -/

/-- From d to e outputs may have been added, and the controllers of board memory stand. -/
structure Reported (d e : Dev) : Prop where
  out : d.out <:+ e.out
  gddr : e.gddr = d.gddr

theorem Reported.refl (d : Dev) : Reported d d := ⟨List.suffix_refl _, rfl⟩
theorem Reported.trans {a b c : Dev} (h : Reported a b) (h' : Reported b c) : Reported a c := ⟨h.out.trans h'.out, h'.gddr.trans h.gddr⟩
theorem Reported.of_eq {d e : Dev} (hout : e.out = d.out) (hgddr : e.gddr = d.gddr) : Reported d e := ⟨hout ▸ List.suffix_refl _, hgddr⟩
theorem Reported.emit {d e : Dev} (h : Reported d e) (o : Output) : Reported d (e.emit o) := ⟨h.out.trans (List.suffix_cons _ _), h.gddr⟩

theorem Reported.foldl {α : Type} {f : Dev → α → Dev} (h : ∀ d a, Reported d (f d a)) (l : List α) (d : Dev) : Reported d (l.foldl f d) :=
  List.foldlRecOn (motive := Reported d) l f (Reported.refl d) fun e he a _ => he.trans (h e a)

theorem RegsOnly.reported {d e : Dev} (h : RegsOnly d e) : Reported d e := by
  obtain ⟨_, _, rfl⟩ := h
  exact Reported.of_eq rfl rfl

/-- The record of an event enters its log, or is dropped. -/
def Dev.eventEnter (d : Dev) (log : Nat) (kind : EvKind) (p : List Nat) : Dev :=
  let l := Tbl.get [] d.evLogs log
  let d := { d with evHandle := d.evHandle + 1 }
  if l.length < 64 then
    let e := { d with evLogs := Tbl.set [] d.evLogs log (⟨d.evHandle, log, kind, p, d.us⟩ :: l) }
    if bitsOf d.evPolicy.toNat (8 * log) 2 = 1 then e.emit (.evInterrupt log) else e
  else { d with evOver := Tbl.set 0 d.evOver log (Tbl.get 0 d.evOver log + 1) }

theorem Dev.event_eq (d : Dev) (log : Nat) (kind : EvKind) (p : List Nat) : d.event log kind p =
    if log = 0 then d.eventEnter log kind p
    else ({ d.eventEnter log kind p with evPending := (d.eventEnter log kind p).evPending + 1 } : Dev).emit (.evMessage (d.evHandle + 1)) := rfl

theorem Dev.eventEnter_reported (d : Dev) (log : Nat) (kind : EvKind) (p : List Nat) : Reported d (d.eventEnter log kind p) := by
  unfold Dev.eventEnter
  dsimp only
  split
  · split
    · refine Reported.emit ?_ _
      exact Reported.of_eq rfl rfl
    · exact Reported.of_eq rfl rfl
  · exact Reported.of_eq rfl rfl

theorem Dev.event_reported (d : Dev) (log : Nat) (kind : EvKind) (p : List Nat) : Reported d (d.event log kind p) := by
  obtain ⟨hout, hgddr⟩ := d.eventEnter_reported log kind p
  rw [Dev.event_eq]
  split
  · exact ⟨hout, hgddr⟩
  · refine Reported.emit ?_ _
    exact ⟨hout, hgddr⟩

theorem RegsOnly.eccSet {d e : Dev} (h : RegsOnly d e) (t : EccTbl) (f : EccFlds → Fld) (k v : Nat) : RegsOnly d (e.eccSet t f k v) := h.setFld _ _ _ _

theorem Dev.eccNew_keeps (d : Dev) (t : EccTbl) (e cw bit kind st unit n : Nat) : RegsOnly d (d.eccNew t e cw bit kind st unit n) :=
  ((((((((RegsOnly.refl d).eccSet t _ e cw).eccSet t _ e bit).eccSet t _ e kind).eccSet t _ e 1).eccSet t _ e n).eccSet t _ e st).eccSet t _ e unit).eccSet t _ e _

theorem Dev.eccPut_keeps (d : Dev) (t : EccTbl) (cw bit kind st unit : Nat) : RegsOnly d (d.eccPut t cw bit kind st unit).1 := by
  unfold Dev.eccPut
  split
  · exact ((RegsOnly.refl d).eccSet _ _ _ _).eccSet _ _ _ _
  · split
    · exact Dev.eccNew_keeps ..
    · exact (RegsOnly.refl d).setFld _ _ _ _

/-- A new entry of a table may ask for the summary; an old one brings its count up there. -/
theorem Dev.eccLog_reported (d : Dev) (t : EccTbl) (cw bit kind st unit : Nat) : Reported d (d.eccLog t cw bit kind st unit) := by
  obtain ⟨d1, new, hput⟩ : ∃ x y, d.eccPut t cw bit kind st unit = (x, y) := ⟨_, _, rfl⟩
  have hd1 : Reported d d1 := by
    have h := (d.eccPut_keeps t cw bit kind st unit).reported
    rwa [hput] at h
  have hask (e : SumEnt) : Reported d (d1.sumAsk e) := hd1.trans (Reported.of_eq rfl rfl)
  simp only [Dev.eccLog, hput]
  split
  · exact Reported.of_eq rfl rfl
  · cases new with
    | true =>
      simp only [if_true, Bool.true_and]
      split
      · exact (hask _).trans (Dev.event_reported _ _ _ _)
      · exact hask _
    | false =>
      simp only [Bool.false_eq_true, if_false, Bool.false_and]
      split
      · exact hd1.trans (RegsOnly.reported ((RegsOnly.refl d1).setFld _ _ _ _))
      · exact hd1

theorem Dev.count_reported (d : Dev) (f : Fld) (u i k : Nat) : Reported d (d.count f u i k) := Reported.of_eq rfl rfl
theorem Dev.hist_reported (d : Dev) (off n v : Nat) : Reported d (d.hist off n v) := Reported.of_eq rfl rfl
theorem Dev.histEcc_reported (d : Dev) (st kind : Nat) : Reported d (d.histEcc st kind) := (d.hist_reported _ _ _).trans (Dev.hist_reported _ _ _ _)

theorem Dev.eccEvent_reported (d : Dev) (st unit cw : Nat) (cls : CwClass) : Reported d (d.eccEvent st unit cw cls) := by
  have hcount (f : Fld) (kind : Nat) : Reported d ((d.count f 0 st 1).histEcc st kind) := (d.count_reported f 0 st 1).trans (Dev.histEcc_reported _ _ _)
  cases cls with
  | corr b => exact (hcount _ _).trans (Dev.eccLog_reported _ _ _ _ _ _ _)
  | uncorr => exact (hcount _ _).trans (Dev.eccLog_reported _ _ _ _ _ _ _)
  | addr => exact (hcount _ _).trans (Dev.eccLog_reported _ _ _ _ _ _ _)
  | clean => exact Reported.refl d
  | poison => exact Reported.refl d

theorem Dev.gdrErr_reported (d : Dev) (bit : Fld) (u : Option Nat) : Reported d (d.gdrErr bit u) := (Dev.raise_regs _ _ _ _ _ _ _).reported

theorem Dev.gdrEvent_reported (d : Dev) (chan cw : Nat) (cls : CwClass) : Reported d (d.gdrEvent chan cw cls) := by
  have hevent := d.eccEvent_reported 6 chan cw cls
  unfold Dev.gdrEvent
  dsimp only
  cases cls with
  | corr b => exact hevent.trans (Dev.count_reported _ _ _ _ _)
  | uncorr => exact (hevent.trans (Dev.count_reported _ _ _ _ _)).trans (Dev.gdrErr_reported _ _ _)
  | addr => exact hevent.trans (Dev.gdrErr_reported _ _ _)
  | clean => exact hevent
  | poison => exact hevent

theorem Dev.putCw_reported (d : Dev) (cw : Nat) (b : List PByte) : Reported d (d.putCw cw b) := by
  rw [Dev.putCw_eq]
  exact Reported.of_eq rfl rfl

theorem Dev.pmcDev_reported (d : Dev) (code k : Nat) : Reported d (d.pmcDev code k) := (d.pmcDev_monitor code k).regs.reported

/-- A read of board memory counts its code events. -/
theorem Dev.gddrRead_reported (d : Dev) (a len : Nat) (fl : List BitFlip) : Reported d (d.gddrRead a len fl).2.2 := by
  unfold Dev.gddrRead Dev.gddrReadAt
  exact (Reported.foldl (fun e p => Dev.gdrEvent_reported e _ _ _) _ d).trans (Dev.pmcDev_reported _ _ _)

theorem Dev.wcbDrainCw_reported (d : Dev) (chan : Nat) (e : WcbEnt) (w : Nat) : Reported d (d.wcbDrainCw chan e w) := by
  unfold Dev.wcbDrainCw
  dsimp only
  split
  · exact Reported.refl d
  · split
    · exact Dev.putCw_reported _ _ _
    · exact (Dev.gdrEvent_reported _ _ _ _).trans (Dev.putCw_reported _ _ _)

theorem Dev.setWcb_out (d : Dev) (chan : Nat) (l : List WcbEnt) : (d.setWcb chan l).out = d.out := rfl
theorem Dev.gdrSlot_out (d : Dev) (c : Nat) : (d.gdrSlot c).out = d.out := rfl

/-- A drain only adds to the outputs. -/
theorem Dev.wcbDrainOne_out (d : Dev) (chan : Nat) (e : WcbEnt) : d.out <:+ (d.wcbDrainOne chan e).out := by
  have hcws := Reported.foldl (fun d w => Dev.wcbDrainCw_reported d chan e w) (List.range 120) d
  unfold Dev.wcbDrainOne
  refine List.IsSuffix.trans ?_ (Dev.pmcDev_reported _ _ _).out
  rw [Dev.setWcb_out]
  split
  · exact (hcws.trans (Dev.count_reported _ _ _ _ _)).out
  · exact (hcws.trans (Dev.count_reported _ _ _ _ _)).out

theorem Dev.gdrDrain_out (d : Dev) (c : Nat) (e : WcbEnt) : d.out <:+ (d.gdrDrain c e).out := by
  obtain ⟨g, hg⟩ : ∃ g, d.gdrDrain c e = (({ d with gddr := g } : Dev).gdrSlot c).wcbDrainOne c e := ⟨_, rfl⟩
  have hone := Dev.wcbDrainOne_out (({ d with gddr := g } : Dev).gdrSlot c) c e
  rw [Dev.gdrSlot_out] at hone
  rw [hg]
  exact hone

/-! A read that nothing goes before (R363, R367). -/

/-- The buffer's byte does not depend on what waits at a controller. -/
theorem Dev.wcbByte_gddr (d : Dev) {g : Gddr} (hg : g.wcb = d.gddr.wcb) (old : Bool) (u : Nat) : ({ d with gddr := g } : Dev).wcbByte old u = d.wcbByte old u := by
  simp only [Dev.wcbByte, Dev.wcbOf, hg]
  rfl

/-- Nor do the bytes and the status of a read. -/
theorem Dev.gddrRead_gddr (d : Dev) {g : Gddr} (hg : g.wcb = d.gddr.wcb) (a len : Nat) (fl : List BitFlip) :
    (({ d with gddr := g } : Dev).gddrRead a len fl).1 = (d.gddrRead a len fl).1 ∧ (({ d with gddr := g } : Dev).gddrRead a len fl).2.1 = (d.gddrRead a len fl).2.1 := by
  simp only [Dev.gddrRead, Dev.gddrReadAt, Dev.wcbByte_gddr d hg]
  exact ⟨rfl, rfl⟩

/-- A channel with a slot to give is neither stopped nor asleep. -/
theorem Dev.gdrStopped_of_slots {d : Dev} {c : Nat} (h : d.gdrSlots c ≠ 0) : d.gdrStopped c = false := by
  by_contra hstop
  exact h (if_pos (by simpa using hstop))

/-- A link that holds nothing hands nothing over. -/
theorem Dev.gdrLink_empty {d : Dev} {c : Nat} (h : Tbl.get [] d.gddr.link c = []) : d.gdrLink c = d := by
  simp only [Dev.gdrLink, h, List.find?_nil]

@[simp] theorem Dev.gdrQueue_setGdrQueue (d : Dev) (c : Nat) (l : List GdrReq) : (d.setGdrQueue c l).gdrQueue c = l := Tbl.get_set_same _ _ _ _

/-- With no read queued, what a channel issues is at most a drain. -/
theorem Dev.gdrServe_one_out {d : Dev} {c : Nat} (hq : d.gdrQueue c = []) : d.out <:+ (d.gdrServe c 1).out := by
  have hpick (r : GdrReq) : d.gdrPick c ≠ some (.inl r) := by
    simp only [Dev.gdrPick, hq, List.find?_nil, List.head?_nil]
    split <;> simp_all
  unfold Dev.gdrServe
  split
  · exact List.suffix_refl _
  · cases hp : d.gdrPick c with
    | none => exact List.suffix_refl _
    | some x =>
      cases x with
      | inl r => exact absurd hp (hpick r)
      | inr e => exact d.gdrDrain_out c e

/-- A read alone at its controller is next where it is of the class CRIT or no drain presses. -/
theorem Dev.gdrPick_alone {d : Dev} {c : Nat} {r : GdrReq} (hgo : r.crit = true ∨ d.gdrPress c = false) : (d.setGdrQueue c [r]).gdrPick c = some (.inl r) := by
  have hpress : (d.setGdrQueue c [r]).gdrPress c = d.gdrPress c := rfl
  cases hcrit : r.crit with
  | true => simp [Dev.gdrPick, hcrit]
  | false =>
    have hno : d.gdrPress c = false := hgo.resolve_left (by simp [hcrit])
    simp [Dev.gdrPick, hcrit, hpress, hno]

/-- Issued alone, a read is answered with what memory and the buffer hold, and leaves its controller without a read. -/
theorem Dev.gdrIssue_alone {d : Dev} {c : Nat} {r : GdrReq} (hlink : Tbl.get [] d.gddr.link c = []) (htook : r.took = none) (hown : r.own = none) (hsrc : r.src < 65536) :
    ((d.setGdrQueue c [r]).gdrIssue c r).gdrQueue c = [] ∧
    Output.memResp r.src (d.gddrRead r.addr r.len r.flips).2.1 (d.gddrRead r.addr r.len r.flips).1 ∈ ((d.setGdrQueue c [r]).gdrIssue c r).out := by
  obtain ⟨g, hg, hwcb, hqueue, hglink⟩ : ∃ g : Gddr, ((d.setGdrQueue c [r]).setGdrQueue c (((d.setGdrQueue c [r]).gdrQueue c).erase r)).gdrSlot c = { d with gddr := g } ∧
      g.wcb = d.gddr.wcb ∧ Tbl.get [] g.queue c = ((d.setGdrQueue c [r]).gdrQueue c).erase r ∧ g.link = d.gddr.link := ⟨_, rfl, rfl, Tbl.get_set_same _ _ _ _, rfl⟩
  obtain ⟨hbytes, hstatus⟩ := d.gddrRead_gddr hwcb r.addr r.len r.flips
  have hleft := (({ d with gddr := g } : Dev).gddrRead_reported r.addr r.len r.flips).gddr
  have hempty : Tbl.get [] g.queue c = [] := by rw [hqueue, Dev.gdrQueue_setGdrQueue]; simp
  have hissue : (d.setGdrQueue c [r]).gdrIssue c r = (({ d with gddr := g } : Dev).gddrRead r.addr r.len r.flips).2.2.emit
      (.memResp r.src (d.gddrRead r.addr r.len r.flips).2.1 (d.gddrRead r.addr r.len r.flips).1) := by
    simp only [Dev.gdrIssue, hg, htook, hown, Dev.memReply_emit hsrc, hbytes, hstatus]
    exact Dev.gdrLink_empty (by rw [Dev.emit_gddr, hleft]; exact (congrArg (Tbl.get [] · c) hglink).trans hlink)
  rw [hissue]
  refine ⟨?_, List.mem_cons_self⟩
  rw [Dev.gdrQueue, Dev.emit_gddr, hleft]
  exact hempty

/-- A read that finds its channel idle is the only one of its controller. -/
theorem Dev.gdrArrive_alone {d : Dev} {c : Nat} {r : GdrReq} (hq : d.gdrQueue c = []) (hslots : d.gdrSlots c ≠ 0) (hc : d.gdrChan (r.addr - gddrBase) = c) (hmet : d.gdrMet c r = false) :
    d.gdrArrive r = (d.setGdrQueue c [r]).gdrServe c 2 := by
  have hawake : (d.gddr.state == .selfRefresh && !Tbl.get false d.gddr.woken c) = false := by
    have hstop := Dev.gdrStopped_of_slots hslots
    simp only [Dev.gdrStopped, Bool.or_eq_false_iff] at hstop
    exact hstop.2
  have hfirst : d.gdrFirst c r = (r, d) := if_neg (by simp [hmet])
  have hroom : d.gdrRoom c r.crit = true := by
    simp only [Dev.gdrRoom, hq, List.filter_nil, List.length_nil, decide_eq_true_eq]
    split <;> decide
  simp only [Dev.gdrArrive, hc, hawake, Bool.false_eq_true, if_false, hfirst, hroom, if_true, hq, List.nil_append]

/-- A read alone at its controller issues first. -/
theorem Dev.gdrServe_alone {d : Dev} {c : Nat} {r : GdrReq} (hslots : d.gdrSlots c ≠ 0) (hgo : r.crit = true ∨ d.gdrPress c = false) :
    (d.setGdrQueue c [r]).gdrServe c 2 = ((d.setGdrQueue c [r]).gdrIssue c r).gdrServe c 1 := by
  have hopen : (d.setGdrQueue c [r]).gdrSlots c ≠ 0 := hslots
  rw [Dev.gdrServe, if_neg hopen, Dev.gdrPick_alone hgo]

/-! Drains, training, refresh and retraining (R360, R361, R366). -/

theorem Dev.wcbDrainDo_free {d : Dev} {chan blk : Nat} {needed : Bool} {e : WcbEnt} (hfind : ((d.wcbOf chan).find? fun e => e.blk == blk) = some e)
    (hmay : d.wcbMay chan e needed = true) (hfree : d.wcbFree chan = true) : d.wcbDrainDo chan blk needed = d.gdrDrain chan e := by
  simp only [Dev.wcbDrainDo, hfind, hmay, hfree, Bool.and_self, if_true]

/-- Before step 6 RETRY trains again. -/
theorem Dev.gddrRetry_early {d : Dev} (hdone : d.done = 5) (hidle : d.fld STARTER_STATUS.RUNNING 0 0 = 0) (hresult : d.fld STARTER_STATUS.RESULT 0 0 ≠ 3) (pass : Nat) :
    d.gddrRetry pass = d.gddrTrain pass := if_pos ⟨hdone, hidle, fun h => hresult h.1⟩

theorem Dev.gddrRefreshDo_used {d : Dev} {c : Nat} (hused : d.gdrChans.contains c = true) (all : Bool) :
    d.gddrRefreshDo c all = { d with gddr := { d.gddr with
      refreshed := Tbl.set 0 d.gddr.refreshed c (Tbl.get 0 d.gddr.refreshed c + 1)
      stopUntil := if all then Tbl.set 0 d.gddr.stopUntil c (max (Tbl.get 0 d.gddr.stopUntil c) (d.ns + 380)) else d.gddr.stopUntil } } := if_neg (by rw [hused]; simp)

/-- An idle channel has nothing to issue. -/
theorem Dev.gdrPick_idle {d : Dev} {c : Nat} (hq : d.gdrQueue c = []) (hpress : d.gdrPress c = false) : d.gdrPick c = none := by
  simp only [Dev.gdrPick, hq, hpress, List.find?_nil, List.head?_nil]

theorem Dev.gdrServe_idle {d : Dev} {c : Nat} (hq : d.gdrQueue c = []) (hpress : d.gdrPress c = false) (fuel : Nat) : d.gdrServe c fuel = d := by
  cases fuel with
  | zero => rfl
  | succ n => simp only [Dev.gdrServe, Dev.gdrPick_idle hq hpress, ite_self]

/-- An idle channel that retrains with success. -/
theorem Dev.gddrRetrainDo_idle {d : Dev} {c : Nat} {temp : Int} (hready : d.gddr.state = .ready) (hused : d.gdrChans.contains c = true)
    (hdue : d.retrainDue c ≤ d.ns ∨ d.retrainMoved c temp = true) (hq : d.gdrQueue c = []) (hpress : d.gdrPress c = false) :
    d.gddrRetrainDo c temp true = { d.count GDR_CHAN.RETRAINS c 0 1 with gddr := { d.gddr with
      failsInRow := Tbl.set 0 d.gddr.failsInRow c 0
      trainedAt := Tbl.set none d.gddr.trainedAt c (some d.ns)
      trainTemp := Tbl.set none d.gddr.trainTemp c (some temp)
      stopUntil := Tbl.set 0 d.gddr.stopUntil c (d.ns + 1200) } } := by
  have hgo : ¬ (d.gddr.state ≠ .ready ∨ (!d.gdrChans.contains c) = true ∨ (!(decide (d.retrainDue c ≤ d.ns) || d.retrainMoved c temp)) = true) := by
    rw [hready, hused]
    rcases hdue with h | h <;> simp [h]
  have hwaits : d.retrainWaits c = false := by simp [Dev.retrainWaits, Dev.gdrPick_idle hq hpress]
  rw [Dev.gddrRetrainDo, if_neg hgo]
  simp only [Dev.gdrServe_idle hq hpress, hwaits, Bool.false_eq_true, if_false, if_true]
  rfl

/-- A read that nothing goes before is answered at once. -/
theorem exec_gddrRead_alone {s : State} {q : MemReq} {crit : Bool} {fl : List BitFlip} (hhas : s.dev.gddrHas q.addr q.len = true) (hsrc : q.src < 65536)
    (hq : s.dev.gdrQueue (s.dev.gdrChan (q.addr - gddrBase)) = []) (hlink : Tbl.get [] s.dev.gddr.link (s.dev.gdrChan (q.addr - gddrBase)) = [])
    (hslots : s.dev.gdrSlots (s.dev.gdrChan (q.addr - gddrBase)) ≠ 0) (hgo : crit = true ∨ s.dev.gdrPress (s.dev.gdrChan (q.addr - gddrBase)) = false)
    (hmet : s.dev.gdrMet (s.dev.gdrChan (q.addr - gddrBase)) ⟨q.src, q.addr, q.len, crit, fl, s.dev.ns, none, none⟩ = false) :
    ∃ t, exec (.gddrRead q crit fl) s = .next t ∧ Output.memResp q.src (s.dev.gddrRead q.addr q.len fl).2.1 (s.dev.gddrRead q.addr q.len fl).1 ∈ t.dev.out := by
  refine exec_ev (exec_gddrRead q crit fl s) ((if_pos hhas).trans (Dev.gdrArrive_alone hq hslots rfl hmet)) ?_
  rw [Dev.gdrServe_alone hslots hgo]
  obtain ⟨hleft, hanswer⟩ := Dev.gdrIssue_alone (r := ⟨q.src, q.addr, q.len, crit, fl, s.dev.ns, none, none⟩) hlink rfl rfl hsrc
  exact (Dev.gdrServe_one_out hleft).subset hanswer

/-- Settles O37: the writes, drains and trainings are the model's own equations; a read that nothing goes before issues first, and what follows it only adds outputs. -/
theorem boardMemory : Obligations.BoardMemory := by
  intro s
  refine ⟨?_, ?_, ?_, ?_, ?_, ?_, ?_⟩
  case _ => exact fun q hhas => exec_ev (exec_gddrWrite q s) (if_pos hhas) rfl
  case _ => exact fun q crit fl hhas hsrc hq hlink hslots hgo hmet => exec_gddrRead_alone hhas hsrc hq hlink hslots hgo hmet
  case _ => exact fun q crit fl hno => exec_ev (exec_gddrRead q crit fl s) (if_neg (by simp [hno])) rfl
  case _ => exact fun ch blk needed e hfind hmay hfree => exec_ev (exec_wcbDrain ch blk needed s) (Dev.wcbDrainDo_free hfind hmay hfree) rfl
  case _ => exact fun r pass hdone hidle hresult => exec_ev (exec_gddrRetry r pass s) (Dev.gddrRetry_early hdone hidle hresult _) rfl
  case _ =>
    intro ch all hused
    refine exec_ev (exec_gddrRefresh ch all s) (Dev.gddrRefreshDo_used hused all) ⟨?_, fun hall => ?_, rfl, rfl⟩
    · simp only [Dev.keep_gddr, Tbl.get_set_same]
    · simp only [Dev.keep_gddr, hall, if_true, Tbl.get_set_same]
  case _ =>
    intro at' hready hused hdue hq hpress
    refine exec_ev (exec_gddrRetrain at' true s) (Dev.gddrRetrainDo_idle hready hused hdue hq hpress) ?_
    simp only [Dev.keep_gddr, Dev.keep_mem, Tbl.get_set_same, true_and]
    rfl

end Sys2Proof.Machine
end
